-- ==== Sys2Proof/Word.lean ====
section
/-! DEFINITION. The word types of the ZT940 model and their plainest arithmetic (R8, R9). -/
namespace Sys2Proof

/-- One byte. -/
abbrev Byte := BitVec 8
/-- A byte string, first byte first (R8). -/
abbrev Bytes := List Byte
/-- A function number, which is also the tenant number: 0 is PF0 and tenant T0 (R33). -/
abbrev Fn := BitVec 8
/-- A submission ring number, 0 to 65,535 (R35). -/
abbrev SqNo := BitVec 16
/-- A completion ring number, 0 to 8,191 (R35). -/
abbrev CqNo := BitVec 13
/-- A service class as DESC.CLASS encodes it: 0 Critical, 1 Interactive, 2 Bulk, 3 Scavenger
(Table 3-1); a smaller number is a higher class (R74). -/
abbrev SClass := BitVec 2
/-- A slot of the peal table, 0 to 4,095 (R53). -/
abbrev PealSlot := BitVec 12
/-- A cluster number, C0 to C15. -/
abbrev ClusterNo := BitVec 4
/-- A key handle, 32 bits, bits 31:24 zero when well formed (R75). -/
abbrev Handle := BitVec 32

/-- The value of a little-endian byte string (R8). -/
def leNat : Bytes → Nat
  | [] => 0
  | b :: bs => b.toNat + 256 * leNat bs

/-- The value of a big-endian byte string. -/
def beNat (bs : Bytes) : Nat := bs.foldl (fun a b => 256 * a + b.toNat) 0

/-- `n` as a little-endian string of `k` bytes (R8). -/
def natLe : Nat → Nat → Bytes
  | 0, _ => []
  | k + 1, n => BitVec.ofNat 8 n :: natLe k (n / 256)

/-- `n` as a big-endian string of `k` bytes. -/
def natBe (k n : Nat) : Bytes := (natLe k n).reverse

/-- Zero bytes. -/
def zeros (k : Nat) : Bytes := List.replicate k 0

/-- The largest value of a 16-bit saturating counter (R12). -/
def satInc16 (c : BitVec 16) : BitVec 16 := if c = 0xFFFF then c else c + 1

end Sys2Proof
end

