-- ==== Sys2Proof/Syntax.lean ====
section
/-! DEFINITION. The commands of the ZT940: one constructor for each row of spec/opcode_table.json, with what
the outside world, an engine or a standard's algorithm decides as its operands (notes/assumptions/3.md). -/
namespace Sys2Proof

/-- Which bytes of an 8-byte doorbell slot a write touches (R44). -/
inductive Acc | full | low | high | other
  deriving DecidableEq, Repr

/-- The ring parameter a window write names (Table 18-7). -/
inductive RingParam | base | baseHalf | cfg | chime
  deriving DecidableEq, Repr

/-- What a tier-3 fetch read from host memory (R160): a read refused on the bus, of the entry or of the block, or the
16-byte entry and the bytes of the block it names. -/
inductive HostRead
  | refused
  | entry (hke : BitVec 128) (blk : Bytes)
  deriving DecidableEq, Repr

/-- How a step ended on its engine: its operation is complete; the engine is faulty, which a verification before release or
the check of an RSA decryption finds (R259, R268); or its checked pair differs in a segment (R245). -/
inductive EngineResult
  | done
  | faulty
  | miscompare (segment : BitVec 12)
  deriving DecidableEq, Repr

/-- Which engine of the pair the spare's result agrees with, and their segment's output and verdict (R246). -/
inductive TieResult | first (out : Bytes) (ok : Bool) | second (out : Bytes) (ok : Bool) | neither
  deriving DecidableEq, Repr

/-- The verdict of a signature check. -/
inductive SigVerdict | valid | notVerified | malformed
  deriving DecidableEq, Repr, Inhabited

/-- How a persistent store command ended (R358, R369, R370). -/
inductive NvResult | done | remapped | noSpare
  deriving DecidableEq, Repr

/-- What a line served where its address does not say it (Table 17-4): a tenant's table of a kind, the spill of a peal's step,
the staging of a peal, a key's entry of the index. -/
inductive LineOwner
  | none
  | table (tenant : Fn) (kind : BitVec 8)
  | spill (slot : PealSlot) (step : BitVec 5)
  | peal (slot : PealSlot)
  | key (tenant : Fn) (handle : BitVec 24)
  deriving DecidableEq, Repr

/-- What the patrol scrub found (R467 to R469): of an integrity failure the line and what it served. -/
inductive ScrubFinding
  | passEnd
  | corrected (chan : BitVec 2)
  | integrity (line : BitVec 24) (owner : LineOwner)
  deriving DecidableEq, Repr

/-- The result of one cluster's BIST (R444): the SEs and PKs that passed and whether its shared blocks did. -/
structure ClusterBist where
  se : BitVec 5
  pk : BitVec 6
  shared : Bool
  deriving DecidableEq, Repr

/-- What the self-tests and checks of a device reset find (Tables 16-2 to 16-5). -/
structure BootReport where
  clusters : List ClusterBist
  /-- The blocks that failed (Table 16-4): 0 front end, 1 governor, 2 peal table, 3 Clapper, 4 key paging unit and key
  hierarchy, 5 memory protection unit, 6 Steward, 7 persistent store controller, 8 Toll controller. -/
  coreBad : BitVec 9
  bootRom : Bool
  drbgKat : Bool
  /-- The noise sources that pass a start-up test within the sequence, and those whose retry is still due (R279). -/
  noisePass : BitVec 4
  noiseRetry : BitVec 4
  certificates : Bool
  spreadCounters : Bool
  twoDevices : Bool
  popMismatch : Bool
  memTrained : Bool
  tollImage : Bool
  lane0 : Bool
  lane1 : Bool
  metronome : Bool
  snareFails : BitVec 22
  /-- The Snare sensors out of range at power-up. -/
  snareOut : BitVec 22
  /-- Vault SRAM's root, journal bank and Toll bank pass their checks. -/
  vaultCheck : Bool
  bodyA : Bool
  bodyB : Bool
  /-- The retained Steward image passes its digest check (R442). -/
  retained : Bool
  /-- The power-fail record's check passes (R363). -/
  pfCheck : Bool
  /-- PAIR_ROLE as sampled: true for secondary. -/
  secondary : Bool
  /-- Tenants with a damaged record (Table 16-5), and whether the role map is damaged. -/
  damaged : List Fn
  roleMapDamaged : Bool
  /-- The engine retirement counts, and the boot record, are damaged (Table 16-5). -/
  countsDamaged : Bool
  bootRecDamaged : Bool
  /-- Copies A and B of the sealed root record whose check fails (R366, Table 16-5). -/
  rootBad : BitVec 2
  /-- The junction temperature sensors that fail their BIST (R316). -/
  tempBad : BitVec 24
  deriving DecidableEq, Repr

/-- The header of a received Xeolink frame (R387): whether its tag verifies, its sequence, and the frame
sequence it acknowledges cumulatively. -/
structure Frame where
  tagOk : Bool
  seq : BitVec 64
  ack : BitVec 64
  deriving DecidableEq, Repr

/-- A COMMIT payload (Table 14-5): a journal entry and up to four ledger charges. -/
structure CommitPayload where
  entry : BitVec 256
  charges : List (BitVec 128)
  deriving DecidableEq, Repr

/-- What the partner shows in a handshake: its serial number and its ephemeral public key (R386). -/
structure Hello where
  serial : BitVec 128
  key : Bytes
  deriving DecidableEq, Repr

/-- The place of a result in a command's report that the machine computes itself: it has one value, and so gives nothing
(notes/assumptions/172.md). -/
abbrev Computed := Unit

/-- The commands. -/
inductive Instr
  | submissionDoorbellWrite (fn : Fn) (off : BitVec 17) (acc : Acc) (data : BitVec 64)
  | completionHeadWrite (fn : Fn) (cq : BitVec 9) (acc : Acc) (data : BitVec 64)
  | descriptorFetch (ring : SqNo) (desc : BitVec 512)
  | descriptorFetchError (ring : SqNo)
  | admissionDecision (order : Nat)
  | tier3FetchComplete (fn : Fn) (handle : BitVec 24) (rd : HostRead)
  | sglListRead (slot : PealSlot) (out : Bool) (entries : List (BitVec 128))
  | inputReadError (slot : PealSlot)
  | requestParse (slot : PealSlot) (input : Bytes)
  | stepIssue (slot : PealSlot) (step : BitVec 5)
  | counterCellWriteComplete (fn : Fn) (handle : BitVec 24)
  | stepEnd (slot : PealSlot) (step : BitVec 5) (res : EngineResult)
  | tieBreakComplete (slot : PealSlot) (step : BitVec 5) (res : TieResult)
  | rimshotSuspend (slot : PealSlot) (step : BitVec 5) (se : BitVec 3) (blocksLeft : Computed)
  | rimshotResume (cluster : ClusterNo) (se : BitVec 3)
  | pkPreemptPark (slot : PealSlot) (step : BitVec 5) (pk : BitVec 3) (remaining : Computed)
  | pkJobResume (cluster : ClusterNo) (pk : BitVec 3)
  | jobAbandon (cluster : ClusterNo) (isPk : Bool) (n : BitVec 3)
  | releaseVerifySelfTestComplete (cluster : ClusterNo) (pk : BitVec 3) (pass : Bool)
  | commitPoint (slot : PealSlot)
  | completionPost (slot : PealSlot) (spend : BitVec 32)
  | journalPostedSet (seq : BitVec 64)
  | outputWriteRefused (slot : PealSlot)
  | completionWriteRefused (cq : CqNo)
  | chimeTimerExpire (cq : CqNo)
  | cqIrqEnableWrite (fn : Fn) (data : BitVec 32)
  | journalGroupClose
  | groupRecordComplete
  | stewardRecordWriteComplete (slot : PealSlot)
  | ringEnable (fn : Fn)
  | ringDisable (fn : Fn)
  | ringReset (fn : Fn)
  | ringResetAbort (fn : Fn)
  | ringSelectWrite (fn : Fn) (data : BitVec 32)
  | ringParameterWrite (fn : Fn) (param : RingParam) (data : BitVec 64)
  | functionLevelReset (fn : Fn)
  | flrComplete (fn : Fn)
  | recoveryListClear (fn : Fn)
  | sriOfferWrite (fn : Fn) (data : BitVec 32)
  | creditSnapshot (fn : Fn) (data : BitVec 32)
  | blockAssignWrite (cq : Bool) (block : BitVec 10) (data : BitVec 32)
  | setupLockSet (fn : Fn)
  | vfVectorsWrite (data : BitVec 32)
  | hktRegisterWrite (fn : Fn) (entries : Bool) (data : BitVec 64)
  | eventFlagClear (fn : Fn) (device : Bool) (data : BitVec 64)
  | eventEnableWrite (fn : Fn) (device : Bool) (data : BitVec 64)
  | eventMessageInterval (fn : Fn)
  | registerWrite (fn : Fn) (off : BitVec 18) (size : BitVec 4) (data : BitVec 64)
  | registerLowHalfRead (fn : Fn) (off : BitVec 18)
  | busMasterEnableWrite (fn : Fn) (on : Bool)
  | powerStateWrite (fn : Fn) (d3hot : Bool)
  | vfEnableWrite (on : Bool) (numVfs : BitVec 8)
  | linkEntersL0
  | linkLeavesL0
  | perstAssert
  | perstRelease
  | functionReady
  | refillBoundary (base : BitVec 16) (package : BitVec 16) (temps : List (BitVec 9)) (waited : Computed)
  | govCapWrite (data : BitVec 32)
  | govWeightWrite (data : BitVec 32)
  | govTenantShareWrite (data : BitVec 64)
  | clusterWakeComplete (cluster : ClusterNo)
  | clockGateTimer (cluster : ClusterNo)
  | powerGateTimer (cluster : ClusterNo)
  | clusterGatingComplete (cluster : ClusterNo)
  | keyCacheReshare
  | rootSecretReshare
  | barrierDrainComplete (fn : Fn) (handle : BitVec 24)
  | noiseWindowComplete (src : BitVec 2) (samples : BitVec 1024)
  | startupTestRetry (src : BitVec 2)
  | drbgScheduledReseed (inst : BitVec 9)
  | drbgReseedLimitReached (inst : BitVec 9)
  | drbgHoldExpire (slot : PealSlot) (step : BitVec 5)
  | maskingGeneratorRekey
  | carriedSeedReplace
  | tollDeltaRecordTimer
  | journalModeBatteryTimer
  | nvCommandComplete (res : NvResult)
  | stewardCommandGapExpire
  | vaultTimeCheckpoint
  | pfwarnAssert
  | pfwarnDeassert
  | mainPowerGood
  | powerOnReset (report : BootReport)
  | mainPowerLost
  | vaultEntry
  | batteryPresent (b : Bool)
  | batteryAbsent (b : Bool)
  | warmReset (report : BootReport)
  | stewardWatchdogExpire
  | stewardRestartComplete (bodyA bodyB : Bool)
  | spareSelfTest (cluster : ClusterNo) (isPk : Bool)
  | spareSelfTestComplete (cluster : ClusterNo) (isPk : Bool) (pass : Bool)
  | xeolinkTrainingComplete (lane0 lane1 : Bool)
  | xeolinkBlockLockLoss (lane : Bool)
  | xeolinkLaneRetrain (lane : Bool) (ok : Bool)
  | hello (map : BitVec 8)
  | xeolinkHandshakeComplete (ok : Bool) (peerHasRoot : Bool) (peer : Hello) (peerSecondary : Bool)
  | xeolinkHandshakeRetry
  | xeolinkRekey
  | heartbeatSend
  | heartbeat (fr : Frame) (failN : Bool) (roles : BitVec 256) (lastSeq : BitVec 64)
  | commit (fr : Frame) (payload : CommitPayload)
  | hwm (fr : Frame) (tenant : Fn) (handle : BitVec 24) (gen : BitVec 32) (h : BitVec 64)
  | revoke (fr : Frame) (entry : BitVec 64)
  | role (fr : Frame) (map : BitVec 256) (accept : Bool)
  | dualReq (fr : Frame) (fn : Fn) (desc : BitVec 512) (status sub : BitVec 8) (digest : Bytes)
  | dualResult (fr : Frame) (slot : PealSlot) (status sub : BitVec 8) (digest : Bytes)
  | resync (fr : Frame) (payloads : List CommitPayload) (done : Bool)
  | partnerSilenceTimeout
  | peerFailNLow
  | peerFailRoleTimer
  | snareSensorOutOfRange (ids : BitVec 22)
  | snareSelfCheck (fails : BitVec 22)
  | tamperLogCopy
  | throttleExpire
  | fuseGroupProgramComplete
  | wipeVerificationComplete (ok : Bool)
  | recoveryReset (report : BootReport)
  | intakeSessionExpire (id : BitVec 2)
  | recoverToken (sig : Bool)
  | eolAnalysisToken (sig : Bool)
  | eolScrapToken (sig : Bool)
  | replaceRecoveryKeyToken (sig : Bool)
  | scrapOnlyPolicyToken (sig : Bool)
  | registerRecoveryKey (pointOk : Computed)
  | lockdownReport
  | debugChallenge
  | debugToken (sig : Bool)
  | tmpCommitGo
  | fwStage
  | fwStageComplete (image : Option Bytes) (key sig flash : Bool)
  | fwActivate
  | fwAbandon
  | patrolScrub (found : ScrubFinding)
  | impedanceCalibration
  | channelDegradedClear (chan : BitVec 2)
  | ident
  | health
  | request (data : Bytes) (pecOk : Bool)
  | status
  | offset (data : BitVec 32) (pecOk : Bool)
  | read (n : BitVec 8)
  | alertResponse
  | maintenanceEnter (slot : PealSlot)
  | maintenanceExit (slot : PealSlot)
  | generateSymmetricKey (slot : PealSlot) (kcv : Computed)
  | generateEcKeyPair (slot : PealSlot) (kcv pub : Computed)
  | generateRsaKeyPair (slot : PealSlot) (kcv pub : Computed)
  | generateMldsaKeyPair (slot : PealSlot) (kcv pub : Computed)
  | generateMlkemKeyPair (slot : PealSlot) (kcv pub : Computed)
  | deriveAndStore (slot : PealSlot) (kcv : Computed)
  | changeState (slot : PealSlot)
  | revokeKey (slot : PealSlot)
  | pinOrUnpin (slot : PealSlot)
  | drop (slot : PealSlot)
  | keyReport (slot : PealSlot) (rd : HostRead)
  | setAllowances (slot : PealSlot)
  | loadKeyStatePolicy (slot : PealSlot)
  | importX9143Block (slot : PealSlot) (blk : Computed)
  | exportX9143Block (slot : PealSlot)
  | createTenant (slot : PealSlot)
  | openIntakeSession (slot : PealSlot) (pub : Computed)
  | enterComponent (slot : PealSlot) (sig tagOk keyNonzero kcvOk : Computed)
  | closeIntakeSession (slot : PealSlot) (kcv : Computed)
  | importKek (slot : PealSlot) (blk : Computed)
  | rotateTableSigningKey (slot : PealSlot) (sig : Computed)
  | rewrapBlock (slot : PealSlot)
  | finishKekRotation (slot : PealSlot)
  | abandonPendingKek (slot : PealSlot)
  | destroyTenant (slot : PealSlot)
  | deriveInitialDukptKey (slot : PealSlot)
  | tenantReport (slot : PealSlot)
  | healthReport (slot : PealSlot)
  | registerPartner (slot : PealSlot)
  | setReplicationMode (slot : PealSlot)
  | transferRoles (slot : PealSlot)
  | takeRoles (slot : PealSlot)
  | loadOwnTable (slot : PealSlot) (sig curvesOk : Computed)
  | loadTableForTenant (slot : PealSlot) (sig curvesOk : Computed)
  | userRegionRead (slot : PealSlot)
  | userRegionWrite (slot : PealSlot)
  | setUserWindow (slot : PealSlot)
  | userRegionStatus (slot : PealSlot)
  | readBuiltinPealTable (slot : PealSlot)
  | clearOwnTable (slot : PealSlot)
  | setAlgorithmPolicy (slot : PealSlot)
  | readAlgorithmPolicy (slot : PealSlot)
  | setPermissionMap (slot : PealSlot)
  | setTollBindingMap (slot : PealSlot)
  | keyAttestation (slot : PealSlot)
  | certificateChain (slot : PealSlot)
  | lookupByTag (slot : PealSlot)
  | readBySequence (slot : PealSlot)
  | emptyCarriedJournal (slot : PealSlot)
  | readCostTable (slot : PealSlot)
  | loadCostTable (slot : PealSlot) (sig : SigVerdict)
  | tenantStatement (slot : PealSlot)
  | fullStatement (slot : PealSlot)
  | tollStatusBlock (slot : PealSlot)
  | unseal (slot : PealSlot) (sig : Computed)
  | forcedUnseal (slot : PealSlot)
  | setAuthorityKey (slot : PealSlot)
  | replaceStoreImage (slot : PealSlot) (sig : SigVerdict) (version : BitVec 32) (digest : Computed)
  | setJournalMode (slot : PealSlot)
  | tollSeal (slot : PealSlot) (sig : Computed)
  | msixVectorUnmask (fn : Fn) (vector : BitVec 11)
  | smbusObjectReady
  | lockdownReportReady
  | tier2PageInComplete (slot : PealSlot) (handle : BitVec 24)
  | pealEntryFetchComplete (slot : PealSlot) (ok : Bool)
  | manufacturingTransition
  | sensorsClearTimer
  | vaoCapChargeTimeout
  | gongNHoldExpire
  | configSpaceReady
  deriving DecidableEq, Repr

end Sys2Proof
end

