-- ==== Sys2Proof/Decode.lean ====
section
/-! DEFINITION. Commands spelled by words of spec/opcode_table.json. -/
namespace Sys2Proof

/-- The command that a word spells by the table's bits. The table gives no row any bits, so no word spells a
command (notes/assumptions/10.md). -/
def decodeTableWord (_nbits _w : Nat) : Option Instr := none

end Sys2Proof
end

