-- ==== Sys2Proof/Machine/Arith.lean ====
section
/-! DEFINITION. Arithmetic the spec states: modular powers, short Weierstrass curves, and the conditions a tenant curve
passes at load (R122). -/
namespace Sys2Proof.Machine

/-- b^e mod m, for exponents of fewer than `f` bits. -/
def modPow (m : Nat) : Nat → Nat → Nat → Nat
  | 0, _, _ => 1 % m
  | f + 1, b, e =>
    let r := modPow m f (b * b % m) (e / 2)
    if e % 2 = 1 then r * b % m else r

/-- Subtraction modulo p. -/
def subMod (p a b : Nat) : Nat := (a + (p - b % p)) % p

/-- The inverse of a number modulo a prime of at most 521 bits. -/
def invMod (p a : Nat) : Nat := modPow p 522 (a % p) (p - 2)

/-- A point of a short Weierstrass curve, `none` for the point at infinity. -/
abbrev EcPoint := Option (Nat × Nat)

/-- The sum of two points of y² = x³ + ax + b modulo p. -/
def ecAdd (p a : Nat) (x y : EcPoint) : EcPoint :=
  match x, y with
  | none, q => q
  | q, none => q
  | some (x1, y1), some (x2, y2) =>
    if x1 = x2 ∧ (y1 + y2) % p = 0 then none
    else
      let l := if x1 = x2 then (3 * x1 * x1 + a) * invMod p (2 * y1) % p
               else subMod p y2 y1 * invMod p (subMod p x2 x1) % p
      let x3 := subMod p (l * l) (x1 + x2)
      some (x3, subMod p (l * subMod p x1 x3) y1)

/-- k times a point, for k of fewer than `f` bits. -/
def ecMul (p a : Nat) : Nat → Nat → EcPoint → EcPoint
  | 0, _, _ => none
  | f + 1, k, x =>
    let r := ecMul p a f (k / 2) (ecAdd p a x x)
    if k % 2 = 1 then ecAdd p a r x else r

/-- The order n of G is the order of the whole curve: the one multiple of n that Hasse's bound allows is n itself. -/
def cofactorOne (p n : Nat) : Bool :=
  let d := if n ≤ p + 1 then p + 1 - n else n - (p + 1)
  d * d ≤ 4 * p && 16 * p < n * n

/-- p^k ≢ 1 modulo n for every k from 1 to `m`. -/
def noSmallPower (p n : Nat) (m : Nat) : Bool := (List.range m).all fun k => p ^ (k + 1) % n ≠ 1 % n

/-- The conditions of R122 on a curve of prime field p with generator (gx, gy) of order n, beyond the ranges and the curve
equation. -/
def curveSound (p a gx gy n : Nat) : Bool :=
  decide (Nat.Prime p) && decide (Nat.Prime n) && ecMul p a 530 n (some (gx, gy)) == none && cofactorOne p n &&
    noSmallPower p n 100

end Sys2Proof.Machine
end

