-- ==== Sys2Proof/Machine/SMap.lean ====
section
/-! DEFINITION. Sparse maps in one canonical form: keys strictly rising, no entry equal to the value an
unlisted key reads as, so that equal maps are equal data. -/
namespace Sys2Proof.Machine

/-- A sparse map from numbers to `β`: its listed entries, keys strictly rising. -/
abbrev SMap (β : Type) := List (Nat × β)

/-- The entry listed at `k`, if any. -/
def smFind {β : Type} (k : Nat) : SMap β → Option β
  | [] => none
  | (j, v) :: m => if j = k then some v else smFind k m

/-- The value at `k`, an unlisted key reading as `d`. -/
def smGet {β : Type} (d : β) (m : SMap β) (k : Nat) : β := (smFind k m).getD d

/-- List `v` at `k`, in key order. -/
def smInsert {β : Type} (k : Nat) (v : β) : SMap β → SMap β
  | [] => [(k, v)]
  | (j, w) :: m => if k < j then (k, v) :: (j, w) :: m
                   else if j = k then (k, v) :: m else (j, w) :: smInsert k v m

/-- Unlist `k`. -/
def smErase {β : Type} (k : Nat) : SMap β → SMap β
  | [] => []
  | (j, w) :: m => if j = k then m else (j, w) :: smErase k m

/-- Make `k` read as `v`; writing the value an unlisted key reads as unlists it. -/
def smSet {β : Type} [DecidableEq β] (d : β) (k : Nat) (v : β) (m : SMap β) : SMap β :=
  if v = d then smErase k m else smInsert k v m

/-- Change the value at `k` by `f`. -/
def smMod {β : Type} [DecidableEq β] (d : β) (k : Nat) (f : β → β) (m : SMap β) : SMap β :=
  smSet d k (f (smGet d m k)) m

/-- Change every listed entry by its key and value, unlisting those that then read as the default. -/
def smMap {β : Type} [DecidableEq β] (d : β) (f : Nat → β → β) (m : SMap β) : SMap β :=
  (m.map fun e => (e.1, f e.1 e.2)).filter fun e => decide (e.2 ≠ d)

/-- Whether every key of `m` is above `b`. -/
def smAbove {β : Type} (b : Nat) : SMap β → Bool
  | [] => true
  | (j, _) :: m => decide (b < j) && smAbove b m

/-- Keys strictly rising. -/
def smSorted {β : Type} : SMap β → Bool
  | [] => true
  | (j, _) :: m => smAbove j m && smSorted m

/-- The canonical form: keys strictly rising and no entry equal to the default. -/
def smWf {β : Type} [DecidableEq β] (d : β) (m : SMap β) : Bool :=
  smSorted m && m.all (fun e => decide (e.2 ≠ d))

end Sys2Proof.Machine
end

