-- ==== Sys2Proof/Machine/TypesKey.lean ====
section
/-! DEFINITION. The key store, the tenants and the key hierarchy (06, 07), and the entropy block (10). -/
namespace Sys2Proof.Machine

/-- Two Boolean shares, whose exclusive or is the value they hold (R171, R188, R196, R202, R227). -/
structure Shares where
  a : Bytes
  b : Bytes
  deriving DecidableEq, Repr
/-- No shares. -/
def Shares.none : Shares := { a := [], b := [] }

/-- A tier-2 key record, Table 6-6, with its key data, of which no part is visible outside the device. -/
structure KeyRec where
  alg : BitVec 8
  param : BitVec 8
  state : BitVec 3
  flags : BitVec 8
  usage : BitVec 16
  ext : BitVec 8
  gen : BitVec 32
  parent : BitVec 32
  parentGen : BitVec 32
  uses : BitVec 32
  limit : BitVec 32
  ivHwm : BitVec 64
  boot : BitVec 32
  cell : BitVec 16
  ledger : BitVec 16
  kcv : BitVec 24
  /-- The key data in the compact form of Table 6-4, as two shares; empty once zeroised (R191). -/
  key : Shares
  /-- The public part recomputed from it (R164, R166). -/
  pub : Bytes
  /-- The index of its base record and of each extension record, in chain order (R171). -/
  home : Nat
  chain : List Nat
  pinned : Bool
  lastUse : Nat
  /-- Outstanding use reservations (R143). -/
  usesReserved : Nat
  deriving DecidableEq, Repr

/-- A key's counter space while its record is resident (R239): the next new value, the released values to be
reserved again first, and what is reserved and committed. -/
structure CounterSpace where
  /-- H as persisted (R239). -/
  h : Nat
  next : Nat
  released : List Nat
  reserved : List Nat
  /-- A cell write is under way to the given H (R240), and the persistent store has ended it. -/
  writing : Option Nat
  stored : Bool
  /-- No value may be reserved before a first cell write after the record was built (R241). -/
  fresh : Bool
  deriving DecidableEq, Repr

/-- A revocation set entry, Table 6-17, with its on-die barrier and the state its key had before it (R190, R192). -/
structure RsEntry where
  minGen : BitVec 31
  revoked : Bool
  barrier : Option Nat
  before_ : Option (BitVec 3 × Bool)
  deriving DecidableEq, Repr

/-- A use ledger entry (R178). -/
structure LedgerEntry where
  key : Nat
  gen : BitVec 32
  uses : BitVec 32
  dirty : Bool
  deriving DecidableEq, Repr

/-- A counter cell (R181). -/
structure CounterCell where
  key : Nat
  gen : BitVec 32
  h : BitVec 64
  /-- The cell is marked exhausted (Tables 8-6, 13-6). -/
  exhausted : Bool
  /-- One above the highest committed value (R186). -/
  committed : Nat
  deriving DecidableEq, Repr

/-- A tenant's allowances, Table 6-15. -/
structure Allowance where
  rset : BitVec 16
  cells : BitVec 16
  ledger : BitVec 16
  pins : BitVec 32
  tier2Cap : BitVec 32
  deriving DecidableEq, Repr

/-- A tier-3 fetch in progress (R167): the key and the peals that wait for it, first miss first. -/
structure Fetch where
  key : Nat
  waiters : List PealSlot
  deriving DecidableEq, Repr

/-- A barrier in progress (R189, Table 6-16): the peal that took it, its key, its value, and its kind. -/
structure Barrier where
  slot : Option PealSlot
  key : Nat
  b : Nat
  revoke : Bool
  destroyed : Bool
  drained : Bool
  deriving DecidableEq, Repr

/-- The key store. A key is numbered tenant times 2^24 plus handle (R157). -/
structure KeyStore where
  recs : SMap KeyRec
  spaces : SMap CounterSpace
  rset : SMap RsEntry
  ledger : SMap LedgerEntry
  cells : SMap CounterCell
  /-- The boot number (R180). -/
  boot : BitVec 32
  allowances : SMap Allowance
  /-- Key state policies, by tenant: eight 32-bit entries (R176). -/
  policies : SMap (List (BitVec 32))
  fetches : List Fetch
  barriers : List Barrier
  /-- Keys whose tier-2 record stood on a line that failed, to be dropped once no peal binds them, and pinned ones
  among them that are fetched again (R469, Table 17-4). -/
  lost : List Nat
  repin : List Nat
  /-- Set entries of committed changes whose write was still to come when a reset or a loss of main power cleared the die;
  they stand again where the journal shows the commit, of the sequence given (R151, R193). -/
  heldSet : SMap (RsEntry × Nat)
  /-- The instant (ns) of the last re-share of the key caches (R188). -/
  reshareAt : Nat
  deriving DecidableEq, Repr

/-- Tenant states (R206). -/
inductive TenantState | absent | creating | active
  deriving DecidableEq, Repr

/-- A key-encryption key: its algorithm, generation and bytes (R206). -/
structure Kek where
  alg : BitVec 8
  gen : BitVec 32
  key : Bytes
  deriving DecidableEq, Repr

/-- A tenant record (R206). -/
structure Tenant where
  state : TenantState
  tskAlg : BitVec 8
  tsk : Bytes
  tskGen : BitVec 32
  kek : Option Kek
  pendingKek : Option Kek
  storageGen : BitVec 32
  /-- Algorithm policy bytes 0x01 to 0x05 (Table 8-2), `none` for the default. -/
  algPolicy : Option (BitVec 40)
  /-- Permission map: a clear bit forbids the built-in peal (R124). -/
  permission : BitVec 256
  /-- Toll binding map entries that differ from the default, by peal ID (R108). -/
  tollMap : SMap (BitVec 8)
  deriving DecidableEq, Repr

/-- An intake session (R209). -/
structure Session where
  id : Nat
  tenant : Fn
  method : BitVec 8
  kekAlg : BitVec 8
  opened : Nat
  /-- The session's private key (R209). -/
  secret : Shares
  /-- The components or package entered, by index (R210). -/
  parts : List (Nat × Shares)
  deriving DecidableEq, Repr

/-- The root secret as it stands in vault SRAM: its two 512-bit shares and its root tag (R196, R199). -/
structure VaultRoot where
  epoch : Nat
  secret : Shares
  deriving DecidableEq, Repr

/-- The derivation branches of Table 7-1. -/
inductive Branch
  | ident | rootSeal | mem | xeol | tsk (tenant : Fn) | toll | attest
  deriving DecidableEq, Repr

/-- The branch keys held masked in device-level key registers (R202). -/
structure BranchKeys where
  ident : Shares
  xeol : Shares
  toll : Shares
  attest : Shares
  deriving DecidableEq, Repr

/-- The root secret and what descends from it (R196 to R204). -/
structure RootState where
  vault : Option VaultRoot
  /-- A root secret is established in this boot (R199). -/
  present : Bool
  /-- A new root secret whose sealed record has not had both its copies written (R200). -/
  forming : Option VaultRoot
  regs : BranchKeys
  /-- The Metronome instant of the last re-share, or of the loss of main power since (R197). -/
  lastReshare : Nat
  /-- The three device key certificates in KIND order (R204). -/
  dkcs : List Bytes
  deriving DecidableEq, Repr

/-- State of a noise source (Table 10-7). -/
inductive SrcState | starting | healthy | failed | unusable
  deriving DecidableEq, Repr

/-- A noise source (R274 to R279): window failures in the last second, by Metronome instant. -/
structure NoiseSource where
  state : SrcState
  fails : List Nat
  /-- Windows of the current start-up attempt that passed; 0 in the first attempt, 1 once it has failed and its retry
  is awaited, 2 in the second (R279). -/
  startPassed : Nat
  startFailed : Nat
  /-- When its start-up test failed (ns): the retry is due 1 ms later (R279). -/
  failedAt : Nat
  /-- The run of identical samples under way: the sample and how many; 0 for none (R275, R276). -/
  lastBit : Bool
  runLen : Nat
  deriving DecidableEq, Repr

/-- A CTR_DRBG instance (R282): Key and V, held as two shares, and its requests and vault time since the last reseed. -/
structure Drbg where
  instantiated : Bool
  state : Shares
  sinceReseed : Nat
  reseedAt : Nat
  /-- RNG_RESEED_LIMIT has been raised for it in this outage (Table 10-6). -/
  limitRaised : Bool
  deriving DecidableEq, Repr

/-- Who asks an instance for bytes: a step of a peal, or a function of the device (Table 10-3, R526). -/
inductive DrawUser
  | step (slot : PealSlot) (i : Nat)
  | report | object | handshake | challenge | closing
  deriving DecidableEq, Repr

/-- A draw held for an instance not instantiated (R292): who waits, and since when. -/
structure HeldDraw where
  inst : Nat
  who : DrawUser
  /-- The request is prediction-resistant (R286). -/
  pr : Bool
  at_ : Nat
  deriving DecidableEq, Repr

/-- The draw of a step of a slot. -/
def HeldDraw.isOf (p : PealSlot) (h : HeldDraw) : Bool := match h.who with | .step q _ => q == p | _ => false

/-- The entropy and DRBG block: instance numbers 0 to 255 are the tenants', 256 to 287 are I0 to I31. -/
structure Rng where
  sources : List NoiseSource
  outage : Bool
  /-- The conditioned blocks of the pool in arrival order, at most 1,024 (R277, R280). -/
  pool : List (BitVec 128)
  drbg : SMap Drbg
  held : List HeldDraw
  /-- The carried seed, where vault SRAM holds it, how often it was replaced, and when last (ns) (R290). -/
  carriedSeed : Option Bytes
  seedReplaced : Nat
  seedAt : Nat
  /-- The device-level masking generator: its key, the bytes its stream has given under it, how often it was rekeyed, and
  when the generators last were (ns) (R289, R290). -/
  maskKey : Option (BitVec 128)
  maskPos : Nat
  maskRekeys : Nat
  maskAt : Nat
  /-- The generators' known-answer test failed at the last start-up (R291). -/
  katFailed : Bool
  /-- Calls made on the free values that stand for random bytes (the model's own field). -/
  calls : Nat
  deriving DecidableEq, Repr

end Sys2Proof.Machine
end

