-- ==== Sys2Proof/Machine/TypesPeal.lean ====
section
/-! DEFINITION. Tables and peals in flight: peal entries and steps (04), descriptors (03), the peal table,
and the effects an admin peal makes at its commit point (R490). -/
namespace Sys2Proof.Machine

/-- A data reference, Table 4-7. -/
structure DRef where
  len : BitVec 12
  off : BitVec 12
  idx : BitVec 5
  src : BitVec 3
  deriving DecidableEq, Repr, Inhabited

/-- A step entry, Table 4-6. -/
structure StepDef where
  op : BitVec 8
  guard : Bool
  gstat : BitVec 2
  gsub : BitVec 3
  sec : Bool
  keyA : BitVec 4
  keyB : BitVec 4
  ksrc : BitVec 5
  wait : BitVec 32
  inA : DRef
  inB : DRef
  param : BitVec 16
  outLen : BitVec 16
  outPos : BitVec 8
  deriving DecidableEq, Repr, Inhabited

/-- A peal entry, Table 4-5 and its steps and constants. -/
structure PealEntry where
  id : BitVec 16
  handles : BitVec 3
  t0Only : Bool
  noSpec : Bool
  toll : BitVec 8
  reqFmt : BitVec 8
  nonceStep : BitVec 8
  inMin : BitVec 32
  inMax : BitVec 32
  inAlign : BitVec 3
  steps : List StepDef
  consts : Bytes
  deriving DecidableEq, Repr, Inhabited

/-- A format instruction, R118. -/
structure FmtInstr where
  fop : BitVec 8
  field : BitVec 5
  src : BitVec 3
  off : BitVec 16
  len : BitVec 16
  arg : BitVec 16
  deriving DecidableEq, Repr

/-- A format entry, Table 4-11. -/
structure FmtEntry where
  id : BitVec 8
  kind : BitVec 8
  instrs : List FmtInstr
  consts : Bytes
  deriving DecidableEq, Repr

/-- A tenant curve record, Table 4-14. -/
structure Curve where
  id : BitVec 8
  bits : BitVec 16
  p : Nat
  a : Nat
  b : Nat
  gx : Nat
  gy : Nat
  n : Nat
  deriving DecidableEq, Repr

/-- A cost record, Table 11-4. -/
structure CostRec where
  op : BitVec 8
  alg : BitVec 8
  pmask : BitVec 16
  pmatch : BitVec 16
  unit : BitVec 16
  fixed : List Nat
  perUnit : List Nat
  tFixed : BitVec 32
  tUnit : BitVec 32
  deriving DecidableEq, Repr, Inhabited

/-- A cost table, Table 11-3. -/
structure CostTable where
  edges : List Int
  surge14 : Nat
  surge16 : Nat
  pealFixed : Nat
  dma : Nat
  heavy : Nat
  recs : List CostRec
  deriving DecidableEq, Repr, Inhabited

/-- The tables in force for one tenant (R95); a version number tells an older set still bound to peals in
flight (R103). -/
structure TenantTables where
  /-- The peal table's entries, `none` when none is loaded, with its version (R95). -/
  peal : Option (BitVec 8 × List PealEntry)
  fmt : Option (BitVec 8 × List FmtEntry)
  curve : Option (BitVec 8 × List Curve)
  /-- Loads and clears made so far, by kind 1 to 3: the version a peal binds (R99). -/
  gen : List Nat
  deriving DecidableEq, Repr

/-- A field a request parse has defined (R118). -/
structure Field where
  num : Nat
  bytes : Bytes
  deriving DecidableEq, Repr

/-- An engine of a cluster: SE0 to SE4, PK0 to PK5, the format unit or the DRBG block (Table 1-2). -/
inductive Engine
  | se (n : Nat) | pk (cluster : ClusterNo) (n : Nat) | fmt | drbg | sq
  deriving DecidableEq, Repr

/-- How far a step has got. -/
inductive StepPhase
  /-- `verifyWait`: signed, its release verification not issued yet (R268). `drawWait`: its draw is held (R292). -/
  | waiting | running | suspended | parked | tieBreak | cellWait | drawWait | verifyWait | ended
  deriving DecidableEq, Repr

/-- A segment of a checked step that differs: since when, which, and what its engines keep of it, the context saved at its
boundary and its input (R245, R246). -/
structure TieRec where
  at_ : Nat
  segment : Nat
  context : Shares
  input : Bytes
  deriving DecidableEq, Repr

/-- A step of a peal in flight. -/
structure StepRun where
  phase : StepPhase
  engine : Option Engine
  /-- The second engine of a checked pair, or the verifying core of a combined signing step. -/
  second : Option Engine
  out : Bytes
  /-- The output or an input derives from a failed guard's shadow output (R139, R525). -/
  shadow : Bool
  /-- The status and sub-reason with which the step failed. -/
  fail : Option (BitVec 8 × BitVec 8)
  /-- The failure is a guard outcome, which never cancels other steps (R138). -/
  guardFail : Bool
  /-- The counter value reserved for a generated nonce, IV or DUKPT count: key and value (R144). -/
  reserved : Option (Nat × Nat)
  /-- The generated nonce or IV. -/
  nonce : Bytes
  /-- Bytes drawn from a DRBG instance when the step started (R284). -/
  drawn : Bytes
  /-- A key output or a sensitive output, never recombined (R110, R113, R227). -/
  masked : Shares
  /-- The segment in which its checked pair differs, while the spare is asked (R245, R246). -/
  tie : Option TieRec
  /-- The segments a majority has decided, with their output, and the verdict so decided (R246). -/
  agreed : List (Nat × Bytes)
  agreedOk : Option Bool
  /-- The instant from which its course under the present clock counts, and what it has run before, in nanoseconds times the
  clock in units of 0.2 GHz (R231, R271). -/
  started : Nat
  progress : Nat
  /-- The re-shares of the working key made since it began (R227, R259). -/
  reshared : Nat
  /-- The digest, or for ML-DSA the μ, that a signing step hands to its release verification (R251). -/
  handed : Bytes
  /-- A verification that found no core: it waits for the first that frees in its own cluster (R268). -/
  ownOnly : Bool
  deriving DecidableEq, Repr

/-- The tenant's policies in force at a peal's admission: its key state policy and its algorithm policy (R176, R226). -/
structure Policies where
  keyTable : Option (List (BitVec 32))
  alg : BitVec 40
  /-- The generation of the KEK then pending (Table 7-5). -/
  pendingGen : Option (BitVec 32)
  deriving DecidableEq, Repr

/-- How far a bound key has got through the tiers (R166). -/
inductive KeyPhase
  /-- Being paged from tier 2. -/
  | paging
  /-- Waiting for a tier-3 fetch. -/
  | fetching
  /-- Judged under R182. -/
  | judged
  deriving DecidableEq, Repr

/-- A key bound by a peal: its key number (tenant and handle) and how far check 9 has got (R182). -/
structure KeyBind where
  key : Nat
  phase : KeyPhase
  /-- The status with which it failed check 9. -/
  fault : Option (BitVec 8 × BitVec 8)
  /-- One use is reserved (R143). -/
  reserved : Bool
  /-- It was built from tier 3 for this peal (item 2 of R182). -/
  tier3 : Bool
  deriving DecidableEq, Repr

/-- Why an admitted peal was stopped before its commit. -/
inductive AbortCause | queueReset | failOver | lockdown | inputRead | flr | linkLoss | dualLost
  deriving DecidableEq, Repr

/-- How far a peal in flight has got. -/
inductive PealPhase
  /-- Before its commit. -/
  | running
  /-- In an open journal-mode group: sealed, commit not begun (R155). -/
  | grouped
  /-- Its group record or Steward-held record is being written: the commit has begun (R130). -/
  | writing
  /-- Its commit point is taken; outputs and completion are not written yet. -/
  | committed
  /-- It ended without a commit; its completion is not written yet. -/
  | failed
  deriving DecidableEq, Repr

/-- A table body of one tenant kind (Table 4-1). -/
inductive TableBody
  | peals (l : List PealEntry) | fmts (l : List FmtEntry) | curves (l : List Curve)
  deriving DecidableEq, Repr

/-- What an admin peal's operation does at its commit point, beside the effects of Table 5-1. -/
inductive Effect
  | none
  | maintenance (enter : Bool)
  | newKey (key : Nat) (rec_ : KeyRec)
  | changeState (key : Nat) (target : BitVec 3)
  | revoke (key : Nat)
  | pin (key : Nat) (on : Bool)
  | drop (key : Nat)
  | allowances (tenant : Fn) (a : Allowance)
  | keyPolicy (tenant : Fn) (table : List (BitVec 32))
  | createTenant (tenant : Fn) (sigAlg : BitVec 8) (tsk : Bytes)
  | openSession (x : Session)
  | enterComponent (id index : Nat) (key : Bytes)
  | installKek (tenant : Fn) (alg : BitVec 8) (key : Bytes) (session : Option Nat)
  | rotateTsk (tenant : Fn) (gen : BitVec 32) (sigAlg : BitVec 8) (tsk : Bytes)
  | finishRotation (tenant : Fn) (kcv : BitVec 24)
  | abandonKek (tenant : Fn)
  | destroyTenant (tenant : Fn)
  | registerPartner (serial : Bytes)
  | replicationMode (sync : Bool)
  | transferRoles (map : BitVec 256)
  | takeRoles (map : BitVec 256)
  | loadTable (tenant : Fn) (version : BitVec 8) (seq : BitVec 32) (digest : Bytes) (body : TableBody)
  | loadCosts (seq : BitVec 32) (digest image : Bytes) (body : CostTable)
  | clearTable (tenant : Fn) (kind : BitVec 8)
  | userWrite (addr : Nat) (bytes : Bytes)
  | userWindow (tenant : Fn) (page count : BitVec 16)
  | algPolicy (tenant : Fn) (bits : BitVec 40)
  | permissionMap (tenant : Fn) (map : BitVec 256)
  | tollMap (tenant : Fn) (map : SMap (BitVec 8)) (digest : Bytes)
  | emptyCarried
  | tollSeal (id : Bytes)
  | tollUnseal (forced : Bool)
  | tollAuthority (key : Bytes)
  | tollImage (image : Bytes) (version : BitVec 32)
  | tollMode (setting : BitVec 2)
  | tollStatement (seq : Nat)
  deriving DecidableEq, Repr

/-- A peal in flight: one entry of the peal table (R53, R298). -/
structure Peal where
  fn : Fn
  ring : SqNo
  raw : BitVec 512
  /-- The SRI version under which the descriptor was submitted. -/
  sri : BitVec 8
  entry : PealEntry
  /-- The tables bound at admission (R99): format entries, curves, and table generations by kind. -/
  fmts : List FmtEntry
  curves : List Curve
  gens : List Nat
  cls : SClass
  checked : Bool
  cm610 : Bool
  dualRun : Bool
  spec : Bool
  /-- Admission sequence number (R189). -/
  seq : Nat
  /-- CMPL.WAIT, CMPL.DEFERRED and CMPL.DEFER_CAUSE, fixed at admission (R90, R91). -/
  wait : BitVec 16
  deferred : Bool
  deferCause : BitVec 3
  /-- The Toll class bound at admission (R108). -/
  toll : BitVec 8
  pol : Policies
  cluster : ClusterNo
  /-- The entry comes from the Critical reserve (R298). -/
  crit : Bool
  /-- Energy reservation in microjoules (R312). -/
  tokens : Nat
  granules : Nat
  staging : Nat
  keys : List KeyBind
  /-- The peal entry is on the die (R98). -/
  entryReady : Bool
  inSgl : Option (List (BitVec 128))
  outSgl : Option (List (BitVec 128))
  input : Option Bytes
  fields : List Field
  /-- The request parse has run (R118). -/
  parsed : Bool
  /-- The request parse failed; reported once check 9 has decided (R118). -/
  parseFail : Bool
  steps : List StepRun
  phase : PealPhase
  /-- Status, sub-reason and failing step of a peal that ends without a commit. -/
  status : BitVec 8
  sub : BitVec 8
  failStep : Option (BitVec 5)
  abort : Option AbortCause
  /-- Output of an admin or built-in operation, and its effect at the commit point. -/
  opOut : Bytes
  effect : Effect
  /-- The peal's admin operation has run. -/
  opDone : Bool
  /-- What the admin operation has drawn so far, draw by draw (R284, R287). -/
  opDraws : List Bytes
  /-- An admin peal completes only after this many persistent store writes (R101, Table 6-16). -/
  storeWait : Nat
  /-- Which of its Steward record writes found no spare (R370). -/
  lostWrites : List Nat
  /-- It has met the Toll's dirty limit and holds before its commit point (R335). -/
  tollWait : Bool
  /-- A barrier peal's value B, and whether its drain is complete (R189, R191). -/
  barrier : Option Nat
  drained : Bool
  /-- The seal conditions hold since this instant (ns). -/
  sealedAt : Option Nat
  committedAt : Nat
  journalSeq : Option Nat
  /-- The user region's window of its tenant at admission: first page, page count (R373). -/
  window : BitVec 16 × BitVec 16
  outFault : Bool
  suppressed : Bool
  /-- An entry of its completion ring is reserved for its completion (R50). -/
  cplHeld : Bool
  /-- The partner has acknowledged this commit, or is out of service (R131). -/
  replicated : Bool
  /-- In dual-run, the partner's digest matched (R400). -/
  dualMatched : Bool
  /-- The partner's status, sub-reason and output digest, once they have arrived (R400). -/
  dualResult : Option (BitVec 8 × BitVec 8 × Bytes)
  deriving DecidableEq, Repr

end Sys2Proof.Machine
end

