-- ==== Sys2Proof/Config.lean ====
section
/-! DEFINITION. What an implementation fixes and the free values: constants without a body, of which nothing
can be proved but that they are the same whenever they are asked the same (notes/assumptions/4.md). -/
namespace Sys2Proof

/-- The `n`-th byte of noise that no command reports: samples and conditioned blocks of a device reset, and the AO domain's
own noise cell (R274, R290). -/
opaque Config.freeByte : Nat → Byte
/-- The fixed conditioning key (R277). -/
opaque Config.condKey : BitVec 256
/-- Miller–Rabin bases a candidate for a prime of a modulus length passes, beyond the first (Table 10-4). -/
opaque Config.rsaBases : Nat → Nat
/-! The standards' primitives, which the spec cites and does not restate: AES and DES on one block, by key, of which only
that each key's is a permutation is known; a digest by its hash number (Table 4-8), leftmost bits first. -/
opaque Config.aes : Bytes → BitVec 128 ≃ BitVec 128
opaque Config.des : BitVec 64 → BitVec 64 ≃ BitVec 64
opaque Config.hash : Nat → Bytes → BitVec 512
/-- The chaining state of a digest after whole blocks (R234). -/
opaque Config.hashState : Nat → Bytes → BitVec 512
/-- A byte of SHAKE128 (false) or SHAKE256 (true) of a message, by its place. -/
opaque Config.shakeByte : Bool → Bytes → Nat → Byte
/-- The padding of an X9.143 block, which the standard takes at random: call, place. -/
opaque Config.padByte : Nat → Nat → Byte
/-- The fuse key as Test programmed it, byte by byte (R201). -/
opaque Config.fuseByte : Nat → Byte
/-- The X.509 certificates as Test loaded them (R203), by part and place, and the parts' lengths: the identity certificate
before its serial number, between that and its public key, and after; the device CA's; the root's. -/
opaque Config.certByte : Nat → Nat → Byte
opaque Config.certLen : Nat → Nat
/-- The Toll's ROM, and the store image the device comes with (R329, R330). -/
opaque Config.tollRomLen : Nat
opaque Config.tollRomByte : Nat → Byte
opaque Config.tollImageLen : Nat
opaque Config.tollImageByte : Nat → Byte
/-- The place and the TYPE of records of the persistent store, where the spec gives none: a page of the system region by
kind and number, a TYPE by kind (R365, Table 13-1). -/
opaque Config.recordPage : Nat → Nat → Nat
opaque Config.recordType : Nat → BitVec 15
/-- The IV of a tenant record, by tenant and the vault time of its write (R201, R206). -/
opaque Config.tenantIv : Nat → Nat → BitVec 96
/-- A number the spec leaves open, at the given call on the free values. -/
opaque Config.openCount : Nat → Nat
/-- Sequence number, key generation and signature of the images of the built-in peal and cost tables (R96, R309): field,
table kind; message. -/
opaque Config.builtinField : Nat → Nat → BitVec 32
opaque Config.builtinSig : Bytes → Bytes
/-- Built-in peals the spec names no layout for (R123, R524), and the format entries they use. -/
opaque Config.builtinPeal : BitVec 16 → Machine.PealEntry
opaque Config.builtinFmts : List Machine.FmtEntry
/-- The most output bytes of a built-in admin peal for which the spec states none (R123). -/
opaque Config.adminOut : BitVec 16 → BitVec 16
/-- The built-in cost table's record for an operation, key algorithm and parameter, where the spec does not state it
(R311, R312). -/
opaque Config.builtinCost : Nat → Nat → Nat → Machine.CostRec
/-- The table version maps of the firmware image with a digest (R95). -/
opaque Config.fwVersions : Bytes → BitVec 32
/-- Generation of the Lenzius table key in the running image (R309). -/
opaque Config.lenziusKeygen : BitVec 32

/-- A byte string cut or zero-padded to `k` bytes. -/
def fit (k : Nat) (bs : Bytes) : Bytes := bs.take k ++ zeros (k - bs.length)

/-- The leftmost 48 bytes of a digest under hash number 1: SHA-384 (Table 4-8). -/
def sha384 (bs : Bytes) : Bytes := (natBe 64 (Config.hash 1 bs).toNat).take 48

end Sys2Proof
end

