-- ==== Sys2Proof/Machine/TypesFront.lean ====
section
/-! DEFINITION. The state of the front end: functions, rings, doorbells, waiting descriptors, events,
interrupts and the bus transactions the device issues (02, 03, 18). -/
namespace Sys2Proof.Machine

/-- Ring states, Table 2-5. -/
inductive RingState | disabled | enabled | resetting | error
  deriving DecidableEq, Repr

/-- One submission ring: its parameters (Table 2-1), positions in wrap form (Table 2-3) and conservation
counters (R54). -/
structure SubRing where
  state : RingState
  base : BitVec 64
  /-- FE_RING_CFG bits [19:0] (Table 18-7). -/
  cfg : BitVec 20
  tail : BitVec 17
  head : BitVec 17
  consumed : BitVec 64
  posted : BitVec 64
  suppressed : BitVec 64
  outstanding : BitVec 17
  /-- Acceptance instants (ns) of descriptors not fetched yet, oldest first, with how many each covers (R45). -/
  accepts : List (Nat × Nat)
  /-- The queue reset in progress has its ABORT option (R62). -/
  abort : Bool
  /-- Descriptors not fetched yet, from HEAD on, that were outstanding when the active role was lost (Table 2-9). -/
  roleLost : Nat
  deriving DecidableEq, Repr

/-- A completion pending for the Chime (R60): when it was posted, and whether its peal was Critical. -/
structure PendingCpl where
  at_ : Nat
  critical : Bool
  deriving DecidableEq, Repr

/-- One completion ring (Tables 2-1, 2-4, 18-7). -/
structure CplRing where
  state : RingState
  base : BitVec 64
  /-- FE_RING_CFG.LOG2_SIZE. -/
  log2 : BitVec 5
  /-- FE_RING_CHIME bits [30:0]. -/
  chime : BitVec 31
  head : BitVec 17
  posted : BitVec 17
  /-- Entries reserved for completions of admitted peals (R50). -/
  reserved : Nat
  irqEnable : Bool
  /-- The Chime's pending completions, oldest first. -/
  pending : List PendingCpl
  deriving DecidableEq, Repr

/-- A recovery-list entry, Table 2-8. -/
structure RecEntry where
  tag : BitVec 64
  pealId : BitVec 16
  status : BitVec 8
  tollClass : BitVec 8
  seqLow : BitVec 32
  deriving DecidableEq, Repr

/-- The interface state of one function (Tables 18-3, 18-5, 2-6, 2-7, 2-8, 6-1, 18-9). -/
structure Func where
  locked : Bool
  sriOffer : BitVec 3
  sriActive : BitVec 8
  ringSel : BitVec 10
  ringKind : Bool
  snapRing : BitVec 10
  snapScope : Bool
  snapConsumed : BitVec 64
  snapPosted : BitVec 64
  snapSuppressed : BitVec 64
  snapOutstanding : BitVec 17
  snapValid : Bool
  evtFlags : BitVec 17
  evtEnable : BitVec 17
  /-- The 17 event counters (R12), by event number. -/
  evtCount : SMap (BitVec 16)
  /-- The flags set in the front-end cycle `evtSetAt`, which no clear of that cycle takes (R12). -/
  evtSet : BitVec 17
  evtSetAt : Nat
  /-- An enabled event waits for the next event message (R487). -/
  evtDue : Bool
  /-- When the last event message was sent (ns). -/
  evtSentAt : Option Nat
  recovery : List RecEntry
  recOverflow : Bool
  /-- The front-end cycle in which the list last grew, the entries it grew by then, and whether it overflowed then (R12). -/
  recAt : Nat
  recFresh : Nat
  recFreshOver : Bool
  hktBase : BitVec 64
  hktEntries : BitVec 25
  tollCtrSel : BitVec 4
  /-- TOLL_CTR_SEL.TENANT, writable on PF0 only (Table 12-7). -/
  tollTenantSel : Fn
  /-- Bus Master Enable (Table 2-10). -/
  bme : Bool
  /-- The function is in D3hot (R475). -/
  d3hot : Bool
  /-- A function-level reset is in progress (R63). -/
  flr : Bool
  /-- The high half latched by the last 4-byte read of a low half, with its register's offset (R476). -/
  hiLatch : Option (BitVec 18 × BitVec 32)
  /-- Vectors the host has unmasked in the MSI-X table. -/
  msixUnmasked : List Nat
  /-- The Pending Bit Array: vectors whose message is held by their mask (R61). -/
  pba : List Nat
  deriving DecidableEq, Repr

/-- A block assignment entry, Table 18-6. -/
structure Assign where
  valid : Bool
  fn : Fn
  page : BitVec 6
  deriving DecidableEq, Repr

/-- A fetched, unadmitted descriptor (R300), with what CMPL.WAIT and CMPL.DEFER_CAUSE need (R90, R91). -/
structure Waiting where
  fn : Fn
  ring : SqNo
  raw : BitVec 512
  accepted : Nat
  /-- Fetch order across the device. -/
  order : Nat
  /-- Nanoseconds withheld so far for each cause of Table 3-10, by cause code. -/
  withheld : SMap Nat
  /-- The cause withholding it since the given instant. -/
  cause : Option (BitVec 3 × Nat)
  deriving DecidableEq, Repr

/-- The fields of a completion but its phase bit (Table 3-8). -/
structure Cpl where
  tag : BitVec 64
  status : BitVec 8
  sub : BitVec 8
  wait : BitVec 16
  outLen : BitVec 32
  nonce : BitVec 96
  toll : BitVec 8
  nonceLen : BitVec 4
  ivInOutput : Bool
  outFault : Bool
  cls : BitVec 2
  step : BitVec 5
  stepValid : Bool
  deferred : Bool
  cause : BitVec 3
  deriving DecidableEq, Repr

/-- A completion without a peal-table entry, waiting for an entry of its completion ring (R82). -/
structure ReadyCpl where
  fn : Fn
  ring : SqNo
  cpl : Cpl
  /-- The acceptance instant when CMPL.WAIT runs to the posting (R90), `none` when it is already fixed. -/
  accepted : Option Nat
  /-- The SRI version the completion is written under. -/
  sri : BitVec 8
  deriving DecidableEq, Repr

/-- A posted write the device issues toward the host, in the order it issues them (R49, R61). -/
inductive BusTxn
  /-- Output bytes of a peal, written from an address on: one write for each range of its output buffer (R76, R81). -/
  | output (fn : Fn) (tag : BitVec 64) (addr : BitVec 64) (bytes : Bytes)
  /-- A completion written at an address of a completion ring (R49). -/
  | completion (fn : Fn) (cq : CqNo) (addr : BitVec 64) (bits : BitVec 256)
  /-- An MSI-X message of a function-local vector (R59). -/
  | msix (fn : Fn) (vector : Nat)
  deriving DecidableEq, Repr

/-- A range of host memory the device has read for a function: descriptors, lists, input, host key table entries and
key blocks (R46, R77, R78, R160). -/
structure BusRead where
  fn : Fn
  addr : BitVec 64
  len : Nat
  deriving DecidableEq, Repr

/-- What a host access was for that the bus refused with Unsupported Request or Completer Abort. -/
inductive BusError | descriptor | input | keyTable | output | completion
  deriving DecidableEq, Repr

/-- The front end. -/
structure FrontEnd where
  funcs : SMap Func
  sqs : SMap SubRing
  cqs : SMap CplRing
  sqAssign : SMap Assign
  cqAssign : SMap Assign
  /-- FE_VF_VECTORS.COUNT. -/
  vfVectors : BitVec 7
  /-- The COUNT in force when VF Enable was set (R481). -/
  vfVectorsInForce : BitVec 7
  vfEnable : Bool
  numVfs : BitVec 8
  waiting : List Waiting
  nextOrder : Nat
  /-- The ring whose descriptor was fetched last (R300). -/
  lastFetch : Nat
  ready : List ReadyCpl
  bus : List BusTxn
  /-- Host memory read so far, in the order of the reads. -/
  reads : List BusRead
  /-- Bus errors that PF0's AER capability has reported, VFs' among them (R65, R137, R475). -/
  aer : List (Fn × BusError)
  /-- Function and vector of the Chime messages of the front-end cycle `chimeAt` (R60). -/
  chimeSent : List (Fn × Nat)
  chimeAt : Nat
  /-- The instant of a Lockdown with the link in L0, until its rings are all DISABLED (Table 2-9). -/
  lockdownAt : Option Nat
  linkL0 : Bool
  perstAsserted : Bool
  perstReleasedAt : Option Nat
  /-- Configuration space answers (R440). -/
  cfgReady : Bool
  /-- The function reports ready (R440). -/
  reported : Bool
  /-- PF0's device event flags, enables and counters (R486). -/
  devFlags : BitVec 39
  devEnable : BitVec 39
  devCount : SMap (BitVec 16)
  /-- The device flags set in the front-end cycle `devSetAt`, which no clear of that cycle takes (R12). -/
  devSet : BitVec 39
  devSetAt : Nat
  /-- FE_TBL_VERSIONS (Table 4-2). -/
  tblVersions : BitVec 32
  deriving DecidableEq, Repr

end Sys2Proof.Machine
end

