-- ==== Sys2Proof/Machine/TypesGov.lean ====
section
/-! DEFINITION. The governor, the clusters and their engines (R14 to R21, 08, 09, 11). -/
namespace Sys2Proof.Machine

/-- Cluster states, Table 1-5. -/
inductive ClState | active | clockGated | powerGated | pllOff
  deriving DecidableEq, Repr

/-- Standing of an engine (R15). -/
inductive EngRole | active | spare | retired | failed
  deriving DecidableEq, Repr

/-- Why an engine was retired (Table 14-2). -/
inductive RetireCause | none | bist | selfTest | tieBreak | releaseVerify
  deriving DecidableEq, Repr

/-- A suspended symmetric message, or a parked public-key job: its peal, its step, when it was set aside, and its context:
the chaining value, counter block or hash state, the blocks done, and the key slot's key (R234); of a public-key job its half of
operand memory, with its re-shared working copy of the key and its blinding values (R264). -/
structure HeldJob where
  slot : PealSlot
  step : Nat
  at_ : Nat
  context : Shares
  blocks : Nat
  key : Option Nat
  work : Shares
  blind : Bytes
  deriving DecidableEq, Repr

/-- A symmetric engine or a public-key core. -/
structure EngineRec where
  role : EngRole
  cause : RetireCause
  /-- The step it runs. -/
  job : Option (PealSlot × Nat)
  idleSince : Nat
  /-- SE: Rimshot contexts, oldest first, at most 8 (R233). PK: the parked job, at most one (R263). -/
  held : List HeldJob
  /-- The core runs a known-answer self-test, since the given instant (R269, R377). -/
  selfTest : Option Nat
  /-- A spare's self-test that a tie-break has stopped (R247). -/
  testPaused : Bool
  /-- Its working copy of the key, and the inputs or the state in its lanes, as shares; the second share is empty where the
  datapath is unmasked (R227, R228). -/
  work : Shares
  lanes : Shares
  /-- The blinding values of a public-key job with a secret operand (R259). -/
  blind : Bytes
  deriving DecidableEq, Repr

/-- An engine with its lanes, working key copy and chaining state zeroised (R228). -/
def EngineRec.cleared (e : EngineRec) : EngineRec := { e with job := none, work := Shares.none, lanes := Shares.none, blind := [] }

/-- A tier-1 key cache slot (R165): its number, the key it holds with its extension units, and of the key what engines need,
masked. -/
structure CacheSlot where
  key : Nat
  slot : Nat
  units : List Nat
  alg : BitVec 8
  usage : BitVec 16
  shares : Shares
  lastUse : Nat
  pinned : Bool
  deriving DecidableEq, Repr

/-- One cluster (Tables 1-2, 1-5). -/
structure Cluster where
  enabled : Bool
  /-- In service: BIST passed (R444). -/
  inService : Bool
  state : ClState
  /-- Power gating is under way (R21). -/
  gating : Bool
  /-- A wake is under way, since the given instant. -/
  waking : Option Nat
  /-- A wake request waits for the end of gating (R21). -/
  wakeAfterGating : Bool
  /-- The instant since which the cluster is idle (R322), or was clock-gated while idle. -/
  idleSince : Option Nat
  se : List EngineRec
  pk : List EngineRec
  cache : List CacheSlot
  /-- The NTT unit: the PK cores whose requests it serves, in order of request with the cycle of each, the first being served,
  and the shares in its buffers (R267, R273). -/
  ntt : List (Nat × Nat)
  nttBuf : Shares
  /-- Round-robin positions of the re-share: key slot and extension unit (R188). -/
  reshareSlot : BitVec 10
  reshareUnit : BitVec 11
  /-- Its masking generator: its key, the bytes its stream has given under it, and how often it was rekeyed (R289, R290). -/
  maskKey : Option (BitVec 128)
  maskPos : Nat
  maskRekeys : Nat
  deriving DecidableEq, Repr

/-- A tenant's share, Table 11-9. -/
structure Share where
  min : BitVec 12
  cap : BitVec 12
  critCap : BitVec 11
  weight : BitVec 8
  deriving DecidableEq, Repr

/-- A junction temperature sensor (R316): its last reading in degrees, or failed. -/
structure TempSensor where
  value : Int
  valid : Bool
  failed : Bool
  deriving DecidableEq, Repr

/-- The Tempo governor (11). -/
structure Governor where
  watts : BitVec 7
  surgeEn : Bool
  specEn : Bool
  weightI : BitVec 8
  weightB : BitVec 8
  cgUs : BitVec 10
  pgUs : BitVec 16
  tenantSel : Fn
  tempSel : BitVec 5
  shares : SMap Share
  /-- Token level L and depth D in microjoules (R306). -/
  level : Int
  depth : Nat
  /-- Reservation less spend of peals freed since the last boundary, in tenths of a microjoule (R308). -/
  settle : Int
  /-- Measures 1 to 7 in force, bit 0 for measure 1 (R314). -/
  measures : BitVec 7
  thermal : BitVec 2
  /-- GOV_STATUS.SURGE (R320), and the instant of its last rise. -/
  surge : BitVec 2
  surgeSince : Nat
  /-- Since when the conditions for a Surge grant have held, and since when no work has waited (R320). -/
  surgeOkSince : Option Nat
  waitAbsentSince : Option Nat
  /-- Since the last boundary a step has waited for an engine, or a Critical or Interactive descriptor with cause CLASS or
  CAPACITY (R320). -/
  waited : Bool
  sensors : List TempSensor
  tjMax : Int
  packagePower : BitVec 16
  basePower : BitVec 16
  /-- Stride virtual times of Interactive and Bulk, and of tenants within each (R302), in units of strideUnit per microjoule and weight 1. -/
  vtInteractive : Nat
  vtBulk : Nat
  vtTenantI : SMap Nat
  vtTenantB : SMap Nat
  /-- Interactive and Bulk had an admissible descriptor at the last decision, and which tenants had (R302). -/
  hadI : Bool
  hadB : Bool
  hadTenantI : List Nat
  hadTenantB : List Nat
  /-- Round-robin positions: the function and ring served last, by class (R302). -/
  lastFn : SMap Nat
  lastRing : SMap Nat
  /-- The admission sequence (R189). -/
  admissions : Nat
  /-- The instant (ns) of the last refill boundary (R306). -/
  boundaryAt : Nat
  /-- The cost table in force, and its image when it is a loaded one (R309). -/
  costs : CostTable
  costImage : Option Bytes
  thermN : Bool
  /-- The peal cache: tenant, peal ID and table generation of the entries on the die with their bytes, most
  recently used first (R98). -/
  pealCache : List ((Nat × Nat × Nat) × Nat)
  deriving DecidableEq, Repr

end Sys2Proof.Machine
end

