-- ==== Sys2Proof/Machine/TypesSys.lean ====
section
/-! DEFINITION. Modes, power, tamper response, life cycle, boot, memory, health and SMBus (01, 15, 16, 17, 19). -/
namespace Sys2Proof.Machine

/-- Operating modes, Table 1-6, with the numbers of FE_FUNC_STATUS.MODE. -/
inductive Mode | off | vault | rest | ready | serve | surge | maintenance | lockdown
  deriving DecidableEq, Repr

/-- Time (the model's own clock, and the Metronome of R507). -/
structure Clock where
  /-- Front-end time in nanoseconds since the model began. -/
  now : Nat
  /-- Phase of the Metronome: nanoseconds times 32,768 not yet counted, below 10^9. -/
  phase : Nat
  /-- Vault time in Metronome periods (R507). -/
  vtime : BitVec 64
  deriving DecidableEq, Repr

/-- Supplies and pins (R497 to R505, R509). -/
structure Power where
  mainGood : Bool
  resetN : Bool
  battA : Bool
  battB : Bool
  /-- Instants since which VBATA and VBATB have been present (R338, R500). -/
  battASince : Option Nat
  battBSince : Option Nat
  pfwarn : Bool
  /-- Clusters stand clock-gated after PFWARN_N (R505). -/
  pfGated : Bool
  /-- VAO_CAP has reached 2.4 V, and the programming reservoir is charged (R502). -/
  capReady : Bool
  reservoir : Bool
  /-- The AO domain kept its state since it was last powered. -/
  aoHeld : Bool
  gongN : Bool
  /-- The Gong byte reads degraded (R502). -/
  gongDegraded : Bool
  smbAlertN : Bool
  /-- The Metronome period in which the mode last changed by a transition of Table 1-7 (R24). -/
  modeAt : Option (BitVec 64)
  deriving DecidableEq, Repr

/-- Life-cycle states (R424). -/
inductive LcState | blank | test | production | eolAnalysis | eolScrap
  deriving DecidableEq, Repr

/-- One-time fuses (R1, R198, R424, R426). -/
structure Fuses where
  grade : BitVec 2
  stepping : BitVec 8
  serial : Bytes
  /-- LC_FUSE, whose bits program from 0 to 1 (R424, Table 15-10). -/
  lcFuse : BitVec 32
  scrapOnly : Bool
  /-- The 256-bit fuse key, `none` before it is programmed (R201). -/
  fuseKey : Option Bytes
  /-- ROOT_EPOCH bits programmed, 0 to 32 (R198). -/
  epoch : Nat
  deriving DecidableEq, Repr

/-- A group of LC_FUSE: 0 TEST, 1 PROD, 2 EOL, 3 SCRAP. -/
def Fuses.group (f : Fuses) (n : Nat) : BitVec 8 := f.lcFuse.extractLsb' (8 * n) 8

/-- The life-cycle state: that of the highest group with any bit programmed (R424). -/
def Fuses.lc (f : Fuses) : LcState :=
  if f.group 3 ≠ 0 then .eolScrap else if f.group 2 ≠ 0 then .eolAnalysis else if f.group 1 ≠ 0 then .production
  else if f.group 0 ≠ 0 then .test else .blank

/-- The highest programmed group is incomplete (R424). -/
def Fuses.lcIncomplete (f : Fuses) : Bool :=
  match (List.range 4).reverse.find? fun n => f.group n != 0 with
  | some n => f.group n != 0xFF
  | none => false

/-- The order of the states, which fuses never take back (R424). -/
def LcState.rank : LcState → Nat
  | .blank => 0 | .test => 1 | .production => 2 | .eolAnalysis => 3 | .eolScrap => 4

/-- The bits that a transition to a state programs (R429, R430). -/
def LcState.fuses : LcState → BitVec 32
  | .blank => 0 | .test => 0xFF | .production => 0xFF00 | .eolAnalysis => 0xFF0000 | .eolScrap => 0xFFFF0000

/-- A tamper latch or tamper log entry, Table 15-3. -/
structure TamperEntry where
  sensor : BitVec 8
  response : BitVec 8
  onBattery : Bool
  coalesced : Bool
  overflow : Bool
  count : BitVec 32
  vtime : BitVec 64
  /-- Vault time of its last event, for the one-second rule of R412. -/
  last : BitVec 64
  deriving DecidableEq, Repr

/-- A Snare sensor (Table 15-17): TMP_SENSOR.STATE and COUNT. -/
structure SnareSensor where
  state : BitVec 2
  count : BitVec 16
  deriving DecidableEq, Repr

/-- Lockdown as latched in the AO domain (R411, R415). -/
structure LockLatch where
  cause : BitVec 5
  response : BitVec 2
  onBattery : Bool
  vtime : BitVec 64
  deriving DecidableEq, Repr

/-- The Snare, the Gong and Lockdown (15). -/
structure Tamper where
  sensors : List SnareSensor
  /-- The response table in force and as staged, two bits per sensor (R434). -/
  response : BitVec 44
  stagedResponse : BitVec 44
  polarity : BitVec 4
  stagedPolarity : BitVec 4
  sensorSel : BitVec 5
  commitBusy : Bool
  clear : Bool
  /-- The sequence generators of the external mesh loops, as seeded at this power-up (R405). -/
  loops : List (BitVec 31)
  /-- THROTTLE is in force, and the sensor's last out-of-range instant (R409). -/
  throttle : Bool
  throttleAt : Nat
  latch : List TamperEntry
  /-- The tamper log, newest first, at most 1,024 entries, and entries ever written. -/
  log : List TamperEntry
  logTotal : BitVec 32
  logSinceReset : BitVec 16
  lock : Option LockLatch
  /-- The Gong zeroised in the present Lockdown. -/
  zeroised : Bool
  /-- The Lockdown record is in the persistent store (R415). -/
  lockRecord : Bool
  deriving DecidableEq, Repr

/-- A life-cycle journal entry (R428). -/
structure LcEntry where
  step : BitVec 8
  from_ : BitVec 8
  to_ : BitVec 8
  scope : BitVec 8
  lcSeq : BitVec 32
  vtime : BitVec 64
  boot : BitVec 32
  seq : BitVec 32
  kind : BitVec 8
  signer : BitVec 8
  deriving DecidableEq, Repr

/-- Life-cycle controller (15). -/
structure LifeCycle where
  lcSeq : BitVec 32
  recoveryKey : Option Bytes
  cleared : Bool
  pending : Bool
  /-- The transition in progress, as its journal entries state it; verification failures so far, and that it passed. -/
  entry : Option LcEntry
  wipeFails : Nat
  /-- The wipe is made, and its verification passed with the VERIFIED entry on its way. -/
  wiped : Bool
  verified : Bool
  journal : List LcEntry
  busy : Bool
  result : BitVec 4
  data : Bytes
  challenge : Option Bytes
  /-- Permissions of the debug token in force. -/
  debug : Option (BitVec 16)
  scan : Bool
  /-- The closing statement of this transition is to be taken once every commit begun has ended (R349). -/
  closing : Option LcEntry
  /-- A Recover token was accepted (R423). -/
  recovering : Option Nat
  /-- A Lockdown report is being made, for the given nonce (R418). -/
  report : Option Bytes
  deriving DecidableEq, Repr

/-- A firmware slot (R449): its image header and whether the boot ROM's own checks of it pass. -/
structure FwSlot where
  present : Bool
  svn : BitVec 32
  build : BitVec 32
  /-- Every check of R449 but rollback and trial count passes. -/
  sound : Bool
  digest : Bytes
  /-- The maps of accepted table versions of its image (R95, Table 4-2). -/
  versions : BitVec 32
  trials : Nat
  confirmed : Bool
  deriving DecidableEq, Repr

/-- Boot and Steward firmware (16). -/
structure Boot where
  stage : BitVec 4
  cause : BitVec 4
  slotB : Bool
  preferB : Bool
  slotA_ : FwSlot
  slotB_ : FwSlot
  rootCase : BitVec 2
  quick : Bool
  antiRollback : BitVec 32
  stewardUp : Bool
  /-- The restart in progress is a firmware activation (R452). -/
  activating : Bool
  fwAddr : BitVec 64
  fwLen : BitVec 23
  fwBusy : Bool
  fwResult : BitVec 4
  fwStaged : Bool
  coreMin : Bool
  /-- The device blocks that failed the last BIST, in the order of BootReport.coreBad. -/
  blocksBad : BitVec 9
  /-- What the self-tests of this reset found, kept while a pending transition holds the sequence back (R431). -/
  resume : Option BootReport
  /-- The sequence waits for a noise source whose start-up retry is due: what its last step then needs (R279, R445). -/
  awaitNoise : Option (BootReport × Option Bool)
  deriving DecidableEq, Repr

/-- An RL-DRAM channel (R457, R468, R469). -/
structure MemChan where
  state : BitVec 2
  corrected : BitVec 16
  confirmed : BitVec 8
  /-- Instants (ns) of corrected errors within the last 60 s, with how many. -/
  recent : List (Nat × Nat)
  calibrations : Nat
  deriving DecidableEq, Repr

/-- A counter group of the integrity tree (R462): major and the minors of its written lines. -/
structure CounterGroup where
  major : BitVec 64
  minors : SMap (BitVec 6)
  deriving DecidableEq, Repr

/-- The RL-DRAM and the memory protection unit (17). -/
structure Memory where
  /-- Two devices per channel. -/
  two : Bool
  mismatch : Bool
  trained : Bool
  chanSel : BitVec 2
  chans : List MemChan
  scrubPasses : BitVec 32
  /-- The memory key: line key and integrity key (Table 7-1), masked, `none` once zeroised (R202). -/
  key : Option Shares
  groups : SMap CounterGroup
  /-- Instants (ns) of confirmed failures within the last second, by channel. -/
  confirmedAt : SMap (List Nat)
  deriving DecidableEq, Repr

/-- The SMBus request object (R515, R516). -/
structure SmBus where
  status : BitVec 8
  reason : BitVec 8
  object : BitVec 8
  tenant : BitVec 8
  nonce : Bytes
  data : Bytes
  offset : Nat
  /-- The statement sequence an object being produced holds, and the log sequence its delta record has (R343). -/
  stmt : Option Nat
  waitSeq : BitVec 64
  /-- Data of the last read command, as returned. -/
  lastRead : Bytes
  deriving DecidableEq, Repr

/-- Health counts and selects (R381, R382). -/
structure Health where
  miscompares : BitVec 32
  noMajority : BitVec 32
  releaseFails : BitVec 32
  spareFails : BitVec 32
  clusterSel : BitVec 4
  /-- Per cluster and engine: attributed miscompares (SE) and failures (PK), 16 bits (Table 14-3); key 16·cluster + engine. -/
  attributed : SMap (BitVec 16)
  /-- Lifetime retirement counts (R379), same key. -/
  lifetime : SMap Nat
  /-- Xeolink lanes' and Steward's block bytes follow from their state; Snare, Metronome, Gong from here. -/
  metronomeBad : Bool
  deriving DecidableEq, Repr

end Sys2Proof.Machine
end

