-- ==== Sys2Proof/Machine/TypesToll.lean ====
section
/-! DEFINITION. The Clapper, the Toll, the persistent store and the pair (05, 12, 13, 14). -/
namespace Sys2Proof.Machine

/-- A commit journal entry, Table 5-5; the flags are bits 0 to 7 of Table 5-6. -/
structure JEntry where
  tag : BitVec 64
  seq : BitVec 64
  vtime : BitVec 64
  tenant : Fn
  pealId : BitVec 16
  toll : BitVec 8
  flags : BitVec 8
  /-- The stored check value agrees with the entry; one that fails its check reads with FLAGS.DAMAGED (R146). -/
  sound : Bool := true
  deriving DecidableEq, Repr

/-- An entry word of a record of the Toll record log (Table 12-2). -/
inductive LogWord
  | delta (counter : Nat) (value : BitVec 64)
  | group (e : JEntry)
  | ledger (index : Nat) (key : Nat) (gen uses : BitVec 32)
  deriving DecidableEq, Repr

/-- The Clapper (05). -/
structure Clapper where
  /-- Hold store granules in use by Critical-class peals, and by the others (R133). -/
  granulesCrit : Nat
  granulesOther : Nat
  /-- Staging units of 64 KiB in use (R134). -/
  staging : Nat
  /-- The live journal, ascending sequence, at most 65,536 entries (R148). -/
  journal : List JEntry
  carried : List JEntry
  carriedLast : BitVec 64
  carriedSource : BitVec 2
  carriedComplete : Bool
  /-- Journal epoch and the count within it (R147). -/
  epoch : BitVec 32
  count : BitVec 32
  /-- The journal bank in vault SRAM holds its contents. -/
  bankRetained : Bool
  /-- Commit points are stopped after PFWARN_N (R154). -/
  stopped : Bool
  /-- The open journal-mode group and since when; the group whose record is being written (R155). -/
  group : List PealSlot
  groupSince : Nat
  /-- A sealed peal found no room in the open group, which closes for it (R155). -/
  groupFull : Bool
  writing : List PealSlot
  /-- Sealed peals that waited while commit points were stopped, in admission order (R154). -/
  resume : List PealSlot
  /-- The write of the group record has ended (R155). -/
  groupDone : Bool
  /-- Journal sequences whose completion is written and whose FLAGS.POSTED is due (Table 5-2, step 5), with
  the instant of the write. -/
  postedDue : List (BitVec 64 × Nat)
  /-- Words of commits that journal mode took singly, with the write of a Steward-held record, for the next group record
  (R18, R155, R338; notes/assumptions/49.md). -/
  late : List LogWord
  /-- How many of them the group record being written holds. -/
  lateIn : Nat
  deriving DecidableEq, Repr

/-- A record of the record log (Table 12-2), and the page of the log on which it starts (Table 12-1). -/
structure LogRec where
  group : Bool
  final : Bool
  jm : Bool
  seq : BitVec 64
  words : List LogWord
  valid : Bool
  page : Nat := 0
  deriving DecidableEq, Repr

/-- A seal log entry (R347). -/
structure SealEntry where
  kind : BitVec 8
  events : BitVec 32
  vtime : BitVec 64
  sealId : Bytes
  extra : Bytes
  deriving DecidableEq, Repr

/-- A base copy (R333, R336): the log sequence of its snapshot and its 4,096 counters. -/
structure BaseCopy where
  seq : BitVec 64
  jseq : BitVec 64
  counters : SMap (BitVec 64)
  valid : Bool
  deriving DecidableEq, Repr

/-- The Toll (12). -/
structure Toll where
  counters : SMap (BitVec 64)
  /-- Counters changed since their last completed record, by index. -/
  dirty : List Nat
  /-- The counter bank holds its contents (retained), and passed its check. -/
  bankValid : Bool
  sealed_ : Bool
  sealId : Bytes
  authority : Option Bytes
  /-- Mode setting 0 AUTO, 1 ON, 2 OFF (R338), and journal mode in force. -/
  mode : BitVec 2
  journal : Bool
  /-- Entry into journal mode waits for its delta record; exit waits for the next group boundary. -/
  journalNext : Option Bool
  sealEvents : BitVec 32
  sealLog : List SealEntry
  gaps : BitVec 32
  /-- TOLL_STATUS.GAP; the gap count at the previous statement. -/
  gapFlag : Bool
  gapsAtStatement : BitVec 32
  mapEvents : BitVec 32
  mapChain : Bytes
  /-- Statement sequence: the next one, and the persisted high-water mark (R343). -/
  stmtNext : BitVec 64
  stmtHwm : BitVec 64
  /-- Sequences at or above the next one that released statements have used (R144, R343). -/
  stmtUsed : List Nat
  /-- Statements that wait for a delta record, with the least log sequence that will do (R343). -/
  stmtWaits : List (PealSlot × BitVec 64)
  /-- The first statement of this root epoch has been issued. -/
  epochStated : Bool
  /-- Journal sequence of the last commit of this device that the counters include (TS.JSEQ, R332, R343). -/
  lastOwn : BitVec 64
  imageVersion : BitVec 32
  /-- The store image (R329, R330). -/
  image : Bytes
  hasKey : Bool
  /-- Record log: completed records, and the last log sequence. -/
  log : List LogRec
  logSeq : BitVec 64
  /-- The page of the log at which the next record starts, 0 to 362 (Table 12-1). -/
  logPage : Nat
  baseA : BaseCopy
  baseB : BaseCopy
  /-- A record being written, with the counters it snapshots. -/
  writing : Option LogRec
  lastRecordAt : Nat
  /-- A FINAL record is owed once the record being written has ended (R340). -/
  finalOwed : Bool
  /-- The Toll region holds its state record and base copies: no commit comes before (R339). -/
  regionUsed : Bool
  /-- The seal log's next place in its rotation of 48 (Table 12-1). -/
  sealAt : Nat
  closing : Option Bytes
  /-- Use counts with what was charged and reserved when main power failed, to be counted as made where none of R68's
  conditions held (R178; the model's own field). -/
  owed : SMap LedgerEntry
  deriving DecidableEq, Repr

/-- What a persistent store command writes (13); a slot names the peal that waits for it. -/
inductive NvWork
  | deltaRec (r : LogRec)
  | groupRec (r : LogRec)
  /-- A part of a base copy: eight of 16 counter pages each, then the header page (R334, R336, R358). -/
  | baseRec (copyA : Bool) (c : BaseCopy) (part : Nat)
  | tollState (slot : Option PealSlot)
  | tollMark (hwm : BitVec 64)
  /-- The seal event counter (R347), an entry of the seal log with its place, and a part of the store image. -/
  | sealCount (slot : Option PealSlot)
  | sealEntry (slot : Option PealSlot) (place : Nat) (e : SealEntry)
  | tollImage (slot : Option PealSlot) (part : Nat)
  /-- A part of the closing record of the given bytes, the last of so many (R349). -/
  | closing (bs : Bytes) (part parts : Nat)
  /-- Zero words to consecutive pages, of a life-cycle wipe (R355, Table 15-14). -/
  | wipe (page count : Nat)
  | powerFail (last : BitVec 64) (l : List JEntry)
  | cell (key : Nat) (h : Nat)
  | partnerCell (key : Nat) (h : Nat) (frame : BitVec 64)
  | cellRewrite (key : Nat) (slot : Option PealSlot)
  | revocation (key : Nat) (slot : Option PealSlot)
  /-- The home slot of a set entry, after its log word (R368). -/
  | setHome (key : Nat)
  /-- A quarter of the use ledger's checkpoint: 256 entries of copy A, then of copy B (R178, Table 13-2). -/
  | ledgerCheckpoint (l : SMap LedgerEntry) (part : Nat)
  /-- A write of a peal's Steward-held record, the `index`-th of those it takes (R18, R373). -/
  | stewardRecord (slot : PealSlot) (index : Nat)
  | vtimeCheckpoint (v : BitVec 64)
  /-- The journal epoch's spread counter (R147). -/
  | epoch
  | lockRecord
  | response (table : BitVec 44) (polarity : BitVec 4)
  | recoveryKey (key : Bytes)
  /-- A copy of the sealed root record, the first or the second (R198). -/
  | rootCopy (second : Bool)
  /-- An entry of the life-cycle journal (R428), and the tamper latch's copy (R412). -/
  | lifeCycle (e : LcEntry)
  | tamperLog
  /-- The role map, with what it held before (R388), and the retirement count of an engine (R379). -/
  | roleMap (old : BitVec 256)
  | retirement (engine : Nat)
  deriving DecidableEq, Repr

/-- A two-copy record by its TYPE and the store addresses of its copies (R365). -/
structure TwoAt where
  ty : BitVec 16
  a : Nat
  b : Nat
  deriving DecidableEq, Repr

/-- Where a store command writes, and what (R358). Which copy or cell of a record is written is worked out from the store
as the command runs (R365 to R368). -/
inductive NvData
  /-- Pages of records whose layout the spec does not give. -/
  | page (first count : Nat)
  | words (addr : Nat) (bs : Bytes)
  | copies (r : TwoAt) (aux : BitVec 32) (body : Bytes)
  /-- A two-copy record whose body, of a known length, its owner places as the write ends. -/
  | late (r : TwoAt) (len : Nat)
  /-- Log words of a group record, which are placed as the write ends. -/
  | lateWords (addr len : Nat)
  | cell (index key : Nat) (gen : BitVec 32) (h : Nat) (exhausted : Bool)
  | spread (first stride : Nat)
  | setLog (slot : Nat) (word : BitVec 64)
  | setHome (slot : Nat) (word : BitVec 64)
  deriving DecidableEq, Repr

/-- A queued command with its class of R359, 1 to 5. -/
structure NvCmd where
  cls : Nat
  work : NvWork
  data : NvData := .page 0 0
  deriving DecidableEq, Repr

/-- A copy of a two-copy record that is valid (R365, R366). -/
structure CopyRec where
  seq : BitVec 32
  aux : BitVec 32
  body : Bytes
  deriving DecidableEq, Repr

/-- What the store keeps for a tenant beside its record: its bytes in the set, the high-water pairs and the ledger's copies,
and its ledger entries and cells (Table 13-2). -/
structure TenantStore where
  bytes : List Host.Cell
  ledger : SMap LedgerEntry
  cells : SMap CounterCell
  deriving DecidableEq, Repr

/-- What the store still holds of a record whose last write found no spare: the change is in force until the next device
reset, which restores this (R370). -/
inductive Unstored
  /-- A tenant record, and what was emptied with it: of a KEK rotation the set, of a destroyed tenant all (R213, R214). -/
  | tenant (t : Fn) (old : Tenant) (kept : TenantStore) (destroyed : Bool)
  | algPolicy (t : Fn) (old : Option (BitVec 40))
  | permission (t : Fn) (old : BitVec 256)
  | tollMap (t : Fn) (old : SMap (BitVec 8))
  | allowance (t : Fn) (old : Allowance)
  | keyPolicy (t : Fn) (old : Option (List (BitVec 32)))
  | partner (old : Option Bytes)
  | sync (old : Bool)
  | roles (old : BitVec 256)
  /-- A retirement count too high by one (R379). -/
  | retirement (engine : Nat)
  /-- An entry of the life-cycle journal, entries of the tamper log, and the Lockdown record, which are not stored. -/
  | lifeCycle (e : LcEntry)
  | tamperLog (l : List TamperEntry)
  | lockRecord (rose : Bool)
  | response (table : BitVec 44) (polarity : BitVec 4)
  | recoveryKey (old : Option Bytes)
  deriving DecidableEq, Repr

/-- The persistent store (13). -/
structure NvStore where
  current : Option NvCmd
  queue : List NvCmd
  /-- The command PFWARN_N stopped, which restarts first (R364). -/
  stopped : Option NvCmd
  /-- Commands are held after PFWARN_N (R362). -/
  held : Bool
  pfDone : Bool
  /-- No Steward command starts before this instant (R360), ns. -/
  gapUntil : Nat
  spares : BitVec 13
  remapped : BitVec 16
  writeFails : BitVec 32
  damaged : BitVec 32
  wearSel : BitVec 3
  /-- Program counts by page (R369). -/
  wear : SMap Nat
  /-- The bytes of the array, by store address; a byte not written since Test reads as zero (R354). -/
  array : List Host.Cell
  /-- Words whose write found no spare, by word number: they read so until the next device reset (R370). -/
  lost : SMap Bytes
  /-- User windows in force: first page and page count, by tenant (R373). -/
  windows : SMap (BitVec 16 × BitVec 16)
  /-- The home slots of the revocation set, by key (R368, Table 13-2). -/
  slots : SMap Nat
  /-- The certificates of the system region, the identity certificate in three parts around its serial number and its
  public key (R203). -/
  certs : List Bytes
  /-- Records whose last write found no spare (R370). -/
  unstored : List Unstored
  deriving DecidableEq, Repr

/-- Xeolink states (Table 14-8). -/
inductive XlLink | down | training | authenticating | up
  deriving DecidableEq, Repr

/-- A frame sent to the partner (R387): type, frame sequence, the sequence it acknowledges cumulatively, payload. -/
structure XlFrame where
  ty : BitVec 8
  seq : BitVec 64
  ack : BitVec 64
  payload : Bytes
  /-- The frame as it goes out: header, enciphered payload, tag (R387). -/
  wire : Bytes
  deriving DecidableEq, Repr

/-- The pair (14). -/
structure Pair where
  link : XlLink
  /-- Lanes that passed their BIST, bit n for lane n (R444). -/
  lanes : BitVec 2
  /-- Lanes in use. -/
  lane0 : Bool
  lane1 : Bool
  /-- When a lane was dropped, or last failed to train again (R384). -/
  laneAt : Nat × Nat
  version : BitVec 8
  versions : BitVec 8
  partner : Option Bytes
  inService : Bool
  sync : Bool
  /-- A replication mode set and not acknowledged yet, with the frame whose acknowledgement it waits for (R390). -/
  syncNext : Option (Bool × BitVec 64)
  /-- PAIR_ROLE strap: false primary, true secondary. -/
  secondary : Bool
  peerFail : Bool
  peerFailSince : Option Nat
  resync : Bool
  /-- Tenants whose active role this device holds. -/
  roles : BitVec 256
  /-- Roles the partner showed in its last HEARTBEAT. -/
  partnerRoles : BitVec 256
  lastFrameAt : Nat
  lastAcked : BitVec 64
  /-- Own COMMITs sent and not acknowledged: frame sequence and journal sequence. -/
  unacked : List (BitVec 64 × BitVec 64)
  /-- Revocation entries whose REVOKE is not acknowledged: frame sequence and key number. -/
  revokeUnacked : List (BitVec 64 × Nat)
  /-- Cells whose new H the partner has not acknowledged: the HWM frame's sequence, 0 while none is sent (R243,
  R395), and the key. -/
  hwmPending : List (BitVec 64 × Nat)
  /-- Frames dropped within the last millisecond: instants. -/
  dropped : List Nat
  rxSeq : BitVec 64
  txSeq : BitVec 64
  /-- Frames sent to the partner, oldest first. -/
  sent : List XlFrame
  /-- Received frames not acknowledged until a write persists: frame sequence, whether it is a REVOKE, and its key
  (R394). -/
  rxHold : List (BitVec 64 × Bool × Nat)
  /-- Use ledger charges received that wait at the dirty limit (R335, R394; the model's own field). -/
  raises : List (BitVec 128)
  /-- The partner has sent all it had to send in RESYNC (R395). -/
  rxDone : Bool
  /-- The role map as kept in the persistent store (R388). -/
  stored : BitVec 256
  transferring : Option (BitVec 256)
  failovers : BitVec 32
  dualMismatch : BitVec 32
  handshakeAt : Option Nat
  /-- What this device sent in its last handshake: certificates, ephemeral key, signature (R386). -/
  shake : Bytes
  /-- The session's AES-256-GCM keys, to the partner and from it, empty without a session (R386). -/
  txKey : Bytes
  rxKey : Bytes
  deriving DecidableEq, Repr

end Sys2Proof.Machine
end

