-- ==== Sys2Proof/Machine/State.lean ====
section
/-! DEFINITION. The whole state of the ZT940, the outcomes' reasons, and the machine as a power-on reset
finds it (notes/assumptions/1.md, 2.md). -/
namespace Sys2Proof.Machine

/-- Why the machine stops. No command of this model raises a fault: the spec gives every command an effect in
every state, so no value of this type but the one below exists, and it is safe. -/
inductive Fault
  /-- Raised by nothing; it only makes the type inhabited. Safe. -/
  | unreachable
  deriving DecidableEq, Repr

/-- Why a command is refused. -/
inductive Refusal
  /-- Raised by an arm of exec whose command has no meaning yet. Safe. -/
  | notModelled (mnemonic : String)
  deriving DecidableEq, Repr

/-- The machine's state. -/
structure State where
  clk : Clock
  mode : Mode
  pwr : Power
  fuses : Fuses
  fe : FrontEnd
  peals : SMap Peal
  gov : Governor
  clusters : List Cluster
  ks : KeyStore
  tenants : SMap Tenant
  tables : SMap TenantTables
  sessions : List Session
  root : RootState
  rng : Rng
  clap : Clapper
  toll : Toll
  nv : NvStore
  pair : Pair
  health : Health
  tmp : Tamper
  lc : LifeCycle
  boot : Boot
  mem : Memory
  smb : SmBus
  pending : List Instr
  deriving DecidableEq, Repr

/-! Values at reset. Where the spec gives none, notes/assumptions/2.md names the value. -/

/-- A submission ring after reset (Tables 2-3, 18-7). -/
def SubRing.init : SubRing :=
  { state := .disabled, base := 0, cfg := 0x10000, tail := 0, head := 0, consumed := 0, posted := 0,
    suppressed := 0, outstanding := 0, accepts := [], abort := false, roleLost := 0 }
/-- A completion ring after reset (Tables 2-4, 18-7). -/
def CplRing.init : CplRing :=
  { state := .disabled, base := 0, log2 := 0, chime := 0, head := 0, posted := 0, reserved := 0,
    irqEnable := false, pending := [] }
/-- A function after reset (Tables 2-6, 2-7, 2-8, 6-1, 12-7, 18-5, 18-7, 18-9). -/
def Func.init : Func :=
  { locked := false, sriOffer := 0, sriActive := 0, ringSel := 0, ringKind := false,
    snapRing := 0, snapScope := false, snapConsumed := 0, snapPosted := 0, snapSuppressed := 0,
    snapOutstanding := 0, snapValid := false, evtFlags := 0, evtEnable := 0, evtCount := [], evtSet := 0, evtSetAt := 0,
    evtDue := false, evtSentAt := none, recovery := [], recOverflow := false, recAt := 0, recFresh := 0, recFreshOver := false, hktBase := 0,
    hktEntries := 0, tollCtrSel := 0, tollTenantSel := 0, bme := false, d3hot := false, flr := false,
    hiLatch := none, msixUnmasked := [], pba := [] }
/-- An unassigned block (Table 18-6). -/
def Assign.none : Assign := { valid := false, fn := 0, page := 0 }
/-- The default assignment: block b to function b at local page 0 for b below 256 (R37, R482). -/
def Assign.default : SMap Assign :=
  (List.range 256).map (fun b => (b, { valid := true, fn := BitVec.ofNat 8 b, page := 0 }))
/-- The front end after reset (18). -/
def FrontEnd.init : FrontEnd :=
  { funcs := [], sqs := [], cqs := [], sqAssign := Assign.default, cqAssign := Assign.default,
    vfVectors := 64, vfVectorsInForce := 64, vfEnable := false, numVfs := 0, waiting := [], nextOrder := 0, lastFetch := 65535,
    ready := [], bus := [], reads := [], aer := [], chimeSent := [], chimeAt := 0, lockdownAt := Option.none, linkL0 := false, perstAsserted := true, perstReleasedAt := Option.none,
    cfgReady := false, reported := false, devFlags := 0, devEnable := 0x1000000, devCount := [], devSet := 0, devSetAt := 0, tblVersions := 0x02020208 }
/-- An active engine that does nothing. -/
def EngineRec.init : EngineRec :=
  { role := .active, cause := .none, job := none, idleSince := 0, held := [], selfTest := none, testPaused := false,
    work := { a := [], b := [] }, lanes := { a := [], b := [] }, blind := [] }
/-- A cluster before its BIST: not in service, its PLL off, the last engine of each kind its spare (R15, R19). -/
def Cluster.init : Cluster :=
  { enabled := true, inService := false, state := .pllOff, gating := false, waking := none,
    wakeAfterGating := false, idleSince := none,
    se := List.replicate 4 EngineRec.init ++ [{ EngineRec.init with role := .spare }],
    pk := List.replicate 5 EngineRec.init ++ [{ EngineRec.init with role := .spare }],
    cache := [], ntt := [], nttBuf := Shares.none, reshareSlot := 0, reshareUnit := 0, maskKey := none, maskPos := 0,
    maskRekeys := 0 }
/-- The share of a tenant after reset: T0 holds 32 entries at least, every other none (Table 11-9). -/
def Share.init : Share := { min := 0, cap := 0xC00, critCap := 0x400, weight := 1 }
/-- The share of T0 after reset (Table 11-9). -/
def Share.initT0 : Share := { Share.init with min := 0x020 }
/-- An empty cost table. -/
def CostTable.none : CostTable :=
  { edges := [], surge14 := 0, surge16 := 0, pealFixed := 0, dma := 0, heavy := 0, recs := [] }
/-- The governor after reset of a grade X device (Table 11-9, R306). -/
def Governor.init : Governor :=
  { watts := 110, surgeEn := true, specEn := true, weightI := 3, weightB := 1, cgUs := 5, pgUs := 500,
    tenantSel := 0, tempSel := 0, shares := [], level := 110000, depth := 110000, settle := 0,
    measures := 0, thermal := 0, surge := 0, surgeSince := 0, surgeOkSince := Option.none,
    waitAbsentSince := Option.none, waited := false,
    sensors := List.replicate 24 { value := 0, valid := false, failed := false }, tjMax := 0, packagePower := 0, basePower := 0,
    vtInteractive := 0, vtBulk := 0, vtTenantI := [], vtTenantB := [], hadI := false, hadB := false,
    hadTenantI := [], hadTenantB := [], lastFn := [], lastRing := [],
    admissions := 0, boundaryAt := 0, costs := CostTable.none, costImage := Option.none,
    thermN := true, pealCache := [] }
/-- A tenant's default allowances (Table 6-15). -/
def Allowance.init : Allowance := { rset := 64, cells := 32, ledger := 2, pins := 1024, tier2Cap := 0 }
/-- The key store after a power-on reset: tier 2 empty (R180). -/
def KeyStore.init : KeyStore :=
  { recs := [], spaces := [], rset := [], ledger := [], cells := [], boot := 0, allowances := [],
    policies := [], fetches := [], barriers := [], lost := [], repin := [], heldSet := [], reshareAt := 0 }
/-- A tenant that does not exist (R206). -/
def Tenant.none : Tenant :=
  { state := .absent, tskAlg := 0, tsk := [], tskGen := 0, kek := Option.none, pendingKek := Option.none,
    storageGen := 0, algPolicy := Option.none, permission := BitVec.allOnes 256, tollMap := [] }
/-- T0, which always exists (R206). -/
def Tenant.initT0 : Tenant := { Tenant.none with state := .active }
/-- No tables loaded. -/
def TenantTables.none : TenantTables :=
  { peal := Option.none, fmt := Option.none, curve := Option.none, gen := [0, 0, 0] }
/-- No branch keys. -/
def BranchKeys.none : BranchKeys :=
  { ident := Shares.none, xeol := Shares.none, toll := Shares.none, attest := Shares.none }
/-- The root secret before step 6 of the boot (R199). -/
def RootState.init : RootState :=
  { vault := none, present := false, forming := none, regs := BranchKeys.none, lastReshare := 0, dkcs := [] }
/-- A noise source before its start-up test (Table 10-7). -/
def NoiseSource.init : NoiseSource := 
  { state := .starting, fails := [], startPassed := 0, startFailed := 0, failedAt := 0, lastBit := false, runLen := 0 }
/-- A DRBG that is not instantiated (R282). -/
def Drbg.none : Drbg :=
  { instantiated := false, state := Shares.none, sinceReseed := 0, reseedAt := 0, limitRaised := false }
/-- The entropy block after reset (10). -/
def Rng.init : Rng :=
  { sources := List.replicate 4 NoiseSource.init, outage := false, pool := [], drbg := [], held := [],
    carriedSeed := none, seedReplaced := 0, seedAt := 0, maskKey := none, maskPos := 0, maskRekeys := 0, maskAt := 0, katFailed := false,
    calls := 0 }
/-- The Clapper after reset, its journal bank empty (05). -/
def Clapper.init : Clapper :=
  { granulesCrit := 0, granulesOther := 0, staging := 0, journal := [], carried := [], carriedLast := 0,
    carriedSource := 0, carriedComplete := false, epoch := 0, count := 0, bankRetained := false,
    stopped := false, group := [], groupSince := 0, groupFull := false, writing := [], resume := [], groupDone := false, postedDue := [],
    late := [], lateIn := 0 }
/-- A base copy of counters that were never charged (R333). -/
def BaseCopy.init : BaseCopy := { seq := 0, jseq := 0, counters := [], valid := false }
/-- The Toll of a device that has never charged a counter (12). -/
def Toll.init : Toll :=
  { counters := [], dirty := [], bankValid := false, sealed_ := false, sealId := zeros 32, authority := none,
    mode := 0, journal := false, journalNext := none, sealEvents := 0, sealLog := [], gaps := 0,
    gapFlag := false, gapsAtStatement := 0, mapEvents := 0, mapChain := zeros 48, stmtNext := 1,
    stmtHwm := 0, stmtUsed := [], stmtWaits := [], epochStated := false, lastOwn := 0, imageVersion := 0, image := (List.range Config.tollImageLen).map Config.tollImageByte, hasKey := false, log := [],
    logSeq := 0, logPage := 0, baseA := BaseCopy.init, baseB := BaseCopy.init, writing := none, lastRecordAt := 0,
    finalOwed := false, regionUsed := false, sealAt := 0, closing := none, owed := [] }
/-- The persistent store as it leaves Test (13). -/
def NvStore.init : NvStore :=
  { current := none, queue := [], stopped := none, held := false, pfDone := false, gapUntil := 0, spares := 6144, remapped := 0,
    writeFails := 0, damaged := 0, wearSel := 0, wear := [], array := [], lost := [], windows := [], slots := [],
    certs := (List.range 5).map fun i => (List.range (Config.certLen i)).map (Config.certByte i), unstored := [] }
/-- A device with no registered partner (14). -/
def Pair.init : Pair :=
  { link := .down, lanes := 0, lane0 := false, lane1 := false, laneAt := (0, 0), version := 0, versions := 0x06, partner := none,
    inService := false, sync := false, syncNext := none, secondary := false, peerFail := false, peerFailSince := none,
    resync := false, roles := BitVec.allOnes 256, partnerRoles := 0, lastFrameAt := 0, lastAcked := 0,
    unacked := [], revokeUnacked := [], hwmPending := [], dropped := [], rxSeq := 0, txSeq := 0, sent := [], rxHold := [], raises := [], rxDone := false, stored := BitVec.allOnes 256,
    transferring := none, failovers := 0, dualMismatch := 0, handshakeAt := none, shake := [], txKey := [], rxKey := [] }
/-- Health counts after reset (Table 14-1). -/
def Health.init : Health :=
  { miscompares := 0, noMajority := 0, releaseFails := 0, spareFails := 0, clusterSel := 0, attributed := [],
    lifetime := [], metronomeBad := false }
/-- The Snare after reset (Tables 15-2, 15-17). -/
def Tamper.init : Tamper :=
  { sensors := List.replicate 22 { state := 0, count := 0 }, response := 0xffffffabaaa,
    stagedResponse := 0xffffffabaaa, polarity := 0, stagedPolarity := 0, sensorSel := 0, commitBusy := false,
    clear := false, loops := [], throttle := false, throttleAt := 0, latch := [], log := [], logTotal := 0,
    logSinceReset := 0, lock := none, zeroised := false, lockRecord := false }
/-- The life cycle of a device that has left Test (R424, R428). -/
def LifeCycle.init : LifeCycle :=
  { lcSeq := 2, recoveryKey := none, cleared := false, pending := false, entry := none, wipeFails := 0, wiped := false, verified := false,
    journal := [{ step := 4, from_ := 1, to_ := 2, scope := 0, lcSeq := 2, vtime := 0, boot := 0, seq := 1,
                  kind := 0, signer := 0 }],
    busy := false, result := 0, data := zeros 512, challenge := none, debug := none, scan := false,
    closing := none, recovering := none, report := none }
/-- A firmware slot that holds a confirmed image of security version 0 (R449). -/
def FwSlot.init : FwSlot :=
  { present := true, svn := 0, build := 0, sound := true, digest := zeros 48, versions := 0x02020208, trials := 0, confirmed := true }
/-- An empty firmware slot. -/
def FwSlot.empty : FwSlot := { FwSlot.init with present := false, sound := false, confirmed := false }
/-- Boot state before the sequence of R440 runs (16). -/
def Boot.init : Boot :=
  { stage := 0, cause := 0, slotB := false, preferB := false, slotA_ := FwSlot.init, slotB_ := FwSlot.empty,
    rootCase := 0, quick := false, antiRollback := 0, stewardUp := false, activating := false, fwAddr := 0,
    fwLen := 0, fwBusy := false, fwResult := 0, fwStaged := false, coreMin := true, blocksBad := 0, resume := none, awaitNoise := Option.none }
/-- A memory channel before training (17). -/
def MemChan.init : MemChan := { state := 0, corrected := 0, confirmed := 0, recent := [], calibrations := 0 }
/-- The RL-DRAM before training (17). -/
def Memory.init : Memory :=
  { two := true, mismatch := false, trained := false, chanSel := 0, chans := List.replicate 4 MemChan.init,
    scrubPasses := 0, key := none, groups := [], confirmedAt := [] }
/-- The SMBus endpoint after reset (R515). -/
def SmBus.init : SmBus :=
  { status := 0, reason := 0, object := 0, tenant := 0, nonce := [], data := [], offset := 0, stmt := none, waitSeq := 0,
    lastRead := [] }

/-- The machine after reset: a Production device whose power-on reset has been triggered and whose boot
sequence the command POWER_ON_RESET runs (notes/assumptions/1.md). -/
def State.reset : State :=
  { clk := { now := 0, phase := 0, vtime := 0 }
    mode := .off
    pwr := { mainGood := true, resetN := true, battA := false, battB := false, battASince := none, battBSince := none,
             pfwarn := false, pfGated := false, capReady := false, reservoir := false, aoHeld := false,
             gongN := true, gongDegraded := false, smbAlertN := true, modeAt := none }
    fuses := { grade := 2, stepping := 0, serial := zeros 16, lcFuse := 0xFFFF,
               scrapOnly := false, fuseKey := some ((List.range 32).map Config.fuseByte), epoch := 0 }
    fe := FrontEnd.init
    peals := []
    gov := Governor.init
    clusters := List.replicate 16 Cluster.init
    ks := KeyStore.init
    tenants := [(0, Tenant.initT0)]
    tables := []
    sessions := []
    root := RootState.init
    rng := Rng.init
    clap := Clapper.init
    toll := Toll.init
    nv := NvStore.init
    pair := Pair.init
    health := Health.init
    tmp := Tamper.init
    lc := LifeCycle.init
    boot := Boot.init
    mem := Memory.init
    smb := SmBus.init
    pending := [] }

end Sys2Proof.Machine
end

