-- ==== Sys2Proof/Machine/Flags.lean ====
section
/-! DEFINITION. Event flags, their counters and the event messages (R12, R61, R485 to R488). -/
namespace Sys2Proof.Machine

/-- Function events, Table 18-9. -/
inductive FnEvent
  | dbOvercredit | dbMalformed | dbDisabled | dbEarly | cqHeadInvalid | ringConfigInvalid | ringFetchError
  | cqWriteError | sriNoCommon | sriOfferIgnored | blockAssignRefused | hktBusy | rsetWarn | fetchError
  | reseedLimit | holdExpired | lockedWrite
  deriving DecidableEq, Repr

/-- Event numbers of Table 18-9. -/
def FnEvent.num : FnEvent → Nat
  | .dbOvercredit => 0 | .dbMalformed => 1 | .dbDisabled => 2 | .dbEarly => 3 | .cqHeadInvalid => 4
  | .ringConfigInvalid => 5 | .ringFetchError => 6 | .cqWriteError => 7 | .sriNoCommon => 8
  | .sriOfferIgnored => 9 | .blockAssignRefused => 10 | .hktBusy => 11 | .rsetWarn => 12 | .fetchError => 13
  | .reseedLimit => 14 | .holdExpired => 15 | .lockedWrite => 16

/-- Device events, Table 18-10. -/
inductive DevEvent
  | rngWindowDiscard | rngSrcFailed | rngOutage | rngReseedLimit | rngHoldExpired
  | govCapInvalid | govShareInvalid | govCapOverrun | govThermal | govTrip | govSensorFail
  | tollGap | tollSealChange | tollDirtyWait | tollWriteFail
  | nvWriteFail | nvRemap | nvSparesLow | nvRecordDamaged
  | engineRetired | spareFail | noMajority | xlVersionNone | xlAuthFail | xlFailover | xlDualMismatch
  | tmpEvent | tmpLockdown | tmpZeroise | tmpConfigRefused | lcTokenRefused | lcWipeFail
  | bistFail | fwFallback | fwRefused
  | memCorrected | memDegraded | memIntegrity | memPopulation
  deriving DecidableEq, Repr

/-- Event numbers of Table 18-10. -/
def DevEvent.num : DevEvent → Nat
  | .rngWindowDiscard => 0 | .rngSrcFailed => 1 | .rngOutage => 2 | .rngReseedLimit => 3 | .rngHoldExpired => 4
  | .govCapInvalid => 5 | .govShareInvalid => 6 | .govCapOverrun => 7 | .govThermal => 8 | .govTrip => 9
  | .govSensorFail => 10 | .tollGap => 11 | .tollSealChange => 12 | .tollDirtyWait => 13 | .tollWriteFail => 14
  | .nvWriteFail => 15 | .nvRemap => 16 | .nvSparesLow => 17 | .nvRecordDamaged => 18 | .engineRetired => 19
  | .spareFail => 20 | .noMajority => 21 | .xlVersionNone => 22 | .xlAuthFail => 23 | .xlFailover => 24
  | .xlDualMismatch => 25 | .tmpEvent => 26 | .tmpLockdown => 27 | .tmpZeroise => 28 | .tmpConfigRefused => 29
  | .lcTokenRefused => 30 | .lcWipeFail => 31 | .bistFail => 32 | .fwFallback => 33 | .fwRefused => 34
  | .memCorrected => 35 | .memDegraded => 36 | .memIntegrity => 37 | .memPopulation => 38

/-! Access to the parts of the state. -/

/-- Change the front end. -/
def State.mFe (f : FrontEnd → FrontEnd) (s : State) : State := { s with fe := f s.fe }
/-- The interface state of a function. -/
def State.func (s : State) (fn : Fn) : Func := smGet Func.init s.fe.funcs fn.toNat
/-- Change the interface state of a function. -/
def State.mFunc (fn : Fn) (f : Func → Func) (s : State) : State :=
  s.mFe fun e => { e with funcs := smMod Func.init fn.toNat f e.funcs }

/-- The function is PF0 or an enabled VF (R34). -/
def fnEnabled (s : State) (fn : Fn) : Bool := fn == 0 || (s.fe.vfEnable && fn.toNat ≤ s.fe.numVfs.toNat)

/-- The device may read and write host memory for the function (Table 2-10, R475, R63). -/
def canDma (s : State) (fn : Fn) : Bool :=
  (s.func fn).bme && !(s.func fn).d3hot && !(s.func fn).flr && s.fe.linkL0

/-- MSI-X vectors of a function (R59, R481). -/
def vectors (s : State) (fn : Fn) : Nat := if fn = 0 then 2048 else s.fe.vfVectorsInForce.toNat

/-- List a number once, in rising order. -/
def insNat (n : Nat) : List Nat → List Nat
  | [] => [n]
  | m :: ms => if n < m then n :: m :: ms else if n = m then m :: ms else m :: insNat n ms

/-- A message of a vector is sent at once: its function is enabled and may issue it, and it is not masked (R61, R487). -/
def msixSends (s : State) (fn : Fn) (v : Nat) : Bool :=
  fnEnabled s fn && (s.func fn).msixUnmasked.contains v && canDma s fn

/-- Send a message of a vector, or hold it in the Pending Bit Array while it is masked or the function may not
issue it (R61, notes/assumptions/14.md). A VF that is not enabled sends nothing (R487). -/
def sendMsix (fn : Fn) (v : Nat) (s : State) : State :=
  if !fnEnabled s fn then s
  else if msixSends s fn v then
    s.mFe fun e => { e with bus := e.bus ++ [.msix fn v] }
  else s.mFunc fn fun f => { f with pba := insNat v f.pba }

/-- Send the held messages of the vectors that are unmasked, when the function may issue them. -/
def releaseMsix (fn : Fn) (s : State) : State :=
  if !canDma s fn then s
  else
    let f := s.func fn
    let due := f.pba.filter (f.msixUnmasked.contains ·)
    (s.mFe fun e => { e with bus := e.bus ++ due.map (.msix fn ·) }).mFunc fn
      fun f => { f with pba := f.pba.filter (!f.msixUnmasked.contains ·) }

/-- An enabled event of a function: one event message, or one at the end of the interval of 1 µs (R487). -/
def eventMessage (fn : Fn) (s : State) : State :=
  if !fnEnabled s fn then s
  else
    match (s.func fn).evtSentAt with
    | some t =>
      if s.clk.now < t + 1000 then s.mFunc fn fun f => { f with evtDue := true }
      else sendMsix fn 0 (s.mFunc fn fun f => { f with evtSentAt := some s.clk.now })
    | none => sendMsix fn 0 (s.mFunc fn fun f => { f with evtSentAt := some s.clk.now })

/-- Raise a function event: set its flag, count it and, when enabled, send the event vector (R12, R487). -/
def raiseFn (fn : Fn) (ev : FnEvent) (s : State) : State :=
  let n := ev.num
  let s1 := s.mFunc fn fun f =>
    { f with evtFlags := f.evtFlags ||| (1 <<< n), evtCount := smMod 0 n satInc16 f.evtCount,
             evtSet := (if f.evtSetAt = s.clk.now then f.evtSet else 0) ||| (1 <<< n), evtSetAt := s.clk.now }
  if (s.func fn).evtEnable.getLsbD n then eventMessage fn s1 else s1

/-- Raise a device event in PF0's device event registers (R486). -/
def raiseDev (ev : DevEvent) (s : State) : State :=
  let n := ev.num
  let s1 := s.mFe fun e =>
    { e with devFlags := e.devFlags ||| (1 <<< n), devCount := smMod 0 n satInc16 e.devCount,
             devSet := (if e.devSetAt = s.clk.now then e.devSet else 0) ||| (1 <<< n), devSetAt := s.clk.now }
  if s.fe.devEnable.getLsbD n then eventMessage 0 s1 else s1

/-- The flags of a function set in this front-end cycle, which a clear of the cycle leaves set (R12). -/
def Func.freshFlags (now : Nat) (f : Func) : BitVec 17 := if f.evtSetAt = now then f.evtSet else 0
/-- The device flags set in this front-end cycle (R12). -/
def FrontEnd.freshFlags (now : Nat) (e : FrontEnd) : BitVec 39 := if e.devSetAt = now then e.devSet else 0

/-- PF0's AER capability reports a bus error of a function (R65, R137, R475). -/
def reportAer (fn : Fn) (e : BusError) (s : State) : State := s.mFe fun x => { x with aer := x.aer ++ [(fn, e)] }

/-- The device reads a range of host memory for a function. -/
def hostRead (fn : Fn) (addr len : Nat) (s : State) : State :=
  s.mFe fun x => { x with reads := x.reads ++ [{ fn := fn, addr := BitVec.ofNat 64 addr, len := len }] }

/-- A conditional change. -/
def whenDo (b : Bool) (f : State → State) (s : State) : State := if b then f s else s

end Sys2Proof.Machine
end

