-- ==== Sys2Proof/Machine/Operands.lean ====
section
/-! DEFINITION. Operand forms: descriptors of every SRI version (Tables 3-1 to 3-3, 3-12), completions
(Tables 3-8, R94), scatter-gather entries (Table 3-4), and lengths (Table 3-5). -/
namespace Sys2Proof.Machine

/-- Bits [lo + w - 1 : lo] of a value, as a number. -/
def fieldNat (x lo w : Nat) : Nat := x / 2 ^ lo % 2 ^ w
/-- Bits [lo + w - 1 : lo] of a value. -/
def bitsAt (x : Nat) (lo w : Nat) : BitVec w := BitVec.ofNat w (x / 2 ^ lo)
/-- Bit i of a value. -/
def bitAt (x i : Nat) : Bool := x / 2 ^ i % 2 == 1

/-- A descriptor, read under an SRI version. -/
structure Desc where
  sri12 : Bool
  version : BitVec 8
  cls : SClass
  checked : Bool
  noWait : Bool
  dual : Bool
  pealId : BitVec 16
  /-- Deadline in microseconds, 0 for none. -/
  deadline : Nat
  inMode : BitVec 2
  outMode : BitVec 2
  tag : BitVec 64
  keys : List Handle
  inLen : Nat
  outLen : Nat
  /-- Input address, or the address of the input's list. -/
  inAddr : BitVec 64
  /-- Entries of the input's list. -/
  inCnt : Nat
  outAddr : BitVec 64
  outCnt : Nat
  /-- The 16 bytes of DESC.IN_REF. -/
  inline : Bytes
  /-- Every field the tables require 0 is 0 (first row of check 2). -/
  reservedZero : Bool
  deriving DecidableEq, Repr

/-- An SRI 2.x descriptor (Table 3-1); under SRI 2.0 the deadline is ignored. -/
def parseDesc2 (sri : BitVec 8) (raw : BitVec 512) : Desc :=
  let x := raw.toNat
  let inMode : BitVec 2 := bitsAt x 48 2
  let outMode : BitVec 2 := bitsAt x 50 2
  let inLen := fieldNat x 256 32
  let inRef := fieldNat x 320 128
  let inRefOk :=
    if inMode = 0 then inRef == 0
    else if inMode = 1 then fieldNat inRef 64 64 == 0
    else if inMode = 2 then fieldNat inRef 72 56 == 0
    else inRef / 2 ^ (8 * inLen) == 0
  let outOk := outMode == 3 ||
    ((outMode == 2 || fieldNat x 56 8 == 0) && (outMode != 0 || fieldNat x 448 64 == 0))
  { sri12 := false
    version := bitsAt x 0 8
    cls := bitsAt x 8 2
    checked := bitAt x 10
    noWait := bitAt x 11
    dual := bitAt x 12
    pealId := bitsAt x 16 16
    deadline := if sri = 0x21 then fieldNat x 32 16 else 0
    inMode := inMode
    outMode := outMode
    tag := bitsAt x 64 64
    keys := [bitsAt x 128 32, bitsAt x 160 32, bitsAt x 192 32, bitsAt x 224 32]
    inLen := inLen
    outLen := fieldNat x 288 32
    inAddr := bitsAt x 320 64
    inCnt := fieldNat x 384 8 + 1
    outAddr := bitsAt x 448 64
    outCnt := fieldNat x 56 8 + 1
    inline := natLe 16 inRef
    reservedZero := fieldNat x 13 3 == 0 && fieldNat x 52 4 == 0 && inRefOk && outOk }

/-- An SRI 1.2 descriptor (Table 3-12): direct buffers, no deadline; its output capacity is not limited by a
field. -/
def parseDesc1 (raw : BitVec 512) : Desc :=
  let x := raw.toNat
  let inLen := fieldNat x 112 16
  { sri12 := true
    version := bitsAt x 0 8
    cls := bitsAt x 8 2
    checked := bitAt x 10
    noWait := false
    dual := false
    pealId := bitsAt x 16 16
    deadline := 0
    inMode := if inLen = 0 then 0 else 1
    outMode := 1
    tag := bitsAt x 32 32 |>.setWidth 64
    keys := [bitsAt x 64 24 |>.setWidth 32, bitsAt x 88 24 |>.setWidth 32, 0, 0]
    inLen := inLen
    outLen := 0x1000000
    inAddr := bitsAt x 128 64
    inCnt := 0
    outAddr := bitsAt x 192 64
    outCnt := 0
    inline := zeros 16
    reservedZero := fieldNat x 11 5 == 0 }

/-- A descriptor as its function's active SRI version lays it out. -/
def parseDesc (sri : BitVec 8) (raw : BitVec 512) : Desc :=
  if sri = 0x12 then parseDesc1 raw else parseDesc2 sri raw

/-- The reserved tag (R84, R94). -/
def tagReserved (d : Desc) : Bool :=
  if d.sri12 then d.tag == 0xFFFFFFFF else d.tag == 0xFFFFFFFFFFFFFFFF

/-- The class a peal runs at: the lower of DESC.CLASS and the ring's ceiling (R74). -/
def runClass (cls ceil : SClass) : SClass := if ceil.toNat ≤ cls.toNat then cls else ceil

/-! Scatter-gather entries, Table 3-4. -/

def sgeAddr (e : BitVec 128) : Nat := fieldNat e.toNat 0 64
def sgeLen (e : BitVec 128) : Nat := fieldNat e.toNat 64 32
def sgeReserved (e : BitVec 128) : Nat := fieldNat e.toNat 96 32

/-- A range of host memory that does not wrap past the top of the address space (R80). -/
def rangeOk (addr len : Nat) : Bool := addr + len ≤ 2 ^ 64

/-- An entry's description is valid (R80). -/
def sgeOk (e : BitVec 128) : Bool :=
  sgeLen e ≠ 0 && sgeLen e ≤ 0x1000000 && rangeOk (sgeAddr e) (sgeLen e)

/-- The length of the buffer a list describes (R76). -/
def sglSum (es : List (BitVec 128)) : Nat := (es.map sgeLen).sum

/-- The ranges of a buffer of `n` bytes described by a list, in entry order (R76, R78). -/
def sglRanges : Nat → List (BitVec 128) → List (Nat × Nat)
  | _, [] => []
  | n, e :: es => if n = 0 then [] else (sgeAddr e, min n (sgeLen e)) :: sglRanges (n - min n (sgeLen e)) es

/-- The ranges of the first `n` bytes of a buffer: a DIRECT one at its address, an SGL through its entries (R76, R81). -/
def bufRanges (mode : BitVec 2) (addr : BitVec 64) (es : List (BitVec 128)) (n : Nat) : List (Nat × Nat) :=
  if n = 0 then [] else if mode = 1 then [(addr.toNat, n)] else if mode = 2 then sglRanges n es else []

/-- The bytes of a string by the ranges they are written to. -/
def spread : Bytes → List (Nat × Nat) → List (Nat × Bytes)
  | _, [] => []
  | bs, (a, n) :: l => (a, bs.take n) :: spread (bs.drop n) l

/-! Status codes, Table 3-9. -/
namespace St
def done : BitVec 8 := 0x00
def guardFailed : BitVec 8 := 0x01
def authFailed : BitVec 8 := 0x02
def sigInvalid : BitVec 8 := 0x03
def inputInvalid : BitVec 8 := 0x04
def lengthInvalid : BitVec 8 := 0x05
def keyUnusable : BitVec 8 := 0x06
def keyRevoked : BitVec 8 := 0x07
def keyFault : BitVec 8 := 0x08
def nonceExhausted : BitVec 8 := 0x09
def entropyUnavailable : BitVec 8 := 0x0A
def refused : BitVec 8 := 0x0B
def flushed : BitVec 8 := 0x0C
def aborted : BitVec 8 := 0x0D
def versionMismatch : BitVec 8 := 0x0E
def policyDenied : BitVec 8 := 0x0F
def engineFault : BitVec 8 := 0x10
end St

/-- A status with its sub-reason. -/
abbrev Stat := BitVec 8 × BitVec 8

/-- Rows one to three of Table 3-5 for a length and the length of its described buffer, `none` for a buffer
whose length is not known yet or is unbounded. -/
def lengthCheck (len : Nat) (buf : Option Nat) : Option Stat :=
  if len = 0xFFFFFFFF then some (St.lengthInvalid, 3)
  else if len > 0x1000000 then some (St.lengthInvalid, 1)
  else match buf with
    | some b => if len > b then some (St.lengthInvalid, 2) else none
    | none => none

/-- The length of the buffer a mode describes without a list (Table 3-5). -/
def modeLength (mode : BitVec 2) : Option Nat :=
  if mode = 0 then some 0 else if mode = 3 then some 16 else none

/-! Completions. -/

/-- The 256 bits of a completion with its phase bit (Table 3-8). -/
def Cpl.bits (c : Cpl) (phase : Bool) : BitVec 256 :=
  BitVec.ofBool phase ++ (0 : BitVec 3) ++ c.cause ++ BitVec.ofBool c.deferred ++ (0 : BitVec 2) ++
    BitVec.ofBool c.stepValid ++ c.step ++ c.cls ++ BitVec.ofBool c.outFault ++ BitVec.ofBool c.ivInOutput ++
    c.nonceLen ++ c.toll ++ c.nonce ++ c.outLen ++ c.wait ++ c.sub ++ c.status ++ c.tag

/-- A completion with no effect (R88). -/
def Cpl.failed (tag : BitVec 64) (st : Stat) (cls : BitVec 2) : Cpl :=
  { tag := tag, status := st.1, sub := st.2, wait := 0, outLen := 0, nonce := 0, toll := 0xFF, nonceLen := 0,
    ivInOutput := false, outFault := false, cls := cls, step := 0, stepValid := false, deferred := false,
    cause := 0 }

/-- The completion as an SRI version shows it: SRI 2.0 has no sub-reason, wait or deferral; SRI 1.2 besides
has no step, nonce or Toll class, and a 32-bit tag (Table 3-8, R94). -/
def Cpl.under (sri : BitVec 8) (c : Cpl) : Cpl :=
  if sri = 0x21 then c
  else
    let c0 := { c with sub := 0, wait := 0, deferred := false, cause := 0 }
    if sri = 0x20 then c0
    else { c0 with step := 0, stepValid := false, nonceLen := 0, nonce := 0, toll := 0xFF }

/-- Queue wait in microseconds, halves rounded up, saturating (R90). -/
def waitUs (accepted now : Nat) : BitVec 16 := BitVec.ofNat 16 (min 0xFFFF ((now - accepted + 500) / 1000))

end Sys2Proof.Machine
end

