-- ==== Sys2Proof/Machine/Ops.lean ====
section
/-! DEFINITION. Shared operations over the state: time, rings, credits, completions, the Chime and the
recovery list (R35 to R65). -/
namespace Sys2Proof.Machine

/-- The outcome of every meaning of this model. -/
abbrev Res := Host.Outcome State Fault Refusal

/-! Changes of one part of the state. -/
def State.mClk (f : Clock → Clock) (s : State) : State := { s with clk := f s.clk }
def State.mPwr (f : Power → Power) (s : State) : State := { s with pwr := f s.pwr }
def State.mFuses (f : Fuses → Fuses) (s : State) : State := { s with fuses := f s.fuses }
def State.mGov (f : Governor → Governor) (s : State) : State := { s with gov := f s.gov }
def State.mKs (f : KeyStore → KeyStore) (s : State) : State := { s with ks := f s.ks }
def State.mRoot (f : RootState → RootState) (s : State) : State := { s with root := f s.root }
def State.mRng (f : Rng → Rng) (s : State) : State := { s with rng := f s.rng }
def State.mClap (f : Clapper → Clapper) (s : State) : State := { s with clap := f s.clap }
def State.mToll (f : Toll → Toll) (s : State) : State := { s with toll := f s.toll }
def State.mNv (f : NvStore → NvStore) (s : State) : State := { s with nv := f s.nv }
def State.mPair (f : Pair → Pair) (s : State) : State := { s with pair := f s.pair }
def State.mHealth (f : Health → Health) (s : State) : State := { s with health := f s.health }
def State.mTmp (f : Tamper → Tamper) (s : State) : State := { s with tmp := f s.tmp }
def State.mLc (f : LifeCycle → LifeCycle) (s : State) : State := { s with lc := f s.lc }
def State.mBoot (f : Boot → Boot) (s : State) : State := { s with boot := f s.boot }
def State.mMem (f : Memory → Memory) (s : State) : State := { s with mem := f s.mem }
def State.mSmb (f : SmBus → SmBus) (s : State) : State := { s with smb := f s.smb }
def State.mClusters (f : List Cluster → List Cluster) (s : State) : State := { s with clusters := f s.clusters }
/-- Change one element of a list. -/
def modAt {α : Type} (n : Nat) (f : α → α) (l : List α) : List α := l.modify n f
/-- A cluster by its number. -/
def State.cluster (s : State) (c : ClusterNo) : Cluster := s.clusters.getD c.toNat Cluster.init
/-- Change a cluster. -/
def State.mCluster (c : ClusterNo) (f : Cluster → Cluster) (s : State) : State :=
  s.mClusters (modAt c.toNat f)
/-- The peal in a slot of the peal table. -/
def State.peal (s : State) (p : PealSlot) : Option Peal := smFind p.toNat s.peals
/-- Change the peal in a slot, when there is one. -/
def State.mPeal (p : PealSlot) (f : Peal → Peal) (s : State) : State :=
  match smFind p.toNat s.peals with
  | some q => { s with peals := smInsert p.toNat (f q) s.peals }
  | none => s
/-- The tenant record of a tenant (R206). -/
def State.tenant (s : State) (t : Fn) : Tenant := smGet Tenant.none s.tenants t.toNat
/-- Change a tenant record. -/
def State.mTenant (t : Fn) (f : Tenant → Tenant) (s : State) : State :=
  { s with tenants := smMod Tenant.none t.toNat f s.tenants }
/-- The tables in force for a tenant (R95). -/
def State.tabs (s : State) (t : Fn) : TenantTables := smGet TenantTables.none s.tables t.toNat
/-- Change the tables in force for a tenant. -/
def State.mTabs (t : Fn) (f : TenantTables → TenantTables) (s : State) : State :=
  { s with tables := smMod TenantTables.none t.toNat f s.tables }

/-- The always-on domain has a supply: main power or a battery (R497, R500). -/
def aoPowered (s : State) : Bool := s.pwr.mainGood || s.pwr.battA || s.pwr.battB

/-- The always-on domain runs: the device has left Off, and in a Lockdown that lost every supply it stands still
(Table 1-6, R23). -/
def aoRuns (s : State) : Bool := s.mode ≠ .off && (s.mode ≠ .lockdown || aoPowered s)

/-- One front-end cycle of 1 ns: the Metronome gains 32,768 periods per second, and vault time counts them
while the always-on domain runs (R507, notes/assumptions/6.md). -/
def tick (s : State) : State :=
  s.mClk fun c =>
    let ph := c.phase + 32768
    if 1000000000 ≤ ph then
      { c with now := c.now + 1, phase := ph - 1000000000, vtime := if aoRuns s then c.vtime + 1 else c.vtime }
    else { c with now := c.now + 1, phase := ph }

/-! Modes, Table 1-7. -/

/-- Enter a mode by a transition of Table 1-7, noting the Metronome period it falls in (R24). -/
def State.enter (m : Mode) (s : State) : State :=
  if s.mode = m then s else { s with mode := m, pwr := { s.pwr with modeAt := some s.clk.vtime } }

/-- A transition of the lowest precedence, between Ready, Serve and Surge, can be taken: no other transition has fallen in
this Metronome period, and the device is in Production (R24, R26). -/
def govFree (s : State) : Bool := s.pwr.modeAt ≠ some s.clk.vtime && s.fuses.lc == .production

/-- The device runs on main power with its Steward and registers alive. -/
def Mode.onMain : Mode → Bool
  | .off => false | .vault => false | _ => true

/-- Main power is good and the device has left Off and Vault, Lockdown included. -/
def onMain (s : State) : Bool := s.pwr.mainGood && s.mode.onMain

/-- The device admits work: Ready, Serve, Surge or Maintenance (Table 1-6). -/
def Mode.working : Mode → Bool
  | .ready => true | .serve => true | .surge => true | .maintenance => true | _ => false

/-- FAIL_N is released (Table 1-6; notes/assumptions/23.md). -/
def failNHigh (s : State) : Bool := s.mode.working

/-- READY is high: as Table 1-6 states by mode, and low while PERST_N is asserted (R438). -/
def readyHigh (s : State) : Bool := s.mode.working && !s.fe.perstAsserted

/-! Balls, Table 16-8. -/

/-- The groups of Table 16-8. -/
inductive BallGroup | pcie | dramReset | dramBus | flashCs | flashWp | smbus | failN | ready | thermN | gongN | mesh | strap
  | xeolink | jtag
  deriving DecidableEq, Repr

/-- How a group stands: without drive; an input that draws nothing without its supply; driven low or high; parked or idle; as its
function has it. -/
inductive Ball | highZ | failSafe | low | high | idle | active
  deriving DecidableEq, Repr

/-- A level. -/
def Ball.level (b : Bool) : Ball := if b then .high else .low

/-- The state of a ball group (R454, Table 16-8): in Off, in Vault, under reset or before READY, and after it. -/
def ballState (s : State) (g : BallGroup) : Ball :=
  let off := !s.pwr.mainGood && !aoRuns s
  let vault := !s.pwr.mainGood && aoRuns s
  let start := s.boot.stage ≠ 7 || !s.pwr.resetN
  match g with
  | .pcie => if off || vault then .highZ else if start || s.fe.perstAsserted then .idle else .active
  | .dramReset => if off || vault then .low else Ball.level (s.mem.trained && s.pwr.resetN)
  | .dramBus => if off || vault then .highZ else if start then .idle else .active
  | .flashCs => if off || vault then .highZ else if s.boot.fwBusy then .active else .high
  | .flashWp => if off || vault then .highZ else Ball.level (s.boot.fwBusy && !s.boot.activating)
  | .smbus => if off || vault then .highZ else .active
  | .failN => Ball.level (!(off || vault) && failNHigh s)
  | .ready => Ball.level (!(off || vault) && readyHigh s)
  | .thermN => Ball.level (!(off || vault) && s.gov.thermN)
  | .gongN => Ball.level s.pwr.gongN
  | .mesh => if off then .highZ else .active
  | .strap => if off || vault then .failSafe else .active
  | .xeolink => if off || vault then .highZ else if start then .idle else .active
  | .jtag => if off || vault then .failSafe else .active

/-- A function's BARs answer memory accesses: link in L0, in D0, no FLR, function enabled (R475, R63). -/
def barsOn (s : State) (fn : Fn) : Bool :=
  s.fe.linkL0 && fnEnabled s fn && !(s.func fn).d3hot && !(s.func fn).flr

/-! Rings. -/

/-- The submission block a function holds at a local page (R36). -/
def sqBlockAt (s : State) (fn : Fn) (page : Nat) : Option Nat :=
  (s.fe.sqAssign.find? fun e => e.2.valid && e.2.fn == fn && e.2.page.toNat == page).map (·.1)
/-- The completion block a function holds at a local page (R36). -/
def cqBlockAt (s : State) (fn : Fn) (page : Nat) : Option Nat :=
  (s.fe.cqAssign.find? fun e => e.2.valid && e.2.fn == fn && e.2.page.toNat == page).map (·.1)
/-- The submission ring with a local number (R36). -/
def sqOf (s : State) (fn : Fn) (loc : Nat) : Option SqNo :=
  (sqBlockAt s fn (loc / 64)).map fun b => BitVec.ofNat 16 (64 * b + loc % 64)
/-- The completion ring with a local number (R36). -/
def cqOf (s : State) (fn : Fn) (loc : Nat) : Option CqNo :=
  (cqBlockAt s fn (loc / 8)).map fun b => BitVec.ofNat 13 (8 * b + loc % 8)
/-- The function that owns a submission ring. -/
def sqOwner (s : State) (r : SqNo) : Option Fn :=
  let a := smGet Assign.none s.fe.sqAssign (r.toNat / 64)
  if a.valid then some a.fn else none
/-- The function that owns a completion ring. -/
def cqOwner (s : State) (c : CqNo) : Option Fn :=
  let a := smGet Assign.none s.fe.cqAssign (c.toNat / 8)
  if a.valid then some a.fn else none

/-- A submission ring. -/
def State.sq (s : State) (r : SqNo) : SubRing := smGet SubRing.init s.fe.sqs r.toNat
/-- Change a submission ring. -/
def State.mSq (r : SqNo) (f : SubRing → SubRing) (s : State) : State :=
  s.mFe fun e => { e with sqs := smMod SubRing.init r.toNat f e.sqs }
/-- A completion ring. -/
def State.cq (s : State) (c : CqNo) : CplRing := smGet CplRing.init s.fe.cqs c.toNat
/-- Change a completion ring. -/
def State.mCq (c : CqNo) (f : CplRing → CplRing) (s : State) : State :=
  s.mFe fun e => { e with cqs := smMod CplRing.init c.toNat f e.cqs }

/-! Fields of FE_RING_CFG of a submission ring, Table 18-7. -/
def SubRing.log2 (q : SubRing) : Nat := (q.cfg.extractLsb' 0 5).toNat
def SubRing.bound (q : SubRing) : Nat := (q.cfg.extractLsb' 5 9).toNat
def SubRing.ceil (q : SubRing) : SClass := q.cfg.extractLsb' 16 2
def SubRing.cm610 (q : SubRing) : Bool := q.cfg.getLsbD 18
def SubRing.checked (q : SubRing) : Bool := q.cfg.getLsbD 19
/-- The size N of a ring (R39). -/
def SubRing.size (q : SubRing) : Nat := 2 ^ q.log2
/-- Free credits: N less OUTSTANDING (R54). -/
def SubRing.free (q : SubRing) : Nat := q.size - q.outstanding.toNat
/-- Descriptors accepted and not fetched. -/
def SubRing.unfetched (q : SubRing) : Nat := (q.tail.toNat + 2 * q.size - q.head.toNat) % (2 * q.size)
/-- The size N of a completion ring. -/
def CplRing.size (c : CplRing) : Nat := 2 ^ c.log2.toNat
/-- Completions posted and not consumed. -/
def CplRing.used (c : CplRing) : Nat := (c.posted.toNat + 2 * c.size - c.head.toNat) % (2 * c.size)
/-- Free entries: N - (POSTED - HEAD) - reservations (R50). -/
def CplRing.free (c : CplRing) : Nat := c.size - c.used - c.reserved
/-! Fields of FE_RING_CHIME, Table 18-7. -/
def CplRing.vector (c : CplRing) : Nat := (c.chime.extractLsb' 0 11).toNat
def CplRing.count (c : CplRing) : Nat := (c.chime.extractLsb' 11 9).toNat
def CplRing.timer (c : CplRing) : Nat := (c.chime.extractLsb' 20 10).toNat
def CplRing.critImm (c : CplRing) : Bool := c.chime.getLsbD 30

/-- The completion ring a submission ring is bound to. -/
def boundCq (s : State) (r : SqNo) : Option CqNo :=
  match sqOwner s r with
  | some fn => cqOf s fn (s.sq r).bound
  | none => none

/-- ENABLED or RESETTING submission rings bound to a completion ring (Table 18-7, FE_RING_STATUS.BOUND). -/
def boundCount (s : State) (c : CqNo) : Nat :=
  (s.fe.sqs.filter fun e =>
    (e.2.state == .enabled || e.2.state == .resetting) && boundCq s (BitVec.ofNat 16 e.1) == some c).length

/-- The positions a ring has once it is DISABLED (R62). -/
def SubRing.drained (q : SubRing) : SubRing :=
  { q with state := .disabled, head := 0, tail := 0, accepts := [], abort := false, roleLost := 0 }
/-- A completion ring disabled or reset: its positions and its reservations at 0. What becomes of the completions of a ring in
ERROR that is still bound to it, R52 leaves open (the model's choice: notes/assumptions/133.md). -/
def CplRing.cleared (c : CplRing) (st : RingState) : CplRing :=
  { c with state := st, head := 0, posted := 0, reserved := 0, pending := [] }

/-- Return the credit of one outstanding descriptor, its completion posted or suppressed (R53, R54). -/
def SubRing.credit (supp : Bool) (q : SubRing) : SubRing :=
  if q.outstanding = 0 then q
  else
    let q1 := { q with outstanding := q.outstanding - 1 }
    if supp then { q1 with suppressed := q1.suppressed + 1 } else { q1 with posted := q1.posted + 1 }

/-- A RESETTING ring whose OUTSTANDING is 0 enters DISABLED (R62). -/
def SubRing.drain (q : SubRing) : SubRing :=
  if q.state = .resetting ∧ q.outstanding = 0 then q.drained else q

/-- Return one credit of a ring, and let a ring that has drained enter DISABLED. -/
def returnCredit (supp : Bool) (r : SqNo) (s : State) : State :=
  s.mSq r fun q => (q.credit supp).drain

/-- Disable or reset a completion ring: the peals that are bound to it hold no entry of it any more (R50, R52). -/
def clearCq (c : CqNo) (st : RingState) (s : State) : State :=
  let bound (q : Peal) : Bool := boundCq s q.ring == some c
  let s1 := s.mCq c (·.cleared st)
  { s1 with peals := s.peals.map fun e => (e.1, if bound e.2 then { e.2 with cplHeld := false } else e.2) }

/-- In Lockdown a completion ring to which no running submission ring is bound is DISABLED (Table 2-9). -/
def lockdownCqs (s : State) : State :=
  if s.mode = .lockdown then
    let stop := fun (k : Nat) (c : CplRing) =>
      if boundCount s (BitVec.ofNat 13 k) = 0 then c.cleared .disabled else c
    s.mFe fun e => { e with cqs := smMap CplRing.init stop e.cqs }
  else s

/-- A ring forced DISABLED: what it still holds counts as suppressed (Table 2-9). -/
def SubRing.forced (q : SubRing) : SubRing :=
  { q.drained with suppressed := q.suppressed + q.outstanding.setWidth 64, outstanding := 0 }

/-- Every ring is DISABLED, completions still due are suppressed. -/
def forceRings (s : State) : State :=
  let s1 := s.mFe fun e => { e with
    sqs := smMap SubRing.init (fun _ q => q.forced) e.sqs, cqs := smMap CplRing.init (fun _ c => c.cleared .disabled) e.cqs,
    ready := [], lockdownAt := none }
  { s1 with peals := s1.peals.map fun e => (e.1, { e.2 with suppressed := true }) }

/-- 1 ms after a Lockdown with the link in L0 its rings are all DISABLED, drained or not (Table 2-9,
notes/assumptions/91.md). -/
def lockdownForce (s : State) : State :=
  match s.fe.lockdownAt with
  | some t => if t + 1000000 ≤ s.clk.now then forceRings s else s
  | none => s

/-! The Chime. -/

/-- Whether the pending completions call for an interrupt at an instant (R60). -/
def CplRing.chimeDue (c : CplRing) (now : Nat) : Bool :=
  (c.count ≠ 0 && c.count ≤ c.pending.length) ||
  (match c.pending with
   | p :: _ => p.at_ + 1000 * c.timer ≤ now
   | [] => false) ||
  (c.critImm && c.pending.any (·.critical))

/-- Take the last write equal to one out of a list. -/
def eraseLast (t : BusTxn) (l : List BusTxn) : List BusTxn := (l.reverse.erase t).reverse

/-- Note that a vector's message is sent in this front-end cycle, not held; a second trigger of the cycle moves its one message behind
the completions written since (R60, R61). -/
def noteChime (fn : Fn) (v : Nat) (s : State) : State :=
  if !msixSends s fn v then s
  else s.mFe fun e =>
    if e.chimeAt = s.clk.now && e.chimeSent.contains (fn, v) then { e with bus := eraseLast (.msix fn v) e.bus }
    else { e with chimeSent := (fn, v) :: (if e.chimeAt = s.clk.now then e.chimeSent else []), chimeAt := s.clk.now }

/-- Send a completion ring's vector and clear its pending set (R60). -/
def chimeSend (fn : Fn) (c : CqNo) (s : State) : State :=
  sendMsix fn (s.cq c).vector (noteChime fn (s.cq c).vector (s.mCq c fun q => { q with pending := [] }))

/-- Send the Chime interrupt of a completion ring if its triggers call for it and it is enabled (R60). -/
def chimeCheck (fn : Fn) (c : CqNo) (s : State) : State :=
  if (s.cq c).irqEnable && (s.cq c).chimeDue s.clk.now then chimeSend fn c s else s

/-! Completions. -/

/-- Write a completion at the next position of its ring, after the writes already issued, and let the Chime
count it (R49, R60, R61). -/
def postCpl (fn : Fn) (c : CqNo) (cpl : Cpl) (s : State) : State :=
  let q := s.cq c
  let pos := q.posted.toNat
  let addr := q.base + BitVec.ofNat 64 (32 * (pos % q.size))
  let s1 := s.mFe fun e => { e with bus := e.bus ++ [.completion fn c addr (cpl.bits (decide (pos < q.size)))] }
  chimeCheck fn c (s1.mCq c fun q => { q with
    posted := BitVec.ofNat 17 ((pos + 1) % (2 * q.size)),
    pending := q.pending ++ [{ at_ := s.clk.now, critical := cpl.cls == 0 }] })

/-- Post one completion that has no peal-table entry, or keep it waiting for an entry of its ring (R50, R82), which a ring
that is not ENABLED gives only once it is (the model's choice: notes/assumptions/133.md). One whose completion ring's
block is no longer its function's counts as suppressed: the model's choice (notes/assumptions/191.md). -/
def drainOne (s : State) (r : ReadyCpl) : State :=
  match boundCq s r.ring with
  | none => returnCredit true r.ring s
  | some c =>
    let q := s.cq c
    if q.state = .error then returnCredit true r.ring s
    else if q.state = .enabled && canDma s r.fn && 0 < q.free then
      let cpl := match r.accepted with
        | some t => { r.cpl with wait := waitUs t s.clk.now }
        | none => r.cpl
      lockdownCqs (returnCredit false r.ring (postCpl r.fn c (cpl.under r.sri) s))
    else s.mFe fun e => { e with ready := e.ready ++ [r] }

/-- Post the waiting completions that can be posted, oldest first. -/
def drainReady (s : State) : State :=
  s.fe.ready.foldl drainOne (s.mFe fun e => { e with ready := [] })

/-- Complete a descriptor that holds no peal-table entry. -/
def completeNow (r : ReadyCpl) (s : State) : State :=
  drainReady (s.mFe fun e => { e with ready := e.ready ++ [r] })

/-! The recovery list. -/

/-- Append a commit to a function's recovery list, or note the overflow (R64, Table 2-8). -/
def recoveryAdd (fn : Fn) (e : RecEntry) (s : State) : State :=
  s.mFunc fn fun f =>
    let again : Bool := f.recAt == s.clk.now
    let g := { f with recAt := s.clk.now, recFresh := if again then f.recFresh else 0, recFreshOver := again && f.recFreshOver }
    if f.recovery.length < 4096 then { g with recovery := f.recovery ++ [e], recFresh := g.recFresh + 1 }
    else { g with recOverflow := true, recFreshOver := true }

/-- The recovery-list entry of a journal entry. -/
def JEntry.recEntry (j : JEntry) : RecEntry :=
  { tag := j.tag, pealId := j.pealId, status := St.done, tollClass := j.toll, seqLow := j.seq.setWidth 32 }

/-- The journal entry with a sequence number. -/
def journalAt (s : State) (seq : Nat) : Option JEntry := s.clap.journal.find? (·.seq.toNat == seq)

/-- Set flag bits of the journal entry with a sequence number; flags are never cleared (R148). -/
def setJournalFlag (seq : Nat) (bits : BitVec 8) (s : State) : State :=
  s.mClap fun c => { c with journal := c.journal.map fun j =>
    if j.seq.toNat = seq then { j with flags := j.flags ||| bits } else j }

/-- The function event the front end keeps of the SRI version a ring's descriptors are read under. -/
def sriOf (s : State) (fn : Fn) : BitVec 8 := (s.func fn).sriActive

/-- Milliseconds and microseconds in nanoseconds. -/
def us (n : Nat) : Nat := 1000 * n
def ms (n : Nat) : Nat := 1000000 * n
def sec (n : Nat) : Nat := 1000000000 * n

end Sys2Proof.Machine
end

