-- ==== Sys2Proof/Machine/Tables.lean ====
section
/-! DEFINITION. The binary form of peal, format, curve and cost tables and their load-time validation
(R95, R100, R105 to R122, R309 to R311; operations as Tables 4-8, 8-1 and 9-1 accept them). -/
namespace Sys2Proof.Machine

/-- `n` bytes from offset `o`. -/
def slice (bs : Bytes) (o n : Nat) : Bytes := (bs.drop o).take n
/-- The little-endian value of `n` bytes at offset `o` (R8). -/
def le (bs : Bytes) (o n : Nat) : Nat := leNat (slice bs o n)
/-- Round up to a multiple of 8. -/
def pad8 (n : Nat) : Nat := (n + 7) / 8 * 8

/-! Table images, R100. -/

/-- A table image header, Table 4-3. -/
structure TblHeader where
  magic : Nat
  kind : BitVec 8
  version : BitVec 8
  tenant : Fn
  sigAlg : BitVec 8
  seq : BitVec 32
  bodyLen : Nat
  count : Nat
  scope : Nat
  keygen : BitVec 32
  /-- Every reserved field is 0. -/
  clean : Bool
  deriving DecidableEq, Repr

/-- Read a header (Table 4-3). -/
def parseTblHeader (bs : Bytes) : TblHeader :=
  { magic := le bs 0 4, kind := BitVec.ofNat 8 (le bs 4 1), version := BitVec.ofNat 8 (le bs 5 1),
    tenant := BitVec.ofNat 8 (le bs 6 1), sigAlg := BitVec.ofNat 8 (le bs 7 1),
    seq := BitVec.ofNat 32 (le bs 8 4), bodyLen := le bs 12 4, count := le bs 16 2, scope := le bs 20 8,
    keygen := BitVec.ofNat 32 (le bs 28 4), clean := le bs 18 2 == 0 && le bs 32 32 == 0 }

/-- Signature bytes of an image by TBL.SIG_ALG (R100). -/
def sigBytes (alg : BitVec 8) : Option Nat :=
  if alg = 1 then some 96 else if alg = 2 then some 3309 else none

/-- Body limits, Table 4-1. -/
def bodyLimit (kind : BitVec 8) : Nat :=
  if kind = 1 then 131072 else if kind = 2 then 49152 else if kind = 3 then 6528 else 20512

/-- The map of accepted versions of a kind, Table 4-2. -/
def versionAccepted (maps : BitVec 32) (kind version : BitVec 8) : Bool :=
  let m := fieldNat maps.toNat (8 * (kind.toNat - 1)) 8
  version ≠ 0 && version.toNat < 8 && bitAt m version.toNat

/-! Peal entries and steps, Tables 4-5 to 4-7. -/

def parseRef (x : Nat) : DRef :=
  { len := bitsAt x 0 12, off := bitsAt x 12 12, idx := bitsAt x 24 5, src := bitsAt x 29 3 }

/-- A step entry and whether its reserved fields are 0 (Table 4-6). -/
def parseStep (bs : Bytes) : StepDef × Bool :=
  let x := leNat bs
  ({ op := bitsAt x 0 8, guard := bitAt x 8, gstat := bitsAt x 9 2, gsub := bitsAt x 11 3, sec := bitAt x 14,
     keyA := bitsAt x 16 4, keyB := bitsAt x 20 4, ksrc := bitsAt x 24 5, wait := bitsAt x 32 32,
     inA := parseRef (fieldNat x 64 32), inB := parseRef (fieldNat x 96 32), param := bitsAt x 128 16,
     outLen := bitsAt x 144 16, outPos := bitsAt x 160 8 },
   !bitAt x 15 && fieldNat x 29 3 == 0 && fieldNat x 168 24 == 0)

/-- The `n` steps from the start of a byte string, and whether every reserved field is 0. -/
def parseSteps : Nat → Bytes → List StepDef × Bool
  | 0, _ => ([], true)
  | n + 1, bs =>
    let (st, ok) := parseStep (bs.take 24)
    let (rest, oks) := parseSteps n (bs.drop 24)
    (st :: rest, ok && oks)

/-- One peal entry at the start of a byte string: the entry and its length, `none` when its layout is wrong
(Table 4-5, Table 4-10 rule Layout). -/
def parsePealEntry (bs : Bytes) : Option (PealEntry × Nat) :=
  let x := leNat (bs.take 32)
  let n := fieldNat x 16 5 + 1
  let clen := fieldNat x 56 8
  let len := 32 + 24 * n + pad8 clen
  let (steps, ok) := parseSteps n (bs.drop 32)
  if bs.length < len || fieldNat x 160 16 ≠ len || !ok || fieldNat x 21 3 ≠ 0 || fieldNat x 29 3 ≠ 0 ||
      fieldNat x 131 29 ≠ 0 || fieldNat x 176 80 ≠ 0 ||
      (slice bs (32 + 24 * n + clen) (pad8 clen - clen)).any (· ≠ 0) then none
  else some
    ({ id := bitsAt x 0 16, handles := bitsAt x 24 3, t0Only := bitAt x 27, noSpec := bitAt x 28,
       toll := bitsAt x 32 8, reqFmt := bitsAt x 40 8, nonceStep := bitsAt x 48 8, inMin := bitsAt x 64 32,
       inMax := bitsAt x 96 32, inAlign := bitsAt x 128 3, steps := steps, consts := slice bs (32 + 24 * n) clen },
     len)

/-- A data reference as its 32 bits (Table 4-7). -/
def DRef.word (r : DRef) : Nat := r.len.toNat + 2 ^ 12 * r.off.toNat + 2 ^ 24 * r.idx.toNat + 2 ^ 29 * r.src.toNat

/-- A step entry as its 24 bytes (Table 4-6). -/
def StepDef.encode (st : StepDef) : Bytes :=
  let b (x : Bool) : Nat := if x then 1 else 0
  natLe 4 (st.op.toNat + 2 ^ 8 * b st.guard + 2 ^ 9 * st.gstat.toNat + 2 ^ 11 * st.gsub.toNat + 2 ^ 14 * b st.sec +
      2 ^ 16 * st.keyA.toNat + 2 ^ 20 * st.keyB.toNat + 2 ^ 24 * st.ksrc.toNat) ++
    natLe 4 st.wait.toNat ++ natLe 4 st.inA.word ++ natLe 4 st.inB.word ++ natLe 2 st.param.toNat ++
    natLe 2 st.outLen.toNat ++ natLe 4 st.outPos.toNat

/-- A peal entry as a peal table holds it (Table 4-5). -/
def PealEntry.encode (e : PealEntry) : Bytes :=
  let b (x : Bool) : Nat := if x then 1 else 0
  let n := e.steps.length
  let c := e.consts.length
  natLe 2 e.id.toNat ++
    natLe 2 (n - 1 + 2 ^ 8 * e.handles.toNat + 2 ^ 11 * b e.t0Only + 2 ^ 12 * b e.noSpec) ++
    [e.toll, e.reqFmt, e.nonceStep, BitVec.ofNat 8 c] ++ natLe 4 e.inMin.toNat ++ natLe 4 e.inMax.toNat ++
    natLe 4 e.inAlign.toNat ++ natLe 2 (32 + 24 * n + pad8 c) ++ zeros 10 ++ e.steps.flatMap StepDef.encode ++
    e.consts ++ zeros (pad8 c - c)

/-- The header of an image signed with ECDSA P-384 for any device (Table 4-3). -/
def imageHeader (kind version : Byte) (tenant : Fn) (seq bodyLen count keygen : Nat) : Bytes :=
  natLe 4 0x42544C5A ++ [kind, version, tenant, 1] ++ natLe 4 seq ++ natLe 4 bodyLen ++ natLe 2 count ++ zeros 2 ++
    zeros 8 ++ natLe 4 keygen ++ zeros 32

/-- A peal table body of `n` entries (R105). -/
def parsePeals : Nat → Bytes → Option (List PealEntry)
  | 0, bs => if bs.isEmpty then some [] else none
  | n + 1, bs =>
    match parsePealEntry bs with
    | none => none
    | some (e, len) => (parsePeals n (bs.drop len)).map (e :: ·)

/-- The bytes of a peal entry on the die (R98). -/
def PealEntry.bytes (e : PealEntry) : Nat := 32 + 24 * e.steps.length + pad8 e.consts.length

/-! Format entries, R117, R118. -/

def parseFmtInstr (bs : Bytes) : FmtInstr :=
  let x := leNat bs
  { fop := bitsAt x 0 8, field := bitsAt x 8 5, src := bitsAt x 13 3, off := bitsAt x 16 16,
    len := bitsAt x 32 16, arg := bitsAt x 48 16 }

def parseFmtInstrs : Nat → Bytes → List FmtInstr
  | 0, _ => []
  | n + 1, bs => parseFmtInstr (bs.take 8) :: parseFmtInstrs n (bs.drop 8)

/-- One format entry and its length (Table 4-11). -/
def parseFmtEntry (bs : Bytes) : Option (FmtEntry × Nat) :=
  let cnt := le bs 1 1
  let clen := le bs 2 1
  let len := 8 + 8 * cnt + pad8 clen
  if bs.length < len || cnt = 0 || cnt > 64 || le bs 0 1 = 0xFF || le bs 3 1 > 1 || le bs 4 4 ≠ 0 ||
      (slice bs (8 + 8 * cnt + clen) (pad8 clen - clen)).any (· ≠ 0) then none
  else some
    ({ id := BitVec.ofNat 8 (le bs 0 1), kind := BitVec.ofNat 8 (le bs 3 1),
       instrs := parseFmtInstrs cnt (bs.drop 8), consts := slice bs (8 + 8 * cnt) clen }, len)

def parseFmts : Nat → Bytes → Option (List FmtEntry)
  | 0, bs => if bs.isEmpty then some [] else none
  | n + 1, bs =>
    match parseFmtEntry bs with
    | none => none
    | some (e, len) => (parseFmts n (bs.drop len)).map (e :: ·)

/-- Numbers strictly rise along a list. -/
def rising : List Nat → Bool
  | a :: b :: l => a < b && rising (b :: l)
  | _ => true

/-! Format validation, R118, R119. -/

/-- PIN formats a PIN_OPEN may be followed by (R119). -/
def pinPairOk (opened built : Nat) : Bool :=
  if opened = 1 then built == 0 || built == 1 || built == 3 || built == 4
  else (opened == 0 || opened == 3 || opened == 4) && (built == 0 || built == 3 || built == 4)

/-- PIN_OPEN is laid out as Table 4-12 states. -/
def pinOpenOk (i : FmtInstr) : Bool :=
  let a := i.arg.toNat
  let f := fieldNat a 0 4
  let mn := fieldNat a 4 4
  let mx := fieldNat a 8 4
  (if f = 4 then i.len.toNat == 16 else (f == 0 || f == 1 || f == 3) && i.len.toNat == 8) &&
    4 ≤ mn && mx ≤ 12 && mn ≤ mx && fieldNat a 12 4 == 0 && i.src == 0

/-- One instruction fits its entry's kind (Table 4-12), for the fields defined so far. A FIELD of LEN 0, and a CHECK_EQ or
an EMIT_SRC of constants whose range leaves the entry's constants, are refused too: the model's choice, the spec stating
neither at load (notes/assumptions/137.md). -/
def fmtInstrOk (kind : Nat) (clen : Nat) (defined : List Nat) (i : FmtInstr) : Bool :=
  let op := i.fop.toNat
  let f := i.field.toNat
  let known := kind == 1 || defined.contains f
  i.src.toNat ≤ 2 &&
  (if op = 0x01 then kind == 0 && i.len ≠ 0
   else if op = 0x02 then kind == 0
   else if op = 0x03 || op = 0x04 then known
   else if op = 0x05 then known && i.off.toNat + i.len.toNat ≤ clen
   else if op = 0x10 then kind == 1 && (i.src ≠ 2 || i.off.toNat + i.len.toNat ≤ clen)
   else if op = 0x11 || op = 0x12 then kind == 1
   else if op = 0x20 then kind == 1 && pinOpenOk i
   else if op = 0x21 then kind == 1 && fieldNat i.arg.toNat 4 12 == 0
   else op == 0x3F)

/-- Instructions in order, END last and only last, each naming only defined fields (R117, R118). -/
def fmtInstrsOk (kind clen : Nat) : List Nat → List FmtInstr → Bool
  | _, [] => false
  | d, [i] => i.fop == 0x3F && fmtInstrOk kind clen d i
  | d, i :: is =>
    i.fop ≠ 0x3F && fmtInstrOk kind clen d i &&
      fmtInstrsOk kind clen (if i.fop == 0x01 || i.fop == 0x02 then i.field.toNat :: d else d) is

/-- A step entry with PIN_OPEN begins with it, builds once, with the same field, in a permitted pair, and emits nothing
(R119). An entry with PIN_BUILD and no PIN_OPEN is refused: the model's choice (notes/assumptions/192.md). -/
def pinEntryOk (e : FmtEntry) : Bool :=
  let opens := e.instrs.filter (·.fop == 0x20)
  let builds := e.instrs.filter (·.fop == 0x21)
  match opens, builds with
  | [], [] => true
  | [o], [b] =>
    e.instrs.head? == some o && b.field == o.field &&
      pinPairOk (fieldNat o.arg.toNat 0 4) (fieldNat b.arg.toNat 0 4) &&
      e.instrs.all (fun i => i.fop ≠ 0x10 && i.fop ≠ 0x11 && i.fop ≠ 0x12)
  | _, _ => false

/-- A format table body is accepted (R117 to R119). -/
def fmtTableOk (es : List FmtEntry) : Bool :=
  rising (es.map (·.id.toNat)) &&
  es.all fun e => fmtInstrsOk e.kind.toNat e.consts.length [] e.instrs && (e.kind ≠ 1 || pinEntryOk e)

/-- Fields a request parse defines, with their longest lengths and whether FIELD fixes them (R116, R118). -/
def fmtFields (e : FmtEntry) : List (Nat × Nat × Bool) :=
  e.instrs.filterMap fun i =>
    if i.fop = 0x01 then some (i.field.toNat, i.len.toNat, true)
    else if i.fop = 0x02 then some (i.field.toNat, i.arg.toNat, false) else none

/-- A FORMAT entry with a check or a PIN_OPEN makes its step a guard (R111). -/
def fmtGuards (e : FmtEntry) : Bool :=
  e.instrs.any fun i => i.fop == 0x03 || i.fop == 0x04 || i.fop == 0x05 || i.fop == 0x20
def fmtOpens (e : FmtEntry) : Bool := e.instrs.any (·.fop == 0x20)
def fmtBuilds (e : FmtEntry) : Bool := e.instrs.any (·.fop == 0x21)

/-! Curve tables, R121. -/

/-- A curve record whose curve meets every condition of R122 (Table 4-14). -/
def parseCurve (bs : Bytes) : Option Curve :=
  let v (o : Nat) : Nat := beNat (slice bs o 66)
  let id := le bs 0 1
  let bits := le bs 2 2
  if id < 0x10 || id > 0x1F || le bs 1 1 ≠ 0 || bits < 256 || bits > 521 || le bs 4 4 ≠ 0 ||
      le bs 0x194 4 ≠ 0 then none
  else
    let p := v 0x008
    let a := v 0x04A
    let b := v 0x08C
    let gx := v 0x0CE
    let gy := v 0x110
    let n := v 0x152
    if p < 2 ^ (bits - 1) || 2 ^ bits ≤ p || p ≤ a || p ≤ b || p ≤ gx || p ≤ gy || n == p ||
        (4 * a ^ 3 + 27 * b ^ 2) % p == 0 || (gy * gy) % p ≠ (gx * gx * gx + a * gx + b) % p || !curveSound p a gx gy n then none
    else some { id := BitVec.ofNat 8 id, bits := BitVec.ofNat 16 bits, p := p, a := a, b := b, gx := gx,
                gy := gy, n := n }

def parseCurves : Nat → Bytes → Option (List Curve)
  | 0, bs => if bs.isEmpty then some [] else none
  | n + 1, bs =>
    if bs.length < 408 then none
    else match parseCurve (bs.take 408) with
      | none => none
      | some c => (parseCurves n (bs.drop 408)).map (c :: ·)

/-! Operations, Tables 4-8, 8-1, 9-1. -/

/-- The kinds of block that run a step. -/
inductive EngKind | se | pk | fmt | drbg | adm
  deriving DecidableEq, Repr

/-- The block that runs an operation, `none` for a reserved value (Table 4-8). -/
def engKind (op : Nat) : Option EngKind :=
  if [0x01, 0x02, 0x03, 0x04, 0x05, 0x06, 0x07, 0x08, 0x09, 0x0A, 0x10, 0x11, 0x12, 0x18, 0x19, 0x1A,
      0x1C].contains op then some .se
  else if [0x40, 0x41, 0x42, 0x43, 0x44, 0x45, 0x48, 0x4A, 0x4B, 0x4C, 0x4D, 0x4E, 0x50, 0x51, 0x52, 0x54,
      0x55].contains op then some .pk
  else if op = 0x60 then some .fmt
  else if op = 0x68 then some .drbg
  else if 0x70 ≤ op && op ≤ 0x7F then some .adm
  else none

/-- Operations that produce a key output (R110). -/
def keyOutput (op : Nat) : Bool := [0x08, 0x18, 0x1C, 0x48, 0x54, 0x55].contains op
/-- Operations that verify (R111). -/
def verifies (op : Nat) : Bool := [0x04, 0x06, 0x19, 0x41, 0x44, 0x4B, 0x51].contains op
/-- Plain signing operations and the verify operation that must check them (R112). -/
def releaseOp (op : Nat) : Option Nat :=
  if op = 0x40 then some 0x41 else if op = 0x43 then some 0x44 else if op = 0x4A then some 0x4B
  else if op = 0x50 then some 0x51 else none
/-- Combined operations (R112). -/
def combined (op : Nat) : Bool := [0x42, 0x45, 0x4C, 0x52].contains op

/-- Bytes of a number, at least one. -/
def natBytes (n : Nat) : Nat := Nat.log2 n / 8 + 1

/-- Length in bytes of a curve's field elements (Table 9-1, ECDH). -/
def fieldBytes (curves : List Curve) (id : Nat) : Nat :=
  if id = 1 then 32 else if id = 2 then 48 else if id = 3 then 66 else if id = 4 then 32
  else match curves.find? (·.id.toNat == id) with
    | some c => (c.bits.toNat + 7) / 8
    | none => 0

/-- Length in bytes of a group order by curve (Table 9-1). -/
def curveBytes (curves : List Curve) (id : Nat) : Nat :=
  if id = 1 then 32 else if id = 2 then 48 else if id = 3 then 66 else if id = 4 then 32
  else match curves.find? (·.id.toNat == id) with
    | some c => natBytes c.n
    | none => 0

/-- Digest bytes of a hash number (Table 4-8). -/
def hashBytes (h : Nat) : Nat := if h = 0 || h = 3 then 32 else if h = 1 || h = 4 then 48 else 64

/-- STEP.PARAM as Tables 4-8 and 8-1 accept it (R220, R249). -/
def paramOk (op p : Nat) : Bool :=
  let m := fieldNat p 0 4
  let n := fieldNat p 8 5
  let macLen := fieldNat p 8 7
  let hash := fieldNat p 8 4
  let curve := fieldNat p 0 8
  let curveOk := (1 ≤ curve && curve ≤ 3) || (0x10 ≤ curve && curve ≤ 0x1F)
  if op = 0x01 then fieldNat p 5 11 == 0 && (m ≤ 2 && (!bitAt p 4 || m ≠ 0))
  else if op = 0x02 then p ≤ 2
  else if op = 0x03 || op = 0x04 then
    fieldNat p 4 4 == 0 && fieldNat p 13 3 == 0 &&
      (if m = 0 then n == 4 || n == 8 || (12 ≤ n && n ≤ 16)
       else m == 1 && 4 ≤ n && n ≤ 16 && n % 2 == 0)
  else if op = 0x05 || op = 0x06 then
    fieldNat p 6 2 == 0 && !bitAt p 15 &&
      (if m = 0 then fieldNat p 4 2 == 0 && 4 ≤ macLen && macLen ≤ 16
       else if m = 1 then fieldNat p 4 2 ≤ 1 && 4 ≤ macLen && macLen ≤ 16
       else if m = 2 then fieldNat p 4 2 ≤ 1 && 4 ≤ macLen && macLen ≤ 8
       else m ≤ 5 && fieldNat p 4 2 == 0 && 10 ≤ macLen && macLen ≤ hashBytes (m - 3))
  else if op = 0x07 then p ≤ 5
  else if op = 0x08 then [1, 2, 3, 8, 9, 0x10].contains p
  else if op = 0x09 || op = 0x0A then p == 10 || p == 36
  else if op = 0x10 then [0, 1, 3, 4].contains p
  else if op = 0x11 then [0, 1, 3].contains p
  else if op = 0x12 || op = 0x19 || op = 0x68 then p == 0
  else if op = 0x18 || op = 0x1A then p ≤ 1
  else if op = 0x1C then fieldNat p 0 2 ≤ 2 && fieldNat p 2 2 == 0 && fieldNat p 6 10 == 0
  else if op = 0x40 || op = 0x41 || op = 0x42 then
    curveOk && (hash ≤ 5 || hash == 15) && fieldNat p 13 3 == 0
  else if op = 0x43 || op = 0x44 || op = 0x45 then p == 4
  else if op = 0x48 then curveOk && p == curve || p == 4
  else if op = 0x4A || op = 0x4B || op = 0x4C then m ≤ 1 && fieldNat p 4 4 == 0 && hash ≤ 5 && fieldNat p 12 4 == 0
  else if op = 0x4D || op = 0x4E then fieldNat p 0 8 == 0 && hash ≤ 5 && fieldNat p 12 4 == 0
  else if op = 0x50 || op = 0x51 || op = 0x52 || op = 0x54 || op = 0x55 then 1 ≤ p && p ≤ 3
  else if op = 0x60 then p < 0xFF
  else true

/-- Whether a reference is needed, optional or must be absent. -/
inductive Need | no | opt | yes
  deriving DecidableEq, Repr

/-- Whether IN_A and IN_B must be present (Tables 8-1, 9-1). -/
def refNeeds (st : StepDef) : Need × Need :=
  let op := st.op.toNat
  let p := st.param.toNat
  if op = 0x01 then (.yes, if fieldNat p 0 4 = 0 || bitAt p 4 then .no else .yes)
  else if op = 0x02 then (.yes, if p = 0 then .no else .yes)
  else if op = 0x03 then (.yes, .opt)
  else if op = 0x04 || op = 0x06 || op = 0x19 || op = 0x1A then (.yes, .yes)
  else if op = 0x08 || op = 0x09 || op = 0x0A then (.yes, .opt)
  else if op = 0x10 then (.yes, if p = 4 then .yes else .no)
  else if op = 0x18 then (if p = 0 then .yes else .no, .yes)
  else if op = 0x41 || op = 0x44 || op = 0x4B || op = 0x51 then (.yes, .yes)
  else if op = 0x4D || op = 0x4E || op = 0x50 || op = 0x52 then (.yes, .opt)
  else if op = 0x54 then (if st.keyA = 0xF then .yes else .no, .no)
  else if op = 0x60 then (.opt, .opt)
  else if op = 0x68 then (if st.outLen = 0xFFFF then .yes else .no, .no)
  else (.yes, .no)

/-- Presence of a reference as needed; an absent one is wholly 0 (Table 4-7). -/
def Need.fits (n : Need) (r : DRef) : Bool :=
  if r.src = 0 then r.len == 0 && r.off == 0 && r.idx == 0 && n ≠ .yes
  else r.src.toNat ≤ 4 && n ≠ .no

/-- ML-DSA signature, ML-KEM encapsulation key and ciphertext sizes by parameter set (Table 9-1). -/
def mldsaSig (p : Nat) : Nat := if p = 1 then 2420 else if p = 2 then 3309 else 4627
def mlkemKey (p : Nat) : Nat := if p = 1 then 800 else if p = 2 then 1184 else 1568
def mlkemCt (p : Nat) : Nat := if p = 1 then 768 else if p = 2 then 1088 else 1568

/-- A length of IN_A that the operation accepts under some key (Tables 8-1, 9-1). -/
def lenOkA (curves : List Curve) (op p n : Nat) : Bool :=
  if op = 0x01 || op = 0x02 then
    if fieldNat p 0 4 = 2 then true else if bitAt p 4 then n % 16 == 0 else n % 8 == 0
  else if op = 0x04 then fieldNat p 8 5 ≤ n
  else if op = 0x08 then 1 ≤ n && n ≤ 64
  else if op = 0x09 || op = 0x0A then (if p = 10 then 6 ≤ n else 4 ≤ n) && n ≤ 64
  else if op = 0x10 then n == (if p = 4 then 16 else 8)
  else if op = 0x11 then n == 8
  else if op = 0x12 then n == 32
  else if op = 0x18 then 7 ≤ n
  else if op = 0x19 then 1 ≤ n && n ≤ 4095
  else if op = 0x1A then n == 8
  else if op = 0x1C then n == (if bitAt p 5 then 8 else if bitAt p 4 then 10 else 12)
  else if op = 0x40 || op = 0x41 || op = 0x42 then
    if fieldNat p 8 4 = 15 then n == 32 || n == 48 || n == 64 else true
  else if op = 0x43 || op = 0x44 || op = 0x45 then n ≤ 8192
  else if op = 0x48 then if p = 4 then n == 32 else n == 1 + 2 * fieldBytes curves p
  else if op = 0x4D then 256 ≤ n && n ≤ 512 && n % 4 == 0
  else if op = 0x4E then n + 2 * hashBytes (fieldNat p 8 4) + 2 ≤ 512
  else if op = 0x54 then n == mlkemKey p
  else if op = 0x55 then n == mlkemCt p
  else true

/-- A length of IN_B that the operation accepts under some key. -/
def lenOkB (curves : List Curve) (op p n : Nat) : Bool :=
  if op = 0x01 || op = 0x02 then n == 8 || n == 16
  else if op = 0x03 then n ≤ 65536
  else if op = 0x04 then 12 ≤ n && n ≤ 12 + 65536
  else if op = 0x06 then n == fieldNat p 8 7
  else if op = 0x08 then n ≤ 64
  else if op = 0x09 || op = 0x0A then n ≤ 32
  else if op = 0x10 then n == 16 || (7 ≤ n && n ≤ 11)
  else if op = 0x18 then n == 3
  else if op = 0x19 then n == 8
  else if op = 0x1A then if p = 0 then n == 2 else 4 ≤ n && n ≤ 12
  else if op = 0x41 then if bitAt p 12 then true else n == 2 * curveBytes curves (fieldNat p 0 8)
  else if op = 0x44 then n == 64
  else if op = 0x4B then n == 128 || (256 ≤ n && n ≤ 512 && n % 4 == 0)
  else if op = 0x4D || op = 0x4E then n ≤ 4095
  else if op = 0x50 || op = 0x52 then n ≤ 255
  else if op = 0x51 then mldsaSig p ≤ n && n ≤ mldsaSig p + 255
  else true

/-! Lengths, R114 to R116. -/

/-- Tag bytes of an AEAD operation. -/
def tagLen (st : StepDef) : Nat := fieldNat st.param.toNat 8 5

/-- The most bytes a reference can give (R115, R311), the outputs of earlier steps being `outs`. -/
def refMax (inLen : Nat) (fields : List (Nat × Nat × Bool)) (consts : Nat) (outs : List Nat) (r : DRef) : Nat :=
  if r.src = 0 then 0
  else if r.len ≠ 0 then r.len.toNat
  else
    let src :=
      if r.src = 1 then inLen
      else if r.src = 2 then outs.getD r.idx.toNat 0
      else if r.src = 3 then ((fields.find? (·.1 == r.idx.toNat)).map (·.2.1)).getD 0
      else consts
    src - r.off.toNat

/-- The most bytes a step can output (Table 4-6, R115). -/
def stepMax (st : StepDef) (a : Nat) : Nat :=
  if st.outLen = 0xFFFF then a
  else if st.outLen = 0xFFFE then a + tagLen st
  else if st.outLen = 0xFFFD then a - tagLen st
  else st.outLen.toNat

/-- The longest output of every step, in order (R115). -/
def stepMaxes (inLen : Nat) (fields : List (Nat × Nat × Bool)) (consts : Nat) : List Nat → List StepDef → List Nat
  | outs, [] => outs
  | outs, st :: sts =>
    stepMaxes inLen fields consts (outs ++ [stepMax st (refMax inLen fields consts outs st.inA)]) sts

/-- A step generates an IV, nonce or DUKPT counter value (R237). -/
def generates (st : StepDef) : Bool :=
  (st.op == 0x01 && st.param.getLsbD 4) || st.op == 0x03 || (st.op == 0x1C && st.param.getLsbD 5)

/-- A step whose generated CBC IV begins its output (R237). -/
def generatesCbc (st : StepDef) : Bool :=
  st.op == 0x01 && st.param.getLsbD 4 && st.param.extractLsb' 0 4 == 1

/-- The fields a peal's request format defines. -/
def reqFields (e : PealEntry) (fmts : List FmtEntry) : List (Nat × Nat × Bool) :=
  match fmts.find? (·.id == e.reqFmt) with
  | some f => if e.reqFmt = 0xFF then [] else fmtFields f
  | none => []

/-- The longest output of each step of a peal for an input length. -/
def pealMaxes (e : PealEntry) (fmts : List FmtEntry) (inLen : Nat) : List Nat :=
  stepMaxes inLen (reqFields e fmts) e.consts.length [] e.steps

/-- The peal's maximum output for an input length (R115). -/
def maxOutput (e : PealEntry) (fmts : List FmtEntry) (inLen : Nat) : Nat :=
  let outs := (e.steps.zip (pealMaxes e fmts inLen)).map fun x => if x.1.outPos = 0xFF then 0 else x.2
  outs.sum + (match e.steps[e.nonceStep.toNat]? with
    | some st => if e.nonceStep ≠ 0xFF && generatesCbc st then 16 else 0
    | none => 0)

/-- DESC.IN_LEN is one the peal accepts (R106). -/
def inLenAccepted (e : PealEntry) (n : Nat) : Bool :=
  e.inMin.toNat ≤ n && n ≤ e.inMax.toNat && n % 2 ^ e.inAlign.toNat == 0

/-! Peal table validation, Table 4-10. -/

/-- A reference's length when the tables fix it (R116). -/
def fixedLen (fields : List (Nat × Nat × Bool)) (consts : Nat) (prev : List StepDef) (r : DRef) : Option Nat :=
  if r.src = 0 then none
  else if r.len ≠ 0 then some r.len.toNat
  else if r.src = 2 then
    match prev[r.idx.toNat]? with
    | some st => if st.outLen.toNat ≤ 0x2000 then some (st.outLen.toNat - r.off.toNat) else none
    | none => none
  else if r.src = 3 then
    match fields.find? (·.1 == r.idx.toNat) with
    | some (_, n, true) => some (n - r.off.toNat)
    | _ => none
  else if r.src = 4 then some (consts - r.off.toNat)
  else none

/-- A reference names what exists before its step (Table 4-10, References). -/
def refOk (fields : List (Nat × Nat × Bool)) (consts : Nat) (prev : List StepDef) (r : DRef) : Bool :=
  if r.src = 0 then true
  else if r.src = 1 then r.idx == 0 && (r.len == 0 || r.off.toNat + r.len.toNat ≤ 4096)
  else if r.src = 2 then
    match prev[r.idx.toNat]? with
    | some st => !(keyOutput st.op.toNat && st.op ≠ 0x54) && st.outLen ≠ 0
    | none => false
  else if r.src = 3 then fields.any (·.1 == r.idx.toNat)
  else r.idx == 0 && r.off.toNat + r.len.toNat ≤ consts

/-- A step's output is streamed (R114). -/
def streamed (st : StepDef) : Bool := 0xFFFD ≤ st.outLen.toNat
/-- A step's output is sensitive (R113). -/
def sensitive (fmts : List FmtEntry) (st : StepDef) : Bool :=
  st.op == 0x10 || (st.op == 0x60 && fmts.any (fun f => f.id.toNat == st.param.toNat && fmtBuilds f))

/-- How a reference to a sensitive or streamed output may be used (R113, R114). -/
def refUseOk (fmts : List FmtEntry) (prev : List StepDef) (st : StepDef) (isA : Bool) (r : DRef) : Bool :=
  if r.src ≠ 2 then true
  else match prev[r.idx.toNat]? with
    | none => false
    | some q =>
      (!streamed q || st.op == 0x05 || st.op == 0x06 || st.op == 0x07) &&
      (!sensitive fmts q || (isA && (st.op == 0x11 || st.op == 0x12 ||
        (st.op == 0x60 && fmts.any (fun f => f.id.toNat == st.param.toNat && fmtOpens f)))))

/-- The rules of Table 4-10 for one step, the steps before it being `prev`. A key-using operation with STEP.KEYA 0xF is
refused at load, which Table 4-10 does not name: the model's choice (notes/assumptions/195.md). -/
def stepOk (e : PealEntry) (fmts : List FmtEntry) (curves : List Curve) (prev : List StepDef) (st : StepDef) : Bool :=
  let op := st.op.toNat
  let p := st.param.toNat
  let fields := reqFields e fmts
  let needs := refNeeds st
  let fmtE := fmts.find? (fun f => f.id.toNat == p)
  let isGuard := verifies op || (op == 0x60 && (match fmtE with | some f => fmtGuards f | none => false))
  let keyNeeded := !(op == 0x07 || op == 0x60 || op == 0x68 || op == 0x54)
  let lenA := match fixedLen fields e.consts.length prev st.inA with | some n => lenOkA curves op p n | none => true
  let lenB := match fixedLen fields e.consts.length prev st.inB with | some n => lenOkB curves op p n | none => true
  let curve := fieldNat p 0 8
  let curveOp := op == 0x40 || op == 0x41 || op == 0x42 || op == 0x48
  (match engKind op with | some k => k ≠ .adm | none => false) &&
  paramOk op p && needs.1.fits st.inA && needs.2.fits st.inB &&
  refOk fields e.consts.length prev st.inA && refOk fields e.consts.length prev st.inB && lenA && lenB &&
  refUseOk fmts prev st true st.inA && refUseOk fmts prev st false st.inB &&
  (if st.keyA = 0xF then !keyNeeded
   else if st.keyA = 4 then (match prev[st.ksrc.toNat]? with | some q => keyOutput q.op.toNat | none => false)
   else st.keyA.toNat < 4 && st.keyA.toNat < e.handles.toNat) &&
  st.keyB == 0xF &&
  (!(keyOutput op && op ≠ 0x54) || (st.outLen == 0 && st.outPos == 0xFF)) &&
  st.guard == isGuard &&
  (if st.guard then (if st.gstat = 0 then 1 ≤ st.gsub.toNat && st.gsub.toNat ≤ 5 else st.gsub == 0 && st.gstat ≠ 3)
   else st.gstat == 0 && st.gsub == 0) &&
  ((List.range 32).all fun g => !st.wait.getLsbD g ||
    (match prev[g]? with | some q => q.guard | none => false)) &&
  (!st.sec || engKind op == some .se) &&
  (!sensitive fmts st || st.outPos == 0xFF) &&
  (st.outLen.toNat ≤ 0x2000 || streamed st) &&
  (st.outPos == 0xFF || st.outPos.toNat ≤ 31) &&
  (!(op == 0x60) || (match fmtE with | some f => f.kind == 1 | none => false)) &&
  (!curveOp || curve ≤ 4 || curves.any (·.id.toNat == curve))

/-- The fields a FORMAT step's entry names (Table 4-10, Other tables). -/
def fmtStepFields (fmts : List FmtEntry) (st : StepDef) : List Nat × List Nat :=
  if st.op ≠ 0x60 then ([], [])
  else match fmts.find? (fun f => f.id.toNat == st.param.toNat) with
    | none => ([], [])
    | some f =>
      ((f.instrs.filter fun i => i.fop == 0x03 || i.fop == 0x04 || i.fop == 0x05 || i.fop == 0x11 ||
          i.fop == 0x20 || i.fop == 0x21).map (·.field.toNat),
       (f.instrs.filter fun i => i.fop == 0x20 || i.fop == 0x21).map (·.field.toNat))

/-- The same key source, STEP.KSRC counting only where it names a key output (R110, R112). -/
def sameKey (a b : StepDef) : Bool := a.keyA == b.keyA && (a.keyA ≠ 4 || a.ksrc == b.ksrc)

/-- A reference takes the whole data output of step `i` (R112). -/
def wholeOutput (sts : List StepDef) (i : Nat) (r : DRef) : Bool :=
  r.src == 2 && r.idx.toNat == i && r.off == 0 &&
    (r.len == 0 || (match sts[i]? with | some s => !(0xFFFD ≤ s.outLen.toNat) && r.len.toNat == s.outLen.toNat | none => false))

/-- Each plain signing step has exactly one release-verify step; a guard of GSTAT 0b10 that checks no plain signing step
is refused too, which R112 does not spell out (notes/assumptions/136.md). -/
def releaseOk (sts : List StepDef) : Bool :=
  let idx := List.range sts.length
  idx.all fun i => match sts[i]? with
    | none => true
    | some s =>
      (match releaseOp s.op.toNat with
       | none => true
       | some v =>
         ((sts.filter fun q => q.op.toNat == v && q.gstat == 2 && q.guard && sameKey q s && q.inA == s.inA &&
            wholeOutput sts i q.inB)).length == 1) &&
      (s.gstat ≠ 2 || !s.guard ||
        (wholeOutput sts s.inB.idx.toNat s.inB && (match sts[s.inB.idx.toNat]? with
          | some q => releaseOp q.op.toNat == some s.op.toNat && sameKey q s && q.inA == s.inA
          | none => false)))

/-- The most bytes of each internal data output of a peal, streamed ones at their longest for PEAL.IN_MAX, a generated CBC IV
counted (R114, R237). -/
def internalMaxes (e : PealEntry) (fmts : List FmtEntry) : List Nat :=
  ((e.steps.zip (pealMaxes e fmts e.inMax.toNat)).filter fun x => x.1.outPos == 0xFF).map fun x =>
    x.2 + if generatesCbc x.1 then 16 else 0

/-- Output positions run from 0 without gaps (R115). -/
def positionsOk (sts : List StepDef) : Bool :=
  let ps := (sts.filter (·.outPos ≠ 0xFF)).map (·.outPos.toNat)
  ps.Nodup && ps.all (· < ps.length)

/-- The rules of Table 4-10 for one entry, beside those on the ID and on T0_ONLY. -/
def entryOk (fmts : List FmtEntry) (curves : List Curve) (e : PealEntry) : Bool :=
  let n := e.steps.length
  let reqE := fmts.find? (·.id == e.reqFmt)
  let fields := reqFields e fmts
  let checked := match reqE with
    | some f => (f.instrs.filter fun (i : FmtInstr) => i.fop == 0x03).map fun (i : FmtInstr) => i.field.toNat
    | none => []
  let gens := (List.range n).filter fun i => match e.steps[i]? with | some s => generates s | none => false
  e.handles.toNat ≤ 4 &&
  (e.toll.toNat ≤ 15 || e.toll == 0xFF) && e.inAlign.toNat ≤ 4 &&
  ((List.range n).all fun i => match e.steps[i]? with
    | some s => stepOk e fmts curves (e.steps.take i) s
    | none => false) &&
  ((List.range e.handles.toNat).all fun h => e.steps.any (·.keyA.toNat == h)) &&
  releaseOk e.steps && positionsOk e.steps &&
  (internalMaxes e fmts).all (· ≤ 8192) && (internalMaxes e fmts).sum ≤ 16384 &&
  (e.reqFmt == 0xFF || ((match reqE with | some f => f.kind == 0 | none => false) && e.inMax.toNat ≤ 8192)) &&
  (e.steps.all fun s => (fmtStepFields fmts s).1.all (fun f => fields.any (·.1 == f)) &&
    (fmtStepFields fmts s).2.all (checked.contains ·)) &&
  gens.length ≤ 1 && (gens.all (fun i => i == e.nonceStep.toNat)) &&
  (e.nonceStep == 0xFF || gens.contains e.nonceStep.toNat) &&
  e.inMin.toNat ≤ e.inMax.toNat && e.inMax.toNat ≤ 0x1000000

/-- The rules of Table 4-10 for one tenant peal entry (R105). -/
def pealEntryOk (fmts : List FmtEntry) (curves : List Curve) (e : PealEntry) : Bool :=
  0x100 ≤ e.id.toNat && e.id.toNat ≤ 0x1FF && !e.t0Only && entryOk fmts curves e

/-- A peal table is accepted against the format and curve tables in force (R105, R116). -/
def pealTableOk (fmts : List FmtEntry) (curves : List Curve) (es : List PealEntry) : Bool :=
  rising (es.map (·.id.toNat)) && es.all (pealEntryOk fmts curves)

/-- The tables in force would refer only to entries that are there, of the right kind (R104). -/
def crossOk (peals : List PealEntry) (fmts : List FmtEntry) (curves : List Curve) : Bool :=
  peals.all fun e =>
    (e.reqFmt == 0xFF || fmts.any (fun f => f.id == e.reqFmt && f.kind == 0)) &&
    e.steps.all fun s =>
      (s.op ≠ 0x60 || fmts.any (fun f => f.id.toNat == s.param.toNat && f.kind == 1)) &&
      (!(s.op == 0x40 || s.op == 0x41 || s.op == 0x42 || s.op == 0x48) || fieldNat s.param.toNat 0 8 ≤ 4 ||
        curves.any (·.id.toNat == fieldNat s.param.toNat 0 8))

/-! Cost tables, R310, R311. -/

def parseCostRec (bs : Bytes) : CostRec :=
  { op := BitVec.ofNat 8 (le bs 0 1), alg := BitVec.ofNat 8 (le bs 1 1), pmask := BitVec.ofNat 16 (le bs 2 2),
    pmatch := BitVec.ofNat 16 (le bs 4 2), unit := BitVec.ofNat 16 (le bs 6 2),
    fixed := (List.range 8).map fun i => le bs (8 + 4 * i) 4,
    perUnit := (List.range 8).map fun i => le bs (0x28 + 4 * i) 4,
    tFixed := BitVec.ofNat 32 (le bs 0x48 4), tUnit := BitVec.ofNat 32 (le bs 0x4C 4) }

def parseCostRecs : Nat → Bytes → List CostRec
  | 0, _ => []
  | n + 1, bs => parseCostRec (bs.take 80) :: parseCostRecs n (bs.drop 80)

/-- A cost record as its 80 bytes (Table 11-4). -/
def CostRec.encode (r : CostRec) : Bytes :=
  [r.op, r.alg] ++ natLe 2 r.pmask.toNat ++ natLe 2 r.pmatch.toNat ++ natLe 2 r.unit.toNat ++
    (List.range 8).flatMap (fun i => natLe 4 (r.fixed.getD i 0)) ++
    (List.range 8).flatMap (fun i => natLe 4 (r.perUnit.getD i 0)) ++ natLe 4 r.tFixed.toNat ++ natLe 4 r.tUnit.toNat

/-- A cost table body (Table 11-3). -/
def CostTable.encode (t : CostTable) : Bytes :=
  (List.range 7).map (fun i => BitVec.ofInt 8 (t.edges.getD i 0)) ++ [0] ++ natLe 2 t.surge14 ++ natLe 2 t.surge16 ++
    natLe 4 t.pealFixed ++ natLe 4 t.dma ++ natLe 2 t.heavy ++ zeros 10 ++ t.recs.flatMap CostRec.encode

/-- The step operations that a cost table must price (R311). -/
def pricedOps : List Nat :=
  [0x01, 0x02, 0x03, 0x04, 0x05, 0x06, 0x07, 0x08, 0x09, 0x0A, 0x10, 0x11, 0x12, 0x18, 0x19, 0x1A,
    0x1C, 0x40, 0x41, 0x42, 0x43, 0x44, 0x45, 0x48, 0x4A, 0x4B, 0x4C, 0x4D, 0x4E, 0x50, 0x51, 0x52, 0x54, 0x55,
    0x60, 0x68, 0x70, 0x71, 0x72, 0x73, 0x74, 0x75, 0x76, 0x77, 0x78, 0x79, 0x7A, 0x7B, 0x7C, 0x7D, 0x7E, 0x7F]

/-- A signed byte. -/
def signed8 (n : Nat) : Int := if n < 128 then n else (n : Int) - 256

/-- A cost table body of `n` records, `none` where R310 or R311 refuses it. -/
def parseCosts (n : Nat) (bs : Bytes) : Option CostTable :=
  let edges := (List.range 7).map fun i => signed8 (le bs i 1)
  let s14 := le bs 8 2
  let s16 := le bs 10 2
  let recs := parseCostRecs n (bs.drop 32)
  let asc := (edges.zip (edges.drop 1)).all fun x => decide (x.1 < x.2)
  if bs.length ≠ 32 + 80 * n || !asc || s14 < 256 || s16 < s14 || le bs 7 1 ≠ 0 || le bs 0x16 10 ≠ 0 ||
      !(pricedOps.all fun o => recs.any fun r => r.op.toNat == o && r.alg == 0 && r.pmask == 0) then none
  else some { edges := edges, surge14 := s14, surge16 := s16, pealFixed := le bs 0x0C 4, dma := le bs 0x10 4,
              heavy := le bs 0x14 2, recs := recs }

end Sys2Proof.Machine
end

