-- ==== Sys2Proof/Machine/Format.lean ====
section
/-! DEFINITION. The format unit: request parses and FORMAT steps (R118 to R120, Table 4-13). -/
namespace Sys2Proof.Machine

/-- The nibbles of a byte string, high nibble first. -/
def nibbles : Bytes → List Nat
  | [] => []
  | b :: bs => b.toNat / 16 :: b.toNat % 16 :: nibbles bs

/-- Bytes from nibbles, high nibble first. -/
def packNibbles : List Nat → Bytes
  | a :: b :: l => BitVec.ofNat 8 (16 * a + b) :: packNibbles l
  | [a] => [BitVec.ofNat 8 (16 * a)]
  | [] => []

/-- Bytewise exclusive or. -/
def xorBytes (a b : Bytes) : Bytes := a.zipWith (· ^^^ ·) b

/-- A field is in PAN field form (Table 4-12, CHECK_PAN). -/
def panFormOk (f : Bytes) : Bool :=
  match f with
  | [] => false
  | c :: rest =>
    let n := c.toNat
    let ns := nibbles rest
    12 ≤ n && n ≤ 19 && (n + 1) / 2 ≤ rest.length && (ns.take n).all (· ≤ 9) && (ns.drop n).all (· == 15)

/-- The digits of a field in PAN field form. -/
def panDigits (f : Bytes) : List Nat :=
  match f with
  | [] => []
  | c :: rest => (nibbles rest).take c.toNat

/-- The 8-byte PAN field of formats 0 and 3: 0x0000, then the 12 rightmost digits but the check digit. -/
def panField8 (f : Bytes) : Bytes :=
  let ds := (panDigits f).dropLast
  let r := ds.drop (ds.length - 12)
  packNibbles (List.replicate 4 0 ++ List.replicate (12 - r.length) 0 ++ r)

/-- The 16-byte PAN field of format 4: the PAN length less 12, the PAN, zero nibbles. -/
def panField16 (f : Bytes) : Bytes :=
  let ds := panDigits f
  packNibbles ((ds.length - 12) :: ds ++ List.replicate (31 - ds.length) 0)

/-- The control nibble of a clear block: the format's number (Table 4-13, ISO 9564-1; notes/assumptions/15.md). -/
def pinControl (fmt : Nat) : Nat := fmt

/-- Open a clear block: the PIN digits when every open check of Table 4-13 passes. -/
def pinOpen (fmt mn mx : Nat) (pan block : Bytes) : Option (List Nat) :=
  let b := if fmt = 0 || fmt = 3 then xorBytes block (panField8 pan) else block
  let ns := (nibbles b).take 16
  let n := ns.getD 1 0
  let digits := (ns.drop 2).take n
  let rest := ns.drop (2 + n)
  let fillOk :=
    if fmt = 0 then rest.all (· == 15)
    else if fmt = 3 then rest.all (10 ≤ ·)
    else if fmt = 4 then rest.all (· == 10)
    else true
  if ns.getD 0 0 == pinControl fmt && mn ≤ n && n ≤ mx && digits.all (· ≤ 9) && fillOk then some digits else none

/-- Build a block from PIN digits and 8 bytes of fill (Table 4-13). A nibble n of the draw becomes the format 3 fill nibble
10 + n mod 6: the model's choice, the spec naming only the range 0xA to 0xF (notes/assumptions/141.md). -/
def pinBuild (fmt : Nat) (pan : Bytes) (digits : List Nat) (fill : Bytes) : Bytes :=
  let k := 14 - digits.length
  let head := pinControl fmt :: digits.length :: digits
  let fillNs := (nibbles fill).take k
  if fmt = 0 then xorBytes (packNibbles (head ++ List.replicate k 15)) (panField8 pan)
  else if fmt = 1 then packNibbles (head ++ fillNs)
  else if fmt = 3 then xorBytes (packNibbles (head ++ fillNs.map (fun n => 10 + n % 6))) (panField8 pan)
  else packNibbles (head ++ List.replicate k 10) ++ fill.take 8 ++ panField16 pan

/-- A PIN_BUILD of this format draws fill from the tenant's DRBG instance (R120). -/
def buildDraws (fmt : Nat) : Bool := fmt ≠ 0

/-- The bytes of a field. -/
def fieldBytesOf (fs : List Field) (n : Nat) : Option Bytes := (fs.find? (·.num == n)).map (·.bytes)

/-- Define a field. -/
def setField (fs : List Field) (n : Nat) (bs : Bytes) : List Field :=
  { num := n, bytes := bs } :: fs.filter (·.num ≠ n)

/-- `len` bytes of a source at an offset, `none` beyond its end; 0 bytes mean to its end when `toEnd`. -/
def sourceRange (src : Bytes) (off len : Nat) (toEnd : Bool) : Option Bytes :=
  let n := if toEnd && len == 0 then src.length - off else len
  if off + n ≤ src.length && off ≤ src.length then some (slice src off n) else none

/-- A CHECK instruction on a field. -/
def checkField (i : FmtInstr) (consts f : Bytes) : Bool :=
  if i.fop = 0x03 then panFormOk f
  else if i.fop = 0x04 then (nibbles f).all (· ≤ 9)
  else f == slice consts i.off.toNat i.len.toNat

/-- Run a request parse: the fields it defines, `none` when an instruction fails (R118). SRC 0b001, to which the spec gives
no meaning in a parse, reads the descriptor input: the model's choice (notes/assumptions/139.md). -/
def runParse (consts input : Bytes) : List Field → List FmtInstr → Option (List Field)
  | fs, [] => some fs
  | fs, i :: is =>
    let src := if i.src = 2 then consts else input
    if i.fop = 0x01 then
      match sourceRange src i.off.toNat i.len.toNat false with
      | some b => runParse consts input (setField fs i.field.toNat b) is
      | none => none
    else if i.fop = 0x02 then
      match sourceRange src i.off.toNat 1 false with
      | some (m :: _) =>
        if m = 0 || i.arg.toNat < m.toNat then none
        else match sourceRange src (i.off.toNat + 1) m.toNat false with
          | some b => runParse consts input (setField fs i.field.toNat b) is
          | none => none
      | _ => none
    else if i.fop = 0x3F then some fs
    else
      match fieldBytesOf fs i.field.toNat with
      | some f => if checkField i consts f then runParse consts input fs is else none
      | none => none

/-- What a FORMAT step has done so far. -/
structure FmtRun where
  out : Bytes
  /-- A check or PIN_OPEN failed: the guard fails, with `out` its shadow output (Table 5-4). -/
  failed : Bool
  /-- PIN_OPEN failed, so that the PIN is to be drawn (Table 5-4). -/
  pinFailed : Bool
  /-- A range ran beyond its source (INPUT_INVALID, FORMAT). -/
  beyond : Bool
  pin : List Nat
  deriving DecidableEq, Repr

/-- One instruction of a step entry. `fill` is the tenant's fill draw, `digits` the internal draw that stands
for a PIN whose block failed to open (Table 5-4). -/
def fmtStepInstr (fs : List Field) (consts a b fill digits : Bytes) (r : FmtRun) (i : FmtInstr) : FmtRun :=
  let src := if i.src = 1 then b else if i.src = 2 then consts else a
  let fld := (fieldBytesOf fs i.field.toNat).getD []
  let arg := i.arg.toNat
  if r.beyond then r
  else if i.fop = 0x03 || i.fop = 0x04 || i.fop = 0x05 then
    if checkField i consts fld then r else { r with failed := true }
  else if i.fop = 0x10 then
    match sourceRange src i.off.toNat i.len.toNat true with
    | some x => { r with out := r.out ++ x }
    | none => { r with beyond := true }
  else if i.fop = 0x11 then
    match sourceRange fld i.off.toNat i.len.toNat true with
    | some x => { r with out := r.out ++ x }
    | none => { r with beyond := true }
  else if i.fop = 0x12 then { r with out := r.out ++ zeros i.len.toNat }
  else if i.fop = 0x20 then
    match sourceRange a i.off.toNat i.len.toNat false with
    | none => { r with beyond := true }
    | some blk =>
      match pinOpen (fieldNat arg 0 4) (fieldNat arg 4 4) (fieldNat arg 8 4) fld blk with
      | some ds => { r with pin := ds }
      | none => { r with failed := true, pinFailed := true,
                         pin := ((nibbles digits).take (fieldNat arg 8 4)).map (· % 10) }
  else if i.fop = 0x21 then { r with out := r.out ++ pinBuild (fieldNat arg 0 4) fld r.pin fill }
  else r

/-- Run a step entry. -/
def runFmtStep (e : FmtEntry) (fs : List Field) (a b fill digits : Bytes) : FmtRun :=
  e.instrs.foldl (fmtStepInstr fs e.consts a b fill digits) { out := [], failed := false, pinFailed := false, beyond := false, pin := [] }

/-- A step entry draws fill from the tenant's instance. -/
def fmtDraws (e : FmtEntry) : Bool := e.instrs.any fun i => i.fop == 0x21 && buildDraws (fieldNat i.arg.toNat 0 4)

end Sys2Proof.Machine
end

