-- ==== Sys2Proof/Machine/Builtin.lean ====
section
/-! DEFINITION. The built-in catalogue and the built-in cost table (R123, R524, Table 4-18, R312, Table 11-5;
the admin peals as their own chapters state them). Peals and records the spec does not lay out are free
(notes/assumptions/13.md). -/
namespace Sys2Proof.Machine

/-- No reference. -/
def noRef : DRef := { len := 0, off := 0, idx := 0, src := 0 }
/-- `len` bytes of the descriptor input from `off`; 0 means to its end. -/
def inRef (off len : Nat) : DRef := { len := BitVec.ofNat 12 len, off := BitVec.ofNat 12 off, idx := 0, src := 1 }
/-- The output of a step. -/
def outRef (i : Nat) : DRef := { len := 0, off := 0, idx := BitVec.ofNat 5 i, src := 2 }
/-- A field of the request format. -/
def fldRef (i : Nat) : DRef := { len := 0, off := 0, idx := BitVec.ofNat 5 i, src := 3 }

/-- A step of a built-in peal on key source `key`, its output at position `pos`. Every step that runs on an SE has
STEP.SEC, which the spec leaves open: the model's choice (notes/assumptions/196.md). -/
def bStep (op key param out pos : Nat) (a b : DRef) : StepDef :=
  { op := BitVec.ofNat 8 op, guard := false, gstat := 0, gsub := 0, sec := engKind op == some .se,
    keyA := BitVec.ofNat 4 key, keyB := 0xF, ksrc := 0, wait := 0, inA := a, inB := b,
    param := BitVec.ofNat 16 param, outLen := BitVec.ofNat 16 out, outPos := BitVec.ofNat 8 pos }
/-- A verifying step that reports the operation's own status (R123). -/
def bVerify (op param : Nat) (a b : DRef) : StepDef :=
  { bStep op 0 param 0 0xFF a b with guard := true, gstat := 1 }

/-- A built-in peal. -/
def bPeal (id : BitVec 16) (handles : Nat) (mn mx align : Nat) (steps : List StepDef) : PealEntry :=
  { id := id, handles := BitVec.ofNat 3 handles, t0Only := false, noSpec := false, toll := 0xFF, reqFmt := 0xFF,
    nonceStep := 0xFF, inMin := BitVec.ofNat 32 mn, inMax := BitVec.ofNat 32 mx, inAlign := BitVec.ofNat 3 align,
    steps := steps, consts := [] }

/-- The PIN translations: format opened and format built (R119, Table 4-18). -/
def pinPairs : List (Nat × Nat) :=
  [(0, 0), (0, 4), (4, 4), (0, 3), (3, 0), (3, 3), (3, 4), (4, 0), (4, 3), (1, 0), (1, 1), (1, 3), (1, 4)]

/-- Built-in formats of the PIN translations: 0 parses the PAN field, 1 to 13 translate by the pairs (Table 4-18; the
numbers are the model's). -/
def builtinFmts : List FmtEntry :=
  let ins (op f len arg : Nat) : FmtInstr :=
    { fop := BitVec.ofNat 8 op, field := BitVec.ofNat 5 f, src := 0, off := 0, len := BitVec.ofNat 16 len,
      arg := BitVec.ofNat 16 arg }
  { id := 0, kind := 0, instrs := [ins 0x01 0 11 0, ins 0x03 0 0 0, ins 0x3F 0 0 0], consts := [] } ::
    (List.range 13).map fun i =>
      let x := pinPairs.getD i (0, 0)
      { id := BitVec.ofNat 8 (i + 1), kind := 1, consts := [],
        instrs := [ins 0x20 0 (if x.1 = 4 then 16 else 8) (0x0C40 + x.1), ins 0x21 0 0 x.2, ins 0x3F 0 0 0] }

/-- A PIN translation: decrypt, translate in the format unit by a pair of formats, encipher. -/
def bTranslate (id : BitVec 16) (pair : Nat) : PealEntry :=
  let x := pinPairs.getD pair (0, 0)
  let blk := if x.1 = 4 then 16 else 8
  { bPeal id 2 (11 + blk) (11 + blk) 0
      [bStep 0x10 0 x.1 blk 0xFF (inRef 11 blk) (if x.1 = 4 then fldRef 0 else noRef),
       { bStep 0x60 0xF (pair + 1) (if x.2 = 4 then 32 else 8) 0xFF (outRef 0) noRef with guard := true, gsub := 2 },
       if x.2 = 4 then bStep 0x12 1 0 16 0 (outRef 1) noRef else bStep 0x11 1 x.2 8 0 (outRef 1) noRef] with reqFmt := 0 }

/-- Steps of an admin peal: one for each part of its output, at most 8,192 bytes each; they are operations
0x70 (R527). -/
def admSteps (outs : List Nat) : List StepDef :=
  (List.range outs.length).map fun i =>
    bStep 0x70 0xF 0 (outs.getD i 0) (if outs.getD i 0 = 0 then 0xFF else i) noRef noRef

/-- An admin peal. -/
def admPeal (id : BitVec 16) (handles mn mx : Nat) (t0 : Bool) (outs : List Nat) : PealEntry :=
  { bPeal id handles mn mx 0 (admSteps outs) with t0Only := t0, noSpec := true }

/-- A table load: the three guards of R102, the digest as output. -/
def loadPeal (id : BitVec 16) (t0 : Bool) (limit : Nat) : PealEntry :=
  { admPeal id 0 (64 + 96) (64 + limit + 3309) t0 [] with
    steps := [{ bStep 0x70 0xF 0 0 0xFF noRef noRef with guard := true, gstat := 1 },
              { bStep 0x70 0xF 0 0 0xFF noRef noRef with guard := true, gstat := 1 },
              { bStep 0x70 0xF 0 48 0 noRef noRef with guard := true, gstat := 1 }] }

/-- 16 MiB. -/
def maxIn : Nat := 0x1000000

/-- Named primitives, Table 4-18. -/
def primitivePeals : List PealEntry :=
  [bPeal 0x0000 1 0 maxIn 3 [bStep 0x01 0 0 0xFFFF 0 (inRef 0 0) noRef],
   bPeal 0x0001 1 0 maxIn 3 [bStep 0x02 0 0 0xFFFF 0 (inRef 0 0) noRef],
   { bPeal 0x0004 1 0 maxIn 4 [bStep 0x01 0 0x11 0xFFFF 0 (inRef 0 0) noRef] with nonceStep := 0 },
   { bPeal 0x0005 1 0 maxIn 0 [bStep 0x01 0 0x12 0xFFFF 0 (inRef 0 0) noRef] with nonceStep := 0 },
   { bPeal 0x0010 1 0 maxIn 0 [bStep 0x03 0 0x1000 0xFFFE 0 (inRef 0 0) noRef] with nonceStep := 0 },
   bPeal 0x0011 1 28 maxIn 0
     [{ bStep 0x04 0 0x1000 0xFFFD 0 (inRef 12 0) (inRef 0 12) with guard := true, gstat := 1 }],
   bPeal 0x0018 1 0 maxIn 0 [bStep 0x05 0 0x0800 8 0 (inRef 0 0) noRef],
   bPeal 0x0019 1 8 maxIn 0 [{ bVerify 0x06 0x0800 (inRef 8 0) (inRef 0 8) with sec := true }],
   bPeal 0x0038 1 6 64 0 [bStep 0x09 0 10 0xFFFF 0 (inRef 0 0) noRef],
   bPeal 0x0039 1 6 64 0 [bStep 0x0A 0 10 0xFFFF 0 (inRef 0 0) noRef],
   bPeal 0x0040 1 0 maxIn 0 [bStep 0x42 0 0x0001 64 0 (inRef 0 0) noRef],
   bPeal 0x0042 1 0 maxIn 0 [bStep 0x42 0 0x0102 96 0 (inRef 0 0) noRef],
   bPeal 0x0046 1 0 maxIn 0 [bStep 0x42 0 0x0203 132 0 (inRef 0 0) noRef],
   bPeal 0x0041 1 64 maxIn 0 [bVerify 0x41 0x0001 (inRef 64 0) (inRef 0 64)],
   bPeal 0x0043 1 96 maxIn 0 [bVerify 0x41 0x0102 (inRef 96 0) (inRef 0 96)],
   bPeal 0x0047 1 132 maxIn 0 [bVerify 0x41 0x0203 (inRef 132 0) (inRef 0 132)],
   bPeal 0x0044 1 0 8192 0 [bStep 0x45 0 4 64 0 (inRef 0 0) noRef],
   bPeal 0x0045 1 64 8256 0 [bVerify 0x44 4 (inRef 64 0) (inRef 0 64)],
   bPeal 0x0050 1 0 maxIn 0 [bStep 0x4C 0 0 256 0 (inRef 0 0) noRef],
   bPeal 0x0051 1 256 maxIn 0 [bVerify 0x4B 0 (inRef 256 0) (inRef 0 256)],
   bPeal 0x0060 1 0 maxIn 0 [bStep 0x52 0 2 3309 0 (inRef 0 0) noRef],
   bPeal 0x0061 1 3309 maxIn 0 [bVerify 0x51 2 (inRef 3309 0) (inRef 0 3309)],
   bPeal 0x0064 1 0 0 0 [bStep 0x54 0 2 1088 0 noRef noRef],
   bPeal 0x0065 1 1088 1088 0 [bStep 0x55 0 2 0 0xFF (inRef 0 0) noRef],
   bPeal 0x0070 0 0 maxIn 0 [bStep 0x07 0xF 0 32 0 (inRef 0 0) noRef],
   bPeal 0x0078 0 1 65536 0 [bStep 0x68 0xF 0 0xFFFF 0 (inRef 0 0) noRef],
   bTranslate 0x0080 0, bTranslate 0x0081 1, bTranslate 0x0082 2]

/-- Output bytes of an admin peal for which the spec states no maximum. -/
def freeOut (id : BitVec 16) : List Nat := [min 0x2000 (Config.adminOut id).toNat]

/-- Admin peals with the inputs, callers and outputs their chapters state (Tables 6-12, 7-3, 12-5, 13-7, 14-6,
R27, R102, R108, R124, R149, R150, R187, R205, R216, R218, R226, R309, R382). -/
def adminPeals : List PealEntry :=
  [admPeal 0x00D0 0 32 32 false (freeOut 0x00D0), admPeal 0x00D1 0 32 32 false (freeOut 0x00D1),
   admPeal 0x00D2 0 32 32 false (freeOut 0x00D2), admPeal 0x00D3 0 32 32 false (freeOut 0x00D3),
   admPeal 0x00D4 0 32 32 false (freeOut 0x00D4), admPeal 0x00D6 1 33 96 false (freeOut 0x00D6),
   admPeal 0x00D8 1 1 1 false (freeOut 0x00D8), admPeal 0x00D9 1 0 0 false [8], admPeal 0x00DA 1 1 1 false [0],
   admPeal 0x00DB 0 4 4 false [0], admPeal 0x00DC 0 4 4 false [64], admPeal 0x00DD 0 16 16 true [0],
   admPeal 0x00DE 0 32 32 false [0], admPeal 0x00DF 0 1 1 true [0],
   admPeal 0x00E0 1 48 (32 + 9999) false (freeOut 0x00E0), admPeal 0x00E1 2 1 1 false (freeOut 0x00E1),
   admPeal 0x00E2 0 105 1960 false [0], admPeal 0x00E3 0 40 40 false [1480],
   admPeal 0x00E4 0 140 4456 false [0], admPeal 0x00E5 0 1 1 false [3], admPeal 0x00E6 1 24 (8 + 9999) false [3],
   admPeal 0x00E7 0 105 5269 false [0], admPeal 0x00E8 1 0 0 false (freeOut 0x00E8),
   admPeal 0x00E9 0 4 4 false [0], admPeal 0x00EA 0 0 0 false [0], admPeal 0x00EB 0 1 1 false [0],
   admPeal 0x00EC 2 16 16 false (freeOut 0x00EC), admPeal 0x00ED 0 1 1 false [64],
   admPeal 0x00EE 0 0 0 false [608], admPeal 0x00EF 0 8 40 true [0],
   loadPeal 0x00F0 false 131072, loadPeal 0x00F1 true 131072, admPeal 0x00F2 0 1 4104 false [4096],
   admPeal 0x00F3 0 0 0 false (freeOut 0x00F3), admPeal 0x00F4 0 1 1 false [0], admPeal 0x00F5 0 1 8 true [8],
   admPeal 0x00F6 0 40 40 true [0], admPeal 0x00F7 0 520 520 true [0], admPeal 0x00F8 1 32 32 false [288],
   admPeal 0x00F9 0 0 0 false [8192], admPeal 0x00FA 0 8 9 false [8192, 32], admPeal 0x00FB 0 12 12 false [8192, 32],
   admPeal 0x00FC 0 0 0 true [0], admPeal 0x00FD 0 0 0 false [8192, 8192, 4288], loadPeal 0x00FE true 20512,
   admPeal 0x00FF 0 1 maxIn false [0]]

/-- The built-in peals the spec states. -/
def namedPeals : List PealEntry := primitivePeals ++ adminPeals

/-- The input conventions of a primitive: a MAC, signature or nonce first, then the rest; no AAD and no tweak (R524). -/
def conventionOk (st : StepDef) : Bool :=
  let op := st.op.toNat
  let lead := st.inB == inRef 0 st.inB.len.toNat && st.inB.len ≠ 0 && st.inA == inRef st.inB.len.toNat 0
  if op = 0x04 then lead && st.inB.len == 12
  else if verifies op then lead
  else if op = 0x01 || op = 0x02 then if st.inB.src = 0 then st.inA == inRef 0 0 else lead
  else if op = 0x03 || op = 0x09 || op = 0x0A then st.inB == noRef && st.inA == inRef 0 0
  else true

/-- The same of a step among several: what it verifies or starts from stands before what it works on, and no AAD or tweak is
taken (R524). -/
def stepConventionOk (st : StepDef) : Bool :=
  let op := st.op.toNat
  if op = 0x03 || op = 0x09 || op = 0x0A then st.inB == noRef
  else if st.inA.src ≠ 1 || st.inB.src ≠ 1 then true
  else if verifies op || op = 0x01 || op = 0x02 then st.inB.len ≠ 0 && st.inB.off.toNat + st.inB.len.toNat ≤ st.inA.off.toNat
  else true

/-- The step of a single-step built-in peal belongs to its group, signs with a combined operation, and reports its own
status (R123). -/
def primitiveOk (id : Nat) (st : StepDef) : Bool :=
  let k := engKind st.op.toNat
  (if id < 0x40 then k == some .se && st.op ≠ 0x07
   else if id < 0x70 then k == some .pk
   else st.op == 0x07 || st.op == 0x60 || st.op == 0x68) &&
  (releaseOp st.op.toNat).isNone && (!st.guard || st.gstat == 1) && conventionOk st

/-- The free format entries of built-in peals, when they make a format table beside the stated ones. -/
def freeFmts : List FmtEntry :=
  if fmtTableOk Config.builtinFmts && Config.builtinFmts.all (0x10 ≤ ·.id.toNat) then Config.builtinFmts else []

/-- The format entries built-in peals are bound to: the stated peals need none but the stated entries. -/
def builtinFmtsOf (id : BitVec 16) : List FmtEntry :=
  if namedPeals.any (·.id == id) then builtinFmts else builtinFmts ++ freeFmts

/-- Keys bind in slot order: the slots the steps use appear in rising order (R524). -/
def slotsInOrder (e : PealEntry) : Bool := rising ((e.steps.map (·.keyA.toNat)).filter (· < 4)).eraseDups

/-- A step is of the operation a group of Table 4-15 is named for: DUKPT, EMV, FF1. -/
def groupStep (id : Nat) (st : StepDef) : Bool :=
  if id < 0xB0 then st.op == 0x1C
  else if id < 0xC0 then st.op == 0x18 || st.op == 0x19 || st.op == 0x1A
  else st.op == 0x09 || st.op == 0x0A

/-- What the named members of the groups from 0x00A0 on hold: an AES DUKPT PIN block decrypted under its working key and
enciphered under a zone key; an ARQC verified and an ARPC of method 1; a radix 10 string tokenised (Table 4-15). -/
def namedGroupOk (id : Nat) (e : PealEntry) : Bool :=
  if id = 0xA0 then
    e.steps.any (fun st => st.op == 0x1C && !st.param.getLsbD 4 && st.param.extractLsb' 0 2 == 0 && st.keyA == 0) &&
      e.steps.any (fun st => st.op == 0x10 && st.keyA == 4) && e.steps.any (fun st => (st.op == 0x11 || st.op == 0x12) && st.keyA == 1)
  else if id = 0xB0 then e.steps.any (·.op == 0x19) && e.steps.any fun st => st.op == 0x1A && st.param == 0
  else if id = 0xC0 then e.steps.any fun st => st.op == 0x09 && st.param == 10
  else true

/-- A peal the spec lays out no further is a PT v3 entry of its group and follows the conventions of R524: of one step and at
most two handles below 0x0080, from 0x0080 to 0x009F a PIN translation, and from 0x00A0 on with a step of its group's kind. A
step that generates a CBC IV stands at output position 0 (R81), and a single step reports its own status (R89, R93, R123). -/
def builtinOk (id : BitVec 16) (e : PealEntry) : Bool :=
  let n := id.toNat
  e.id == id && !e.t0Only && entryOk (builtinFmts ++ freeFmts) [] e && e.steps.length ≤ 32 && e.consts.length ≤ 255 &&
  slotsInOrder e && e.steps.all (fun st => !generatesCbc st || st.outPos == 0) &&
  (if e.steps.length = 1 then e.steps.all fun st => (!st.guard || st.gstat == 1) && conventionOk st
   else e.steps.all stepConventionOk) &&
  (if n < 0x80 then e.steps.length == 1 && e.handles.toNat ≤ 2 && e.steps.all (primitiveOk n)
   else if n < 0xA0 then (List.range 13).any fun i => e == bTranslate id i
   else e.steps.any (groupStep n) && namedGroupOk n e)

/-- Entries of the groups from 0x00A0 on for the places of them where the free entry is none: a DUKPT PIN block to a zone key,
from the PAN field, the KSN and the block; an ARQC and its ARPC, from the PSN and ATC, the ARQC, the ARC, the PAN field and the
transaction data; an FF1 string. -/
def groupPeal (id : BitVec 16) : PealEntry :=
  let n := id.toNat
  if n < 0xB0 then
    { bPeal id 2 39 39 0
        [bStep 0x1C 0 0 0 0xFF (inRef 11 12) noRef,
         bStep 0x10 4 4 16 0xFF (inRef 23 16) (fldRef 0),
         { bStep 0x60 0xF 3 32 0xFF (outRef 1) noRef with guard := true, gsub := 2 },
         bStep 0x12 1 0 16 0 (outRef 2) noRef] with reqFmt := 0 }
  else if n < 0xC0 then
    bPeal id 1 25 4119 0
      [bStep 0x18 0 0 0 0xFF (inRef 13 11) (inRef 0 3),
       { bStep 0x19 4 0 8 0xFF (inRef 24 0) (inRef 3 8) with guard := true, gsub := 1 },
       bStep 0x1A 4 0 8 0 (outRef 1) (inRef 11 2)]
  else bPeal id 1 6 64 0 [bStep 0x09 0 10 0xFFFF 0 (inRef 0 0) noRef]

/-- An entry of a group, for the places of it where the free entry is none. -/
def builtinLike (id : BitVec 16) : PealEntry :=
  let n := id.toNat
  let of (k : BitVec 16) : PealEntry := { (namedPeals.find? (·.id == k)).getD default with id := id }
  if n < 0x40 then of 0x0000 else if n < 0x70 then of 0x0040 else if n < 0x80 then of 0x0070
  else if n < 0xA0 then bTranslate id 0 else groupPeal id

/-- A built-in peal: the named ones as the spec states them, every other one any entry its group allows. -/
def builtinPeal (id : BitVec 16) : PealEntry :=
  match namedPeals.find? (·.id == id) with
  | some e => e
  | none =>
    let e := { Config.builtinPeal id with id := id, t0Only := false }
    if builtinOk id e then e else builtinLike id

/-- An image signed by its issuer: header, body, ECDSA P-384 signature (R100). -/
def signedImage (kind version : Byte) (count : Nat) (body : Bytes) : Bytes :=
  let hb := imageHeader kind version 0 (Config.builtinField 0 kind.toNat).toNat body.length count
    (Config.builtinField 1 kind.toNat).toNat ++ body
  hb ++ fit 96 (Config.builtinSig hb)

/-- The PT v3 image of the built-in peals, in ascending ID order (R96, R105). -/
def builtinImage : Bytes :=
  signedImage 1 3 256 ((List.range 256).flatMap fun i => (builtinPeal (BitVec.ofNat 16 i)).encode)

/-- The most output of a peal for an input length (R115): a built-in peal whose chapter fixes it by the input
length has that value (R226, R345, R372), and peal 0x00F3 that of the image it returns (R96). -/
def pealMaxOut (e : PealEntry) (fmts : List FmtEntry) (inLen : Nat) : Nat :=
  if e.id = 0x00F2 then if inLen = 8 then 4096 else if inLen = 1 then 64 else 0
  else if e.id = 0x00F5 then if inLen = 1 then 8 else 0
  else if e.id = 0x00FF then
    if inLen = 40 then 480 else if inLen = 48 then 33120 else if inLen = 1 then 3200 else 0
  else if e.id = 0x00F3 then builtinImage.length
  else maxOutput e fmts inLen

/-- Read-only peals (R132): their commit point only decides release. Three of them are read-only for some
inputs (R226, R345, R372). -/
def readOnlyPeal (id : BitVec 16) (input : Bytes) : Bool :=
  [0x00DA, 0x00DB, 0x00DC, 0x00E8, 0x00ED, 0x00EE, 0x00F3, 0x00F8, 0x00F9, 0x00FA, 0x00FB, 0x00FD].contains
    id.toNat ||
  (id == 0x00F2 && (input.head? == some 1 && input.length == 8 || input.length == 1)) ||
  (id == 0x00F5 && input.length == 1) || (id == 0x00FF && input.length == 1)

/-! The built-in cost table. -/

/-- Energies of the eight bins from the bin 3 value: 0.92 to 1.22 of it, to the nearest nJ (R312). -/
def binEnergies (e : Nat) : List Nat := [92, 95, 98, 100, 104, 109, 115, 122].map fun f => (e * f + 50) / 100

/-- A record of the built-in cost table. -/
def costRec (op alg mask mtch unit fixed per tFixed tUnit : Nat) : CostRec :=
  { op := BitVec.ofNat 8 op, alg := BitVec.ofNat 8 alg, pmask := BitVec.ofNat 16 mask,
    pmatch := BitVec.ofNat 16 mtch, unit := BitVec.ofNat 16 unit, fixed := binEnergies fixed,
    perUnit := binEnergies per, tFixed := BitVec.ofNat 32 tFixed, tUnit := BitVec.ofNat 32 tUnit }

/-- The records Table 11-5 states, with the times of Tables 8-4, 8-5 and 9-6. -/
def namedCosts : List CostRec :=
  -- AES: ECB, CTR, CBC encryption, CBC decryption, GCM, CCM, CMAC and ISO 9797-1 algorithm 1
  ([1, 2, 3].flatMap fun alg =>
    [costRec 0x01 alg 0xF 1 16 14 6 110 70000, costRec 0x01 alg 0 0 16 14 6 90 20000,
     costRec 0x02 alg 0 0 16 14 6 90 20000,
     costRec 0x03 alg 0xF 0 16 14 6 130 20000, costRec 0x03 alg 0xF 1 16 14 6 180 70000,
     costRec 0x04 alg 0xF 0 16 14 6 130 20000, costRec 0x04 alg 0xF 1 16 14 6 180 70000,
     costRec 0x05 alg 0 0 16 14 6 110 70000, costRec 0x06 alg 0 0 16 14 6 110 70000]) ++
  ([8, 9].flatMap fun alg =>
    [costRec 0x01 alg 0xF 1 8 12 3 40 40000, costRec 0x01 alg 0 0 8 12 3 75 5000,
     costRec 0x02 alg 0 0 8 12 3 75 5000,
     costRec 0x05 alg 0 0 8 12 3 80 40000, costRec 0x06 alg 0 0 8 12 3 80 40000]) ++
  ([1, 2, 3].flatMap fun alg => [costRec 0x10 alg 0 0 0 26 0 180 0, costRec 0x12 alg 0 0 0 26 0 180 0]) ++
  ([8, 9].flatMap fun alg => [costRec 0x10 alg 0 0 0 18 0 80 0, costRec 0x11 alg 0 0 0 18 0 80 0]) ++
  [costRec 0x10 0 0xF 4 0 26 0 180 0,
   costRec 0x18 8 1 1 0 24 0 85 0, costRec 0x18 8 0 0 0 24 0 130 0, costRec 0x19 8 0 0 0 24 0 130 0,
   costRec 0x1A 8 1 1 0 18 0 100 0, costRec 0x1A 8 0 0 0 18 0 80 0,
   costRec 0x60 0 0 0 16 10 0 330 1000,
   costRec 0x40 0 0xFF 1 0 14500 0 36000 0, costRec 0x41 0 0xFF 1 0 17500 0 44000 0,
   costRec 0x42 0 0xFF 1 0 32000 0 80000 0,
   costRec 0x50 0 0xF 2 0 115000 0 300000 0, costRec 0x51 0 0xF 2 0 45000 0 100000 0,
   costRec 0x52 0 0xF 2 0 160000 0 400000 0, costRec 0x55 0 0xF 2 0 14000 0 53000 0,
   costRec 0x4A 0x30 0 0 0 200000 0 520000 0, costRec 0x4B 0x31 0 0 0 10000 0 12000 0, costRec 0x4B 0x30 0 0 0 10000 0 12000 0, costRec 0x4C 0x30 0 0 0 210000 0 532000 0,
   costRec 0x4D 0x30 0 0 0 200000 0 532000 0, costRec 0x4E 0x31 0 0 0 10000 0 12000 0]

/-- A record whose times the spec states and whose energies it does not (Tables 8-4, 9-6). -/
def timedCost (op alg mask mtch unit tFixed tUnit : Nat) : CostRec :=
  { Config.builtinCost op alg mtch with
    op := BitVec.ofNat 8 op, alg := BitVec.ofNat 8 alg, pmask := BitVec.ofNat 16 mask, pmatch := BitVec.ofNat 16 mtch,
    unit := BitVec.ofNat 16 unit, tFixed := BitVec.ofNat 32 tFixed, tUnit := BitVec.ofNat 32 tUnit }

/-- Digests and HMAC by hash, key derivation, FF1 and the payment operations under AES, and the public-key operations beside
those of Table 11-5; a time that depends on more than IN_A's length is that of the longest counter, of FF1's example and of a
context of 64 bytes (notes/assumptions/182.md). -/
def timedCosts : List CostRec :=
  let pk (op : Nat) (l : List (Nat × Nat)) : List CostRec := l.map fun x => timedCost op 0 0xFF x.1 0 x.2 0
  [timedCost 0x07 0 0xF 0 64 100 60000, timedCost 0x07 0 0xF 1 128 120 80000, timedCost 0x07 0 0xF 2 128 120 80000,
   timedCost 0x07 0 0xF 3 136 60 20000, timedCost 0x07 0 0xF 4 104 60 20000, timedCost 0x07 0 0xF 5 72 60 20000] ++
  ([0x05, 0x06].flatMap fun op =>
    [timedCost op 0x10 0xF 3 64 280 60000, timedCost op 0x10 0xF 4 128 360 80000, timedCost op 0x10 0xF 5 128 360 80000]) ++
  pk 0x40 [(2, 78000), (3, 170000)] ++ pk 0x41 [(2, 96000), (3, 210000)] ++ pk 0x42 [(2, 174000), (3, 380000)] ++
  [timedCost 0x43 0x24 0 0 0 30000 0, timedCost 0x44 0x25 0 0 0 40000 0, timedCost 0x44 0x24 0 0 0 40000 0,
   timedCost 0x45 0x24 0 0 0 70000 0] ++
  pk 0x48 [(1, 33000), (2, 72000), (3, 160000), (4, 28000)] ++
  pk 0x50 [(1, 190000), (3, 420000)] ++ pk 0x51 [(1, 65000), (3, 150000)] ++ pk 0x52 [(1, 255000), (3, 570000)] ++
  pk 0x54 [(1, 32000), (2, 47000), (3, 66000)] ++ pk 0x55 [(1, 36000), (3, 74000)] ++
  ([1, 2, 3].flatMap fun a =>
    [timedCost 0x08 a 0 0 16 480 70000, timedCost 0x09 a 0 0 0 1740 0, timedCost 0x0A a 0 0 0 1740 0,
     timedCost 0x18 a 1 1 0 (if a = 1 then 110 else 130) 0, timedCost 0x18 a 0 0 0 (if a = 1 then 180 else 220) 0,
     timedCost 0x19 a 0 0 16 110 70000, timedCost 0x1A a 1 1 0 250 0, timedCost 0x1A a 0 0 0 110 0,
     timedCost 0x1C a 0 0 0 1300 0]) ++
  [timedCost 0x1C 8 0 0 0 535 0]

/-- Operations and key algorithms whose records the spec does not state: each has one of its own (R312). -/
def ownPairs : List (Nat × Nat) :=
  [(0x40, 0x20), (0x41, 0x20), (0x41, 0x21), (0x42, 0x20), (0x48, 0x20)]

/-- The built-in cost table (R312): the header the spec gives, the records it states or times, and the free rest. -/
def builtinCosts : CostTable :=
  { edges := [25, 45, 60, 75, 85, 95, 105], surge14 := 296, surge16 := 341, pealFixed := 500, dma := 20,
    heavy := 64,
    recs := namedCosts ++ timedCosts ++
      (ownPairs.map fun x =>
        { Config.builtinCost x.1 x.2 0 with op := BitVec.ofNat 8 x.1, alg := BitVec.ofNat 8 x.2, pmask := 0, pmatch := 0 }) ++
      [timedCost 0x68 0 0 0 16 100 20000] ++
      ((List.range 16).flatMap fun i => [0, 1].map fun b =>
        { Config.builtinCost (0x70 + i) 0 b with
          op := BitVec.ofNat 8 (0x70 + i), alg := 0, pmask := 1, pmatch := BitVec.ofNat 16 b }) ++
      pricedOps.map fun o =>
        { Config.builtinCost o 0 0 with op := BitVec.ofNat 8 o, alg := 0, pmask := 0, pmatch := 0 } }

/-- The CO v1 image of the built-in cost table (R309). -/
def builtinCostImage : Bytes := signedImage 4 1 builtinCosts.recs.length builtinCosts.encode

end Sys2Proof.Machine
end

