-- ==== Sys2Proof/Machine/Crypto.lean ====
section
/-! DEFINITION. What the symmetric operations compute over the standards' primitives: modes, MACs, the KDF, FF1, EMV, PIN
blocks and DUKPT keys (R173, R201, R222 to R225, R237); notes/assumptions/146.md names what the cited standards supply. -/
namespace Sys2Proof.Machine

/-! Blocks. -/

/-- A byte string cut into pieces of `n` bytes, at most `f` of them. -/
def pieces (n : Nat) : Nat → Bytes → List Bytes
  | 0, _ => []
  | f + 1, bs => if bs.isEmpty then [] else bs.take n :: pieces n f (bs.drop n)
/-- The blocks of a byte string. -/
def blocksOf (n : Nat) (bs : Bytes) : List Bytes := pieces n bs.length bs

/-- One AES block. -/
def aesEnc (k x : Bytes) : Bytes := natBe 16 (Config.aes k (BitVec.ofNat 128 (beNat x))).toNat
def aesDec (k x : Bytes) : Bytes := natBe 16 ((Config.aes k).symm (BitVec.ofNat 128 (beNat x))).toNat
/-- One DES block under 8 bytes of key. -/
def desEnc (k x : Bytes) : Bytes := natBe 8 (Config.des (BitVec.ofNat 64 (beNat k)) (BitVec.ofNat 64 (beNat x))).toNat
def desDec (k x : Bytes) : Bytes := natBe 8 ((Config.des (BitVec.ofNat 64 (beNat k))).symm (BitVec.ofNat 64 (beNat x))).toNat
/-- One TDES block under 16 or 24 bytes of key. -/
def tdesEnc (k x : Bytes) : Bytes :=
  desEnc (if k.length ≤ 16 then k.take 8 else k.drop 16) (desDec ((k.drop 8).take 8) (desEnc (k.take 8) x))
def tdesDec (k x : Bytes) : Bytes :=
  desDec (k.take 8) (desEnc ((k.drop 8).take 8) (desDec (if k.length ≤ 16 then k.take 8 else k.drop 16) x))

/-- The block size of a cipher, and one block of it. -/
def blkLen (tdes : Bool) : Nat := if tdes then 8 else 16
def blkEnc (tdes : Bool) (k x : Bytes) : Bytes := if tdes then tdesEnc k x else aesEnc k x
def blkDec (tdes : Bool) (k x : Bytes) : Bytes := if tdes then tdesDec k x else aesDec k x

/-! Modes, R222. -/

/-- CBC encryption and decryption of blocks under an IV. -/
def cbcEnc (tdes : Bool) (k : Bytes) : Bytes → List Bytes → Bytes
  | _, [] => []
  | iv, x :: xs => let c := blkEnc tdes k (xorBytes x iv); c ++ cbcEnc tdes k c xs
def cbcDec (tdes : Bool) (k : Bytes) : Bytes → List Bytes → Bytes
  | _, [] => []
  | iv, c :: cs => xorBytes (blkDec tdes k c) iv ++ cbcDec tdes k c cs

/-- CTR from a counter block of `n` bytes, incremented as one big-endian integer modulo 2^(8n) (R222). -/
def ctrMode (tdes : Bool) (k : Bytes) : Nat → List Bytes → Bytes
  | _, [] => []
  | c, x :: xs =>
    xorBytes x (blkEnc tdes k (natBe (blkLen tdes) c)) ++ ctrMode tdes k ((c + 1) % 2 ^ (8 * blkLen tdes)) xs

/-- ECB. -/
def ecb (f : Bytes → Bytes) (bs : List Bytes) : Bytes := bs.flatMap f

/-- The chaining value of a CBC-MAC over whole blocks. -/
def cbcMac (tdes : Bool) (k iv : Bytes) (bs : List Bytes) : Bytes :=
  bs.foldl (fun c x => blkEnc tdes k (xorBytes x c)) iv

/-! MACs. -/

/-- Doubling in the field of CMAC's subkeys. -/
def cmacDouble (n : Nat) (x : Bytes) : Bytes :=
  let v := 2 * beNat x
  natBe n (if v < 2 ^ (8 * n) then v else (v % 2 ^ (8 * n)) ^^^ (if n = 8 then 0x1B else 0x87))

/-- CMAC. -/
def cmac (tdes : Bool) (k m : Bytes) : Bytes :=
  let n := blkLen tdes
  let k1 := cmacDouble n (blkEnc tdes k (zeros n))
  let bs := blocksOf n m
  let last := bs.getLastD []
  let z := if last.length = n then xorBytes last k1 else xorBytes (fit n (last ++ [0x80])) (cmacDouble n k1)
  cbcMac tdes k (zeros n) (bs.dropLast ++ [z])

/-- The padding methods 1 and 2 of ISO 9797-1, to at least one block. -/
def isoPad (two : Bool) (n : Nat) (m : Bytes) : Bytes :=
  let x := if two then m ++ [0x80] else m
  fit (max n ((x.length + n - 1) / n * n)) x

/-- ISO 9797-1 algorithm 1. -/
def isoMac1 (tdes two : Bool) (k m : Bytes) : Bytes :=
  cbcMac tdes k (zeros (blkLen tdes)) (blocksOf (blkLen tdes) (isoPad two (blkLen tdes) m))

/-- ISO 9797-1 algorithm 3: single DES under K1, then the final TDES transformation with K1 and K2. -/
def isoMac3 (two : Bool) (k m : Bytes) : Bytes :=
  let c := (blocksOf 8 (isoPad two 8 m)).foldl (fun c x => desEnc (k.take 8) (xorBytes x c)) (zeros 8)
  desEnc (k.take 8) (desDec ((k.drop 8).take 8) c)

/-- A digest by its hash number (Table 4-8). -/
def digest (h : Nat) (m : Bytes) : Bytes := (natBe 64 (Config.hash h m).toNat).take (hashBytes h)

/-- HMAC under SHA-256, -384 or -512. -/
def hmac (h : Nat) (k m : Bytes) : Bytes :=
  let n := if h = 0 then 64 else 128
  let x := fit n k
  digest h (x.map (· ^^^ 0x5C) ++ digest h (x.map (· ^^^ 0x36) ++ m))

/-! The KDF of R201. -/

/-- The input of an iteration. -/
def kdfInput (i : Nat) (label ctx : Bytes) (bits : Nat) : Bytes := natBe 4 i ++ label ++ [0] ++ ctx ++ natBe 4 bits

/-- SP 800-108 in counter mode with CMAC under AES or TDES, for an output of `bits` bits. -/
def kdfUnder (tdes : Bool) (k label ctx : Bytes) (bits : Nat) : Bytes :=
  let n := 8 * blkLen tdes
  ((List.range ((bits + n - 1) / n)).flatMap fun i => cmac tdes k (kdfInput (i + 1) label ctx bits)).take (bits / 8)
/-- The KDF of R201, under an AES key. -/
def kdf (k label ctx : Bytes) (bits : Nat) : Bytes := kdfUnder false k label ctx bits

/-- A label of the device's own derivations: the ASCII characters of ZT940, a space and a name (R201, R210). -/
def ztLabel (name : Bytes) : Bytes := [0x5A, 0x54, 0x39, 0x34, 0x30, 0x20] ++ name

/-- A byte with its least significant bit set for odd parity. -/
def oddParity (b : Byte) : Byte :=
  let ones := ((List.range 7).filter fun i => b.getLsbD (i + 1)).length
  BitVec.ofNat 8 (b.toNat / 2 * 2 + (ones + 1) % 2)

/-- Bytes of a symmetric key by its algorithm (Table 6-4); an HMAC key output has 32 (R222). -/
def keyBytes (alg param : Nat) : Nat :=
  if alg = 1 || alg = 8 then 16 else if alg = 2 || alg = 9 then 24 else if alg = 3 then 32 else param

/-- A KDF step's key output (R222). -/
def kdfKey (alg : Nat) (k label ctx : Bytes) : Bytes :=
  let bs := kdf k label ctx (8 * keyBytes alg 32)
  if alg = 8 || alg = 9 then bs.map oddParity else bs

/-! Authenticated encryption, R222. -/

/-- The product of two elements of GHASH's field, bit 127 of a number being the coefficient of 1. -/
def gfMul (x y : Nat) : Nat :=
  ((List.range 128).foldl (fun (z, v) i =>
    (if bitAt x (127 - i) then z ^^^ v else z, if v % 2 = 1 then v / 2 ^^^ (0xE1 * 2 ^ 120) else v / 2)) (0, y)).1

/-- GHASH of blocks, a short one padded with zeros. -/
def ghash (h : Nat) (bs : List Bytes) : Nat := bs.foldl (fun y x => gfMul (y ^^^ beNat (fit 16 x)) h) 0

/-- GCM's counter mode: the low 32 bits count. -/
def gctr (k nonce : Bytes) : Nat → List Bytes → Bytes
  | _, [] => []
  | c, x :: xs => xorBytes x (aesEnc k (nonce ++ natBe 4 c)) ++ gctr k nonce (c + 1) xs

/-- GCM's tag of a ciphertext; J0 is the nonce and 1. -/
def gcmTag (k nonce aad ct : Bytes) (t : Nat) : Bytes :=
  let h := beNat (aesEnc k (zeros 16))
  let s := ghash h (blocksOf 16 aad ++ blocksOf 16 ct ++ [natBe 8 (8 * aad.length) ++ natBe 8 (8 * ct.length)])
  (xorBytes (natBe 16 s) (aesEnc k (nonce ++ natBe 4 1))).take t

/-- GCM's encryption, which is its own inverse. -/
def gcmCrypt (k nonce m : Bytes) : Bytes := gctr k nonce 2 (blocksOf 16 m)

/-- The encoding of the associated data's length of SP 800-38C, appendix A. -/
def ccmAad (aad : Bytes) : Bytes :=
  if aad.isEmpty then []
  else if aad.length < 0xFF00 then natBe 2 aad.length ++ aad
  else [0xFF, 0xFE] ++ natBe 4 aad.length ++ aad

/-- CCM's first block, for a plaintext of `n` bytes and a tag of `t`, with q = 3. -/
def ccmFirst (nonce aad : Bytes) (n t : Nat) : Bytes :=
  [BitVec.ofNat 8 ((if aad.isEmpty then 0 else 64) + 8 * ((t - 2) / 2) + 2)] ++ nonce ++ natBe 3 n
/-- CCM's tag of a plaintext. -/
def ccmTag (k nonce aad m : Bytes) (t : Nat) : Bytes :=
  let pad := (blocksOf 16 (ccmAad aad) ++ blocksOf 16 m).map (fit 16)
  (xorBytes (cbcMac false k (zeros 16) (ccmFirst nonce aad m.length t :: pad)) (aesEnc k ([2] ++ nonce ++ zeros 3))).take t

/-- CCM's counter mode from 1, which is its own inverse. -/
def ccmCrypt (k nonce m : Bytes) : Bytes := ctrMode false k (beNat ([2] ++ nonce ++ natBe 3 1)) (blocksOf 16 m)

/-- Encrypt and authenticate: ciphertext and tag. -/
def aeadEnc (ccm : Bool) (t : Nat) (k nonce aad m : Bytes) : Bytes :=
  if ccm then ccmCrypt k nonce m ++ ccmTag k nonce aad m t
  else let c := gcmCrypt k nonce m; c ++ gcmTag k nonce aad c t
/-- Decrypt a ciphertext with its tag: the plaintext, and whether the tag verifies over its full length. -/
def aeadDec (ccm : Bool) (t : Nat) (k nonce aad x : Bytes) : Bytes × Bool :=
  let c := x.take (x.length - t)
  let tag := x.drop (x.length - t)
  if ccm then let m := ccmCrypt k nonce c; (m, tag == ccmTag k nonce aad m t)
  else (gcmCrypt k nonce c, tag == gcmTag k nonce aad c t)

/-! FF1, R224. -/

/-- A numeral from its character, and back. -/
def numeral (b : Byte) : Nat := if b.toNat < 65 then b.toNat - 48 else b.toNat - 55
def numeralChar (n : Nat) : Byte := BitVec.ofNat 8 (if n < 10 then 48 + n else 55 + n)
/-- The number a numeral string stands for, and its string of `m` numerals. -/
def numRadix (r : Nat) (l : List Nat) : Nat := l.foldl (fun a d => r * a + d) 0
def strRadix (r : Nat) : Nat → Nat → List Nat
  | 0, _ => []
  | m + 1, x => strRadix r m (x / r) ++ [x % r]

/-- FF1's round function for a half of `v` numerals, with `n` in all: y of round i on B. -/
def ff1Round (r n v i : Nat) (k tweak : Bytes) (half : List Nat) : Nat :=
  let b := ((if r ^ v ≤ 1 then 0 else Nat.log2 (r ^ v - 1) + 1) + 7) / 8
  let d := 4 * ((b + 3) / 4) + 4
  let p : Bytes := [1, 2, 1] ++ natBe 3 r ++ [10, BitVec.ofNat 8 (n / 2)] ++ natBe 4 n ++ natBe 4 tweak.length
  let q := tweak ++ zeros ((16 - (tweak.length + b + 1) % 16) % 16) ++ [BitVec.ofNat 8 i] ++ natBe b (numRadix r half)
  let x := cbcMac false k (zeros 16) (blocksOf 16 (p ++ q))
  let s := x ++ (List.range ((d + 15) / 16 - 1)).flatMap fun j => aesEnc k (xorBytes x (natBe 16 (j + 1)))
  beNat (s.take d)

/-- FF1 over its ten rounds, forward or back. -/
def ff1 (dec : Bool) (r : Nat) (k tweak text : Bytes) : Bytes :=
  let l := text.map numeral
  let n := l.length
  let u := n / 2
  let v := n - u
  let rounds := if dec then (List.range 10).reverse else List.range 10
  let (a, b) := rounds.foldl (fun (a, b) i =>
    let m := if i % 2 = 0 then u else v
    if dec then
      let y := ff1Round r n v i k tweak a
      (strRadix r m ((numRadix r b + r ^ m - y % r ^ m) % r ^ m), a)
    else
      let y := ff1Round r n v i k tweak b
      (b, strRadix r m ((numRadix r a + y) % r ^ m))) (l.take u, l.drop u)
  (a ++ b).map numeralChar

/-! PIN blocks, R120. -/

/-- A format 4 block opened to its PIN field under a PAN field, and a PIN field enciphered. -/
def pin4Dec (k block pan : Bytes) : Bytes := aesDec k (xorBytes (aesDec k block) pan)
def pin4Enc (k x : Bytes) : Bytes := aesEnc k (xorBytes (aesEnc k (x.take 16)) (x.drop 16))

/-! EMV, R223. -/

/-- The rightmost 16 digits of the PAN followed by the PSN, zero digits on the left, packed. -/
def emvDigits (pan : Bytes) (psn : Byte) : Bytes :=
  let ds := panDigits pan ++ nibbles [psn]
  let r := ds.drop (ds.length - 16)
  packNibbles (List.replicate (16 - r.length) 0 ++ r)

/-- Two blocks of a key's cipher, cut to its length. -/
def twoBlocks (tdes : Bool) (k x y : Bytes) (n : Nat) : Bytes := (blkEnc tdes k x ++ blkEnc tdes k y).take n

/-- The card key of option A under the issuer key's algorithm. -/
def emvCardKey (alg : Nat) (k pan : Bytes) (psn : Byte) : Bytes :=
  let y := emvDigits pan psn
  if alg = 8 then (twoBlocks true k y (y.map (~~~·)) 16).map oddParity
  else
    let z := zeros 8 ++ y
    if alg = 1 then aesEnc k z else twoBlocks false k z (z.map (~~~·)) (keyBytes alg 0)

/-- The common session key from the card key and the ATC. -/
def emvSessionKey (alg : Nat) (k atc : Bytes) : Bytes :=
  let n := if alg = 8 then 8 else 16
  let r (x : Byte) : Bytes := fit n (atc ++ [x])
  if alg = 8 then twoBlocks true k (r 0xF0) (r 0x0F) 16
  else if alg = 1 then aesEnc k (r 0) else twoBlocks false k (r 0xF0) (r 0x0F) (keyBytes alg 0)

/-- The MAC of a cryptogram under a session key. -/
def emvMac (alg : Nat) (k m : Bytes) : Bytes := if alg = 8 then isoMac3 true k m else cmac false k m

/-- The ARPC of method 1. -/
def arpc1 (alg : Nat) (k arqc arc : Bytes) : Bytes :=
  let x := xorBytes arqc (fit 8 arc)
  (if alg = 8 then tdesEnc k x else aesEnc k (fit 16 x)).take 8

/-! DUKPT, R216, R225 (ANSI X9.24-3). -/

/-- The 16-byte mask C0C0C0C0 00000000 C0C0C0C0 00000000 of TDES DUKPT. -/
def dukptMask : Bytes := natBe 16 0xC0C0C0C000000000C0C0C0C000000000
/-- The initial key of TDES DUKPT from the base key and the leftmost 8 bytes of the KSN, its counter bits zero. -/
def tdesInitial (bdk ksn : Bytes) : Bytes :=
  let x := natBe 8 (beNat (ksn.take 8) / 32 * 32)
  tdesEnc bdk x ++ tdesEnc (xorBytes bdk dukptMask) x
/-- One non-reversible step of TDES DUKPT. -/
def tdesNext (key reg : Bytes) : Bytes :=
  let half (k : Bytes) : Bytes := xorBytes (desEnc (k.take 8) (xorBytes reg (k.drop 8))) (k.drop 8)
  half (xorBytes key dukptMask) ++ half key
/-- The set bits of a counter of `n` bits from the highest on, each with the higher ones. -/
def counterPath (n c : Nat) : List Nat :=
  ((List.range n).reverse.filter (bitAt c ·)).map fun i => c / 2 ^ i * 2 ^ i
/-- The transaction key of a KSN under TDES DUKPT. -/
def tdesTransaction (bdk ksn : Bytes) : Bytes :=
  let c := beNat ksn % 2 ^ 21
  let reg := beNat (ksn.drop 2) / 2 ^ 21 * 2 ^ 21
  (counterPath 21 c).foldl (fun k x => tdesNext k (natBe 8 (reg + x))) (tdesInitial bdk ksn)
/-- The working key of a key type under TDES DUKPT: the variants of PIN and MAC, and of data with its one-way step. -/
def tdesWorking (kind : Nat) (bdk ksn : Bytes) : Bytes :=
  let v := if kind = 0 then 0xFF else if kind = 1 then 0xFF00 else 0xFF0000
  let k := xorBytes (tdesTransaction bdk ksn) (natBe 8 v ++ natBe 8 v)
  if kind = 0 || kind = 1 then k else tdesEnc k (k.take 8) ++ tdesEnc k (k.drop 8)

/-- The algorithm indicator of an AES key of some bytes. -/
def aesIndicator (n : Nat) : Nat := if n = 16 then 2 else if n = 24 then 3 else 4
/-- A key of `n` bytes derived under AES DUKPT for a usage from 8 bytes of context. -/
def aesDerive (k : Bytes) (usage n : Nat) (ctx : Bytes) : Bytes :=
  ((List.range ((n + 15) / 16)).flatMap fun i =>
    aesEnc k ([1, BitVec.ofNat 8 (i + 1)] ++ natBe 2 usage ++ natBe 2 (aesIndicator n) ++ natBe 2 (8 * n) ++ ctx)).take n
/-- The initial key of AES DUKPT, of the base key's length. -/
def aesInitial (bdk id : Bytes) : Bytes := aesDerive bdk 0x8001 bdk.length (id.take 8)
/-- The working key of a KSN and key type under AES DUKPT: an AES-128 key (R174). -/
def aesWorking (kind : Nat) (bdk ksn : Bytes) : Bytes :=
  let ctx (c : Nat) : Bytes := (ksn.drop 4).take 4 ++ natBe 4 c
  let c := beNat (ksn.drop 8)
  let k := (counterPath 32 c).foldl (fun k x => aesDerive k 0x8000 k.length (ctx x)) (aesInitial bdk ksn)
  aesDerive k (if kind = 0 then 0x1000 else if kind = 1 then 0x2002 else 0x3002) 16 (ctx c)

/-- The working key and the initial key of either family. -/
def dukptKey (tdes : Bool) (kind : Nat) (bdk ksn : Bytes) : Bytes :=
  if tdes then tdesWorking kind bdk ksn else aesWorking kind bdk ksn
def dukptInitial (tdes : Bool) (bdk id : Bytes) : Bytes := if tdes then tdesInitial bdk id else aesInitial bdk id

/-! X9.143 key blocks, R162, R185. -/

/-- The encryption key (0) or the MAC key (1) of a protection key: AES for version D, TDES for version B. -/
def x9Key (d : Bool) (kbpk : Bytes) (use : Nat) : Bytes :=
  let n := kbpk.length
  let alg := if d then aesIndicator n else if n = 24 then 1 else 0
  ((List.range ((n + blkLen (!d) - 1) / blkLen (!d))).flatMap fun i =>
    cmac (!d) kbpk ([BitVec.ofNat 8 (i + 1)] ++ natBe 2 use ++ [0] ++ natBe 2 alg ++ natBe 2 (8 * n))).take n
/-- The enciphered key and the MAC of a block, its padded length and key as `plain`. -/
def x9Wrap (d : Bool) (kbpk head plain : Bytes) : Bytes :=
  let mac := cmac (!d) (x9Key d kbpk 1) (head ++ plain)
  cbcEnc (!d) (x9Key d kbpk 0) mac (blocksOf (blkLen (!d)) plain) ++ mac
/-- The key of a block, `none` where the MAC or the length does not hold. -/
def x9Unwrap (d : Bool) (kbpk head body : Bytes) : Option Bytes :=
  let n := blkLen (!d)
  let ct := body.take (body.length - n)
  let mac := body.drop (body.length - n)
  let plain := cbcDec (!d) (x9Key d kbpk 0) mac (blocksOf n ct)
  let bits := beNat (plain.take 2)
  if ct.isEmpty || ct.length % n ≠ 0 || cmac (!d) (x9Key d kbpk 1) (head ++ plain) ≠ mac || bits % 8 ≠ 0 ||
      plain.length < 2 + bits / 8 then none
  else some ((plain.drop 2).take (bits / 8))

/-- A hexadecimal character's value, and a string of them, `none` for any other character. -/
def hexVal (b : Byte) : Option Nat :=
  let n := b.toNat
  if 48 ≤ n && n ≤ 57 then some (n - 48) else if 65 ≤ n && n ≤ 70 then some (n - 55) else none
def fromHex : Bytes → Option Bytes
  | [] => some []
  | [_] => none
  | a :: b :: l => do
    let x ← hexVal a
    let y ← hexVal b
    let r ← fromHex l
    pure (BitVec.ofNat 8 (16 * x + y) :: r)
/-- A decimal string's value. -/
def decimalVal (bs : Bytes) : Option Nat :=
  if bs.all fun b => 48 ≤ b.toNat && b.toNat ≤ 57 then some (bs.foldl (fun a b => 10 * a + (b.toNat - 48)) 0) else none
/-- The bytes `n` optional blocks take. -/
def optLength : Nat → Bytes → Option Nat
  | 0, _ => some 0
  | n + 1, bs => do
    let l ← fromHex ((bs.drop 2).take 2)
    let k := (l.headD 0).toNat
    if k < 4 || bs.length < k then none
    else
      let r ← optLength n (bs.drop k)
      pure (k + r)
/-- `n` optional blocks by ID and data. -/
def blockOpts : Nat → Bytes → List (BitVec 16 × Bytes)
  | 0, _ => []
  | n + 1, bs =>
    let k := (((fromHex ((bs.drop 2).take 2)).getD []).headD 0).toNat
    (BitVec.ofNat 16 (beNat (bs.take 2)), (bs.take k).drop 4) :: blockOpts n (bs.drop k)

/-- An X9.143 block as it stands: header fields, the header's bytes, and the bytes of enciphered key and MAC. -/
structure X9Block where
  version : Byte
  usage : Bytes
  alg : Byte
  mode : Byte
  exp : Byte
  head : Bytes
  body : Bytes
  deriving DecidableEq, Repr

/-- A block read: its length field is that of the block, and what follows its optional blocks is hexadecimal. -/
def readX9 (bs : Bytes) : Option X9Block := do
  let len ← decimalVal ((bs.drop 1).take 4)
  let n ← decimalVal ((bs.drop 12).take 2)
  if len ≠ bs.length || bs.length < 16 then none
  else
    let o ← optLength n (bs.drop 16)
    let body ← fromHex (bs.drop (16 + o))
    pure { version := bs.headD 0, usage := (bs.drop 5).take 2, alg := bs.getD 7 0, mode := bs.getD 8 0, exp := bs.getD 11 0,
           head := bs.take (16 + o), body := body }

/-! Key check values, R173. -/

/-- The check value of a key from its data and its public part. -/
def keyKcv (alg : Nat) (key pub : Bytes) : BitVec 24 :=
  let v :=
    if alg ≤ 3 then cmac false key (zeros 16)
    else if alg ≤ 9 then tdesEnc key (zeros 8)
    else if alg = 0x10 then hmac 0 key []
    else digest 0 pub
  BitVec.ofNat 24 (beNat (v.take 3))

end Sys2Proof.Machine
end

