-- ==== Sys2Proof/Machine/Dram.lean ====
section
/-! DEFINITION. The RL-DRAM: regions and channels of its lines, line counters, and how a line is enciphered and checked (R458,
R460 to R465). -/
namespace Sys2Proof.Machine

/-! Masked values. -/

/-- The value two shares hold. -/
def Shares.value (x : Shares) : Bytes := xorBytes x.a x.b
/-- A value as two shares under a mask. -/
def Shares.of (v mask : Bytes) : Shares := { a := xorBytes v mask, b := mask }
/-- Fresh randomness enters both shares, so that the value is unchanged (R188, R197). -/
def Shares.refresh (x : Shares) (mask : Bytes) : Shares := { a := xorBytes x.a mask, b := xorBytes x.b mask }

/-! The map of line space, by line numbers: a line's address is its byte address divided by 64 (R458, R460). -/

/-- Regions of Table 17-2. -/
inductive LineRegion | keyStore | staging | tables | index | carried | unused | macs | level1 | level2 | training
  deriving DecidableEq, Repr

/-- The region of a line, by population: one device per channel has half the lines; of the reserved region the index comes
first, then the carried journal (notes/assumptions/158.md). -/
def lineRegion (two : Bool) (n : Nat) : LineRegion :=
  let mib (k : Nat) : Nat := k * 16384
  if two then
    if n < mib 512 then .keyStore else if n < mib 768 then .staging else if n < mib 832 then .tables
    else if n < mib 880 then .index else if n < mib 882 then .carried else if n < mib 896 then .unused
    else if n < mib 1008 then .macs else if n < mib 1022 then .level1 else if n < mib 1022 + 3584 then .level2 else .training
  else
    if n < mib 256 then .keyStore else if n < mib 352 then .staging else if n < mib 416 then .tables
    else if n < mib 440 then .index else if n < mib 442 then .carried else if n < mib 448 then .unused
    else if n < mib 504 then .macs else if n < mib 511 then .level1 else if n < mib 511 + 1792 then .level2 else .training

/-- Lines of the memory. -/
def lineCount (two : Bool) : Nat := if two then 2 ^ 24 else 2 ^ 23
/-- The first line of the carried journal. -/
def carriedLine (two : Bool) : Nat := if two then 880 * 16384 else 440 * 16384
/-- A line of the integrity metadata that is a counter line. -/
def LineRegion.counters (r : LineRegion) : Bool := r == .level1 || r == .level2
/-- The channel of a line (Table 17-1). -/
def lineChan (n : Nat) : BitVec 2 := BitVec.ofNat 2 n ^^^ BitVec.ofNat 2 (n / 256)

/-! Line counters, R462, R464, R465. -/

/-- A group of unwritten lines. -/
def CounterGroup.init : CounterGroup := { major := 0, minors := [] }

/-- A write of one of a group's lines: its minor counter rises, or the major one with every minor back at 0 (R464, R465). -/
def CounterGroup.bump (i : Nat) (g : CounterGroup) : CounterGroup :=
  if smGet 0 g.minors i = 63 then { major := g.major + 1, minors := [] }
  else { g with minors := smMod 0 i (· + 1) g.minors }

/-- A group of the tree by its number: level 1 from 0, level 2 from 2^18, the roots on the die from 2^19. -/
def Memory.group (m : Memory) (n : Nat) : CounterGroup := smGet CounterGroup.init m.groups n

/-- The counter of a protected line: major and minor (R461). -/
def Memory.counter (m : Memory) (n : Nat) : BitVec 64 × BitVec 6 :=
  ((m.group (n / 64)).major, smGet 0 (m.group (n / 64)).minors (n % 64))

/-- A protected line is written: its counter rises, and so do its counter line's and that one's parent's, up to the root
on the die (R462, R464). -/
def Memory.write (n : Nat) (m : Memory) : Memory :=
  let l1 := n / 64
  let l2 := l1 / 64
  let up (g : SMap CounterGroup) : SMap CounterGroup :=
    smMod CounterGroup.init (2 ^ 19 + l2 / 64) (CounterGroup.bump (l2 % 64))
      (smMod CounterGroup.init (2 ^ 18 + l2) (CounterGroup.bump (l1 % 64))
        (smMod CounterGroup.init l1 (CounterGroup.bump (n % 64)) g))
  { m with groups := up m.groups }

/-- A line whose counters are both 0 is unwritten, and reads as zeros (R464). -/
def Memory.unwritten (m : Memory) (n : Nat) : Bool := (m.counter n).1 == 0 && (m.counter n).2 == 0

/-! Encryption and integrity, R461, R462. -/

/-- The counter block of a line: its first byte, line address, major, minor, its byte 14, and 0. -/
def tweakBlock (first : Byte) (n : Nat) (c : BitVec 64 × BitVec 6) (j : Nat) : Bytes :=
  [first] ++ natBe 4 n ++ natBe 8 c.1.toNat ++ natBe 1 c.2.toNat ++ natBe 1 j ++ [0]

/-- A line of 64 bytes under the line key, which also opens it (R461). -/
def lineCrypt (key : Bytes) (n : Nat) (c : BitVec 64 × BitVec 6) (data : Bytes) : Bytes :=
  (List.range 4).flatMap fun j => xorBytes (slice data (16 * j) 16) (aesEnc (key.take 32) (tweakBlock 1 n c j))

/-- The MAC of what stands in a line: GHASH under H over it and the tweak block, under AES-128 with K2 (R461). -/
def lineMac (key : Bytes) (first : Byte) (n : Nat) (c : BitVec 64 × BitVec 6) (stored : Bytes) : Bytes :=
  let t := tweakBlock first n c 0
  (xorBytes (natBe 16 (ghash (beNat (slice key 32 16)) (blocksOf 16 stored ++ [t]))) (aesEnc (slice key 48 16) t)).take 8

/-- A protected line as the device stores it, with its MAC: nothing while it is unwritten, or without a key (R461, R464). -/
def storedLine (m : Memory) (n : Nat) (data : Bytes) : Option (Bytes × Bytes) :=
  match m.key with
  | none => none
  | some k =>
    if m.unwritten n then none
    else
      let x := lineCrypt k.value n (m.counter n) (fit 64 data)
      some (x, lineMac k.value 2 n (m.counter n) x)

/-- What a read of a stored line gives: its plaintext, or a failed MAC check (R461, R469). -/
def openLine (m : Memory) (n : Nat) (x : Bytes × Bytes) : Option Bytes :=
  match m.key with
  | none => none
  | some k =>
    if m.unwritten n then some (zeros 64)
    else if lineMac k.value 2 n (m.counter n) x.1 == x.2 then some (lineCrypt k.value n (m.counter n) x.1) else none

/-- The place of a line's MAC: the MAC line of its group of eight, and the word in it (R461). -/
def macPlace (n : Nat) : Nat × Nat := (n / 8, n % 8)

/-- A level-1 or level-2 counter line as stored: its major counter, its 64 minor counters of 6 bits, and its MAC, keyed by the
counter that its parent holds for it (R462). -/
def counterLine (m : Memory) (key : Bytes) (level2 : Bool) (i : Nat) : Bytes :=
  let g := m.group (if level2 then 2 ^ 18 + i else i)
  let up := m.group (if level2 then 2 ^ 19 + i / 64 else 2 ^ 18 + i / 64)
  let minors := ((List.range 64).map fun j => (smGet 0 g.minors j).toNat * 64 ^ j).sum
  let body := natLe 8 g.major.toNat ++ natLe 48 minors
  body ++ lineMac key 3 i (up.major, smGet 0 up.minors (i % 64)) body

end Sys2Proof.Machine
end

