-- ==== Sys2Proof/Machine/Lattice.lean ====
section
/-! DEFINITION. ML-KEM of FIPS 203 and ML-DSA of FIPS 204 over the digests and extendable outputs of their standards (R250,
R251, R256, R261); notes/assumptions/147.md. Polynomials are lists of 256 coefficients modulo q. -/
namespace Sys2Proof.Machine

/-- A polynomial of 256 coefficients. -/
abbrev Poly := List Nat

/-! Extendable outputs. -/

/-- `n` bytes of SHAKE128 (false) or SHAKE256 (true) from byte `off` on. -/
def shake (wide : Bool) (m : Bytes) (off n : Nat) : Bytes := (List.range n).map fun i => Config.shakeByte wide m (off + i)

/-- Candidates of 3 bytes each, read by `f` until 256 stand; a stream that gives fewer in `fuel` triples is filled with
zeros. -/
def rejectTriples (f : Nat → Nat → Nat → List Nat) (m : Bytes) : Nat → Nat → List Nat → Poly
  | 0, _, acc => (acc ++ List.replicate 256 0).take 256
  | fuel + 1, pos, acc =>
    if 256 ≤ acc.length then acc.take 256
    else
      let b := (shake false m pos 3).map (·.toNat)
      rejectTriples f m fuel (pos + 3) (acc ++ f (b.getD 0 0) (b.getD 1 0) (b.getD 2 0))

/-- Candidates of half a byte each, until 256 stand. -/
def rejectHalves (f : Nat → List Nat) (m : Bytes) : Nat → Nat → List Nat → Poly
  | 0, _, acc => (acc ++ List.replicate 256 0).take 256
  | fuel + 1, pos, acc =>
    if 256 ≤ acc.length then acc.take 256
    else
      let b := (Config.shakeByte true m pos).toNat
      rejectHalves f m fuel (pos + 1) (acc ++ f (b % 16) ++ f (b / 16))

/-- Triples and halves a rejection loop reads at most: far beyond any the standards' bounds allow for. -/
def rejectFuel : Nat := 4096

/-! Arithmetic in the two rings. -/

/-- The reverse of the low `n` bits. -/
def bitRev : Nat → Nat → Nat
  | 0, _ => 0
  | n + 1, x => x % 2 * 2 ^ n + bitRev n (x / 2)

/-- Butterflies forward over `d` layers from node `k`, the root of a node being `root k`. -/
def nttFwd (q : Nat) (root : Nat → Nat) : Nat → Nat → Poly → Poly
  | 0, _, f => f
  | d + 1, k, f =>
    let h := f.length / 2
    let t := (f.drop h).map fun x => root k * x % q
    let lo := f.take h
    nttFwd q root d (2 * k) (List.zipWith (fun a b => (a + b) % q) lo t) ++
      nttFwd q root d (2 * k + 1) (List.zipWith (fun a b => (a + q - b) % q) lo t)

/-- Butterflies back, without the scaling of the last layer. -/
def nttBack (q : Nat) (rootInv : Nat → Nat) : Nat → Nat → Poly → Poly
  | 0, _, f => f
  | d + 1, k, f =>
    let h := f.length / 2
    let lo := nttBack q rootInv d (2 * k) (f.take h)
    let hi := nttBack q rootInv d (2 * k + 1) (f.drop h)
    List.zipWith (fun a b => (a + b) % q) lo hi ++ List.zipWith (fun a b => rootInv k * ((a + q - b) % q) % q) lo hi

/-- Sums and differences modulo q. -/
def polyAdd (q : Nat) (f g : Poly) : Poly := List.zipWith (fun a b => (a + b) % q) f g
def polySub (q : Nat) (f g : Poly) : Poly := List.zipWith (fun a b => (a + q - b % q) % q) f g
/-- The zero polynomial. -/
def polyZero : Poly := List.replicate 256 0
/-- The sum of products of two vectors, under a product of polynomials. -/
def dotBy (q : Nat) (mul : Poly → Poly → Poly) (f g : List Poly) : Poly :=
  (List.zipWith mul f g).foldl (polyAdd q) polyZero

/-- A polynomial packed at `d` bits a coefficient, and unpacked. -/
def packBits (d : Nat) (f : Poly) : Bytes := natLe (32 * d) (f.foldr (fun c a => c % 2 ^ d + 2 ^ d * a) 0)
def unpackBits (d : Nat) (bs : Bytes) : Poly := (List.range 256).map fun i => fieldNat (leNat bs) (d * i) d
/-- The pieces of `n` bytes a vector of `k` polynomials takes. -/
def vecPieces (n k : Nat) (bs : Bytes) : List Bytes := (List.range k).map fun i => (bs.drop (n * i)).take n

/-! ML-KEM, FIPS 203. The parameter is 1, 2 or 3 for ML-KEM-512, -768 and -1024. -/

def kemQ : Nat := 3329
/-- Of a parameter set: k, η1, du and dv. -/
def kemSet (p : Nat) : Nat × Nat × Nat × Nat := (p + 1, if p = 1 then 3 else 2, if p = 3 then 11 else 10, if p = 3 then 5 else 4)
def kemRoot (k : Nat) : Nat := 17 ^ bitRev 7 k % kemQ
def kemNtt (f : Poly) : Poly := nttFwd kemQ kemRoot 7 1 f
def kemInv (f : Poly) : Poly :=
  (nttBack kemQ (fun k => modPow kemQ 13 (kemRoot k) (kemQ - 2)) 7 1 f).map fun x => 3303 * x % kemQ
/-- The product of two transforms: 128 products of linear polynomials. -/
def kemMul (f g : Poly) : Poly :=
  (List.range 128).flatMap fun i =>
    let a0 := f.getD (2 * i) 0
    let a1 := f.getD (2 * i + 1) 0
    let b0 := g.getD (2 * i) 0
    let b1 := g.getD (2 * i + 1) 0
    [(a0 * b0 + a1 * b1 % kemQ * (17 ^ (2 * bitRev 7 i + 1) % kemQ)) % kemQ, (a0 * b1 + a1 * b0) % kemQ]
def kemDot (f g : List Poly) : Poly := dotBy kemQ kemMul f g

/-- SampleNTT. -/
def kemSample (m : Bytes) : Poly :=
  rejectTriples (fun a b c => [a + 256 * (b % 16), b / 16 + 16 * c].filter (· < kemQ)) m rejectFuel 0 []
/-- The matrix Â, row by row, and transposed. -/
def kemMatrix (k : Nat) (rho : Bytes) (transposed : Bool) : List (List Poly) :=
  (List.range k).map fun i => (List.range k).map fun j =>
    let x := if transposed then i else j
    let y := if transposed then j else i
    kemSample (rho ++ [BitVec.ofNat 8 x, BitVec.ofNat 8 y])
/-- A polynomial of the centred binomial distribution, from PRF(s, n). -/
def kemNoise (eta : Nat) (s : Bytes) (n : Nat) : Poly :=
  let x := leNat (shake true (s ++ [BitVec.ofNat 8 n]) 0 (64 * eta))
  let ones (at_ : Nat) : Nat := ((List.range eta).filter fun j => bitAt x (at_ + j)).length
  (List.range 256).map fun i => (ones (2 * i * eta) + kemQ - ones (2 * i * eta + eta)) % kemQ
def kemCompress (d x : Nat) : Nat := (2 ^ (d + 1) * x + kemQ) / (2 * kemQ) % 2 ^ d
def kemDecompress (d y : Nat) : Nat := (2 * kemQ * y + 2 ^ d) / 2 ^ (d + 1)

/-- K-PKE's keys from d: the public key, and ŝ. -/
def kpkeKeys (p : Nat) (d : Bytes) : Bytes × List Poly :=
  let (k, eta1, _, _) := kemSet p
  let g := digest 5 (d ++ [BitVec.ofNat 8 k])
  let rho := g.take 32
  let sigma := g.drop 32
  let s := (List.range k).map fun i => kemNtt (kemNoise eta1 sigma i)
  let e := (List.range k).map fun i => kemNtt (kemNoise eta1 sigma (k + i))
  let t := List.zipWith (fun row e => polyAdd kemQ (kemDot row s) e) (kemMatrix k rho false) e
  (t.flatMap (packBits 12) ++ rho, s)
/-- K-PKE's encryption of a message of 32 bytes. -/
def kpkeEnc (p : Nat) (ek m r : Bytes) : Bytes :=
  let (k, eta1, du, dv) := kemSet p
  let t := (vecPieces 384 k ek).map (unpackBits 12)
  let y := (List.range k).map fun i => kemNtt (kemNoise eta1 r i)
  let u := (List.range k).map fun i =>
    polyAdd kemQ (kemInv (kemDot ((kemMatrix k (ek.drop (384 * k)) true).getD i []) y)) (kemNoise 2 r (k + i))
  let mu := (unpackBits 1 m).map (kemDecompress 1)
  let v := polyAdd kemQ (polyAdd kemQ (kemInv (kemDot t y)) (kemNoise 2 r (2 * k))) mu
  u.flatMap (fun f => packBits du (f.map (kemCompress du))) ++ packBits dv (v.map (kemCompress dv))
/-- K-PKE's decryption. -/
def kpkeDec (p : Nat) (s : List Poly) (c : Bytes) : Bytes :=
  let (k, _, du, dv) := kemSet p
  let u := (vecPieces (32 * du) k c).map fun x => (unpackBits du x).map (kemDecompress du)
  let v := (unpackBits dv (c.drop (32 * du * k))).map (kemDecompress dv)
  packBits 1 ((polySub kemQ v (kemInv (kemDot s (u.map kemNtt)))).map (kemCompress 1))

/-- The encapsulation key of a private key d ‖ z (R164). -/
def kemPub (p : Nat) (dz : Bytes) : Bytes := (kpkeKeys p (dz.take 32)).1
/-- Encapsulation with the drawn m: ciphertext and shared key. -/
def kemEncap (p : Nat) (ek m : Bytes) : Bytes × Bytes :=
  let g := digest 5 (m ++ digest 3 ek)
  (kpkeEnc p ek m (g.drop 32), g.take 32)
/-- Decapsulation: a ciphertext that fails the re-encryption comparison gives the implicit-rejection key (R256). -/
def kemDecap (p : Nat) (dz c : Bytes) : Bytes :=
  let (ek, s) := kpkeKeys p (dz.take 32)
  let m := kpkeDec p s c
  let (c', k) := kemEncap p ek m
  if c' = c then k else shake true (dz.drop 32 ++ c) 0 32

/-! ML-DSA, FIPS 204. The parameter is 1, 2 or 3 for ML-DSA-44, -65 and -87. -/

def dsaQ : Nat := 8380417
/-- Of a parameter set: challenge bytes, l, k, bits of γ1 - 1, β and ω. -/
def mldsaSet (p : Nat) : Nat × Nat × Nat × Nat × Nat × Nat :=
  if p = 1 then (32, 4, 4, 17, 78, 80) else if p = 2 then (48, 5, 6, 19, 196, 55) else (64, 7, 8, 19, 120, 75)
/-- η, τ and γ2. -/
def dsaEta (p : Nat) : Nat := if p = 2 then 4 else 2
def dsaTau (p : Nat) : Nat := if p = 1 then 39 else if p = 2 then 49 else 60
def dsaGamma2 (p : Nat) : Nat := (dsaQ - 1) / if p = 1 then 88 else 32

def dsaRoot (k : Nat) : Nat := modPow dsaQ 9 1753 (bitRev 8 k)
def dsaNtt (f : Poly) : Poly := nttFwd dsaQ dsaRoot 8 1 f
def dsaInv (f : Poly) : Poly :=
  (nttBack dsaQ (fun k => modPow dsaQ 24 (dsaRoot k) (dsaQ - 2)) 8 1 f).map fun x => 8347681 * x % dsaQ
def dsaMul (f g : Poly) : Poly := List.zipWith (fun a b => a * b % dsaQ) f g
def dsaDot (f g : List Poly) : Poly := dotBy dsaQ dsaMul f g

/-- The matrix Â of ExpandA. -/
def dsaMatrix (p : Nat) (rho : Bytes) : List (List Poly) :=
  let (_, l, k, _, _, _) := mldsaSet p
  (List.range k).map fun r => (List.range l).map fun s =>
    rejectTriples (fun a b c => [a + 256 * b + 65536 * (c % 128)].filter (· < dsaQ))
      (rho ++ [BitVec.ofNat 8 s, BitVec.ofNat 8 r]) rejectFuel 0 []
/-- A polynomial of coefficients from -η to η. -/
def dsaSecret (p : Nat) (seed : Bytes) (n : Nat) : Poly :=
  let f (b : Nat) : List Nat :=
    if dsaEta p = 2 then if b < 15 then [(dsaQ + 2 - b % 5) % dsaQ] else []
    else if b < 9 then [(dsaQ + 4 - b) % dsaQ] else []
  rejectHalves f (seed ++ natLe 2 n) rejectFuel 0 []

/-- A residue as the number of least absolute value. -/
def centred (q x : Nat) : Int := if 2 * (x % q) ≤ q then (x % q : Nat) else ((x % q : Nat) : Int) - (q : Int)
/-- The largest absolute value of the coefficients of a vector. -/
def normInf (v : List Poly) : Nat := (v.flatMap (·.map fun x => (centred dsaQ x).natAbs)).foldl max 0

/-- Power2Round: r1 and r0, with d = 13. -/
def powerRound (r : Nat) : Nat × Nat :=
  let lo := r % 8192
  if lo ≤ 4096 then (r / 8192, lo) else (r / 8192 + 1, (dsaQ + lo - 8192) % dsaQ)
/-- Decompose: the high part, and the low part modulo q. -/
def decompose (g2 r : Nat) : Nat × Nat :=
  let lo := r % (2 * g2)
  let r0 : Int := if lo ≤ g2 then (lo : Int) else (lo : Int) - (2 * g2 : Nat)
  if (r : Int) - r0 = (dsaQ - 1 : Nat) then (0, ((r0 - 1) % (dsaQ : Int)).toNat)
  else ((((r : Int) - r0) / (2 * g2 : Nat)).toNat, (r0 % (dsaQ : Int)).toNat)
def highBits (g2 r : Nat) : Nat := (decompose g2 r).1
def lowBits (g2 r : Nat) : Nat := (decompose g2 r).2
/-- UseHint. -/
def useHint (g2 : Nat) (h : Bool) (r : Nat) : Nat :=
  let m := (dsaQ - 1) / (2 * g2)
  let (r1, r0) := decompose g2 r
  if !h then r1 else if 0 < centred dsaQ r0 then (r1 + 1) % m else (r1 + m - 1) % m
/-- w1Encode. -/
def w1Encode (p : Nat) (w : List Poly) : Bytes := w.flatMap (packBits (if p = 1 then 6 else 4))

/-- SampleInBall, its loop over the positions that remain. -/
def ballLoop (seed : Bytes) (signs tau : Nat) : Nat → Nat → Nat → Poly → Poly
  | 0, _, _, c => c
  | fuel + 1, pos, i, c =>
    if 256 ≤ i then c
    else
      let j := (Config.shakeByte true seed pos).toNat
      if i < j then ballLoop seed signs tau fuel (pos + 1) i c
      else
        ballLoop seed signs tau fuel (pos + 1) (i + 1)
          ((c.set i (c.getD j 0)).set j (if bitAt signs (i + tau - 256) then dsaQ - 1 else 1))
def sampleInBall (p : Nat) (seed : Bytes) : Poly :=
  ballLoop seed (leNat (shake true seed 0 8)) (dsaTau p) rejectFuel 8 (256 - dsaTau p) polyZero

/-- What a seed ξ expands to: ρ, K, s1, s2, t0 and the public key. -/
structure DsaKey where
  rho : Bytes
  k : Bytes
  s1 : List Poly
  s2 : List Poly
  t0 : List Poly
  pub : Bytes
  deriving DecidableEq, Repr

/-- KeyGen from a seed (R164). -/
def dsaExpand (p : Nat) (xi : Bytes) : DsaKey :=
  let (_, l, k, _, _, _) := mldsaSet p
  let h := shake true (xi ++ [BitVec.ofNat 8 k, BitVec.ofNat 8 l]) 0 128
  let rho := h.take 32
  let seed := (h.drop 32).take 64
  let s1 := (List.range l).map (dsaSecret p seed)
  let s2 := (List.range k).map fun i => dsaSecret p seed (l + i)
  let sh := s1.map dsaNtt
  let t := List.zipWith (fun row e => polyAdd dsaQ (dsaInv (dsaDot row sh)) e) (dsaMatrix p rho) s2
  let r := t.map (·.map powerRound)
  { rho := rho, k := h.drop 96, s1 := s1, s2 := s2, t0 := r.map (·.map (·.2))
    pub := rho ++ r.flatMap fun f => packBits 10 (f.map (·.1)) }

/-- The message representative μ of a message and its context under a public key. -/
def dsaMu (pub m ctx : Bytes) : Bytes :=
  shake true (shake true pub 0 64 ++ [0, BitVec.ofNat 8 ctx.length] ++ ctx ++ m) 0 64

/-- The packed hint: the places of the ones, and where each polynomial's end. -/
def packHint (p : Nat) (h : List (List Bool)) : Bytes :=
  let (_, _, _, _, _, w) := mldsaSet p
  let places := h.map fun f => (List.range 256).filter fun i => f.getD i false
  let ends := (List.range h.length).map fun i => ((places.take (i + 1)).map (·.length)).sum
  fit w (places.flatten.map (BitVec.ofNat 8)) ++ ends.map (BitVec.ofNat 8)
/-- The hint of a signature that passes `hintOk`. -/
def unpackHint (p : Nat) (bs : Bytes) : List (List Bool) :=
  let (_, _, k, _, _, w) := mldsaSet p
  let h := bs.map (·.toNat)
  (List.range k).map fun i =>
    let a := if i = 0 then 0 else h.getD (w + i - 1) 0
    let l := (h.take (h.getD (w + i) 0)).drop a
    (List.range 256).map l.contains

/-- One iteration of the rejection loop: the signature, or none where it is rejected. -/
def dsaTry (p : Nat) (key : DsaKey) (mu seed : Bytes) (kappa : Nat) : Option Bytes :=
  let (cl, l, _, g, beta, w) := mldsaSet p
  let g2 := dsaGamma2 p
  let y := (List.range l).map fun r =>
    (unpackBits (g + 1) (shake true (seed ++ natLe 2 (kappa + r)) 0 (32 * (g + 1)))).map fun x => (dsaQ + 2 ^ g - x) % dsaQ
  let yh := y.map dsaNtt
  let v := (dsaMatrix p key.rho).map fun row => dsaInv (dsaDot row yh)
  let ct := shake true (mu ++ w1Encode p (v.map (·.map (highBits g2)))) 0 cl
  let ch := dsaNtt (sampleInBall p ct)
  let times (s : Poly) : Poly := dsaInv (dsaMul ch (dsaNtt s))
  let z := List.zipWith (fun y s => polyAdd dsaQ y (times s)) y key.s1
  let r := List.zipWith (fun v s => polySub dsaQ v (times s)) v key.s2
  if 2 ^ g - beta ≤ normInf z || g2 - beta ≤ normInf (r.map (·.map (lowBits g2))) then none
  else
    let t := key.t0.map times
    let h := List.zipWith (List.zipWith fun r t => decide (highBits g2 ((r + t) % dsaQ) ≠ highBits g2 r)) r t
    if g2 ≤ normInf t || w < (h.map fun f => (f.filter id).length).sum then none
    else some (ct ++ z.flatMap (fun f => packBits (g + 1) (f.map fun x => (dsaQ + 2 ^ g - x) % dsaQ)) ++ packHint p h)

/-- The rejection loop, from iteration `n` of at most 1,024 (R261). -/
def dsaLoop (p : Nat) (key : DsaKey) (mu seed : Bytes) : Nat → Nat → Option Bytes
  | 0, _ => none
  | f + 1, n =>
    match dsaTry p key mu seed ((mldsaSet p).2.1 * n) with
    | some sig => some sig
    | none => dsaLoop p key mu seed f (n + 1)

/-- A hedged signature of μ with the drawn rnd, `none` at the cap (R250, R261). -/
def dsaSign (p : Nat) (xi mu rnd : Bytes) : Option Bytes :=
  let key := dsaExpand p xi
  dsaLoop p key mu (shake true (key.k ++ rnd ++ mu) 0 64) 1024 0

/-- The hint of a signature: bounds in order, indices ascending within each polynomial, zero padding. -/
def hintOk (p : Nat) (sig : Bytes) : Bool :=
  let (_, _, k, _, _, w) := mldsaSet p
  let h := (sig.drop (sig.length - (w + k))).map (·.toNat)
  let ends := h.drop w
  let starts := 0 :: ends
  (List.range k).all (fun i =>
    let a := starts.getD i 0
    let b := ends.getD i 0
    a ≤ b && b ≤ w && (List.range (b - a - 1)).all fun j => h.getD (a + j) 0 < h.getD (a + j + 1) 0) &&
  (List.range (w - ends.getLastD 0)).all fun j => h.getD (ends.getLastD 0 + j) 0 == 0

/-- Every coefficient of z is below γ1 - β in absolute value. -/
def zSmall (p : Nat) (sig : Bytes) : Bool :=
  let (c, l, _, g, b, _) := mldsaSet p
  let bits := g + 1
  let x := leNat ((sig.drop c).take (32 * bits * l))
  (List.range (256 * l)).all fun i =>
    let v : Int := (2 ^ g : Nat) - (fieldNat x (bits * i) bits : Nat)
    v.natAbs < 2 ^ g - b

/-- A signature verifies for μ under a public key. -/
def dsaVerify (p : Nat) (pub mu sig : Bytes) : Bool :=
  let (cl, l, k, g, _, w) := mldsaSet p
  let ct := sig.take cl
  let z := (vecPieces (32 * (g + 1)) l (sig.drop cl)).map fun bs =>
    (unpackBits (g + 1) bs).map fun x => (dsaQ + 2 ^ g - x) % dsaQ
  let h := unpackHint p (sig.drop (sig.length - (w + k)))
  let t1 := (vecPieces 320 k (pub.drop 32)).map (unpackBits 10)
  let ch := dsaNtt (sampleInBall p ct)
  let zh := z.map dsaNtt
  let v := List.zipWith (fun row t =>
    dsaInv (polySub dsaQ (dsaDot row zh) (dsaMul ch (dsaNtt (t.map fun x => 8192 * x % dsaQ))))) (dsaMatrix p (pub.take 32)) t1
  let w1 := List.zipWith (fun f h => List.zipWith (fun r b => useHint (dsaGamma2 p) b r) f h) v h
  zSmall p sig && ct == shake true (mu ++ w1Encode p w1) 0 cl

end Sys2Proof.Machine
end

