-- ==== Sys2Proof/Machine/Pk.lean ====
section
/-! DEFINITION. What the public-key operations compute: curves, ECDSA, ECDH, X25519, Ed25519 and RSA over the arithmetic
of their standards; the prime search of an RSA generation; and the edge inputs of Table 9-3 (R250 to R257, R287);
notes/assumptions/147.md. -/
namespace Sys2Proof.Machine

/-! Curves, R121. -/

/-- A domain of a short Weierstrass curve. -/
structure Domain where
  p : Nat
  a : Nat
  b : Nat
  gx : Nat
  gy : Nat
  n : Nat
  deriving DecidableEq, Repr

def p256 : Domain :=
  { p := 2 ^ 256 - 2 ^ 224 + 2 ^ 192 + 2 ^ 96 - 1, a := 2 ^ 256 - 2 ^ 224 + 2 ^ 192 + 2 ^ 96 - 4
    b := 0x5ac635d8aa3a93e7b3ebbd55769886bc651d06b0cc53b0f63bce3c3e27d2604b
    gx := 0x6b17d1f2e12c4247f8bce6e563a440f277037d812deb33a0f4a13945d898c296
    gy := 0x4fe342e2fe1a7f9b8ee7eb4a7c0f9e162bce33576b315ececbb6406837bf51f5
    n := 0xffffffff00000000ffffffffffffffffbce6faada7179e84f3b9cac2fc632551 }
def p384 : Domain :=
  { p := 2 ^ 384 - 2 ^ 128 - 2 ^ 96 + 2 ^ 32 - 1, a := 2 ^ 384 - 2 ^ 128 - 2 ^ 96 + 2 ^ 32 - 4
    b := 0xb3312fa7e23ee7e4988e056be3f82d19181d9c6efe8141120314088f5013875ac656398d8a2ed19d2a85c8edd3ec2aef
    gx := 0xaa87ca22be8b05378eb1c71ef320ad746e1d3b628ba79b9859f741e082542a385502f25dbf55296c3a545e3872760ab7
    gy := 0x3617de4a96262c6f5d9e98bf9292dc29f8f41dbd289a147ce9da3113b5f0b8c00a60b1ce1d7e819d7a431d7c90ea0e5f
    n := 0xffffffffffffffffffffffffffffffffffffffffffffffffc7634d81f4372ddf581a0db248b0a77aecec196accc52973 }
def p521 : Domain :=
  { p := 2 ^ 521 - 1, a := 2 ^ 521 - 4
    b := 0x51953eb9618e1c9a1f929a21a0b68540eea2da725b99b315f3b8b489918ef109e156193951ec7e937b1652c0bd3bb1bf073573df883d2c34f1ef451fd46b503f00
    gx := 0xc6858e06b70404e9cd9e3ecb662395b4429c648139053fb521f828af606b4d3dbaa14b5e77efe75928fe1dc127a2ffa8de3348b3c1856a429bf97e7e31c2e5bd66
    gy := 0x11839296a789a3bc0045c8a5fb42c7d1bd998f54449579b446817afbd17273e662c97ee72995ef42640c550b9013fad0761353c7086a272c24088be94769fd16650
    n := 2 ^ 521 - 657877501894328237357444332315020117536923257219387276263472201219398408051703 }

/-- The domain of a curve ID: a built-in curve's, else a tenant curve's (R121). -/
def domainOf (curves : List Curve) (id : Nat) : Domain :=
  if id = 1 then p256 else if id = 2 then p384 else if id = 3 then p521
  else match curves.find? (·.id.toNat == id) with
    | some c => { p := c.p, a := c.a, b := c.b, gx := c.gx, gy := c.gy, n := c.n }
    | none => p256

/-- Bit length of a number. -/
def bitLen (n : Nat) : Nat := if n = 0 then 0 else Nat.log2 n + 1
/-- Set bits of a number. -/
def bitWeight (n : Nat) : Nat := ((List.range (bitLen n)).filter n.testBit).length
/-- Bytes a number below `n` takes. -/
def byteLen (n : Nat) : Nat := (bitLen n + 7) / 8

/-- A multiple of a point, and of the generator. -/
def Domain.mul (d : Domain) (k : Nat) (x : EcPoint) : EcPoint := ecMul d.p d.a 600 k x
def Domain.mulG (d : Domain) (k : Nat) : EcPoint := d.mul k (some (d.gx, d.gy))
/-- A point's equation holds. -/
def Domain.onCurve (d : Domain) (x y : Nat) : Bool := y * y % d.p == (x * x * x + d.a * x + d.b) % d.p
/-- An uncompressed point, 0x04 ‖ X ‖ Y. -/
def Domain.encode (d : Domain) (x : EcPoint) : Bytes :=
  match x with
  | some (a, b) => [4] ++ natBe (byteLen d.p) a ++ natBe (byteLen d.p) b
  | none => [0]
/-- The coordinates of an uncompressed point. -/
def Domain.xy (d : Domain) (bs : Bytes) : Nat × Nat :=
  (beNat ((bs.drop 1).take (byteLen d.p)), beNat (bs.drop (1 + byteLen d.p)))
/-- The public key of a scalar. -/
def Domain.pub (d : Domain) (k : Nat) : Bytes := d.encode (d.mulG k)

/-- A private scalar or nonce from a draw of N + 64 bits: its leftmost bits modulo n - 1, plus 1 (FIPS 186-5, A.2.1 and
A.3.1; R202, R250). -/
def scalarFrom (n : Nat) (drawn : Bytes) : Nat :=
  beNat drawn / 2 ^ (8 * drawn.length - (bitLen n + 64)) % (n - 1) + 1

/-! ECDSA, R250. -/

/-- A minimal positive INTEGER, a strict one read back, and a SEQUENCE of two. -/
def derInt (x : Nat) : Bytes :=
  let bs := natBe (byteLen x) x
  let v := if x = 0 then [0] else if 128 ≤ (bs.headD 0).toNat then (0 : Byte) :: bs else bs
  [2, BitVec.ofNat 8 v.length] ++ v
def derLen (n : Nat) : Bytes := if n < 128 then [BitVec.ofNat 8 n] else [0x81, BitVec.ofNat 8 n]
def derSig (r s : Nat) : Bytes :=
  let body := derInt r ++ derInt s
  [0x30] ++ derLen body.length ++ body
/-- Read a strict INTEGER: its value and what follows it. -/
def readInt (bs : Bytes) : Option (Nat × Bytes) :=
  match bs with
  | t :: l :: rest =>
    let n := l.toNat
    let v := rest.take n
    let minimal := !(decide (2 ≤ n) && v.headD 0 == 0 && decide ((v.getD 1 0).toNat < 128))
    if t ≠ 2 || n = 0 || 128 ≤ n || rest.length < n || 128 ≤ (v.headD 0).toNat || !minimal then none
    else some (beNat v, rest.drop n)
  | _ => none
/-- Read a strict DER signature. -/
def readSig (bs : Bytes) : Option (Nat × Nat) :=
  match bs with
  | t :: l :: rest =>
    let (n, body) := if l = 0x81 then ((rest.headD 0).toNat, rest.drop 1) else (l.toNat, rest)
    if t ≠ 0x30 || n ≠ body.length || (l == 0x81 && n < 128) || (l ≠ 0x81 && 128 ≤ n) then none
    else match readInt body with
      | some (r, more) => match readInt more with
        | some (s, []) => some (r, s)
        | _ => none
      | none => none
  | _ => none

/-- The message of an ECDSA operation as a number: its digest under the hash of PARAM[11:8], or the digest itself for 0xF,
truncated to its leftmost N bits (R250). -/
def ecdsaZ (n h : Nat) (m : Bytes) : Nat :=
  let d := if h = 15 then m else digest h m
  beNat d / 2 ^ (8 * d.length - bitLen n)

/-- Sign with a scalar and a drawn nonce: (r, s). -/
def Domain.sign (d : Domain) (key h : Nat) (m drawn : Bytes) : Nat × Nat :=
  let k := scalarFrom d.n drawn
  let r := (match d.mulG k with | some (x, _) => x | none => 0) % d.n
  (r, invMod d.n k * (ecdsaZ d.n h m + r * key) % d.n)
/-- A signature verifies under a public point. -/
def Domain.verify (d : Domain) (q : Nat × Nat) (h : Nat) (m : Bytes) (r s : Nat) : Bool :=
  let w := invMod d.n s
  match ecAdd d.p d.a (d.mulG (ecdsaZ d.n h m * w % d.n)) (d.mul (r * w % d.n) (some q)) with
  | some (x, _) => x % d.n == r
  | none => false
/-- A signature in its raw or DER form. -/
def Domain.sigBytes (d : Domain) (der : Bool) (x : Nat × Nat) : Bytes :=
  if der then derSig x.1 x.2 else natBe (byteLen d.n) x.1 ++ natBe (byteLen d.n) x.2
/-- A raw or DER signature read. -/
def Domain.readSig (d : Domain) (der : Bool) (bs : Bytes) : Option (Nat × Nat) :=
  if der then Machine.readSig bs
  else if bs.length = 2 * byteLen d.n then some (beNat (bs.take (byteLen d.n)), beNat (bs.drop (byteLen d.n))) else none

/-- The verdict on the signature of an image, package, rotation or token under a P-384 key (1, with SHA-384) or an ML-DSA-65
key (2, empty context): Table 9-3 decides what is malformed (R100, R101, R210, R212, R346). -/
def ownerVerdict (alg : BitVec 8) (key msg sig : Bytes) : SigVerdict :=
  let ok (b : Bool) : SigVerdict := if b then .valid else .notVerified
  if alg = 2 then
    if sig.length ≠ 3309 || !hintOk 2 sig then .malformed else ok (dsaVerify 2 key (dsaMu key msg []) sig)
  else match p384.readSig false sig with
    | some (r, s) =>
      if 1 ≤ r && r < p384.n && 1 ≤ s && s < p384.n then ok (p384.verify (p384.xy key) 1 msg r s) else .malformed
    | none => .malformed

/-! X25519 and Ed25519, RFC 7748 and RFC 8032. -/

def p25519 : Nat := 2 ^ 255 - 19
def mod25519 (a : Nat) : Nat := a % p25519

/-- One step of the Montgomery ladder for a bit of the scalar. -/
def ladderStep (x1 : Nat) (bit : Bool) (t : Nat × Nat × Nat × Nat) : Nat × Nat × Nat × Nat :=
  let p := p25519
  let (x2, z2, x3, z3) := if bit then (t.2.2.1, t.2.2.2, t.1, t.2.1) else t
  let a := (x2 + z2) % p
  let b := subMod p x2 z2
  let aa := a * a % p
  let bb := b * b % p
  let e := subMod p aa bb
  let da := subMod p x3 z3 * a % p
  let cb := (x3 + z3) * b % p
  let r := (aa * bb % p, e * (aa + 121665 * e) % p, (da + cb) * (da + cb) % p,
    x1 * (subMod p da cb * subMod p da cb % p) % p)
  if bit then (r.2.2.1, r.2.2.2, r.1, r.2.1) else r

/-- X25519 of a clamped scalar and a u-coordinate. -/
def x25519Raw (k u : Nat) : Nat :=
  let (x, z, _, _) := (List.range 255).foldl (fun t i => ladderStep u (bitAt k (254 - i)) t) (1, 0, u, 1)
  x * invMod p25519 z % p25519
/-- The scalar clamped (R250). -/
def clamp (k : Bytes) : Nat := leNat k % 2 ^ 254 / 8 * 8 + 2 ^ 254
/-- A peer's u-coordinate with bit 255 cleared (R250). -/
def peerU (u : Bytes) : Nat := leNat u % 2 ^ 255
def x25519 (k u : Bytes) : Bytes := natLe 32 (x25519Raw (clamp k) (peerU u))
/-- u is of small order: a multiple of it by 8 is the identity. -/
def smallU (u : Nat) : Bool :=
  let (_, z, _, _) := (List.range 4).foldl (fun t i => ladderStep u (bitAt 8 (3 - i)) t) (1, 0, u, 1)
  z % p25519 == 0

def edD : Nat := 37095705934669439343138083508754565189542113879843219016388785533085940283555
def edL : Nat := 2 ^ 252 + 27742317777372353535851937790883648493
def sqrtM1 : Nat := 19681161376707505956807079304988542015446066515923890162744021073123829784752

/-- The sum of two affine points of Ed25519, and a multiple. -/
def edAdd (x y : Nat × Nat) : Nat × Nat :=
  let p := p25519
  let t := edD * x.1 % p * x.2 % p * y.1 % p * y.2 % p
  ((x.1 * y.2 + x.2 * y.1) * invMod p (1 + t) % p, (x.2 * y.2 + x.1 * y.1) * invMod p (subMod p 1 t) % p)
def edMul : Nat → Nat → Nat × Nat → Nat × Nat
  | 0, _, _ => (0, 1)
  | f + 1, k, x =>
    let r := edMul f (k / 2) (edAdd x x)
    if k % 2 = 1 then edAdd r x else r
/-- Encode a point, and decode one: `none` for y at or above p or no such point. -/
def edEncode (x : Nat × Nat) : Bytes := natLe 32 (x.2 + x.1 % 2 * 2 ^ 255)
def edDecode (bs : Bytes) : Option (Nat × Nat) :=
  let p := p25519
  let y := leNat bs % 2 ^ 255
  let sign := leNat bs / 2 ^ 255 % 2
  let u := subMod p (y * y) 1
  let v := (edD * y % p * y + 1) % p
  let w := u * invMod p v % p
  let r0 := modPow p 256 w ((p + 3) / 8)
  let r := if r0 * r0 % p = w then r0 else r0 * sqrtM1 % p
  if p ≤ y || r * r % p ≠ w || (r = 0 && sign = 1) then none
  else some (if r % 2 = sign then r else p - r, y)
def edBase : Nat × Nat := (edDecode (natLe 32 (4 * invMod p25519 5 % p25519))).getD (0, 1)
/-- A point of order dividing 8. -/
def edSmall (x : Nat × Nat) : Bool := edMul 4 8 x == (0, 1)
/-- The scalar and prefix of a seed, its public key, a signature, and the cofactored check (R250). -/
def edScalar (seed : Bytes) : Nat := clamp ((digest 2 seed).take 32)
def edPub (seed : Bytes) : Bytes := edEncode (edMul 256 (edScalar seed) edBase)
def edSign (seed m : Bytes) : Bytes :=
  let r := leNat (digest 2 ((digest 2 seed).drop 32 ++ m)) % edL
  let rb := edEncode (edMul 256 r edBase)
  let k := leNat (digest 2 (rb ++ edPub seed ++ m)) % edL
  rb ++ natLe 32 ((r + k * edScalar seed) % edL)
def edVerify (pub m sig : Bytes) : Bool :=
  let k := leNat (digest 2 (sig.take 32 ++ pub ++ m)) % edL
  match edDecode pub, edDecode (sig.take 32) with
  | some a, some r => edMul 4 8 (edMul 256 (leNat (sig.drop 32)) edBase) == edMul 4 8 (edAdd r (edMul 256 k a))
  | _, _ => false

/-! RSA, PKCS #1. -/

/-- m^e mod n for exponents of the length of n. -/
def rsaPow (n m e : Nat) : Nat := modPow n 4097 m e
/-- The inverse of a number modulo another, by the extended Euclidean algorithm. -/
def invEuclid : Nat → Int → Int → Int → Int → Int
  | 0, _, _, s, _ => s
  | f + 1, r0, r1, s0, s1 => if r1 = 0 then s0 else invEuclid f r1 (r0 % r1) s1 (s0 - r0 / r1 * s1)
def modInverse (a m : Nat) : Nat := (invEuclid 8192 a m 1 0 % (m : Int)).toNat

/-- n, d and e of a private key's compact form p ‖ q ‖ e (Table 6-4), k the modulus length. -/
def rsaPrivate (k : Nat) (key : Bytes) : Nat × Nat × Nat :=
  let p := beNat (key.take (k / 2))
  let q := beNat ((key.drop (k / 2)).take (k / 2))
  let e := beNat (key.drop (k / 2 * 2))
  (p * q, modInverse e (Nat.lcm (p - 1) (q - 1)), e)
/-- n and e of a public key n ‖ e. -/
def rsaPublic (k : Nat) (pub : Bytes) : Nat × Nat := (beNat (pub.take k), beNat (pub.drop k))

def mgf1 (h : Nat) (seed : Bytes) (len : Nat) : Bytes :=
  ((List.range ((len + hashBytes h - 1) / hashBytes h)).flatMap fun i => digest h (seed ++ natBe 4 i)).take len

/-- The DER prefix of a DigestInfo by hash number. -/
def digestInfo (h : Nat) : Bytes :=
  let n := hashBytes h
  let oid : Nat := [1, 2, 3, 8, 9, 10].getD h 1
  [0x30, BitVec.ofNat 8 (n + 17), 0x30, 0x0D, 0x06, 0x09, 0x60, 0x86, 0x48, 0x01, 0x65, 0x03, 0x04, 0x02,
   BitVec.ofNat 8 oid, 0x05, 0x00, 0x04, BitVec.ofNat 8 n]

/-- EMSA-PKCS1-v1_5 of a message's digest. -/
def emsaPkcs1 (k h : Nat) (dg : Bytes) : Bytes :=
  let t := digestInfo h ++ dg
  [0, 1] ++ List.replicate (k - t.length - 3) 0xFF ++ [0] ++ t
/-- EMSA-PSS of a message's digest with a salt of h bytes, for a modulus of 8k bits. -/
def emsaPss (k h : Nat) (dg salt : Bytes) : Bytes :=
  let hl := hashBytes h
  let hh := digest h (zeros 8 ++ dg ++ salt)
  let db := zeros (k - hl - salt.length - 2) ++ [1] ++ salt
  let x := xorBytes db (mgf1 h hh db.length)
  (match x with | b :: l => (b &&& 0x7F) :: l | [] => []) ++ hh ++ [0xBC]
/-- A recovered PSS block verifies for a digest with a salt of h bytes and no other. -/
def pssOk (k h : Nat) (dg em : Bytes) : Bool :=
  let hl := hashBytes h
  let n := k - hl - 1
  let hh := (em.drop n).take hl
  let db0 := xorBytes (em.take n) (mgf1 h hh n)
  let db := match db0 with | b :: l => (b &&& 0x7F) :: l | [] => []
  let salt := db.drop (n - hl)
  em.getLastD 0 == 0xBC && (em.headD 0).toNat < 128 && db.take (n - hl) == zeros (n - hl - 1) ++ [1] &&
    hh == digest h (zeros 8 ++ dg ++ salt)
/-- OAEP encoding with a seed, and decoding. -/
def oaepEncode (k h : Nat) (m label seed : Bytes) : Bytes :=
  let hl := hashBytes h
  let db := digest h label ++ zeros (k - m.length - 2 * hl - 2) ++ [1] ++ m
  let x := xorBytes db (mgf1 h seed db.length)
  [0] ++ xorBytes seed (mgf1 h x hl) ++ x
def oaepDecode (k h : Nat) (em label : Bytes) : Option Bytes :=
  let hl := hashBytes h
  let x := em.drop (1 + hl)
  let seed := xorBytes ((em.drop 1).take hl) (mgf1 h x hl)
  let db := xorBytes x (mgf1 h seed (k - hl - 1))
  let rest := (db.drop hl).dropWhile (· == 0)
  if em.headD 1 ≠ 0 || db.take hl ≠ digest h label || rest.headD 0 ≠ 1 then none else some (rest.drop 1)

/-! The prime search of an RSA generation, FIPS 186-5 A.1.3, on the draws of Table 10-4. -/

/-- One base of the Miller–Rabin test of an odd number. -/
def millerRabin (n base : Nat) : Bool :=
  let b := base % (n - 3) + 2
  let a := (List.range 2048).foldl (fun a _ => if (n - 1) / 2 ^ a % 2 = 0 then a + 1 else a) 0
  let x := modPow n 2049 b ((n - 1) / 2 ^ a)
  x == 1 || (List.range a).any fun j => modPow n 2049 x (2 ^ j) == n - 1

/-- A prime search: p and q once found, the candidate in test with the bases it must still pass, the first draw's second
candidate, and whether the consistency test's salt is drawn. -/
structure RsaSearch where
  p : Option Nat
  q : Option Nat
  cand : Option Nat
  left : Nat
  spare : Option Nat
  tested : Bool
  deriving DecidableEq, Repr

/-- A candidate of `k` bits is odd, in range, coprime to e = 65,537 and, for q, far enough from p. -/
def RsaSearch.offer (k rounds c : Nat) (x : RsaSearch) : RsaSearch :=
  let c := c / 2 * 2 + 1
  let far := match x.p with | some p => decide (2 ^ (k - 100) < (p - c) + (c - p)) | none => true
  if 2 ^ (2 * k - 1) ≤ c * c && c < 2 ^ k && (c - 1) % 65537 ≠ 0 && far then { x with cand := some c, left := rounds }
  else { x with cand := none }

/-- A candidate is prime. -/
def RsaSearch.found (k rounds c : Nat) (x : RsaSearch) : RsaSearch :=
  match x.p, x.spare with
  | some _, _ => { x with q := some c, cand := none }
  | none, some y => { x with p := some c, cand := none, spare := none }.offer k rounds y
  | none, none => { x with p := some c, cand := none }

/-- One further draw: a base of the candidate in test, the salt once both primes stand, else a candidate. -/
def RsaSearch.next (k rounds : Nat) (x : RsaSearch) (drawn : Bytes) : RsaSearch :=
  if x.q.isSome then { x with tested := true }
  else match x.cand with
    | some c =>
      if !millerRabin c (beNat drawn) then { x with cand := none }
      else if x.left ≤ 1 then x.found k rounds c else { x with left := x.left - 1 }
    | none => x.offer k rounds (beNat drawn)

/-- Bases a candidate passes, for a modulus of `bits` bits. -/
def rsaRounds (bits : Nat) : Nat := Config.rsaBases bits + 1

/-- The search after the draws so far, the first of them a pair of candidates, for a modulus of 4 * param bytes. -/
def rsaSearch (param : Nat) (draws : List Bytes) : RsaSearch :=
  let k := 16 * param
  let n := rsaRounds (32 * param)
  let x0 : RsaSearch := { p := none, q := none, cand := none, left := 0, spare := none, tested := false }
  match draws with
  | [] => x0
  | d :: l =>
    l.foldl (RsaSearch.next k n)
      ({ x0 with spare := some (beNat (d.drop (2 * param))) }.offer k n (beNat (d.take (2 * param))))

/-- The compact form p ‖ q ‖ e of a search that has ended (Table 6-4). -/
def rsaKey (param : Nat) (x : RsaSearch) : Bytes :=
  natBe (2 * param) (x.p.getD 0) ++ natBe (2 * param) (x.q.getD 0) ++ natBe 4 65537

/-! ML-DSA and ML-KEM: what the edge checks read of an encoding (Table 9-3, FIPS 203, FIPS 204). -/

/-- The modulus check of an encapsulation key: every 12-bit coefficient is below 3,329. -/
def ekOk (p : Nat) (ek : Bytes) : Bool :=
  let n := 384 * (p + 1)
  let x := leNat (ek.take n)
  (List.range (256 * (p + 1))).all fun i => fieldNat x (12 * i) 12 < 3329

/-! Public parts, R164. -/

/-- Bytes of a public key by its private algorithm and parameter. -/
def mlPubLen (alg p : Nat) : Nat :=
  if alg = 0x38 then if p = 1 then 1312 else if p = 2 then 1952 else 2592 else mlkemKey p

/-- A public key's encoding, n ‖ e for RSA with a modulus of k bytes. -/
def rsaPub (k : Nat) (key : Bytes) : Bytes :=
  let (n, _, e) := rsaPrivate k key
  natBe k n ++ natBe 4 e

/-- The public part of a key from its data (Table 6-4); a symmetric key has none. -/
def publicOf (curves : List Curve) (alg param : Nat) (key : Bytes) : Bytes :=
  if alg = 0x20 then (domainOf curves param).pub (beNat key)
  else if alg = 0x24 then edPub key
  else if alg = 0x26 then natLe 32 (x25519Raw (clamp key) 9)
  else if alg = 0x30 then rsaPub (4 * param) key
  else if alg = 0x38 then (dsaExpand param key).pub
  else if alg = 0x3C then kemPub param key
  else if alg < 0x20 then []
  else key

/-- Bytes of key data in a block by algorithm and parameter (Table 6-4). -/
def dataLen (curves : List Curve) (alg param : Nat) : Nat :=
  if alg < 0x20 then keyBytes alg param
  else if alg = 0x20 then byteLen (domainOf curves param).n
  else if alg = 0x21 then 1 + 2 * byteLen (domainOf curves param).p
  else if alg = 0x30 then 4 * param / 2 * 2 + 4
  else if alg = 0x31 then 4 * param + 4
  else if alg = 0x39 then mlPubLen 0x38 param
  else if alg = 0x3C then 64
  else if alg = 0x3D then mlkemKey param
  else 32

/-- The defect of key data that R257 reports, with its sub-reason: VALUE_RANGE, POINT or ENCODING. -/
def keyDefect (curves : List Curve) (alg param : Nat) (key : Bytes) : Option (BitVec 8) :=
  let d := domainOf curves param
  let k := 4 * param
  if alg = 0x21 && key = [0] then some 6
  else if key.length ≠ dataLen curves alg param then some 7
  else if alg = 0x20 then if 1 ≤ beNat key && beNat key < d.n then none else some 5
  else if alg = 0x21 then
    let (x, y) := d.xy key
    if key.headD 0 ≠ 4 then some 7
    else if d.p ≤ x || d.p ≤ y then some 5 else if d.onCurve x y then none else some 6
  else if alg = 0x25 then
    match edDecode key with | some x => if edSmall x then some 6 else none | none => some 6
  else if alg = 0x27 then
    if p25519 ≤ leNat key then some 5 else if smallU (leNat key) then some 6 else none
  else if alg = 0x31 then
    let (n, e) := rsaPublic k key
    if n % 2 = 1 && bitLen n = 8 * k && e % 2 = 1 && 3 ≤ e then none else some 5
  else if alg = 0x30 then
    let p := beNat (key.take (k / 2))
    let q := beNat ((key.drop (k / 2)).take (k / 2))
    let e := beNat (key.drop (k / 2 * 2))
    if decide (Nat.Prime p) && decide (Nat.Prime q) && bitLen (p * q) = 8 * k &&
        2 ^ (8 * k / 2 - 100) < (p - q) + (q - p) && e % 2 = 1 && 65537 ≤ e then none else some 5
  else if alg = 0x3D then if ekOk param key then none else some 7
  else none

end Sys2Proof.Machine
end

