-- ==== Sys2Proof/Machine/KeyOps.lean ====
section
/-! DEFINITION. Keys: numbers, tiers, check 9, use and counter reservations (R157 to R192, R220, R226, R239 to
R242, R249). -/
namespace Sys2Proof.Machine

/-- The number of a key: its tenant and handle (R157). -/
def keyNo (t : Fn) (h : Nat) : Nat := t.toNat * 2 ^ 24 + h % 2 ^ 24
def keyTenant (k : Nat) : Fn := BitVec.ofNat 8 (k / 2 ^ 24)
def keyHandle (k : Nat) : Nat := k % 2 ^ 24

/-- The resident record of a key. -/
def State.krec (s : State) (k : Nat) : Option KeyRec := smFind k s.ks.recs
/-- Change a resident record. -/
def State.mRec (k : Nat) (f : KeyRec → KeyRec) (s : State) : State :=
  match smFind k s.ks.recs with
  | some r => s.mKs fun q => { q with recs := smInsert k (f r) q.recs }
  | none => s
/-- Change the counter space of a resident key. -/
def State.mSpace (k : Nat) (f : CounterSpace → CounterSpace) (s : State) : State :=
  match smFind k s.ks.spaces with
  | some r => s.mKs fun q => { q with spaces := smInsert k (f r) q.spaces }
  | none => s

/-! Key record flags, Table 6-7. -/
def KeyRec.ephemeral (r : KeyRec) : Bool := r.flags.getLsbD 0
def KeyRec.nonExport (r : KeyRec) : Bool := r.flags.getLsbD 1
def KeyRec.critical (r : KeyRec) : Bool := r.flags.getLsbD 3
def KeyRec.compat610 (r : KeyRec) : Bool := r.flags.getLsbD 4
def KeyRec.limited (r : KeyRec) : Bool := r.flags.getLsbD 6
def KeyRec.ivgen (r : KeyRec) : Bool := r.flags.getLsbD 7

/-- Key algorithm kinds of Table 6-4. -/
def isAes (a : Nat) : Bool := a == 1 || a == 2 || a == 3
def isTdes (a : Nat) : Bool := a == 8 || a == 9

/-- A key algorithm and parameter of Table 6-4. -/
def algParamOk (alg param : Nat) : Bool :=
  if isAes alg || isTdes alg then param == 0
  else if alg = 0x10 then 16 ≤ param && param ≤ 64
  else if alg = 0x20 || alg = 0x21 then (1 ≤ param && param ≤ 3) || (0x10 ≤ param && param ≤ 0x1F)
  else if 0x24 ≤ alg && alg ≤ 0x27 then param == 4
  else if alg = 0x30 then 64 ≤ param && param ≤ 128
  else if alg = 0x31 then 32 ≤ param && param ≤ 128
  else if alg = 0x38 || alg = 0x39 || alg = 0x3C || alg = 0x3D then 1 ≤ param && param ≤ 3
  else false

/-- Extension records of the resident form (Table 6-4, R164); a tenant curve counts as the built-in curve of
its size. -/
def extRecords (alg param : Nat) (bits : Nat) : Nat :=
  if alg = 0x10 then if param ≤ 32 then 0 else if param ≤ 60 then 1 else 2
  else if alg = 0x20 then
    if param = 1 then 1 else if param = 2 then 2 else if param = 3 then 3
    else if bits ≤ 256 then 1 else if bits ≤ 384 then 2 else 3
  else if alg = 0x21 then
    if param = 3 || (param ≥ 0x10 && bits > 384) then 2 else 1
  else if alg = 0x24 || alg = 0x26 then 1
  else if alg = 0x30 then (6 * (4 * param) + 4 + 119) / 120
  else if alg = 0x31 then (4 * param + 4 + 119) / 120
  else if alg = 0x38 then if param = 1 then 12 else if param = 2 then 17 else 23
  else if alg = 0x39 then if param = 1 then 11 else if param = 2 then 17 else 22
  else if alg = 0x3C then if param = 1 then 8 else if param = 2 then 11 else 15
  else if alg = 0x3D then if param = 1 then 7 else if param = 2 then 10 else 14
  else 0

/-- The tenant curves in force (R121). -/
def curvesOf (s : State) (fn : Fn) : List Curve := match (s.tabs fn).curve with | some (_, c) => c | none => []

/-- Extension records of a key of a tenant. -/
def extOf (s : State) (t : Fn) (alg param : Nat) : Nat :=
  let curves := match (s.tabs t).curve with | some (_, cs) => cs | none => []
  extRecords alg param ((curves.find? (·.id.toNat == param)).map (·.bits.toNat) |>.getD 0)

/-! Key data and its shares, R164, R171. -/

/-- The key data is present; it is not once zeroised (R191). -/
def KeyRec.material (r : KeyRec) : Bool := !r.key.a.isEmpty
/-- An algorithm of private or secret key data. -/
def secretAlg (alg : Nat) : Bool := alg < 0x20 || alg % 2 == 0

/-- The resident form of key data: an RSA key's CRT numbers are recomputed at unwrap (R164, R166). -/
def residentForm (alg param : Nat) (key : Bytes) : Bytes :=
  if alg = 0x30 then
    let h := 2 * param
    let (_, d, _) := rsaPrivate (4 * param) key
    let p := beNat (key.take h)
    let q := beNat ((key.drop h).take h)
    key.take (2 * h) ++ natBe h (d % (p - 1)) ++ natBe h (d % (q - 1)) ++ natBe h (modInverse q p)
  else key

/-- KR.SHARES: the two shares of a secret of 32 bytes or less, each in 32 bytes; a public key as short stands there as it is
(R164, Table 6-6). -/
def KeyRec.shareBytes (r : KeyRec) : Bytes :=
  if 32 < r.key.a.length then zeros 64
  else if secretAlg r.alg.toNat then fit 32 r.key.a ++ fit 32 r.key.b
  else fit 64 r.key.value
/-- What its extension records carry: a larger secret's two shares, then the public part; of a public key that alone (R164). -/
def KeyRec.payload (r : KeyRec) : Bytes :=
  if r.key.a.length ≤ 32 then (if secretAlg r.alg.toNat then r.pub else [])
  else if !secretAlg r.alg.toNat then r.key.value
  else
    let x := residentForm r.alg.toNat r.param.toNat r.key.value
    (if r.alg = 0x30 then xorBytes x (fit x.length r.key.b) ++ fit x.length r.key.b else r.key.a ++ r.key.b) ++ r.pub

/-- A key record (Table 6-6). -/
def KeyRec.bytes (t : Fn) (h : Nat) (r : KeyRec) : Bytes :=
  [r.alg, r.param, r.state.setWidth 8, r.flags] ++ natLe 2 r.usage.toNat ++ [t, r.ext] ++ natLe 4 h ++
    natLe 4 r.gen.toNat ++ natLe 4 r.parent.toNat ++ natLe 4 r.parentGen.toNat ++ natLe 4 r.uses.toNat ++
    natLe 4 r.limit.toNat ++ natLe 8 r.ivHwm.toNat ++ natLe 4 r.boot.toNat ++ natLe 2 r.cell.toNat ++
    natLe 2 r.ledger.toNat ++ natLe 4 (r.chain.headD 0xFFFFFFFF) ++ natBe 3 r.kcv.toNat ++ zeros 9 ++ r.shareBytes
/-- Its extension records: the next one's index, and 120 bytes of the payload each (R171). -/
def KeyRec.extBytes (r : KeyRec) : List Bytes :=
  (List.range r.chain.length).map fun i =>
    natLe 4 (r.chain.getD (i + 1) 0xFFFFFFFF) ++ zeros 4 ++ fit 120 ((r.payload.drop (120 * i)).take 120)

/-! Key state table, R175, R176. -/

/-- The default key state table: permitted usage and targets (Table 6-9). -/
def kstDefault (st : Nat) : Nat × Nat :=
  if st = 0 then (0, 0x12) else if st = 1 then (0x7FFF, 0x1C) else if st = 2 then (0, 0x1A)
  else if st = 3 then (0x0CAA, 0x10) else (0, 0)

/-- A key state table: the default ANDed with a tenant's policy (R176). -/
def kst (policy : Option (List (BitVec 32))) (st : Nat) : Nat × Nat :=
  let d := kstDefault st
  match policy with
  | none => d
  | some pol =>
    let e := (pol.getD st 0).toNat
    (d.1 &&& fieldNat e 0 16, d.2 &&& fieldNat e 16 8)

/-! Usage, Tables 6-8, 8-1, 9-1. -/

/-- The usage bits an operation requires (Table 6-8); a release verify uses the signing key under SIGN. -/
def usageNeed (st : StepDef) : Nat :=
  let op := st.op.toNat
  if verifies op && st.gstat = 2 then 2 ^ 6
  else if op = 0x01 || op = 0x03 || op = 0x4E then 2 ^ 0
  else if op = 0x02 || op = 0x04 || op = 0x4D then 2 ^ 1
  else if op = 0x05 then 2 ^ 4
  else if op = 0x06 then 2 ^ 5
  else if (releaseOp op).isSome || combined op then 2 ^ 6
  else if op = 0x41 || op = 0x44 || op = 0x4B || op = 0x51 then 2 ^ 7
  else if op = 0x08 || op = 0x1C then 2 ^ 8
  else if op = 0x11 || op = 0x12 then 2 ^ 9
  else if op = 0x10 then 2 ^ 10
  else if op = 0x18 || op = 0x19 || op = 0x1A then 2 ^ 11
  else if op = 0x09 || op = 0x0A then 2 ^ 12
  else if op = 0x48 || op = 0x54 || op = 0x55 then 2 ^ 13
  else 0

/-- The usage bits an admin peal requires of its key slots (Tables 6-8, 6-12, 7-3). -/
def adminUsage (id slot : Nat) : Nat :=
  if id = 0xD6 || (id = 0xEC && slot = 0) then 2 ^ 8
  else if id = 0xE0 || id = 0xE6 then 2 ^ 3
  else if (id = 0xE1 || id = 0xEC) && slot = 1 then 2 ^ 2
  else if id = 0xF8 then 2 ^ 14
  else 0

/-- A key's algorithm fits an admin peal's use of it: the parent and the transport keys are symmetric, as the
derivation and X9.143 need (R172, R184, R185, R216). -/
def adminAlgFits (id slot alg : Nat) : Bool :=
  if id = 0xD6 then isAes alg || isTdes alg
  else if id = 0xE0 || id = 0xE6 || ((id = 0xE1 || id = 0xEC) && slot = 1) then isAes alg || isTdes alg
  else if id = 0xEC then isAes alg || alg == 8
  else true

/-- A key algorithm fits a step (Tables 8-1, 9-1, R220, R249). -/
def algFits (st : StepDef) (builtIn : Bool) (alg param : Nat) (usage : Nat) : Bool :=
  let op := st.op.toNat
  let p := st.param.toNat
  let m := fieldNat p 0 4
  let rel := verifies op && st.gstat == 2
  let macLen := fieldNat p 8 7
  let fixedOut := st.outLen.toNat ≤ 0x2000
  if op = 0x07 || op = 0x60 || op = 0x68 then false
  else if op = 0x01 then isAes alg || (isTdes alg && !bitAt p 4)
  else if op = 0x02 then isAes alg || isTdes alg
  else if op = 0x03 || op = 0x04 then isAes alg
  else if op = 0x05 || op = 0x06 then
    if m ≤ 1 then isAes alg || (isTdes alg && macLen ≤ 8)
    else if m = 2 then alg == 8 else alg == 0x10
  else if op = 0x08 || op = 0x09 || op = 0x0A || op = 0x12 then isAes alg
  else if op = 0x10 then if m = 4 then isAes alg else isTdes alg
  else if op = 0x11 then isTdes alg
  else if op = 0x18 || op = 0x19 || op = 0x1A then isAes alg || alg == 8
  else if op = 0x1C then (if bitAt p 4 then alg == 8 else isAes alg) && usage == 2 ^ 8
  else if op = 0x40 || op = 0x42 then alg == 0x20 && param == fieldNat p 0 8
  else if op = 0x41 then (alg == 0x21 || (rel && alg == 0x20)) && param == fieldNat p 0 8
  else if op = 0x43 || op = 0x45 then alg == 0x24
  else if op = 0x44 then alg == 0x25 || (rel && alg == 0x24)
  else if op = 0x48 then if p = 4 then alg == 0x26 else alg == 0x20 && param == p
  else if op = 0x4A || op = 0x4C then alg == 0x30 && (!fixedOut || st.outLen.toNat == 4 * param)
  else if op = 0x4B then
    ((alg == 0x31 && (param == 32 || 64 ≤ param)) || (rel && alg == 0x30)) && (!builtIn || st.inB.len == 0 || st.inB.len.toNat == 4 * param)
  else if op = 0x4D then alg == 0x30
  else if op = 0x4E then alg == 0x31 && 64 ≤ param
  else if op = 0x50 || op = 0x52 then alg == 0x38 && param == p
  else if op = 0x51 then (alg == 0x39 || (rel && alg == 0x38)) && param == p
  else if op = 0x54 then alg == 0x3D && param == p
  else if op = 0x55 then alg == 0x3C && param == p
  else true

/-- The algorithm policy bytes 0x01 to 0x05 of a tenant (Table 8-2). -/
def algPolicy (s : State) (t : Fn) : BitVec 40 :=
  match (s.tenant t).algPolicy with
  | some b => b
  | none => BitVec.ofNat 40 (0x06 + leNat (s.fuses.serial.drop 13) * 256)

/-- The policies in force for a tenant, as a peal captures them at its admission (R176, R226). -/
def policiesOf (s : State) (t : Fn) : Policies := { keyTable := smFind t.toNat s.ks.policies, alg := algPolicy s t, pendingGen := (s.tenant t).pendingKek.map (·.gen) }

/-- The tenant's algorithm policy forbids the step (R226). -/
def policyForbids (pol : Nat) (st : StepDef) (alg : Nat) : Bool :=
  (st.op == 0x01 && alg == 8 && !bitAt pol 0) || (st.op == 0x01 && alg == 9 && !bitAt pol 1) ||
  (st.op == 0x05 && isTdes alg && !bitAt pol 2) ||
  (st.op == 0x01 && fieldNat st.param.toNat 0 4 == 2 && !bitAt st.param.toNat 4 && !bitAt pol 3)

/-- The steps of an entry that use a key slot. -/
def stepsOfSlot (e : PealEntry) (slot : Nat) : List StepDef := e.steps.filter (·.keyA.toNat == slot)

/-! Key outputs, R174, R252. -/

/-- Algorithm and usage of a step's key output, from those of its own key. -/
def outputKey (st : StepDef) (k : Nat × Nat) : Nat × Nat :=
  let p := st.param.toNat
  if st.op = 0x08 then (fieldNat p 0 8, if bitAt k.2 8 then k.2 - 2 ^ 8 else k.2)
  else if st.op = 0x18 then (k.1, 2 ^ 11)
  else if st.op = 0x1C then
    (if bitAt p 4 then 8 else 1,
     if fieldNat p 0 2 = 0 then 2 ^ 9 + 2 ^ 10 else if fieldNat p 0 2 = 1 then 2 ^ 4 + 2 ^ 5 else 2 ^ 0 + 2 ^ 1)
  else (3, 2 ^ 8)

/-- Algorithm and usage of the key a step uses when that key is the one in a slot, or derives from it: 0xF stands
for no key at all. -/
def rootedKey (sts : List StepDef) (slot : Nat) (k : Nat × Nat) : Nat → StepDef → Option (Nat × Nat)
  | 0, _ => none
  | n + 1, st =>
    if st.keyA.toNat = slot then some k
    else if st.keyA = 4 then
      match sts[st.ksrc.toNat]? with
      | some q => (rootedKey sts slot k n q).map (outputKey q)
      | none => none
    else none

/-- The steps that use a key output derived from a slot's key, with the output's algorithm and usage. -/
def derivedUses (sts : List StepDef) (slot : Nat) (k : Nat × Nat) : List (StepDef × Nat × Nat) :=
  sts.filterMap fun st => if st.keyA = 4 then (rootedKey sts slot k 33 st).map fun x => (st, x.1, x.2) else none

/-- A key output fits the step that uses it: usage, algorithm, and no generation, for it has no counters (R172,
R174). -/
def derivedFits (builtIn : Bool) (u : StepDef × Nat × Nat) : Bool :=
  u.2.2 &&& usageNeed u.1 == usageNeed u.1 && algFits u.1 builtIn u.2.1 (if u.2.1 = 0x10 then 32 else 0) u.2.2 &&
    !generates u.1

/-- EMV_ARQC_VER and EMV_ARPC_GEN take the session key of an EMV_SKD step and no other key (Table 8-1, R220). -/
def sessionKeyed (e : PealEntry) (st : StepDef) : Bool :=
  (st.op ≠ 0x19 && st.op ≠ 0x1A) ||
    (st.keyA == 4 && (match e.steps[st.ksrc.toNat]? with | some q => q.op == 0x18 | none => false))

/-! Check 9, R182, R190 to R192. -/

/-- The standing a key's revocation set entry gives to a peal of an admission sequence: the lowest generation
it accepts and whether it is revoked (R190, R192). -/
def rsetFor (s : State) (k seq : Nat) : Nat × Bool :=
  match smFind k s.ks.rset with
  | none => (0, false)
  | some e =>
    match e.barrier with
    | some b => if seq ≤ b then (e.minGen.toNat - 1, match e.before_ with | some x => x.2 | none => false)
                else (e.minGen.toNat, e.revoked)
    | none => (e.minGen.toNat, e.revoked)

/-- The state a key has for a peal of an admission sequence (R190). -/
def stateFor (s : State) (k seq : Nat) (r : KeyRec) : Nat :=
  match smFind k s.ks.rset with
  | some e =>
    match e.barrier, e.before_ with
    | some b, some x => if seq ≤ b then x.1.toNat else r.state.toNat
    | _, _ => r.state.toNat
  | none => r.state.toNat

/-- A record's parent is revoked for a peal of an admission sequence, so that it is stale (R191). -/
def staleFor (s : State) (k seq : Nat) (r : KeyRec) : Bool :=
  r.parent ≠ 0xFFFFFFFF && (rsetFor s (keyNo (keyTenant k) r.parent.toNat) seq).2

/-- The ledger and cell indices of a record name its own entries (R160). -/
def indicesMatch (s : State) (k : Nat) (r : KeyRec) : Bool :=
  ((!r.limited && r.ledger == 0xFFFF) ||
    (match smFind r.ledger.toNat s.ks.ledger with | some e => e.key == k && e.gen == r.gen | none => false)) &&
  ((!r.ivgen && r.cell == 0xFFFF) ||
    (match smFind r.cell.toNat s.ks.cells with | some e => e.key == k && e.gen == r.gen | none => false))

/-- Committed uses: the ledger's count for a LIMITED key, else the record's (R178, R179). -/
def committedUses (s : State) (r : KeyRec) : Nat :=
  if r.limited then (match smFind r.ledger.toNat s.ks.ledger with | some e => e.uses.toNat | none => r.uses.toNat)
  else r.uses.toNat

/-- The revocation set refuses a key's record for a peal of an admission sequence (R191, R192). -/
def setRefuses (s : State) (k seq : Nat) (r : KeyRec) : Bool :=
  (rsetFor s k seq).2 || decide (r.gen.toNat < (rsetFor s k seq).1)

/-- A state change the key state table does not permit; DESTROYED is always permitted (R176). -/
def transitionBarred (policy : Option (List (BitVec 32))) (st target : Nat) : Bool :=
  target ≤ 4 && !(bitAt (kst policy st).2 target || (target == 4 && st ≠ 4))

/-- Items 2 to 7 of R182 for a key slot of a peal: the status with which it fails, if any. `target` is the state an inline
input of peal 0x00D8 asks for. -/
def check9 (s : State) (pol : Policies) (target : Option Nat) (seq : Nat) (e : PealEntry) (slot k : Nat)
    (tier3 : Bool) (r : KeyRec) : Option Stat :=
  let id := e.id.toNat
  let (minGen, revoked) := rsetFor s k seq
  let sts := stepsOfSlot e slot
  let need := (sts.map usageNeed).foldl (· ||| ·) (adminUsage id slot)
  let onlyThree := id == 0xE8
  let permitted := (kst pol.keyTable (stateFor s k seq r)).1
  let barred := id == 0xD8 && (match target with | some t => transitionBarred pol.keyTable (stateFor s k seq r) t | none => false)
  let usage := r.usage.toNat
  let der := derivedUses e.steps slot (r.alg.toNat, usage)
  let bdk := !(id == 0xEC && slot == 0) || usage == 2 ^ 8
  if revoked then some (St.keyRevoked, 1)
  else if r.gen.toNat < minGen then some (St.keyUnusable, 1)
  else if staleFor s k seq r then some (St.keyRevoked, 2)
  else if tier3 && !indicesMatch s k r then some (St.keyFault, 3)
  else if r.ephemeral && r.boot ≠ s.ks.boot then some (St.keyUnusable, 4)
  else if onlyThree then none
  else if permitted &&& need ≠ need then some (St.keyUnusable, 1)
  else if usage &&& need ≠ need || !bdk || !adminAlgFits id slot r.alg.toNat ||
      !(sts.all fun st => algFits st (id < 0x100) r.alg.toNat r.param.toNat usage && (!generates st || r.ivgen) &&
        sessionKeyed e st) || !der.all (fun u => derivedFits (id < 0x100) u && sessionKeyed e u.1) then
    some (St.keyUnusable, 2)
  else if barred || (sts.any fun st => policyForbids pol.alg.toNat st r.alg.toNat) ||
      der.any (fun u => policyForbids pol.alg.toNat u.1 u.2.1) then some (St.policyDenied, 2)
  else if id ≠ 0xF8 && r.limited && r.limit.toNat ≤ committedUses s r + r.usesReserved then
    some (St.keyUnusable, 3)
  else none

/-- Whether a peal reserves a use on its keys: every peal but 0x00E8 and 0x00F8 (R143, R213, R218). -/
def reservesUses (id : Nat) : Bool := id ≠ 0xE8 && id ≠ 0xF8

/-- The Toll firmware digest: SHA-384 of the ROM and the store image (R330). -/
def tollDigest (s : State) : Bytes := sha384 ((List.range Config.tollRomLen).map Config.tollRomByte ++ s.toll.image)

/-- `n` bytes of noise: free values, each call of them a new one (notes/assumptions/4.md). -/
def noiseBytes (n : Nat) (s : State) : Bytes × State :=
  ((List.range n).map fun j => Config.freeByte (s.rng.calls + j), s.mRng fun g => { g with calls := g.calls + n })
/-- Byte `i` of a masking generator's stream: AES-128 in counter mode (R289). -/
def maskByte (key : BitVec 128) (i : Nat) : Byte :=
  bitsAt (Config.aes (natBe 16 key.toNat) (BitVec.ofNat 128 (i / 16))).toNat (8 * (15 - i % 16)) 8
/-- `n` bytes of the device-level masking generator; of noise, where it is not keyed yet (R289). -/
def freshBytes (n : Nat) (s : State) : Bytes × State :=
  match s.rng.maskKey with
  | some k => ((List.range n).map fun j => maskByte k (s.rng.maskPos + j), s.mRng fun g => { g with maskPos := g.maskPos + n })
  | none => noiseBytes n s
/-- `n` bytes of a cluster's masking generator (R289). -/
def clusterBytes (c : ClusterNo) (n : Nat) (s : State) : Bytes × State :=
  match (s.cluster c).maskKey with
  | some k =>
    ((List.range n).map fun j => maskByte k ((s.cluster c).maskPos + j), s.mCluster c fun x => { x with maskPos := x.maskPos + n })
  | none => noiseBytes n s

/-! Tiers, R165 to R170. -/

/-- A key is in the tier-1 cache of a cluster. -/
def inTier1 (s : State) (c : ClusterNo) (k : Nat) : Bool := (s.cluster c).cache.any (·.key == k)

/-- The number under which the key output of a step stands among a cluster's keys, above every key number (R110). -/
def outKey (p i : Nat) : Nat := 2 ^ 32 + 32 * p + i

/-- The keys that peals in flight on a cluster bind, and the key outputs that stand in its slots; a failed peal holds none
(R110, R168, R182). -/
def lockedIn (s : State) (c : ClusterNo) : List Nat :=
  ((s.peals.filter fun p => p.2.cluster == c && p.2.phase ≠ .failed).flatMap fun p => p.2.keys.map (·.key)) ++
    ((s.cluster c).cache.filter fun x => decide (2 ^ 32 ≤ x.key)).map (·.key)
/-- The keys that any peal in flight binds. -/
def lockedKeys (s : State) : List Nat := s.peals.flatMap fun p => p.2.keys.map (·.key)

/-- The least recently used slot of a cache that may be replaced; with `units`, of those that hold extension units. -/
def lruSlot (locked : List Nat) (units : Bool) : List CacheSlot → Option CacheSlot
  | [] => none
  | x :: xs =>
    let r := lruSlot locked units xs
    if x.pinned || locked.contains x.key || (units && x.units.isEmpty) then r
    else match r with
      | some y => if y.lastUse < x.lastUse then some y else some x
      | none => some x

/-- Extension units in use. -/
def unitsUsed (l : List CacheSlot) : Nat := (l.map (·.units.length)).sum

/-- Room for one more key with `ext` extension units beside `outs` key outputs: the extension cache replaces its least
recently used units, then the slots theirs (R110, R169). -/
def makeRoom (locked : List Nat) (ext outs : Nat) : Nat → List CacheSlot → List CacheSlot
  | 0, l => l
  | n + 1, l =>
    let short := decide (2048 < unitsUsed l + ext)
    if !short && l.length + outs < 1024 then l
    else match lruSlot locked short l with
      | some x => makeRoom locked ext outs n (l.filter (·.key ≠ x.key))
      | none => l

/-- The lowest `n` numbers not in use. -/
def lowestFree (n : Nat) (used : List Nat) : List Nat :=
  ((List.range (used.length + n)).filter fun i => !used.contains i).take n

/-- Key outputs a peal's steps produce (R110, Table 4-8). -/
def keyOuts (e : PealEntry) : Nat := (e.steps.filter fun st => [0x08, 0x18, 0x1C, 0x48, 0x54, 0x55].contains st.op.toNat).length
/-- Key slots of a cluster that key outputs of its peals have still to take (R110). -/
def keyOutsHeld (s : State) (c : ClusterNo) : Nat :=
  ((s.peals.filter fun p => p.2.cluster == c && p.2.phase ≠ .failed).map fun p => keyOuts p.2.entry).sum -
    ((s.cluster c).cache.filter fun x => decide (2 ^ 32 ≤ x.key)).length

/-- Fill a key into a cluster's tier 1, or note its use there (R169, R170). -/
def fillTier1 (c : ClusterNo) (k : Nat) (s : State) : State :=
  match s.krec k with
  | none => s
  | some r =>
    let locked := lockedIn s c
    let outs := keyOutsHeld s c
    let (mask, s1) := clusterBytes c r.key.b.length s
    s1.mCluster c fun cl =>
      if cl.cache.any (·.key == k) then
        { cl with cache := cl.cache.map fun x => if x.key = k then { x with lastUse := s.clk.now } else x }
      else
        let l := makeRoom locked r.ext.toNat outs 1024 cl.cache
        let pin := r.pinned && decide ((l.filter (·.pinned)).length < 256)
        { cl with cache := l ++ [{ key := k, slot := (lowestFree 1 (l.map (·.slot))).headD 0,
                                   units := lowestFree r.ext.toNat (l.flatMap (·.units)), alg := r.alg, usage := r.usage,
                                   shares := r.key.refresh mask, lastUse := s.clk.now, pinned := pin }] }

/-- A key output takes a slot of the cluster for the life of its peal (R110). -/
def placeOut (c : ClusterNo) (p i : Nat) (key : Nat × Nat) (x : Shares) (s : State) : State :=
  let locked := lockedIn s c
  let outs := keyOutsHeld s c - 1
  s.mCluster c fun cl =>
    let l := makeRoom locked 0 outs 1024 cl.cache
    { cl with cache := l ++ [{ key := outKey p i, slot := (lowestFree 1 (l.map (·.slot))).headD 0, units := [],
                               alg := BitVec.ofNat 8 key.1, usage := BitVec.ofNat 16 key.2, shares := x,
                               lastUse := s.clk.now, pinned := false }] }

/-- The key outputs of a peal are zeroised as it ends (R110). -/
def dropOuts (p : Nat) (s : State) : State :=
  s.mClusters fun cs => cs.map fun cl =>
    { cl with cache := cl.cache.filter fun x => !(outKey p 0 ≤ x.key && x.key < outKey (p + 1) 0) }

/-- Remove a key's tier-1 copies from every cluster. -/
def evictTier1 (k : Nat) (s : State) : State :=
  s.mClusters fun cs => cs.map fun cl => { cl with cache := cl.cache.filter (·.key ≠ k) }

/-- Remove a resident record with its tier-1 copies and counter space (R169). -/
def dropRec (k : Nat) (s : State) : State :=
  evictTier1 k (s.mKs fun q => { q with recs := smErase k q.recs, spaces := smErase k q.spaces })

/-- A record that stood on a failed line goes; a pinned key is fetched again at once (Table 17-4). -/
def loseRec (k : Nat) (s : State) : State :=
  let pinned := match s.krec k with | some r => r.pinned | none => false
  let s1 := (dropRec k s).mKs fun q => { q with lost := q.lost.filter (· ≠ k) }
  if pinned then s1.mKs fun q => { q with fetches := q.fetches ++ [{ key := k, waiters := [] }], repin := q.repin ++ [k] } else s1

/-- The records on failed lines go once no peal in flight binds their keys (Table 17-4). -/
def dropLost (s : State) : State :=
  s.ks.lost.foldl (fun s k =>
    if (lockedKeys s).contains k || s.ks.fetches.any (·.key == k) then s else loseRec k s) s

/-- Records a resident key takes (R165). -/
def KeyRec.size (r : KeyRec) : Nat := 1 + r.ext.toNat
/-- Tier-2 records in all, and of a tenant. -/
def tier2Size (s : State) : Nat := if s.mem.two then 4194304 else 2097152
def tier2Used (s : State) : Nat := (s.ks.recs.map fun e => e.2.size).sum
def tier2UsedBy (s : State) (t : Fn) : Nat :=
  ((s.ks.recs.filter fun e => keyTenant e.1 == t).map fun e => e.2.size).sum

/-- The least recently used record that may be replaced (R169). -/
def lruRec (locked : List Nat) (only : Option Fn) : SMap KeyRec → Option (Nat × Nat)
  | [] => none
  | (k, r) :: m =>
    let rest := lruRec locked only m
    let skip := match only with | some t => keyTenant k ≠ t | none => false
    if skip || r.pinned || locked.contains k then rest
    else match rest with
      | some (j, t) => if t < r.lastUse then some (j, t) else some (k, r.lastUse)
      | none => some (k, r.lastUse)

/-- Evict least recently used records of a tenant, or of the device, until a size fits. -/
def evictUntil (only : Option Fn) (fits : State → Bool) : Nat → State → State
  | 0, s => s
  | n + 1, s =>
    if fits s then s
    else match lruRec (lockedKeys s) only s.ks.recs with
      | some (k, _) => evictUntil only fits n (dropRec k s)
      | none => s

/-- A tenant's allowances (R187). -/
def allowance (s : State) (t : Fn) : Allowance := smGet Allowance.init s.ks.allowances t.toNat

/-- A key's counter space when its record is built: the first new value is H, after H + 2^20 is written (R241). -/
def CounterSpace.built (h : Nat) : CounterSpace :=
  { h := h, next := h, released := [], reserved := [], writing := none, stored := false, fresh := true }

/-- The indices tier-2 records stand at, base and extension. -/
def usedRecords (s : State) : List Nat := s.ks.recs.flatMap fun e => e.2.home :: e.2.chain
/-- A record at the lowest free indices of tier 2 (the model's choice: notes/assumptions/148.md). -/
def placed (s : State) (r : KeyRec) : KeyRec :=
  let l := lowestFree (1 + r.ext.toNat) (usedRecords s)
  { r with home := l.headD 0, chain := l.drop 1 }

/-- The lines of records at some indices are written, two to a record (R165, R464). -/
def recordWrites (l : List Nat) (m : Memory) : Memory :=
  l.foldl (fun m i => (m.write (2 * i)).write (2 * i + 1)) m

/-- Install a record in tier 2, evicting what R169 allows, with its counter space when it holds a cell. -/
def installRec (k : Nat) (r : KeyRec) (s : State) : State :=
  let t := keyTenant k
  let cap := (allowance s t).tier2Cap.toNat
  let n := s.ks.recs.length + 1
  let s1 := if cap = 0 then s else evictUntil (some t) (fun x => tier2UsedBy x t + r.size ≤ cap) n s
  let s2 := evictUntil none (fun x => tier2Used x + r.size ≤ tier2Size x) n s1
  let x := { placed s2 r with lastUse := s.clk.now }
  (s2.mMem (recordWrites (x.home :: x.chain))).mKs fun q =>
    let q1 := { q with recs := smInsert k x q.recs }
    if r.ivgen then
      match smFind r.cell.toNat q.cells with
      | some c => { q1 with spaces := smInsert k (CounterSpace.built c.h.toNat) q1.spaces }
      | none => q1
    else q1

/-! Tier-3 fetches, R159, R160, R163. -/

/-- The ID of the 7L optional block: the characters 7 and L (R163). -/
def id7L : BitVec 16 := 0x374C

/-- The 48-byte structure of a block with exactly one 7L optional block of 96 characters (R162, R163). -/
def read7L (opts : List (BitVec 16 × Bytes)) : Option Bytes :=
  match opts.filter (·.1 == id7L) with
  | [x] => if x.2.length = 96 then fromHex x.2 else none
  | _ => none

/-- The record a 7L attribute structure describes, with its key data under a mask (Table 6-3, R166). -/
def recOf7L (s : State) (t : Fn) (a key mask : Bytes) : KeyRec :=
  let x := leNat a
  let alg : BitVec 8 := bitsAt x 0 8
  let param : BitVec 8 := bitsAt x 8 8
  let cell : BitVec 16 := bitsAt x 256 16
  let pub := publicOf (curvesOf s t) alg.toNat param.toNat key
  { alg := alg, param := param, state := bitsAt x 16 3, flags := bitsAt x 24 8, usage := bitsAt x 32 16,
    ext := BitVec.ofNat 8 (extOf s t alg.toNat param.toNat), gen := bitsAt x 96 32, parent := bitsAt x 128 32,
    parentGen := bitsAt x 160 32,
    uses := match smFind (fieldNat x 272 16) s.ks.ledger with
      | some e => if bitAt x 30 then e.uses else 0
      | none => 0,
    limit := bitsAt x 192 32,
    ivHwm := match smFind cell.toNat s.ks.cells with | some c => c.h | none => 0,
    boot := bitsAt x 224 32, cell := cell, ledger := bitsAt x 272 16, kcv := keyKcv alg.toNat key pub,
    key := Shares.of key mask, pub := pub, home := 0, chain := [], pinned := false, lastUse := 0, usesReserved := 0 }

/-- A 7L structure has no reserved field set and names a state of Table 6-9 and a key of Table 6-4 (R160, R163). -/
def attrsOk (a : Bytes) : Bool :=
  let x := leNat a
  fieldNat x 16 8 ≤ 4 && !bitAt x 47 && fieldNat x 88 8 == 0 && fieldNat x 320 64 == 0 &&
    algParamOk (fieldNat x 0 8) (fieldNat x 8 8)

/-- A tenant's KEK of a generation: the current one, or the pending one while it exists (R213). -/
def kekAt (s : State) (t : Fn) (gen : Nat) : Option Kek :=
  [(s.tenant t).kek, (s.tenant t).pendingKek].findSome? fun g => g.filter fun g => g.gen.toNat == gen

/-- A host block opened under the KEK its 7L block names: that block's 48 bytes, and the key data (R160, R162, R163). -/
def openHost (s : State) (t : Fn) (bs : Bytes) : Option (Bytes × Bytes) := do
  let b ← readX9 bs
  let n ← decimalVal ((b.head.drop 12).take 2)
  let a ← read7L (blockOpts n (b.head.drop 16))
  let g ← kekAt s t (fieldNat (leNat a) 288 32)
  let key ← x9Unwrap true g.key b.head b.body
  if b.version = 0x44 then some (a, key) else none

/-- An RSA private key's recomputation agrees with its length (R257). -/
def recomputes (alg param : Nat) (key : Bytes) : Bool := alg ≠ 0x30 || bitLen (rsaPrivate (4 * param) key).1 == 32 * param

/-- The fault with which a host table read fails, or the record it gives (R160); a block under the pending KEK is
accepted while there is one (R213). -/
def fetchOutcome (s : State) (fn : Fn) (handle : Nat) (rd : HostRead) (mask : Bytes) : Stat ⊕ KeyRec :=
  if (s.func fn).hktEntries.toNat ≤ handle then .inl (St.keyFault, 1)
  else match rd with
    | .refused => .inl (St.keyFault, 4)
    | .entry hke blk =>
      let x := hke.toNat
      if !bitAt x 78 then .inl (St.keyFault, 2)
      else if fieldNat x 79 49 ≠ 0 || fieldNat x 64 14 < 16 || fieldNat x 64 14 > 9999 then .inl (St.keyFault, 3)
      else match openHost s fn (fit (fieldNat x 64 14) blk) with
        | none => .inl (St.keyFault, 3)
        | some (a, key) =>
          let y := leNat a
          if !attrsOk a || fieldNat y 48 8 ≠ fn.toNat || fieldNat y 64 32 ≠ handle ||
              key.length ≠ dataLen (curvesOf s fn) (fieldNat y 0 8) (fieldNat y 8 8) ||
              !recomputes (fieldNat y 0 8) (fieldNat y 8 8) key then .inl (St.keyFault, 3)
          else .inr (recOf7L s fn a key (fit key.length mask))

/-- Entry h of a function's host key table stands at KS_HKT_BASE.ADDR + 16h (R159). -/
def entryAddr (s : State) (fn : Fn) (handle : Nat) : Nat := (s.func fn).hktBase.toNat + 16 * handle

/-- The reads of a fetch: the entry, then the block it names (R159, R160). -/
def fetchReads (fn : Fn) (handle : Nat) (rd : HostRead) (s : State) : State :=
  if (s.func fn).hktEntries.toNat ≤ handle then s
  else
    let s1 := hostRead fn (entryAddr s fn handle) 16 s
    match rd with
    | .refused => s1
    | .entry hke _ =>
      let x := hke.toNat
      if bitAt x 78 && fieldNat x 79 49 == 0 && 16 ≤ fieldNat x 64 14 && fieldNat x 64 14 ≤ 9999 then
        hostRead fn (fieldNat x 0 64) (fieldNat x 64 14) s1
      else s1

/-! Use reservations, R143. -/

/-- Reserve one use. -/
def reserveUse (k : Nat) (s : State) : State := s.mRec k fun r => { r with usesReserved := r.usesReserved + 1 }
/-- Return one reservation. -/
def returnUse (k : Nat) (s : State) : State := s.mRec k fun r => { r with usesReserved := r.usesReserved - 1 }

/-- Charge one use: a reservation becomes a committed use (R107, R178, R179). -/
def chargeUse (k : Nat) (s : State) : State :=
  match s.krec k with
  | none => s
  | some r =>
    let s1 := s.mRec k fun r => { r with
      usesReserved := r.usesReserved - 1, uses := if r.uses = 0xFFFFFFFF then r.uses else r.uses + 1 }
    if r.limited then
      s1.mKs fun q => match smFind r.ledger.toNat q.ledger with
        | some e => { q with ledger := smInsert r.ledger.toNat { e with uses := e.uses + 1, dirty := true } q.ledger }
        | none => q
    else s1

/-! Counters, R144, R225, R239 to R242. -/

/-- Set bits of a number below 2^64. -/
def popcount (n : Nat) : Nat := ((List.range 64).filter fun i => bitAt n i).length
/-- The lowest set bit's value, 0 for 0. -/
def lowBit (n : Nat) : Nat := match (List.range 64).find? fun i => bitAt n i with | some i => 2 ^ i | none => 0
/-- The least valid DUKPT counter value at or above a value: at most `m` bits set (R225). -/
def nextValid (m : Nat) : Nat → Nat → Nat
  | 0, v => v
  | f + 1, v => if popcount v ≤ m then v else nextValid m f (v + lowBit v)

/-- The end of the counter space a generating step uses (R239). -/
def spaceEnd (st : StepDef) : Nat :=
  if st.op = 0x1C then if st.param.getLsbD 4 then 2 ^ 21 else 2 ^ 32 else (2 ^ 64 - 2 ^ 20)
/-- The sub-reason of NONCE_EXHAUSTED (R242). -/
def exhaustSub (st : StepDef) : BitVec 8 := if st.op = 0x03 then 1 else if st.op = 0x1C then 2 else 3
/-- The next new value for a generating step. -/
def nextNew (st : StepDef) (sp : CounterSpace) : Nat :=
  if st.op = 0x1C then nextValid (if st.param.getLsbD 4 then 10 else 16) 64 sp.next else sp.next

/-- What a counter reservation finds (R240 to R242). -/
inductive Reserve
  | value (v : Nat) (fresh : Bool)
  | wait
  | exhausted
  deriving DecidableEq, Repr

/-- The value a generating step would reserve: the lowest released one, else the next new one; none once the cell is
exhausted (R239, R242, R248). -/
def reserveOutcome (exhausted : Bool) (st : StepDef) (sp : CounterSpace) : Reserve :=
  match exhausted, sp.released with
  | true, _ => .exhausted
  | false, v :: _ => .value v false
  | false, [] =>
    let v := nextNew st sp
    if spaceEnd st ≤ v then .exhausted
    else if sp.fresh || sp.h ≤ v then if sp.h + 2 ^ 20 ≤ (2 ^ 64 - 2 ^ 20) then .wait else .exhausted
    else .value v true

/-- The most set bits of a valid DUKPT counter under a base key's algorithm (R225). -/
def dukptBits (alg : Nat) : Nat := if isTdes alg then 10 else 16

/-- Whether the space calls for a cell write now: the next new value, which for a base key that serves originator DUKPT is
the next valid one, has reached H - 2^18 (R240, R241). -/
def cellDue (bdk : Option Nat) (sp : CounterSpace) : Bool :=
  let v := match bdk with | some alg => nextValid (dukptBits alg) 64 sp.next | none => sp.next
  sp.writing.isNone && (sp.fresh || sp.h ≤ v + 2 ^ 18) && sp.h + 2 ^ 20 ≤ (2 ^ 64 - 2 ^ 20)

/-- The counter cell of a resident key. -/
def cellOf (s : State) (k : Nat) : Option CounterCell :=
  match s.krec k with
  | some r => (smFind r.cell.toNat s.ks.cells).filter (·.key == k)
  | none => none
/-- Its cell is marked exhausted (Table 8-6). -/
def cellExhausted (s : State) (k : Nat) : Bool := match cellOf s k with | some c => c.exhausted | none => false
/-- Change a key's cell. -/
def State.mCell (k : Nat) (f : CounterCell → CounterCell) (s : State) : State :=
  s.mKs fun q => { q with cells := q.cells.map fun e => if e.2.key = k then (e.1, f e.2) else e }
/-- A base derivation key, by its algorithm (R216). -/
def bdkOf (s : State) (k : Nat) : Option Nat :=
  match s.krec k with | some r => if r.usage = 0x100 then some r.alg.toNat else none | none => none

end Sys2Proof.Machine
end

