-- ==== Sys2Proof/Machine/Store.lean ====
section
/-! DEFINITION. The persistent store's array: addresses, two-copy records, single-word records, what a command writes, and
the queue of commands; counter values with the cell writes they call for (R240, R354 to R370). -/
namespace Sys2Proof.Machine

/-! The array, R354. -/

/-- `n` bytes of the array from a store address on; a byte never written is zero. -/
def storeGet (m : List Host.Cell) (addr n : Nat) : Bytes := (List.range n).map fun i => smGet 0 m (addr + i)
/-- Put bytes into the array. -/
def storePut (addr : Nat) (bs : Bytes) (m : List Host.Cell) : List Host.Cell :=
  (List.range bs.length).foldl (fun m i => smSet 0 (addr + i) (bs.getD i 0) m) m
/-- The store address of a page. -/
def pageAddr (p : Nat) : Nat := 256 * p
/-- The addresses, in steps of a width, between two addresses at which some byte of the array is not zero. -/
def storeSlots (m : List Host.Cell) (lo hi width : Nat) : List Nat :=
  ((m.filter fun c => decide (lo ≤ c.1) && decide (c.1 < hi)).map fun c => lo + (c.1 - lo) / width * width).eraseDups

/-! Addresses, Tables 12-1, 13-1, 13-2. -/

/-- The user region's first page; its address. -/
def userBase : Nat := pageAddr 7168
/-- A page of the Toll region, numbered from the region's start. -/
def tollAddr (p : Nat) : Nat := pageAddr (4096 + p)
/-- The high-water pair record of a tenant's table kind; record 768 serves the cost table. -/
def pairNo (t : Fn) (kind : Nat) : Nat := if kind = 4 then 768 else 3 * t.toNat + kind - 1
/-- A high-water pair: TYPE 0x0200 + kind, and its copies (Tables 13-2, 13-5). -/
def pairAt (r : Nat) : TwoAt :=
  let a := pageAddr (6688 + r / 2) + 128 * (r % 2)
  { ty := BitVec.ofNat 16 (0x200 + (if r = 768 then 4 else r % 3 + 1)), a := a, b := a + 64 }
/-- Copies A of the counter cells, and of B 16 bytes further. -/
def cellAddr (c : Nat) : Nat := pageAddr (5120 + c / 8) + 32 * (c % 8)
/-- The home slots of the revocation set, and the words of its log. -/
def homeAddr (slot : Nat) : Nat := pageAddr 6144 + 8 * slot
def setLogAddr (i : Nat) : Nat := pageAddr 6656 + 16 * (i % 512)
/-- The use ledger's copies. -/
def ledgerAddr (copyB : Bool) (e : Nat) : Nat := pageAddr (if copyB then 7105 else 7073) + 16 * e
/-- The TYPE of a record, never 0x0000; the spec gives none but that of the high-water pairs (notes/assumptions/183.md). -/
def recordTy (n : Nat) : BitVec 16 := (Config.recordType n).setWidth 16 + 1
/-- The vault time checkpoint (R507). -/
def vtimeAt : TwoAt := { ty := recordTy 0, a := pageAddr 7161, b := pageAddr 7162 }
/-- The Toll state record. -/
def tollAt : TwoAt := { ty := recordTy 1, a := tollAddr 0, b := tollAddr 1 }
/-- A record of the system region, whose place the spec does not give: by kind and number (notes/assumptions/183.md). -/
def systemAt (kind n : Nat) : TwoAt :=
  let a := pageAddr (Config.recordPage kind n % 4080)
  { ty := recordTy (kind + 2), a := a, b := a + pageAddr 16 }
/-- The sealed root record (R198), a tenant record (R206), the user windows (R373). -/
def rootAt : TwoAt := systemAt 20 0
def tenantAt (t : Fn) : TwoAt := systemAt 0 t.toNat
def windowsAt : TwoAt := systemAt 7 0
/-- The spread counters: boot number, journal epoch, anti-rollback version, a cell on each page; and the seal event counter,
whose eight cells share two pages (R367, Tables 12-1, 13-2). -/
def bootCells : Nat × Nat := (pageAddr 7137, 256)
def epochCells : Nat × Nat := (pageAddr 7145, 256)
def arbCells : Nat × Nat := (pageAddr 7153, 256)
def sealCells : Nat × Nat := (tollAddr 2, 64)

/-- CRC-32 of IEEE 802.3. -/
def crc32 (bs : Bytes) : BitVec 32 :=
  ~~~(bs.foldl (fun c b => (List.range 8).foldl (fun c _ =>
    if c.getLsbD 0 then (c >>> 1) ^^^ 0xEDB88320 else c >>> 1) (c ^^^ b.setWidth 32)) 0xFFFFFFFF)
/-- Bytes with their CRC-32, over what follows them in the check too. -/
def withCrc (bs more : Bytes) : Bytes := bs ++ natLe 4 (crc32 (bs ++ more)).toNat
/-- A 16-byte word carries the CRC-32 of its bytes 0 to 11 and of what follows them in the check. -/
def crcOk (w more : Bytes) : Bool := le w 12 4 == (crc32 (w.take 12 ++ more)).toNat

/-! Two-copy records, R365, R366. -/

/-- A copy as it is written: header, then body; CHECK covers the header, the body and the address of copy A (Table 13-5). -/
def TwoAt.bytes (r : TwoAt) (c : CopyRec) : Bytes :=
  let head := natLe 2 r.ty.toNat ++ natLe 2 c.body.length ++ natLe 4 c.seq.toNat ++ natLe 4 c.aux.toNat
  head ++ natLe 4 (crc32 (head ++ c.body ++ natLe 4 r.a)).toNat ++ c.body
/-- The copy at an address, where it is valid. -/
def TwoAt.copy (m : List Host.Cell) (r : TwoAt) (addr : Nat) : Option CopyRec :=
  let h := storeGet m addr 16
  if le h 0 2 = 0 || le h 0 2 ≠ r.ty.toNat then none
  else
    let body := storeGet m (addr + 16) (le h 2 2)
    if le h 12 4 = (crc32 (h.take 12 ++ body ++ natLe 4 r.a)).toNat then
      some { seq := BitVec.ofNat 32 (le h 4 4), aux := BitVec.ofNat 32 (le h 8 4), body := body }
    else none

/-- What the two copies of a record hold. -/
inductive TwoSel
  | absent
  | damaged
  | copy (inA : Bool) (c : CopyRec)
  deriving DecidableEq, Repr

/-- The selected copy (R366). -/
def twoSelect (m : List Host.Cell) (r : TwoAt) : TwoSel :=
  match r.copy m r.a, r.copy m r.b with
  | some x, some y => if x.seq = y.seq + 1 then .copy true x else .copy false y
  | some x, none => .copy true x
  | none, some y => .copy false y
  | none, none =>
    if le (storeGet m r.a 2) 0 2 = 0 && le (storeGet m r.b 2) 0 2 = 0 then .absent else .damaged

/-- Where a write of a record goes, and its sequence: the copy that is not selected, one above it, else copy A (R365). -/
def TwoAt.next (m : List Host.Cell) (r : TwoAt) : Nat × BitVec 32 :=
  match twoSelect m r with
  | .copy true c => (r.b, c.seq + 1)
  | .copy false c => (r.a, c.seq + 1)
  | _ => (r.a, 1)

/-! Single-word records, R367, Table 13-6. -/

/-- The cells of a spread counter, `none` for one whose check fails. -/
def spreadRead (m : List Host.Cell) (c : Nat × Nat) : List (Option Nat) :=
  (List.range 8).map fun i =>
    let a := c.1 + c.2 * i
    let w := storeGet m a 16
    if crcOk w (natLe 4 a) then some (le w 0 8) else none
/-- The value of a spread counter: the highest valid cell, 0 without one. -/
def spreadValue (m : List Host.Cell) (c : Nat × Nat) : Nat := ((spreadRead m c).filterMap id).foldl max 0
/-- A spread counter with no valid cell and one that is not zero (R367). -/
def spreadBroken (m : List Host.Cell) (c : Nat × Nat) : Bool :=
  (spreadRead m c).all (·.isNone) && (List.range 8).any fun i => (storeGet m (c.1 + c.2 * i) 16).any (· ≠ 0)
/-- The cell an increment goes to: an invalid one, else the lowest, the lower index first. -/
def spreadCell (l : List (Option Nat)) : Nat :=
  let low := (l.filterMap id).foldl min ((l.filterMap id).headD 0)
  match l.findIdx? (· == none) with
  | some i => i
  | none => (l.findIdx? (· == some low)).getD 0
/-- The word an increment writes. -/
def spreadWrite (m : List Host.Cell) (c : Nat × Nat) : Nat × Bytes :=
  let a := c.1 + c.2 * spreadCell (spreadRead m c)
  (a, withCrc (natLe 8 (spreadValue m c + 1) ++ zeros 4) (natLe 4 a))
/-- The counter incremented. -/
def spreadInc (c : Nat × Nat) (m : List Host.Cell) : List Host.Cell :=
  let w := spreadWrite m c
  storePut w.1 w.2 m

/-- A counter cell copy for a key at a generation. -/
def cellWord (addr key : Nat) (gen : BitVec 32) (h : Nat) (exhausted : Bool) : Bytes :=
  withCrc (natLe 6 (h / 2 ^ 20) ++ [if exhausted then 1 else 0] ++ [BitVec.ofNat 8 (keyTenant key).toNat] ++
    natLe 3 (keyHandle key) ++ [0]) (natLe 4 gen.toNat ++ natLe 4 addr)
/-- A copy's H and EXHAUSTED, where its check holds for the key and its generation. -/
def cellCopy (m : List Host.Cell) (addr key : Nat) (gen : BitVec 32) : Option (Nat × Bool) :=
  let w := storeGet m addr 16
  if crcOk w (natLe 4 gen.toNat ++ natLe 4 addr) && le w 7 1 == (keyTenant key).toNat && le w 8 3 == keyHandle key then
    some (2 ^ 20 * le w 0 6, le w 6 1 % 2 == 1)
  else none
/-- The copies of a cell that are valid for a key. -/
def cellCopies (m : List Host.Cell) (i key : Nat) (gen : BitVec 32) : List (Nat × Bool) :=
  (cellCopy m (cellAddr i) key gen).toList ++ (cellCopy m (cellAddr i + 16) key gen).toList
/-- A cell as it reads: the highest H of its valid copies, exhausted if one says so; without a valid copy, exhausted unless
both are zero (R367). -/
def cellRead (m : List Host.Cell) (i key : Nat) (gen : BitVec 32) : Nat × Bool :=
  match cellCopies m i key gen with
  | [] => (0, (storeGet m (cellAddr i) 32).any (· ≠ 0))
  | l => ((l.map (·.1)).foldl max 0, l.any (·.2))
/-- The copy a cell's write goes to: an invalid one, else the lower, A when they are equal (R367). -/
def cellTarget (m : List Host.Cell) (i key : Nat) (gen : BitVec 32) : Nat :=
  match cellCopy m (cellAddr i) key gen, cellCopy m (cellAddr i + 16) key gen with
  | none, _ => cellAddr i
  | some _, none => cellAddr i + 16
  | some x, some y => if y.1 < x.1 then cellAddr i + 16 else cellAddr i

/-- A copy of a use ledger entry. -/
def ledgerCopy (addr : Nat) (e : LedgerEntry) : Bytes :=
  withCrc ([BitVec.ofNat 8 (keyTenant e.key).toNat] ++ natLe 3 (keyHandle e.key) ++ natLe 4 e.uses.toNat ++ natLe 4 e.gen.toNat)
    (natLe 4 addr)
/-- A ledger copy at an address: `none` without a valid one. -/
def ledgerRead (m : List Host.Cell) (addr : Nat) : Option LedgerEntry :=
  let w := storeGet m addr 16
  if crcOk w (natLe 4 addr) then
    some { key := keyNo (BitVec.ofNat 8 (le w 0 1)) (le w 1 3), gen := BitVec.ofNat 32 (le w 8 4), uses := BitVec.ofNat 32 (le w 4 4),
           dirty := false }
  else none

/-- A word of the revocation log: the entry, its home slot and its log sequence. -/
def setLogWord (addr slot seq : Nat) (e : BitVec 64) : Bytes :=
  withCrc (natLe 8 e.toNat ++ natLe 4 (slot % 2 ^ 14 + 2 ^ 14 * (seq % 2 ^ 18))) (natLe 4 addr)
/-- The valid words of the revocation log: log sequence, slot, entry. -/
def setLogRead (m : List Host.Cell) : List (Nat × Nat × BitVec 64) :=
  (storeSlots m (setLogAddr 0) (setLogAddr 0 + 16 * 512) 16).filterMap fun a =>
    let w := storeGet m a 16
    if crcOk w (natLe 4 a) then some (le w 8 4 / 2 ^ 14, le w 8 4 % 2 ^ 14, BitVec.ofNat 64 (le w 0 8)) else none
/-- The newest log sequence: the one whose successor, in 18 bits, no word holds; 0 for an empty log. -/
def setLogLast (l : List (Nat × Nat × BitVec 64)) : Nat :=
  match l.find? fun x => !l.any fun y => y.1 == (x.1 + 1) % 2 ^ 18 with
  | some x => x.1
  | none => 0
/-- The log's words from the oldest to the newest. -/
def setLogOrder (m : List Host.Cell) : List (Nat × Nat × BitVec 64) :=
  let l := setLogRead m
  let age (x : Nat × Nat × BitVec 64) : Nat := (setLogLast l + 2 ^ 18 - x.1) % 2 ^ 18
  l.mergeSort fun x y => age y ≤ age x
/-- The sequence the next log word takes. -/
def setLogNext (m : List Host.Cell) : Nat :=
  let l := setLogRead m
  if l.isEmpty then 0 else (setLogLast l + 1) % 2 ^ 18

/-! What a command writes, R358. -/

/-- The store address a command writes from and its bytes, against the array as it is. -/
def NvData.writes (m : List Host.Cell) : NvData → Nat × Bytes
  | .page p _ => (pageAddr p, [])
  | .words a bs => (a, bs)
  | .copies r aux body =>
    let x := r.next m
    (x.1, r.bytes { seq := x.2, aux := aux, body := body })
  | .late r _ => ((r.next m).1, [])
  | .lateWords a _ => (a, [])
  | .cell i key gen h ex =>
    let a := cellTarget m i key gen
    (a, cellWord a key gen h ex)
  | .spread first stride => spreadWrite m (first, stride)
  | .setLog slot e =>
    let n := setLogNext m
    (setLogAddr n, setLogWord (setLogAddr n) slot n e)
  | .setHome slot e => 
    let a := homeAddr (slot / 2 * 2)
    (a, if slot % 2 = 0 then natLe 8 e.toNat ++ storeGet m (a + 8) 8 else storeGet m a 8 ++ natLe 8 e.toNat)

/-- Bytes a command programs. -/
def NvData.size (m : List Host.Cell) : NvData → Nat
  | .page _ n => 256 * n
  | .late _ n => 16 + n
  | .lateWords _ n => n
  | d => (d.writes m).2.length

/-- The pages a command touches (R358, R369). -/
def NvData.pages (m : List Host.Cell) (d : NvData) : List Nat :=
  let a := (d.writes m).1
  if d.size m = 0 then [] else (List.range ((a + d.size m - 1) / 256 - a / 256 + 1)).map (a / 256 + ·)

/-- The array as it reads, with the words whose write found no spare (R370). -/
def NvStore.seen (n : NvStore) : List Host.Cell := n.lost.foldl (fun m e => storePut (16 * e.1) e.2 m) n.array
/-- A word the array takes supersedes one that was lost before. -/
def NvStore.put (addr : Nat) (bs : Bytes) (n : NvStore) : NvStore :=
  { n with array := storePut addr bs n.array,
           lost := n.lost.filter fun e => decide (16 * e.1 + 16 ≤ addr) || decide (addr + bs.length ≤ 16 * e.1) }
/-- Words whose write finds no spare. -/
def NvStore.lose (addr : Nat) (bs : Bytes) (n : NvStore) : NvStore :=
  { n with lost := (List.range (bs.length / 16)).foldl (fun l i => smInsert (addr / 16 + i) ((bs.drop (16 * i)).take 16) l) n.lost }

/-- The high-water pair: sequence and digest (R101). -/
def highWater (s : State) (n : Nat) : TwoSel := twoSelect s.nv.seen (pairAt n)
/-- The pair is behind a sequence, so that a load writes it (R102). -/
def pairBehind (s : State) (n : Nat) (seq : BitVec 32) : Bool :=
  match highWater s n with
  | .copy _ c => c.aux.toNat < seq.toNat
  | _ => true

/-! The contents of a command. -/

/-- The kind of a table body (Table 4-1). -/
def TableBody.kind : TableBody → Nat
  | .peals _ => 1 | .fmts _ => 2 | .curves _ => 3

/-- Pages of a window, as first page and count. -/
def inWindow (w : BitVec 16 × BitVec 16) (page : Nat) : Bool := w.1.toNat ≤ page && page < w.1.toNat + w.2.toNat
/-- The window of a caller: first page and page count (R373). -/
def windowOf (s : State) (fn : Fn) : BitVec 16 × BitVec 16 :=
  if fn = 0 then (0, 2048) else smGet (0, 0) s.nv.windows fn.toNat
/-- Pages newly given to a tenant by a window (R373). -/
def newPages (s : State) (t : Fn) (page count : Nat) : List Nat :=
  let old := smGet (0, 0) s.nv.windows t.toNat
  ((List.range count).map (page + ·)).filter fun p => !inWindow old p
/-- Rising pages as runs of consecutive ones, first page and count, of at most 16 pages (R358, R373). -/
def pageRuns (ps : List Nat) : List (Nat × Nat) :=
  (ps.foldl (fun l p => match l with
    | (a, n) :: rest => if p = a + n && n < 16 then (a, n + 1) :: rest else (p, 1) :: l
    | [] => [(p, 1)]) []).reverse
/-- The windows once one is set (R373). -/
def windowSet (t : Fn) (page count : BitVec 16) (m : SMap (BitVec 16 × BitVec 16)) : SMap (BitVec 16 × BitVec 16) :=
  smSet (0, 0) t.toNat (if count = 0 then (0, 0) else (page, count)) m
/-- The windows record: first page and page count by tenant, an order of the model's (R373, notes/assumptions/183.md). -/
def windowsBody (m : SMap (BitVec 16 × BitVec 16)) : Bytes :=
  (List.range 256).flatMap fun t => natLe 2 (smGet (0, 0) m t).1.toNat ++ natLe 2 (smGet (0, 0) m t).2.toNat
/-- The windows a record holds. -/
def windowsOf (body : Bytes) : SMap (BitVec 16 × BitVec 16) :=
  (List.range 256).foldl (fun m t =>
    smSet (0, 0) t (BitVec.ofNat 16 (le body (4 * t) 2), BitVec.ofNat 16 (le body (4 * t + 2) 2)) m) []

/-- A KEK of a tenant record. -/
def kekBytes : Option Kek → Bytes
  | some g => [1, g.alg] ++ natLe 4 g.gen.toNat ++ fit 32 g.key
  | none => zeros 38
/-- Lengths to a whole number of words. -/
def padWords (bs : Bytes) : Bytes := bs ++ zeros ((16 - bs.length % 16) % 16)
/-- TenantState as one byte. -/
def TenantState.code : TenantState → BitVec 8
  | .absent => 0 | .creating => 1 | .active => 2
/-- The fields of a tenant record, in an order of the model's (R206, notes/assumptions/183.md). -/
def tenantFields (x : Tenant) : Bytes :=
  padWords ([x.state.code, x.tskAlg] ++ natLe 2 x.tsk.length ++ natLe 4 x.tskGen.toNat ++ natLe 4 x.storageGen.toNat ++
    kekBytes x.kek ++ kekBytes x.pendingKek ++ x.tsk)

/-- The Toll state record, in Table 12-1's order, laid out as the model chooses (notes/assumptions/183.md). -/
def tollBody (k : Toll) : Bytes :=
  padWords ([if k.sealed_ then 1 else 0, k.mode.setWidth 8, if k.authority.isSome then 1 else 0, 0] ++ fit 32 k.sealId ++
    fit 97 (k.authority.getD []) ++ natLe 8 k.stmtHwm.toNat ++ natLe 4 k.mapEvents.toNat ++ fit 48 k.mapChain ++
    natLe 4 k.gaps.toNat ++ natLe 4 k.imageVersion.toNat)
/-- The Toll with what a state record holds. -/
def tollFrom (body : Bytes) (k : Toll) : Toll :=
  { k with sealed_ := body.getD 0 0 == 1, mode := (body.getD 1 0).setWidth 2,
           authority := if body.getD 2 0 = 1 then some (slice body 36 97) else none, sealId := slice body 4 32,
           stmtHwm := BitVec.ofNat 64 (le body 133 8), mapEvents := BitVec.ofNat 32 (le body 141 4), mapChain := slice body 145 48,
           gaps := BitVec.ofNat 32 (le body 193 4), imageVersion := BitVec.ofNat 32 (le body 197 4) }

/-- A seal log entry as its 64 bytes (R347). -/
def SealEntry.bytes (e : SealEntry) : Bytes :=
  [e.kind] ++ zeros 3 ++ natLe 4 e.events.toNat ++ natLe 8 e.vtime.toNat ++ fit 32 e.sealId ++ fit 16 e.extra

/-- An entry word of 16 bytes (Table 12-2). -/
def LogWord.bytes : LogWord → Bytes
  | .delta i v => [BitVec.ofNat 8 (i / 16), BitVec.ofNat 8 (i % 16), 0, 0] ++ natLe 8 v.toNat ++ zeros 4
  | .group e => natLe 8 e.tag.toNat ++ natLe 4 e.seq.toNat ++ natLe 2 e.pealId.toNat ++ [e.tenant, e.toll]
  | .ledger i k g u =>
    natLe 4 u.toNat ++ natLe 4 g.toNat ++ natLe 3 (keyHandle k) ++ [0] ++ natLe 2 i ++ [keyTenant k, 0xFE]

/-- A record of the log: its header word, checked by CRC-32, and its entry words (R334, Table 12-2). -/
def LogRec.bytes (r : LogRec) : Bytes :=
  let head : Bytes := [if r.group then 0xD2 else 0xD1, (if r.final then 1 else 0) + (if r.jm then 2 else 0)] ++
    natLe 2 r.words.length ++ natLe 8 r.seq.toNat
  let body := r.words.flatMap LogWord.bytes
  head ++ natLe 4 (crc32 (head ++ body)).toNat ++ body

/-- Pages that a record of some entry words occupies: it starts on a page, so that 256 words are one command of 16 pages
(R334, R358; notes/assumptions/184.md). -/
def recPages (words : Nat) : Nat := (words + 16) / 16
/-- Pages a record occupies in the log (R334). -/
def LogRec.size (r : LogRec) : Nat := recPages r.words.length
/-- Where in the log's 363 pages a record of some entry words goes: on, or at the log's start where it does not fit before
its end (Table 12-1). -/
def logPlace (k : Toll) (words : Nat) : Nat := if k.logPage + recPages words ≤ 363 then k.logPage else 0

/-- The counters of a base copy's part of sixteen pages, and its header page with the digest of the counter pages (R334). -/
def basePart (c : BaseCopy) (i : Nat) : Bytes :=
  (List.range 512).flatMap fun j => natLe 8 (smGet 0 c.counters (512 * i + j)).toNat
def baseHeader (c : BaseCopy) : Bytes :=
  fit 256 ([0x54, 0x42, 0x41, 0x53, 1, 0, 0, 0] ++ natLe 8 c.seq.toNat ++ natLe 8 c.jseq.toNat ++
    sha384 ((List.range 8).flatMap (basePart c)))
/-- The first page of a base copy. -/
def basePage (copyA : Bool) : Nat := if copyA then 16 else 145

/-- A compact entry of 16 bytes (R154). -/
def JEntry.compactBytes (e : JEntry) : Bytes := LogWord.bytes (.group e)
/-- The power-fail record: header, entries, and zeros to its 4,096 bytes (R363). -/
def pfBytes (boot : BitVec 32) (last : BitVec 64) (l : List JEntry) : Bytes :=
  let head := [BitVec.ofNat 8 l.length, 1] ++ natLe 8 last.toNat ++ [0x50, 0x46]
  let body := l.flatMap JEntry.compactBytes
  fit 4096 (head ++ natLe 4 (crc32 (head ++ body ++ natLe 4 boot.toNat)).toNat ++ body)
/-- The power-fail area (Table 13-1). -/
def pfAddr : Nat := pageAddr 4080

/-- Where a life-cycle journal entry goes in the rotation of 64, and its 64 bytes (Table 15-11, R428). -/
def lcAddr (e : LcEntry) : Nat := pageAddr 9216 + 64 * (e.seq.toNat % 64)
def LcEntry.bytes (e : LcEntry) : Bytes :=
  let b := [e.step, e.from_, e.to_, e.scope] ++ natLe 4 e.lcSeq.toNat ++ natLe 8 e.vtime.toNat ++ natLe 4 e.boot.toNat ++
    natLe 4 e.seq.toNat ++ [e.kind, e.signer] ++ zeros 34
  withCrc b (natLe 4 (lcAddr e))

/-- A revocation set entry as its 64 bits (Table 6-17). -/
def RsEntry.word (k : Nat) (e : RsEntry) : BitVec 64 :=
  BitVec.ofBool e.revoked ++ e.minGen ++ BitVec.ofNat 24 (keyHandle k) ++ keyTenant k

/-- The home slot of a key's entry: its own, else the lowest that no entry has. -/
def slotFor (m : SMap Nat) (k : Nat) : Nat :=
  match smFind k m with
  | some i => i
  | none => ((List.range (m.length + 1)).find? fun i => !m.any (·.2 == i)).getD 0

/-- A key's counter cell and its place. -/
def cellAt (s : State) (k : Nat) : Option (Nat × CounterCell) := s.ks.cells.find? fun e => e.2.key == k
/-- The generation a key's cell takes at its rewrite: the lowest its set entry accepts, or its record's (R177). -/
def cellGen (s : State) (k : Nat) (old : BitVec 32) : BitVec 32 :=
  match smFind k s.ks.rset with
  | some e => e.minGen.setWidth 32
  | none => match s.krec k with | some r => r.gen | none => old
/-- A cell's write: its H, at a generation. -/
def cellData (s : State) (k : Nat) (h : Nat) (gen : CounterCell → BitVec 32) : NvData :=
  match cellAt s k with
  | some (i, c) => .cell i k (gen c) h c.exhausted
  | none => .page 5120 1

/-- The `i`-th write of an effect's Steward-held records: a high-water pair, words or pages of the user region, the windows,
a tenant's record, or a record of the system region (R18, R101, R365, R372, R373). -/
def effectData (s : State) (e : Effect) (i : Nat) : NvData :=
  let tenant (t : Fn) : NvData := .late (tenantAt t) ((tenantFields (s.tenant t)).length + 32)
  let sys (kind n : Nat) : NvData := .page (Config.recordPage kind n % 4080) 1
  match e with
  | .loadTable t _ seq digest body => .copies (pairAt (pairNo t body.kind)) seq (fit 48 digest)
  | .loadCosts seq digest _ _ => .copies (pairAt 768) seq (fit 48 digest)
  | .userWrite addr bs => .words (userBase + addr) bs
  | .userWindow t page count =>
    match (pageRuns (newPages s t page.toNat count.toNat))[i]? with
    | some (p, n) => .words (userBase + 256 * p) (zeros (256 * n))
    | none => .copies windowsAt 0 (windowsBody (windowSet t page count s.nv.windows))
  | .createTenant t _ _ => tenant t
  | .installKek t _ _ _ => tenant t
  | .rotateTsk t _ _ _ => tenant t
  | .finishRotation t _ => tenant t
  | .abandonKek t => tenant t
  | .destroyTenant t => tenant t
  | .algPolicy t _ => sys 1 t.toNat
  | .permissionMap t _ => sys 2 t.toNat
  | .tollMap t _ _ => sys 3 t.toNat
  | .allowances t _ => sys 4 t.toNat
  | .keyPolicy t _ => sys 5 t.toNat
  | .registerPartner _ => sys 9 0
  | .replicationMode _ => sys 10 0
  | _ => sys 11 0

/-- What a command writes, worked out as it is queued. -/
def NvWork.data (s : State) (w : NvWork) : NvData :=
  match w with
  | .deltaRec r => .words (tollAddr (661 + r.page)) r.bytes
  | .groupRec r => .lateWords (tollAddr (661 + r.page)) (16 * (1 + r.words.length))
  | .baseRec copyA c i =>
    .words (tollAddr (basePage copyA + 16 * i)) (if i < 8 then basePart c i else baseHeader c)
  | .tollState _ => .copies tollAt 0 (tollBody s.toll)
  | .tollMark h => .copies tollAt 0 (tollBody { s.toll with stmtHwm := h })
  | .sealCount _ => .spread sealCells.1 sealCells.2
  | .sealEntry _ place e => .words (tollAddr 4 + 64 * place) e.bytes
  | .tollImage _ i => .words (tollAddr (405 + 16 * i)) (padWords ((s.toll.image.drop (4096 * i)).take 4096))
  | .closing bs i _ => .words (tollAddr (274 + 16 * i)) (padWords ((bs.drop (4096 * i)).take 4096))
  | .powerFail last l => .words pfAddr (pfBytes s.ks.boot last l)
  | .cell k h => cellData s k h (·.gen)
  | .partnerCell k h _ => cellData s k h (·.gen)
  | .cellRewrite k _ => cellData s k (match cellAt s k with | some (_, c) => c.h.toNat | none => 0) fun c => cellGen s k c.gen
  | .revocation k _ => match smFind k s.ks.rset with
    | some e => .setLog (slotFor s.nv.slots k) (e.word k)
    | none => .page 6656 1
  | .setHome k => match smFind k s.ks.rset with
    | some e => .setHome (slotFor s.nv.slots k) (e.word k)
    | none => .page 6144 1
  | .ledgerCheckpoint l i =>
    let a := ledgerAddr (decide (2 ≤ i)) (256 * (i % 2))
    .words a ((List.range 256).flatMap fun j => match smFind (256 * (i % 2) + j) l with
      | some e => ledgerCopy (a + 16 * j) e
      | none => zeros 16)
  | .stewardRecord p i => match s.peal p with | some q => effectData s q.effect i | none => .page 0 0
  | .vtimeCheckpoint v => .copies vtimeAt 0 (natLe 8 v.toNat ++ zeros 8)
  | .lockRecord => .page 9232 1
  | .response _ _ => .page 9236 1
  | .recoveryKey _ => .page 9234 1
  | .rootCopy _ => .late rootAt 80
  | .wipe page count => .words (pageAddr page) (zeros (256 * count))
  | .lifeCycle e => .words (lcAddr e) (e.bytes)
  | .tamperLog => .page (9256 + s.tmp.logTotal.toNat % 1024 / 16) 1
  | .roleMap _ => .page (Config.recordPage 11 0 % 4080) 1
  | .retirement _ => .page (Config.recordPage 12 0 % 4080) 1
  | .epoch => .spread epochCells.1 epochCells.2

/-! The queue, R359, R360, R362. -/

/-- The command writes a home slot of the revocation set. -/
def NvCmd.isHome (c : NvCmd) : Bool := match c.work with | .setHome _ => true | _ => false
/-- A log word is overwritten only after the home write of the entry it holds has ended (R368). -/
def NvStore.logFree (n : NvStore) (c : NvCmd) : Bool :=
  match c.work with
  | .revocation _ _ => decide ((n.queue.filter NvCmd.isHome).length < 512)
  | _ => true

/-- The store starts the next command: by class, in arrival order within a class; only power-fail commands while
commands are held, and no Steward command within 200 µs of the last (R359, R360, R362). -/
def NvStore.kick (now : Nat) (n : NvStore) : NvStore :=
  if n.current.isSome then n
  else
    let may (c : NvCmd) : Bool := (!n.held || c.cls == 1) && (c.cls ≠ 5 || n.gapUntil ≤ now) && n.logFree c
    let first := if n.held then none else n.stopped
    match first with
    | some c => { n with current := some c, stopped := none }
    | none =>
    match [1, 2, 3, 4, 5].findSome? fun k => n.queue.find? fun c => c.cls == k && may c with
    | some c => { n with current := some c, queue := n.queue.erase c }
    | none => n

/-- Queue a persistent store command of a class, and start it when the store is free (R359). -/
def nvQueue (cls : Nat) (w : NvWork) (s : State) : State :=
  let c : NvCmd := { cls := cls, work := w, data := w.data s }
  s.mNv fun n => NvStore.kick s.clk.now { n with queue := n.queue ++ [c] }

/-- A set entry is written: it has a home slot of its own from now on (R192, R368). -/
def queueSet (k : Nat) (p : Option PealSlot) (s : State) : State :=
  nvQueue 2 (.revocation k p) (s.mNv fun n => { n with slots := smInsert k (slotFor n.slots k) n.slots })

/-- Commands in progress, stopped or queued. -/
def nvAll (s : State) : List NvCmd := s.nv.current.toList ++ s.nv.stopped.toList ++ s.nv.queue
/-- A command of this work has not ended. -/
def nvHas (w : NvWork) (s : State) : Bool := (nvAll s).any (·.work == w)

/-! Counter values and the cell writes they call for, R240, R241. -/

/-- Start a cell write when one is due: H + 2^20 (R240). -/
def startCellWrite (k : Nat) (s : State) : State :=
  match smFind k s.ks.spaces with
  | some sp =>
    if !cellExhausted s k && cellDue (bdkOf s k) sp then
      nvQueue 2 (.cell k (sp.h + 2 ^ 20))
        (s.mSpace k fun sp => { sp with writing := some (sp.h + 2 ^ 20), stored := false })
    else s
  | none => s

/-- Take a counter value. -/
def takeCounter (k v : Nat) (fresh : Bool) (s : State) : State :=
  startCellWrite k (s.mSpace k fun sp => { sp with
    released := if fresh then sp.released else sp.released.filter (· ≠ v)
    next := if fresh then v + 1 else sp.next
    reserved := v :: sp.reserved })

/-- Release a reserved value unused (R144). -/
def releaseCounter (k v : Nat) (s : State) : State :=
  s.mSpace k fun sp => { sp with reserved := sp.reserved.filter (· ≠ v), released := insNat v sp.released }

/-- A reserved value becomes used (R130). -/
def commitCounter (k v : Nat) (s : State) : State :=
  (s.mSpace k fun sp => { sp with reserved := sp.reserved.filter (· ≠ v) }).mCell k fun c =>
    { c with committed := max c.committed (v + 1) }

end Sys2Proof.Machine
end

