-- ==== Sys2Proof/Machine/PealOps.lean ====
section
/-! DEFINITION. Peals in flight: data references, the output string, how a peal ends, check 9 as keys arrive, the
Toll's and the journal's part of a commit point (R107, R110, R115, R125 to R148, R182, R331 to R338). -/
namespace Sys2Proof.Machine

/-- A step that has not started. -/
def StepRun.init : StepRun :=
  { phase := .waiting, engine := none, second := none, out := [], shadow := false, fail := none,
    guardFail := false, reserved := none, nonce := [], drawn := [], masked := Shares.none, tie := none, agreed := [],
    agreedOk := none, started := 0, progress := 0, reshared := 0, handed := [], ownOnly := false }

/-- The descriptor of a peal. -/
def Peal.desc (q : Peal) : Desc := parseDesc q.sri q.raw
/-- The run of step `i`. -/
def Peal.run (q : Peal) (i : Nat) : StepRun := q.steps.getD i StepRun.init
/-- The entry of step `i`. -/
def Peal.stepDef (q : Peal) (i : Nat) : Option StepDef := q.entry.steps[i]?
/-- Change the run of step `i`. -/
def Peal.modRun (i : Nat) (f : StepRun → StepRun) (q : Peal) : Peal := { q with steps := modAt i f q.steps }
/-- Change the run of a step of the peal in a slot. -/
def State.mRun (p : PealSlot) (i : Nat) (f : StepRun → StepRun) (s : State) : State := s.mPeal p (Peal.modRun i f)
/-- The peal's steps are built-in operations 0x70 to 0x7F (R110, R527). -/
def Peal.isAdmin (q : Peal) : Bool := match q.entry.steps with | st :: _ => 0x70 ≤ st.op.toNat | [] => false
/-- The peal is read-only (R132). -/
def Peal.readOnly (q : Peal) : Bool :=
  readOnlyPeal q.entry.id ((q.input.getD (q.desc.inline.take q.desc.inLen)))
/-- The bytes of the descriptor input on the die. -/
def Peal.inputBytes (q : Peal) : Bytes := q.input.getD []

/-- The state an inline input of peal 0x00D8 asks for (R177). -/
def Peal.inlineTarget (q : Peal) : Option Nat :=
  if q.desc.inMode = 3 && q.desc.inLen = 1 then (q.desc.inline.head?).map (·.toNat) else none

/-- Every scatter-gather list of the peal has been read. -/
def Peal.listsRead (q : Peal) : Bool :=
  (q.desc.inMode ≠ 2 || q.inSgl.isSome) && (q.desc.outMode ≠ 2 || q.outSgl.isSome)

/-! Data references, Table 4-7. -/

/-- The source a reference names, `none` while it is not available. -/
def refSource (q : Peal) (r : DRef) : Option Bytes :=
  if r.src = 1 then q.input
  else if r.src = 2 then
    let u := q.run r.idx.toNat
    if u.phase = .ended then some (if u.out.isEmpty then u.masked.value else u.out) else none
  else if r.src = 3 then if q.parsed then some ((fieldBytesOf q.fields r.idx.toNat).getD []) else none
  else if r.src = 4 then some q.entry.consts
  else some []

/-- The bytes a reference gives, `none` when its range runs beyond its source (Table 4-7). -/
def refBytes (q : Peal) (r : DRef) : Option Bytes :=
  let src := (refSource q r).getD []
  sourceRange src r.off.toNat r.len.toNat true

/-- A reference is available to its step (R125). -/
def refReady (q : Peal) (r : DRef) : Bool := r.src == 0 || (refSource q r).isSome

/-- A reference reads a shadow output (R525). -/
def refShadow (q : Peal) (r : DRef) : Bool := r.src == 2 && (q.run r.idx.toNat).shadow
/-- A step's inputs or its derived key come from a shadow output (R525). -/
def stepShadow (q : Peal) (st : StepDef) : Bool :=
  refShadow q st.inA || refShadow q st.inB || (st.keyA == 4 && (q.run st.ksrc.toNat).shadow)

/-! The output string, R81, R94, R115. -/

/-- The step whose generated value is returned (R92). -/
def Peal.nonceRun (q : Peal) : Option (StepDef × StepRun) :=
  if q.entry.nonceStep = 0xFF then none
  else (q.stepDef q.entry.nonceStep.toNat).map fun st => (st, q.run q.entry.nonceStep.toNat)

/-- The outputs in the order of their positions, each at its actual length (R115). -/
def Peal.stepOutputs (q : Peal) : Bytes :=
  (List.range 32).flatMap fun pos =>
    (List.range q.entry.steps.length).flatMap fun i =>
      match q.stepDef i with
      | some st => if st.outPos.toNat = pos then (q.run i).out else []
      | none => []

/-- The generated nonce that SRI 1.2 places at the start of the output: none for a CBC IV, which is there
already (R93, R94). -/
def Peal.noncePrefix (q : Peal) : Bytes :=
  match q.nonceRun with
  | some (st, r) => if q.sri = 0x12 && !generatesCbc st then r.nonce else []
  | none => []

/-- The peal output string (R81). -/
def Peal.outString (q : Peal) : Bytes :=
  if q.isAdmin then q.opOut else q.noncePrefix ++ q.stepOutputs

/-- The completion of a peal that committed (R83, R92, R94). -/
def Peal.doneCpl (q : Peal) : Cpl :=
  let gen := q.nonceRun
  let cbc := match gen with | some (st, _) => generatesCbc st | none => false
  let n := match gen with | some (st, r) => if generatesCbc st then [] else r.nonce | none => []
  { tag := q.desc.tag, status := St.done, sub := 0, wait := q.wait,
    outLen := BitVec.ofNat 32 q.outString.length, nonce := BitVec.ofNat 96 (leNat (n.take 12)),
    toll := if q.readOnly then 0xFF else q.toll, nonceLen := BitVec.ofNat 4 n.length,
    ivInOutput := cbc || (q.sri == 0x12 && !n.isEmpty), outFault := q.outFault, cls := q.cls, step := 0,
    stepValid := false, deferred := q.deferred, cause := q.deferCause }

/-- The completion of a peal that ended without a commit (R88). -/
def Peal.failCpl (q : Peal) : Cpl :=
  { Cpl.failed q.desc.tag (q.status, q.sub) q.cls with
    wait := q.wait, deferred := q.deferred, cause := q.deferCause, step := q.failStep.getD 0,
    stepValid := q.failStep.isSome }

/-! How a peal ends without a commit. -/

/-- Step phases that hold an engine. -/
def StepPhase.onEngine : StepPhase → Bool
  | .running => true | .tieBreak => true | _ => false

/-- The step holds an SE or a PK core, which must reach a yield point before it stops (R140, R266). -/
def StepRun.holdsEngine (r : StepRun) : Bool :=
  r.phase.onEngine && (match r.engine with | some (.se _) => true | some (.pk _ _) => true | _ => false)

/-- Return a key's reservation of a peal, and the counter values its steps reserved (R143, R144). -/
def returnHolds (q : Peal) (s : State) : State :=
  let s1 := q.keys.foldl (fun s k => if k.reserved then returnUse k.key s else s) s
  q.steps.foldl (fun s r => match r.reserved with | some (k, v) => releaseCounter k v s | none => s) s1

/-- Free hold store and staging space (R133, R134). -/
def freeHold (q : Peal) (s : State) : State :=
  s.mClap fun c =>
    { c with staging := c.staging - q.staging,
             granulesCrit := if q.cls = 0 then c.granulesCrit - q.granules else c.granulesCrit,
             granulesOther := if q.cls = 0 then c.granulesOther else c.granulesOther - q.granules }

/-- The command writes a Steward-held record for a peal. -/
def NvCmd.isRecordOf (p : PealSlot) (c : NvCmd) : Bool := match c.work with | .stewardRecord q _ => q == p | _ => false
/-- The command writes a group record. -/
def NvCmd.isGroup (c : NvCmd) : Bool := match c.work with | .groupRec _ => true | _ => false

/-- A peal whose record is to be written has begun its commit: the write of its first record, or of its group's record, has
started (R18, R130, R155). -/
def begun (s : State) (p : PealSlot) : Bool :=
  if s.clap.writing.contains p then !s.nv.queue.any NvCmd.isGroup else !s.nv.queue.any (·.work == .stewardRecord p 0)

/-- The writes of a peal that has not begun its commit are withdrawn: those of its Steward-held record, or its part in a
group record, and that record with the last of the group (R18, R155). -/
def withdrawWrite (p : PealSlot) (s : State) : State :=
  let s1 := s.mNv fun n => { n with queue := n.queue.filter (!NvCmd.isRecordOf p ·) }
  if !s.clap.writing.contains p then s1
  else
    let left := s.clap.writing.filter (· ≠ p)
    let s2 := s1.mClap fun c => { c with writing := left }
    if !left.isEmpty || 0 < s.clap.lateIn then s2
    else (s2.mNv fun n => { n with queue := n.queue.filter (!NvCmd.isGroup ·) }).mToll fun k =>
      { k with writing := none, logSeq := k.logSeq - 1 }

/-- Take a peal out of every group and queue in which it waits. An open group that was closing for want of room has room again
(R155). -/
def leaveQueues (p : PealSlot) (s : State) : State :=
  let s1 := (withdrawWrite p s).mClap fun c =>
    { c with group := c.group.filter (· ≠ p), resume := c.resume.filter (· ≠ p), groupFull := c.groupFull && !c.group.contains p }
  let s2 := (s1.mRng fun g => { g with held := g.held.filter (!·.isOf p) }).mToll fun k =>
    { k with stmtWaits := k.stmtWaits.filter (·.1 ≠ p) }
  let live := fun (f : Fetch) => { f with waiters := f.waiters.filter (· ≠ p) }
  s2.mKs fun k => { k with fetches := k.fetches.map live }

/-- A peal ends without a commit, with a status and the step it arose in: its reservations are returned and its
outputs dropped in that cycle (R128, R140, R143, R144). -/
def endPeal (p : PealSlot) (st : Stat) (step : Option Nat) (s : State) : State :=
  match s.peal p with
  | none => s
  | some q =>
    dropOuts p.toNat (leaveQueues p (freeHold q (returnHolds q (s.mPeal p fun q =>
      { q with phase := .failed, status := st.1, sub := st.2, failStep := step.map (BitVec.ofNat 5 ·),
               granules := 0, staging := 0, opOut := [], effect := .none,
               keys := q.keys.map fun k => { k with reserved := false },
               steps := q.steps.map fun r =>
                 { r with phase := .ended, out := [], masked := Shares.none, tie := none, agreed := [], reserved := none,
                          nonce := [], drawn := [], handed := [] } }))))

/-- A dual-run peal whose own result stands waits for the partner's (R400). -/
def Peal.dualPending (q : Peal) : Bool := q.dualRun && !q.dualMatched && q.abort.isNone

/-- Status, sub-reason and output digest of a peal whose steps have all ended. -/
def Peal.ownResult (q : Peal) : BitVec 8 × BitVec 8 × Bytes :=
  if q.phase = .failed then (q.status, q.sub, sha384 []) else (St.done, 0, sha384 q.outString)

/-- Compare a dual-run peal's result with the partner's once both are there: equal ones let it seal or end as it
is, different ones end it ENGINE_FAULT, NO_MAJORITY, with XL_DUAL_MISMATCH (R400). -/
def dualJudge (p : PealSlot) (s : State) : State :=
  match s.peal p with
  | none => s
  | some q =>
    if !q.dualPending || !(q.phase == .failed || (q.phase == .running && q.sealedAt.isSome)) then s
    else match q.dualResult with
    | none => s
    | some r =>
      let s1 := s.mPeal p fun q => { q with dualMatched := true }
      if r = q.ownResult then s1
      else
        let s2 := raiseDev .xlDualMismatch (s1.mPair fun x =>
          { x with dualMismatch := if x.dualMismatch = 0xFFFFFFFF then x.dualMismatch else x.dualMismatch + 1 })
        if q.phase = .failed then s2.mPeal p fun q => { q with status := St.engineFault, sub := 1, failStep := none }
        else endPeal p (St.engineFault, 1) none s2

/-- A peal ends without a commit; a dual-run peal's end is compared with the partner's result (R128, R400). -/
def failPeal (p : PealSlot) (st : Stat) (step : Option Nat) (s : State) : State := dualJudge p (endPeal p st step s)

/-- The status of a stopped peal (Table 3-9); an FLR or a loss of the link leaves none. -/
def AbortCause.stat : AbortCause → Stat
  | .queueReset => (St.aborted, 1) | .failOver => (St.aborted, 2) | .lockdown => (St.aborted, 3)
  | .inputRead => (St.aborted, 5) | .flr => (St.aborted, 1) | .linkLoss => (St.aborted, 1)
  | .dualLost => (St.policyDenied, 3)

/-- The lowest step that failed other than as a guard (R140). -/
def Peal.earlyFail (q : Peal) : Option Nat :=
  (List.range q.steps.length).find? fun i => (q.run i).fail.isSome && !(q.run i).guardFail
/-- The lowest failing step (R87). -/
def Peal.firstFail (q : Peal) : Option Nat :=
  (List.range q.steps.length).find? fun i => (q.run i).fail.isSome

/-- Remove a step's set-aside job from the engines that hold it, and its draw that is held (R236, R273). -/
def dropHeld (p : PealSlot) (i : Nat) (s : State) : State :=
  let clean := fun (e : EngineRec) => { e with held := e.held.filter fun h => !(h.slot == p && h.step == i) }
  (s.mClusters fun cs => cs.map fun c => { c with se := c.se.map clean, pk := c.pk.map clean }).mRng fun g =>
    { g with held := g.held.filter (·.who ≠ .step p i) }

/-- Stop the steps of a peal that hold no engine: those set aside or waiting, above a step index (R140, R236). -/
def stopIdle (p : PealSlot) (q : Peal) (above : Option Nat) (s : State) : State :=
  (List.range q.steps.length).foldl (fun s i =>
    let r := q.run i
    let hit := match above with | some k => decide (k < i) | none => true
    if hit && r.phase ≠ .ended && !r.holdsEngine then
      dropHeld p i (s.mRun p i fun r => { r with phase := .ended })
    else s) s

/-- A peal's step is beyond recall: its job must stop at the next yield point (R140, R266). -/
def Peal.doomed (q : Peal) (i : Nat) : Bool :=
  q.abort.isSome || (match q.earlyFail with | some k => decide (k < i) | none => false)

/-- Decide what a peal's steps have come to: seal it, end it, or wait (R87, R128, R129, R138, R140). -/
def settle (p : PealSlot) (s : State) : State :=
  match s.peal p with
  | none => s
  | some q =>
    if q.phase ≠ .running then s
    else match q.abort with
    | some c =>
      let s1 := stopIdle p q none s
      if q.steps.any (·.holdsEngine) then s1 else failPeal p c.stat none s1
    | none =>
      match q.earlyFail with
      | some k =>
        let s1 := stopIdle p q (some k) s
        let q1 := (s1.peal p).getD q
        if q1.steps.all (·.phase == .ended) then
          let j := (q1.firstFail).getD k
          failPeal p ((q1.run j).fail.getD (0, 0)) (some j) s1
        else s1
      | none =>
        if !q.steps.all (·.phase == .ended) then s
        else match q.firstFail with
          | some j => failPeal p ((q.run j).fail.getD (0, 0)) (some j) s
          | none => dualJudge p (s.mPeal p fun q => { q with sealedAt := some (q.sealedAt.getD s.clk.now) })

/-- Stop a peal that has not begun its commit (R62, R63, R66, R152). A peal in an open journal-mode group leaves
it with no effect (R155). -/
def abortPeal (c : AbortCause) (p : PealSlot) (s : State) : State :=
  match s.peal p with
  | none => s
  | some q =>
    if q.phase = .running || q.phase = .grouped || (q.phase = .writing && !begun s p) then
      settle p (leaveQueues p (s.mPeal p fun q =>
        { q with phase := .running, abort := some (q.abort.getD c), sealedAt := none, storeWait := 0,
                 suppressed := q.suppressed || c == .flr || c == .linkLoss }))
    else s

/-- An admin operation fails in a step (R128). -/
def opFail (p : PealSlot) (st : Stat) (step : Nat) (s : State) : State :=
  settle p (s.mPeal p fun q => { q with
    opDone := true, opOut := [], effect := .none,
    steps := modAt step (fun r => { r with fail := some st })
      (q.steps.map fun r => { r with phase := .ended }) })

/-- An admin operation succeeds, with its output and its effect at the commit point. -/
def opPass (p : PealSlot) (out : Bytes) (e : Effect) (s : State) : State :=
  settle p (s.mPeal p fun q => { q with
    opDone := true, opOut := out, effect := e, steps := q.steps.map fun r => { r with phase := .ended } })

/-! Check 9 as the keys of a peal arrive, R166, R182. -/

/-- Check 9 has decided for every key of the peal, and none failed. -/
def Peal.keysOk (q : Peal) : Bool := q.keys.all fun k => k.phase == .judged && k.fault.isNone

/-- A step of the peal uses a key output that derives from no bound key and does not fit it (R172, R174). -/
def Peal.keylessMisfit (q : Peal) : Bool :=
  !(derivedUses q.entry.steps 0xF (0, 0)).all fun u => derivedFits (q.entry.id.toNat < 0x100) u && sessionKeyed q.entry u.1

/-- Once the lists are read, so that check 8 has decided, and every key is judged, the first failure in slot order ends
the peal, else a failed request parse does (R82, R118, R182). -/
def keysSettle (p : PealSlot) (s : State) : State :=
  match s.peal p with
  | none => s
  | some q =>
    if q.phase ≠ .running || q.abort.isSome || !q.listsRead || !(q.keys.all (·.phase == .judged)) then s
    else match (q.keys.find? (·.fault.isSome)).bind (·.fault) with
      | some st => failPeal p st none s
      | none =>
        if q.keylessMisfit then failPeal p (St.keyUnusable, 2) none s
        else if q.parseFail then failPeal p (St.inputInvalid, 8) none s else s

/-- Judge one key of a peal that has arrived in its tier: items 2 to 7 of R182, with the reservation of R143 in
the cycle it passes, and its fill into the cluster's tier 1. -/
def judgeKey (p : PealSlot) (slot : Nat) (tier3 : Bool) (s : State) : State :=
  match s.peal p with
  | none => s
  | some q =>
    match q.keys[slot]? with
    | none => s
    | some b =>
      let mark (f : Option Stat) (res : Bool) (s : State) : State :=
        s.mPeal p fun q => { q with keys := modAt slot (fun b =>
          { b with phase := .judged, fault := f, reserved := res, tier3 := tier3 }) q.keys }
      match s.krec b.key with
      | none => mark (some (St.keyFault, 2)) false s
      | some r =>
        match check9 s q.pol q.inlineTarget q.seq q.entry slot b.key tier3 r with
        | some st => mark (some st) false s
        | none =>
          let s1 := fillTier1 q.cluster b.key (s.mRec b.key fun r => { r with lastUse := s.clk.now })
          if reservesUses q.entry.id.toNat then mark none true (reserveUse b.key s1) else mark none false s1

/-! The Toll's counters and records, R331 to R338. -/

/-- Counters and use ledger entries that are dirty together (R335). -/
def dirtyCount (s : State) : Nat := s.toll.dirty.length + (s.ks.ledger.filter (·.2.dirty)).length

/-- A saturating 64-bit increment (R331). -/
def satInc64 (c : BitVec 64) : BitVec 64 := if c = 0xFFFFFFFFFFFFFFFF then c else c + 1

/-- The index of a counter (R331). -/
def tollIndex (t : Fn) (cls : BitVec 8) : Nat := 16 * t.toNat + cls.toNat

/-- The increment port: raise the counter of a tenant and class (R332). In journal mode none is dirty (R338). -/
def tollIncrement (t : Fn) (cls : BitVec 8) (s : State) : State :=
  if 16 ≤ cls.toNat then s
  else s.mToll fun k =>
    { k with counters := smMod 0 (tollIndex t cls) satInc64 k.counters,
             dirty := if k.journal then k.dirty else insNat (tollIndex t cls) k.dirty }

/-- The ledger word of an entry (Table 12-2). -/
def ledgerWord (idx : Nat) (e : LedgerEntry) : LogWord := .ledger idx e.key e.gen e.uses

/-- The words of a delta record of every dirty counter and ledger entry; counter 0 when none is and one is asked
for (R335, R338). -/
def deltaWords (s : State) (atLeastOne : Bool) : List LogWord :=
  let ws := (s.toll.dirty.map (fun i => LogWord.delta i (smGet 0 s.toll.counters i)) ++
    (s.ks.ledger.filter (·.2.dirty)).map fun e => ledgerWord e.1 e.2).take 255
  if ws.isEmpty && atLeastOne then [.delta 0 (smGet 0 s.toll.counters 0)] else ws

/-- Start a delta record, when none is being written: its values are the snapshot of this cycle (R335). -/
def startDelta (final atLeastOne : Bool) (s : State) : State :=
  let ws := deltaWords s atLeastOne
  if s.toll.writing.isSome || ws.isEmpty then s
  else
    let r : LogRec := { group := false, final := final, jm := s.toll.journal, seq := s.toll.logSeq + 1,
                        words := ws, valid := true, page := logPlace s.toll ws.length }
    nvQueue (if final && s.pwr.pfwarn then 1 else 3) (.deltaRec r)
      (s.mToll fun k => { k with writing := some r, logSeq := r.seq, lastRecordAt := s.clk.vtime.toNat })

/-- A delta record starts when 192 counters and ledger entries are dirty (R335). -/
def deltaIfDue (s : State) : State := if 192 ≤ dirtyCount s && !s.toll.journal then startDelta false false s else s

/-! The commit journal, R146 to R148. -/

/-- The sequence number the next entry receives (R147). -/
def nextSeq (s : State) : BitVec 64 := s.clap.epoch ++ s.clap.count

/-- The last `n` elements of a list. -/
def lastN {α : Type} (n : Nat) (l : List α) : List α := (l.reverse.take n).reverse

/-- The bank with one entry more, the oldest dropped beyond 65,536, and the count advanced (R147, R148). -/
def Clapper.put (e : JEntry) (wrap : Bool) (c : Clapper) : Clapper :=
  { c with journal := lastN 65536 (c.journal ++ [e]), count := if wrap then 0 else c.count + 1,
           epoch := if wrap then c.epoch + 1 else c.epoch }

/-- Write a journal entry: it takes the next sequence, the bank keeps the 65,536 highest, and the epoch advances
rather than the count wrap (R146 to R148). -/
def writeJournal (e : BitVec 64 → JEntry) (s : State) : State :=
  let wrap := s.clap.count.toNat == 0xFFFFFFFF
  let s1 := s.mClap (Clapper.put (e (nextSeq s)) wrap)
  if wrap then nvQueue 2 .epoch s1 else s1

/-- The journal entry of a committing peal (Table 5-5). -/
def Peal.journalEntry (q : Peal) (s : State) (seq : BitVec 64) : JEntry :=
  { tag := q.desc.tag, seq := seq, vtime := s.clk.vtime, tenant := q.fn, pealId := q.entry.id, toll := q.toll,
    flags := 0x40 }

/-- Peals committed with their completion not yet written (R135). -/
def committedWaiting (s : State) : Nat :=
  (s.peals.filter fun e => e.2.phase == .committed).length

/-! Xeolink messages, Table 14-5. -/

/-- The frame sequence this device acknowledges: the last received, or below the first that is not persisted yet
(R387, R394). -/
def Pair.ackSeq (x : Pair) : BitVec 64 :=
  match x.rxHold with
  | [] => x.rxSeq
  | h :: _ => h.1 - 1

/-- A frame as it goes out (R387): header, payload enciphered under the session key, tag; the header is the associated data,
the frame sequence the IV. -/
def frameWire (key : Bytes) (ty version : BitVec 8) (seq : BitVec 64) (payload : Bytes) : Bytes :=
  let header := [ty, version] ++ natLe 2 payload.length ++ natLe 8 seq.toNat ++ zeros 4
  header ++ aeadEnc false 16 key (natBe 12 seq.toNat) header payload

/-- Send a message to the partner on a link that is up; it takes the next frame sequence (R387). -/
def xlSend (ty : BitVec 8) (payload : Bytes) (s : State) : State :=
  if s.pair.link = .up then
    s.mPair fun x => { x with
      txSeq := x.txSeq + 1, sent := x.sent ++ [
        { ty := ty, seq := x.txSeq + 1, ack := x.ackSeq, payload := payload,
          wire := frameWire x.txKey ty x.version (x.txSeq + 1) payload }] }
  else s

/-- What a dual-run peal takes goes to the partner with its descriptor: its input, its draws, its reserved counter values
(R399, notes/assumptions/156.md). -/
def forwardDual (p : PealSlot) (bs : Bytes) (s : State) : State :=
  match s.peal p with
  | some q => if q.dualRun && !bs.isEmpty then xlSend 0x06 (natLe 64 q.raw.toNat ++ bs) s else s
  | none => s

/-- Messages go to the partner: it is in service, or coming back into service (R392, R395). -/
def linked (s : State) : Bool := s.pair.link == .up && (s.pair.inService || s.pair.resync)

/-- Send a message whose acknowledgement is waited for; answers its frame sequence, 0 when it must go out later. -/
def xlSendAcked (ty : BitVec 8) (payload : Bytes) (s : State) : BitVec 64 × State :=
  if linked s then
    let s1 := xlSend ty payload s
    (s1.pair.txSeq, s1)
  else (0, s)

/-- A journal entry as its 32 bytes (Table 5-5). -/
def JEntry.bytes (j : JEntry) : Bytes :=
  natLe 8 j.tag.toNat ++ natLe 8 j.seq.toNat ++
    natLe 8 (if j.flags.getLsbD 6 then j.vtime.toNat else 0) ++
    [BitVec.ofNat 8 j.tenant.toNat] ++ natLe 2 j.pealId.toNat ++
    [St.done, j.toll, if j.sound then j.flags else j.flags ||| 0x80] ++ zeros 2

/-- A ledger charge of a COMMIT payload (Table 14-5). -/
def chargeBytes (e : LedgerEntry) : Bytes :=
  natLe 4 (keyTenant e.key).toNat ++ natLe 4 (keyHandle e.key) ++ natLe 4 e.gen.toNat ++ natLe 4 e.uses.toNat

/-- The ledger entries of the keys a peal charges. -/
def chargedEntries (q : Peal) (s : State) : List LedgerEntry :=
  q.keys.filterMap fun b => match s.krec b.key with
    | some r => if r.limited then smFind r.ledger.toNat s.ks.ledger else none
    | none => none

/-- Replicate a commit with a journal entry while a partner is in service, without its ledger charges under XP v1
(R385, R392, R393). -/
def replicate (e : JEntry) (charges : List LedgerEntry) (s : State) : State :=
  if linked s then
    (xlSend 0x02 (e.bytes ++ if s.pair.version = 1 then [] else charges.flatMap chargeBytes) s).mPair fun x =>
      { x with unacked := x.unacked ++ [(x.txSeq, e.seq)] }
  else s

end Sys2Proof.Machine
end

