-- ==== Sys2Proof/Machine/GovOps.lean ====
section
/-! DEFINITION. The governor's arithmetic: descriptor checks 2 to 6, costs, placement, prediction, capacity and
the turn of a descriptor (R82, R297 to R323). -/
namespace Sys2Proof.Machine

/-! Descriptor checks, Table 3-6. -/

/-- Lengths that fit an operation of an admin peal whose operations take several (R345, R372, R390, R150, R226). -/
def adminLenOk (id n : Nat) : Bool :=
  if id = 0xF2 then n == 1 || n == 16 || (8 ≤ n && (n - 8) % 16 == 0 && n ≤ 8 + 4096)
  else if id = 0xF5 then n == 1 || n == 8
  else if id = 0xFA then n == 8 || n == 9
  else if id = 0xEF then n == 8 || n == 24 || n == 40
  else if id = 0xFF then n == 1 || (8 ≤ n && n ≤ 8 + 65536)
  else true

/-- The peal a descriptor of a function names, under its SRI version, of the tables in force (R93, R95). -/
def pealOf (s : State) (fn : Fn) (d : Desc) : Option PealEntry :=
  if 0x200 ≤ d.pealId.toNat || (d.sri12 && 0x7F < d.pealId.toNat) then none
  else if d.pealId.toNat < 0x100 then some (builtinPeal d.pealId)
  else match (s.tabs fn).peal with
    | some (_, es) => es.find? (·.id == d.pealId)
    | none => none

/-- The format entries a peal of a tenant is bound to (R99). -/
def fmtsOf (s : State) (fn : Fn) (id : BitVec 16) : List FmtEntry :=
  if id.toNat < 0x100 then builtinFmtsOf id else match (s.tabs fn).fmt with | some (_, es) => es | none => []

/-- The versions of the tables a tenant peal uses are accepted (R95): the status when not. -/
def versionFault (s : State) (fn : Fn) (e : PealEntry) : Option Stat :=
  if e.id.toNat < 0x100 then none
  else
    let t := s.tabs fn
    let m := s.fe.tblVersions
    let usesFmt := e.reqFmt ≠ 0xFF || e.steps.any (·.op == 0x60)
    let usesCurve := e.steps.any fun st =>
      (st.op == 0x40 || st.op == 0x41 || st.op == 0x42 || st.op == 0x48) && 0x10 ≤ fieldNat st.param.toNat 0 8
    if (match t.peal with | some (v, _) => !versionAccepted m 1 v | none => false) then some (St.versionMismatch, 2)
    else if (usesFmt && (match t.fmt with | some (v, _) => !versionAccepted m 2 v | none => false)) ||
        (usesCurve && (match t.curve with | some (v, _) => !versionAccepted m 3 v | none => false)) then
      some (St.versionMismatch, 3)
    else none

/-- Checks 1 and 2 (R58, R82, R94). -/
def checks12 (sri : BitVec 8) (d : Desc) : Option Stat :=
  if d.version ≠ sri then some (St.versionMismatch, 1)
  else if !d.reservedZero then some (St.inputInvalid, 1)
  else if d.outMode = 3 || (d.inMode == 2 && d.inAddr.toNat % 16 ≠ 0) || (d.outMode == 2 && d.outAddr.toNat % 16 ≠ 0) then
    some (St.inputInvalid, 0x0A)
  else if tagReserved d then some (St.inputInvalid, 9)
  else none

/-- The described buffer of a mode: 0 bytes for NONE, 16 for INLINE, otherwise not known yet or unbounded. -/
def inLenFault (e : PealEntry) (d : Desc) : Option Stat :=
  match lengthCheck d.inLen (modeLength d.inMode) with
  | some st => some st
  | none =>
    if !inLenAccepted e d.inLen || !adminLenOk e.id.toNat d.inLen then some (St.lengthInvalid, 5) else none

/-- The output length's part of check 5; an SRI 1.2 descriptor has no output length (R93). -/
def outLenFault (e : PealEntry) (fmts : List FmtEntry) (d : Desc) : Option Stat :=
  if d.sri12 then none
  else match lengthCheck d.outLen (modeLength d.outMode) with
    | some st => some st
    | none => if d.outLen < pealMaxOut e fmts d.inLen then some (St.lengthInvalid, 4) else none

/-- Checks 3 to 6, against the tables in force in this cycle (R99): the peal, or the failing status. -/
def checks36 (s : State) (fn : Fn) (d : Desc) (cls : SClass) : Stat ⊕ PealEntry :=
  match pealOf s fn d with
  | none => .inl (St.inputInvalid, 2)
  | some e =>
    if e.id.toNat < 0x100 && ((e.t0Only && fn ≠ 0) || !(s.tenant fn).permission.getLsbD e.id.toNat) then
      .inl (St.policyDenied, 1)
    else match versionFault s fn e with
    | some st => .inl st
    | none =>
      if d.dual && cls ≠ 0 then .inl (St.inputInvalid, 3)
      else match inLenFault e d with
      | some st => .inl st
      | none =>
        match outLenFault e (fmtsOf s fn e.id) d with
        | some st => .inl st
        | none =>
          if (d.keys.take e.handles.toNat).any (fun h => h.toNat / 2 ^ 24 ≠ 0) then .inl (St.inputInvalid, 4)
          else .inr e

/-! Temperature and costs. -/

/-- The reading of a cluster's sensor, `none` when it has failed (R316). -/
def clusterTemp (s : State) (c : Nat) : Option Int :=
  match s.gov.sensors[c]? with
  | some t => if t.failed || !t.valid then none else some t.value
  | none => none

/-- The cost bin of a reading (Table 11-3); a failed sensor prices at bin 7 (R316). -/
def costBin (edges : List Int) (t : Option Int) : Nat :=
  match t with
  | none => 7
  | some v => (edges.filter (· ≤ v)).length

/-- The algorithm of a step's key as it is known at admission: of a bound key while it is resident, of a key
output by R174 and R252; 0 otherwise (notes/assumptions/19.md). -/
def stepAlg (s : State) (fn : Fn) (keys : List Nat) (sts : List StepDef) : Nat → StepDef → Nat
  | 0, _ => 0
  | n + 1, st =>
    if st.keyA.toNat < 4 then
      match keys[st.keyA.toNat]? with
      | some k => match s.krec k with | some r => r.alg.toNat | none => 0
      | none => 0
    else if st.keyA = 4 then
      match sts[st.ksrc.toNat]? with
      | some q =>
        if q.op = 0x08 then fieldNat q.param.toNat 0 8
        else if q.op = 0x18 then stepAlg s fn keys sts n q
        else if q.op = 0x1C then if bitAt q.param.toNat 4 then 8 else 1
        else 3
      | none => 0
    else 0

/-- The first record that prices a step (R311). -/
def findCost (t : CostTable) (op alg param : Nat) : Option CostRec :=
  t.recs.find? fun r => r.op.toNat == op && (r.alg == 0 || r.alg.toNat == alg) &&
    (param &&& r.pmask.toNat) == r.pmatch.toNat

/-- Units of a step: its IN_A length, or the bytes a RANDOM step draws, in units, rounded up (R311). -/
def costUnits (r : CostRec) (len : Nat) : Nat :=
  if r.unit = 0 then 0 else (len + r.unit.toNat - 1) / r.unit.toNat

/-- What pricing and predicting a step needs: its record, its units, whether it runs on a checked pair, and whether it runs
under the ZT610 countermeasure (R7, R229). -/
structure StepCost where
  rec_ : Option CostRec
  units : Nat
  pair : Bool
  slow : Bool
  deriving DecidableEq, Repr

/-- A step's key, while it is resident, is marked COMPAT610 (Table 6-7). -/
def keyCompat (s : State) (keys : List Nat) (st : StepDef) : Bool :=
  st.keyA.toNat < 4 && (match (keys[st.keyA.toNat]?).bind s.krec with | some r => r.compat610 | none => false)

/-- The costs of a peal's steps in the table in force. -/
def stepCosts (s : State) (fn : Fn) (e : PealEntry) (keys : List Nat) (inLen : Nat) (checked cm610 : Bool) : List StepCost :=
  let fmts := fmtsOf s fn e.id
  let fields := reqFields e fmts
  let outs := pealMaxes e fmts inLen
  (List.range e.steps.length).map fun i =>
    match e.steps[i]? with
    | none => { rec_ := none, units := 0, pair := false, slow := false }
    | some st =>
      let r := findCost s.gov.costs st.op.toNat (stepAlg s fn keys e.steps 32 st) st.param.toNat
      let a := refMax inLen fields e.consts.length outs st.inA
      let len := if st.op = 0x68 then stepMax st a else a
      { rec_ := r, units := match r with | some x => costUnits x len | none => 0, pair := checked && st.sec,
        slow := engKind st.op.toNat == some .se && (cm610 || keyCompat s keys st) }

/-- A peal's reservation in whole microjoules for a bin (R312). -/
def reservation (s : State) (cs : List StepCost) (inLen maxOut bin : Nat) : Nat :=
  let t := s.gov.costs
  let one (c : StepCost) : Nat := match c.rec_ with
    | some r => (r.fixed.getD bin 0 + r.perUnit.getD bin 0 * c.units) * (if c.pair then 2 else 1)
    | none => 0
  let sum := t.pealFixed + t.dma * ((inLen + maxOut + 63) / 64) + (cs.map one).sum
  let f := if s.gov.surge = 1 then t.surge14 else if s.gov.surge = 2 then t.surge16 else 256
  max 1 ((sum * f + 255999) / 256000)

/-- The cluster clock in units of 0.2 GHz: 6, 7 or 8 (R320). -/
def clockUnits (s : State) : Nat := if s.gov.surge = 1 then 7 else if s.gov.surge = 2 then 8 else 6

/-- Predicted time of a step in ns at the current clock (R323). -/
def stepTime (s : State) (c : StepCost) : Nat :=
  let base := match c.rec_ with | some r => r.tFixed.toNat + r.tUnit.toNat * c.units / 1000 | none => 0
  let x := if c.slow then base * 3 / 2 else base
  (x + (if c.pair then 20 else 0)) * 6 / clockUnits s

/-! Engines and placement, R321. -/

/-- Active engines of a list. -/
def activeCount (l : List EngineRec) : Nat := (l.filter (·.role == .active)).length

/-- Kinds of engine a peal's steps use. -/
def usesSe (e : PealEntry) : Bool := e.steps.any fun st => engKind st.op.toNat == some .se
def usesPk (e : PealEntry) : Bool := e.steps.any fun st => engKind st.op.toNat == some .pk

/-- The keys of a cluster's tier 1 that may not be replaced, with their extension units: locked or pinned (R168). -/
def heldKeys (s : State) (c : ClusterNo) : List Nat :=
  ((lockedIn s c) ++ ((s.cluster c).cache.filter (·.pinned)).map (·.key)).eraseDups

/-- Extension units of a key, 0 while its record is not resident (notes/assumptions/19.md). -/
def extUnits (s : State) (k : Nat) : Nat :=
  match s.krec k with | some r => r.ext.toNat | none => if 2 ^ 32 ≤ k then 0 else 26

/-- A cluster can provide the tier-1 slots and units a peal needs, those of its key outputs among them (R110, R168). -/
def slotsFit (s : State) (c : ClusterNo) (e : PealEntry) (keys : List Nat) : Bool :=
  let all := (heldKeys s c ++ keys).eraseDups
  all.length + keyOutsHeld s c + keyOuts e ≤ 1024 && (all.map (extUnits s)).sum ≤ 2048

/-- A cluster is eligible for a peal (R321). -/
def eligible (s : State) (e : PealEntry) (checked : Bool) (keys : List Nat) (n : Nat) : Bool :=
  let c : ClusterNo := BitVec.ofNat 4 n
  let cl := s.cluster c
  let cool := match clusterTemp s n with | some t => decide (t < 105) | none => true
  let needSe := if usesSe e then if checked && e.steps.any (·.sec) then 2 else 1 else 0
  cl.enabled && cl.inService && cool && slotsFit s c e keys && needSe ≤ activeCount cl.se &&
    (!usesPk e || 1 ≤ activeCount cl.pk)

/-- Wake time in ns of a cluster's state (Table 1-5). -/
def wakeTime (cl : Cluster) : Nat :=
  match cl.state with
  | .active => 0 | .clockGated => 64 | .powerGated => 15000 | .pllOff => 40000

/-- Predicted time of the admitted, unissued steps of an engine kind on a cluster (R321). -/
def queuedTime (s : State) (c : ClusterNo) (kind : EngKind) : Nat :=
  ((s.peals.filter fun p => p.2.cluster == c && p.2.phase == .running).map fun p =>
    let q := p.2
    let cs := stepCosts s q.fn q.entry (q.keys.map (·.key)) q.desc.inLen q.checked q.cm610
    ((List.range q.entry.steps.length).map fun i =>
      match q.stepDef i with
      | some st =>
        if engKind st.op.toNat == some kind && (q.run i).phase == .waiting then
          stepTime s (cs.getD i { rec_ := none, units := 0, pair := false, slow := false })
        else 0
      | none => 0).sum).sum

/-- Predicted start of a peal on a cluster, in ns from now (R321). -/
def predictedStart (s : State) (e : PealEntry) (n : Nat) : Nat :=
  let c : ClusterNo := BitVec.ofNat 4 n
  let cl := s.cluster c
  let se := if usesSe e then queuedTime s c .se / max 1 (activeCount cl.se) else 0
  let pk := if usesPk e then queuedTime s c .pk / max 1 (activeCount cl.pk) else 0
  let fm := if e.steps.any (·.op == 0x60) then queuedTime s c .fmt else 0
  wakeTime cl + max se (max pk fm)

/-- Lexicographic order. -/
def lexLt : List Int → List Int → Bool
  | a :: as, b :: bs => if a < b then true else if b < a then false else lexLt as bs
  | [], _ :: _ => true
  | _, _ => false

/-- The element with the least rank. -/
def leastBy {α : Type} (rank : α → List Int) : List α → Option α
  | [] => none
  | a :: as => match leastBy rank as with
    | none => some a
    | some b => if lexLt (rank b) (rank a) then some b else some a

/-- The cluster the governor chooses (R321). -/
def chooseCluster (s : State) (e : PealEntry) (checked : Bool) (keys : List Nat) : Option Nat :=
  let cands := (List.range 16).filter (eligible s e checked keys)
  let start (n : Nat) : Int := predictedStart s e n
  let missing (n : Nat) : Int :=
    (keys.filter fun k => !inTier1 s (BitVec.ofNat 4 n) k).length
  let bad (n : Nat) : Int := match clusterTemp s n with | some _ => 0 | none => 1
  let temp (n : Nat) : Int := (clusterTemp s n).getD 0
  let near := cands.filter fun n => (s.cluster (BitVec.ofNat 4 n)).state == .active && predictedStart s e n ≤ 10000
  if s.mode ≠ .surge && !near.isEmpty then leastBy (fun n => [bad n, missing n, start n, temp n, n]) near
  else leastBy (fun n => [bad n, start n, missing n, temp n, n]) cands

/-! Prediction, R323. -/

/-- Key time of a bound key on a cluster (R323, Table 6-5). -/
def keyTime (s : State) (c : ClusterNo) (k : Nat) : Nat :=
  if inTier1 s c k then 0 else match s.krec k with | some r => 600 + 20 * r.ext.toNat | none => 10000

/-- Steps a step waits for: by data, by key and, unless the peal is speculative, by STEP.WAIT. -/
def stepDeps (st : StepDef) (spec : Bool) : List Nat :=
  (if st.inA.src = 2 then [st.inA.idx.toNat] else []) ++ (if st.inB.src = 2 then [st.inB.idx.toNat] else []) ++
    (if st.keyA = 4 then [st.ksrc.toNat] else []) ++
    (if spec then [] else (List.range 32).filter fun g => st.wait.getLsbD g)

/-- The longest path through a peal's steps: the latest end over the steps, in step order. -/
def longestPath (spec : Bool) (times : List Nat) : List Nat → List StepDef → Nat
  | ends, [] => ends.foldl max 0
  | ends, st :: sts =>
    let start := ((stepDeps st spec).map fun d => ends.getD d 0).foldl max 0
    longestPath spec times (ends ++ [start + times.getD ends.length 0]) sts

/-- Predicted finish in ns from now on a cluster (R323). -/
def predictedFinish (s : State) (e : PealEntry) (keys : List Nat) (cs : List StepCost) (spec : Bool) (n : Nat) : Nat :=
  let times := cs.map (stepTime s)
  predictedStart s e n + (keys.map (keyTime s (BitVec.ofNat 4 n))).foldl max 0 + longestPath spec times [] e.steps + 1000

/-! Capacity, R298, R304. -/

/-- A tenant's share after reset (Table 11-9). -/
def shareDefault (t : Fn) : Share := if t = 0 then Share.initT0 else Share.init
/-- The share of a tenant. -/
def share (s : State) (t : Fn) : Share := smGet (shareDefault t) s.gov.shares t.toNat

/-- Entries and step slots held: (general entries, general steps) of a tenant, or of all. -/
def heldBy (s : State) (crit : Bool) (t : Option Fn) : Nat × Nat :=
  let l := s.peals.filter fun p => p.2.crit == crit && (match t with | some t => p.2.fn == t | none => true)
  (l.length, (l.map fun p => p.2.entry.steps.length).sum)

/-- A tenant has an ENABLED submission ring, so that its unused minimum is protected (R304). -/
def hasEnabledRing (s : State) (t : Fn) : Bool :=
  s.fe.sqs.any fun e => e.2.state == .enabled && sqOwner s (BitVec.ofNat 16 e.1) == some t

/-- The unused minimums of every tenant but one, in entries and in step slots (R304). -/
def unusedMins (s : State) (t : Fn) : Nat × Nat :=
  let ts := (List.range 256).filter fun n => n ≠ t.toNat && 0 < (share s (BitVec.ofNat 8 n)).min.toNat &&
    hasEnabledRing s (BitVec.ofNat 8 n)
  let one (n : Nat) : Nat × Nat :=
    let h := heldBy s false (some (BitVec.ofNat 8 n))
    let m := (share s (BitVec.ofNat 8 n)).min.toNat
    (m - h.1, 4 * m - h.2)
  ((ts.map fun n => (one n).1).sum, (ts.map fun n => (one n).2).sum)

/-- Whether a peal of some steps may take an entry of the Critical reserve (R298). -/
def critRoom (s : State) (t : Fn) (steps : Nat) : Bool :=
  let all := heldBy s true none
  (heldBy s true (some t)).1 < (share s t).critCap.toNat && all.1 < 1024 && all.2 + steps ≤ 4096

/-- Whether it may take a general entry under its tenant's share (R304). -/
def generalRoom (s : State) (t : Fn) (steps : Nat) : Bool :=
  let all := heldBy s false none
  let own := heldBy s false (some t)
  let mins := unusedMins s t
  let sh := share s t
  own.1 < sh.cap.toNat && own.2 + steps ≤ 4 * sh.cap.toNat && 1 + all.1 + mins.1 ≤ 3072 &&
    all.2 + steps + mins.2 ≤ 12288

/-- Hold store granules and staging units of a peal's maximum output (R133, R134). -/
def granulesFor (maxOut : Nat) : Nat := (min maxOut 65536 + 255) / 256
def stagingFor (maxOut : Nat) : Nat := (maxOut - 65536 + 65535) / 65536

/-- The staging space in 64 KiB units (R457, Table 17-2). -/
def stagingUnits (s : State) : Nat := if s.mem.two then 4096 else 1536

/-- Hold store and staging space are free (R133, R134). -/
def holdRoom (s : State) (cls : SClass) (maxOut : Nat) : Bool :=
  let g := granulesFor maxOut
  let c := s.clap
  c.granulesCrit + c.granulesOther + g ≤ 32768 && (cls == 0 || c.granulesOther + g ≤ 24576) &&
    (stagingFor maxOut = 0 || c.staging + stagingFor maxOut ≤ stagingUnits s)

/-- Table loads and clears (R103). -/
def isTablePeal (id : Nat) : Bool := id == 0xF0 || id == 0xF1 || id == 0xF4 || id == 0xFE
/-- Barrier peals (R189). -/
def isBarrierPeal (id : Nat) : Bool := id == 0xD8 || id == 0xD9

/-- The tenant whose tables a table peal in flight changes, `none` while peal 0x00F1 has not read its image (R102). -/
def tableTarget (q : Peal) : Option Fn :=
  if q.entry.id.toNat = 0xF1 then (if q.inputBytes.length < 64 then none else some (parseTblHeader q.inputBytes).tenant)
  else some q.fn

/-- A tenant peal in flight is bound to an older version of a kind, 1 to 3, of which a newer one is in force (R99, R103). -/
def oldVersion (s : State) (kind : Nat) (q : Peal) : Bool :=
  let t := s.tabs q.fn
  let up := if kind = 1 then t.peal.isSome else if kind = 2 then t.fmt.isSome else kind == 3 && t.curve.isSome
  0x100 ≤ q.entry.id.toNat && up && q.gens.getD (kind - 1) 0 ≠ t.gen.getD (kind - 1) 0

/-- A table peal waits as it runs for what its descriptor does not tell: an earlier table peal of the same target tenant, or
of one not read yet, in flight; or the last peal bound to the older version of the kind it loads (R103;
notes/assumptions/20.md). -/
def tableWaits (s : State) (q : Peal) (kind : Nat) : Bool :=
  match tableTarget q with
  | none => false
  | some t =>
    let same (x : Peal) : Bool := match tableTarget x with | some u => u == t | none => true
    s.peals.any fun p =>
      (isTablePeal p.2.entry.id.toNat && p.2.seq < q.seq && same p.2) || (p.2.fn == t && oldVersion s kind p.2)

/-- A peal in flight holds back a serialised one at its admission: a table peal of the same target tenant where both are known,
one of the same key (R103, R191; notes/assumptions/20.md). -/
def serialBlocked (s : State) (fn : Fn) (e : PealEntry) (keys : List Nat) : Bool :=
  let id := e.id.toNat
  (isTablePeal id && id ≠ 0xF1 && s.peals.any fun p =>
    isTablePeal p.2.entry.id.toNat && tableTarget p.2 == some fn) ||
  (isBarrierPeal id && s.peals.any fun p => isBarrierPeal p.2.entry.id.toNat &&
    (p.2.keys.map (·.key)).any (keys.contains ·))

/-! Conditions of Table 11-2. -/

/-- Everything the governor knows of a waiting descriptor at a decision. -/
structure Cand where
  w : Waiting
  d : Desc
  cls : SClass
  e : PealEntry
  keys : List Nat
  checked : Bool
  cm610 : Bool
  maxOut : Nat
  costs : List StepCost
  cluster : Option Nat
  tokens : Nat
  deriving DecidableEq, Repr

/-- The candidate a waiting descriptor makes, or the status with which it fails checks 3 to 6 (R99). -/
def candOf (s : State) (w : Waiting) : Stat ⊕ Cand :=
  let d := parseDesc (sriOf s w.fn) w.raw
  let ring := s.sq w.ring
  let cls := runClass d.cls ring.ceil
  match checks36 s w.fn d cls with
  | .inl st => .inl st
  | .inr e =>
    let keys := (d.keys.take e.handles.toNat).map fun h => keyNo w.fn h.toNat
    let checked := d.checked || ring.checked
    let mo := pealMaxOut e (fmtsOf s w.fn e.id) d.inLen
    let cs := stepCosts s w.fn e keys d.inLen checked ring.cm610
    let cl := chooseCluster s e checked keys
    let tok := match cl with
      | some n => reservation s cs d.inLen mo (costBin s.gov.costs.edges (clusterTemp s n))
      | none => 0
    .inr { w := w, d := d, cls := cls, e := e, keys := keys, checked := checked, cm610 := ring.cm610,
           maxOut := mo, costs := cs, cluster := cl, tokens := tok }

/-- A measure of Table 11-6 is in force. -/
def measure (s : State) (m : Nat) : Bool := s.gov.measures.getLsbD (m - 1)

def Cand.cqFails (s : State) (c : Cand) : Bool :=
  match boundCq s c.w.ring with
  | some q => !((s.cq q).state == .enabled && 0 < (s.cq q).free)
  | none => true

/-- A token level kept in 32 signed bits, the least where it would fall below (R306; notes/assumptions/180.md). -/
def signed32 (l : Int) : Int := max l (-(2 ^ 31))

/-- The headroom H (R306). -/
def headroom (s : State) : Nat :=
  if s.gov.level ≤ 0 || s.gov.depth = 0 then 0 else 100 * s.gov.level.toNat / s.gov.depth

/-- The thermal level whose effects the governor applies: its own, or level 1 under a THROTTLE response (R317, R409). -/
def effThermal (s : State) : Nat := max s.gov.thermal.toNat (if s.tmp.throttle then 1 else 0)

/-- The thermal level forbids the class (Table 11-7). -/
def Cand.thermalFails (s : State) (c : Cand) : Bool :=
  let t := effThermal s
  t == 3 || (2 ≤ t && c.cls == 1) || (1 ≤ t && 2 ≤ c.cls.toNat)

/-- The measures, or a level that would fall below 0, forbid the peal (R307, R314). -/
def Cand.energyFails (s : State) (c : Cand) : Bool :=
  let m := measure s
  (c.cls == 3 && m 1) || (c.cls == 2 && ((m 2 && s.gov.costs.heavy ≤ c.tokens && c.cluster.isSome) || m 6)) ||
    (c.cls == 1 && m 7) || (c.cls ≠ 0 && decide (s.gov.level - c.tokens < 0))

def Cand.capacityFails (s : State) (c : Cand) : Bool :=
  let n := c.e.steps.length
  !((c.cls == 0 && critRoom s c.w.fn n) || generalRoom s c.w.fn n) || !holdRoom s c.cls c.maxOut ||
    c.cluster.isNone || serialBlocked s c.w.fn c.e c.keys || 4096 ≤ s.peals.length

/-- The first condition of rows 1 to 4 of Table 11-2 that fails, by its cause code of Table 3-10. -/
def Cand.cause (s : State) (c : Cand) : Option (BitVec 3) :=
  if c.cqFails s then some 5 else if c.thermalFails s then some 2 else if c.energyFails s then some 1
  else if c.capacityFails s then some 3 else none

/-! The turn, R299, R302. -/

/-- The candidates that are oldest in their ring and class (R302). -/
def heads (cs : List Cand) : List Cand :=
  cs.filter fun c => !cs.any fun x => x.w.ring == c.w.ring && x.cls == c.cls && x.w.order < c.w.order

/-- A descriptor the governor may decide about: not of a tenant it refuses in any case. -/
def contends (s : State) (w : Waiting) : Bool :=
  (w.fn == 0 || (s.mode ≠ .maintenance && s.pair.roles.getLsbD w.fn.toNat))

/-- Every candidate waiting, in fetch order. -/
def candidates (s : State) : List Cand :=
  (s.fe.waiting.filter (contends s)).filterMap fun w => match candOf s w with | .inr c => some c | .inl _ => none

/-- Distance round the circle of `n` numbers from the one after `last`. -/
def after (n last x : Nat) : Nat := (x + 2 * n - last - 1) % n

/-- Round-robin keys: the last function of a class, and the last ring of a function in a class. -/
def rrKey (cls : SClass) (fn : Fn) : Nat := 256 * cls.toNat + fn.toNat

/-- Pick by tenant round-robin, then ring round-robin (R302). -/
def pickRoundRobin (s : State) (l : List Cand) : Option Cand :=
  leastBy (fun (c : Cand) =>
    [(after 256 (smGet 255 s.gov.lastFn c.cls.toNat) c.w.fn.toNat : Int),
     (after 65536 (smGet 65535 s.gov.lastRing (rrKey c.cls c.w.fn)) c.w.ring.toNat : Int), (c.w.order : Int)]) l

/-- A number every weight from 1 to 255 divides, so that r / weight is exact (R302). -/
def strideUnit : Nat := (List.range 255).foldl (fun a i => Nat.lcm a (i + 1)) 1

/-- The virtual times of tenants within a class, and those that had a candidate at the last decision. -/
def tenantVt (s : State) (cls : SClass) : SMap Nat × List Nat :=
  if cls = 1 then (s.gov.vtTenantI, s.gov.hadTenantI) else (s.gov.vtTenantB, s.gov.hadTenantB)

/-- A tenant's virtual time at this decision: one that had no candidate last is raised to the least of the others'
(R302, notes/assumptions/21.md). -/
def tenantTime (s : State) (cls : SClass) (l : List Cand) (t : Nat) : Nat :=
  let (vt, had) := tenantVt s cls
  let own := smGet 0 vt t
  if had.contains t then own
  else
    let others := ((l.map (·.w.fn.toNat)).filter fun x => x ≠ t && had.contains x).map (smGet 0 vt)
    match others with
    | [] => own
    | x :: xs => max own (xs.foldl min x)

/-- Pick within Interactive or Bulk: the tenant of the least virtual time, the lower number on equal times, then
its rings in turn (R302). -/
def pickStride (s : State) (cls : SClass) (l : List Cand) : Option Cand :=
  leastBy (fun (c : Cand) =>
    [(tenantTime s cls l c.w.fn.toNat : Int), (c.w.fn.toNat : Int),
     (after 65536 (smGet 65535 s.gov.lastRing (rrKey cls c.w.fn)) c.w.ring.toNat : Int), (c.w.order : Int)]) l

/-- The virtual times of Interactive and Bulk at this decision (R302, notes/assumptions/21.md). -/
def classTimes (s : State) (i b : Bool) : Nat × Nat :=
  let g := s.gov
  (if i && !g.hadI then max g.vtInteractive g.vtBulk else g.vtInteractive,
   if b && !g.hadB then max g.vtBulk g.vtInteractive else g.vtBulk)

/-- Speculation is permitted (R319, R141). -/
def specPermitted (s : State) : Bool :=
  s.fuses.grade == 2 && s.gov.specEn && !measure s 3 && s.gov.thermal.toNat < 2

/-- A peal would be marked speculative at its admission (R141). -/
def specMarked (s : State) (e : PealEntry) (maxOut : Nat) : Bool := specPermitted s && !e.noSpec && maxOut ≤ 8192

/-- A Scavenger descriptor may be admitted (R299). -/
def scavengerOk (s : State) (all : List Cand) (c : Cand) : Bool :=
  let busy := all.any fun x => (x.cls == 1 || x.cls == 2) && x.cause s ≠ some 5
  match c.cluster with
  | none => false
  | some n =>
    let cl := s.cluster (BitVec.ofNat 4 n)
    let first := c.e.steps.filter fun st => (stepDeps st (specMarked s c.e c.maxOut)).isEmpty
    let busyFmt := s.peals.any fun p => p.2.cluster.toNat == n && p.2.steps.any fun r => r.phase == .running && r.engine == some .fmt
    let idle (l : List EngineRec) : Bool := l.any fun e => e.role == .active && e.job.isNone && e.selfTest.isNone
    let seOk := !first.any (fun st => engKind st.op.toNat == some .se) || idle cl.se
    let pkOk := !first.any (fun st => engKind st.op.toNat == some .pk) || idle cl.pk
    let fmtOk := !first.any (fun st => engKind st.op.toNat == some .fmt) || !busyFmt
    !busy && (cl.state == .active || cl.state == .clockGated) && !cl.gating && seOk && pkOk && fmtOk

/-- The descriptor whose turn it is among all candidates, `none` when none is admissible (R302). -/
def turn (s : State) (all : List Cand) : Option Cand :=
  let adm := (heads all).filter fun c => (c.cause s).isNone
  let of (k : SClass) := adm.filter (·.cls == k)
  match pickRoundRobin s (of 0) with
  | some c => some c
  | none =>
    let i := of 1
    let b := of 2
    let (ti, tb) := classTimes s (!i.isEmpty) (!b.isEmpty)
    if !i.isEmpty && (b.isEmpty || ti ≤ tb) then pickStride s 1 i
    else if !b.isEmpty then pickStride s 2 b
    else pickRoundRobin s ((of 3).filter (scavengerOk s all))

/-- The governor's memory of a decision: which classes and tenants had an admissible descriptor, with their
virtual times raised (R302). -/
def noteDecision (all : List Cand) (s : State) : State :=
  let adm := (heads all).filter fun c => (c.cause s).isNone
  let i := adm.filter (·.cls == 1)
  let b := adm.filter (·.cls == 2)
  let ts (l : List Cand) := (l.map (·.w.fn.toNat)).eraseDups
  let (ti, tb) := classTimes s (!i.isEmpty) (!b.isEmpty)
  let raise (cls : SClass) (l : List Cand) (m : SMap Nat) :=
    (ts l).foldl (fun m t => smSet 0 t (tenantTime s cls l t) m) m
  s.mGov fun g => { g with vtInteractive := ti, vtBulk := tb, hadI := !i.isEmpty, hadB := !b.isEmpty,
                           vtTenantI := raise 1 i g.vtTenantI, vtTenantB := raise 2 b g.vtTenantB,
                           hadTenantI := ts i, hadTenantB := ts b }

/-- Advance virtual times and round-robin positions by an admission (R302). -/
def noteAdmission (c : Cand) (s : State) : State :=
  let w (x : Nat) : Nat := strideUnit / max 1 x
  let tw := (share s c.w.fn).weight.toNat
  s.mGov fun g =>
    let g1 := { g with lastFn := smSet 255 c.cls.toNat c.w.fn.toNat g.lastFn,
                       lastRing := smSet 65535 (rrKey c.cls c.w.fn) c.w.ring.toNat g.lastRing }
    if c.cls = 1 then
      { g1 with vtInteractive := g.vtInteractive + c.tokens * w g.weightI.toNat,
                vtTenantI := smMod 0 c.w.fn.toNat (· + c.tokens * w tw) g.vtTenantI }
    else if c.cls = 2 then
      { g1 with vtBulk := g.vtBulk + c.tokens * w g.weightB.toNat,
                vtTenantB := smMod 0 c.w.fn.toNat (· + c.tokens * w tw) g.vtTenantB }
    else g1

/-! Deferral, R91. -/

/-- Count the time a descriptor was withheld up to now, and note the cause that withholds it from now on. -/
def Waiting.note (now : Nat) (cause : Option (BitVec 3)) (w : Waiting) : Waiting :=
  let m := match w.cause with
    | some (c, t) => smMod 0 c.toNat (· + (now - t)) w.withheld
    | none => w.withheld
  { w with withheld := m, cause := cause.map fun c => (c, now) }

/-- Withheld for at least 1 µs in all, and the cause that withheld longest, the lower code on equal times. -/
def Waiting.deferral (now : Nat) (w : Waiting) : Bool × BitVec 3 :=
  let m := (w.note now none).withheld
  let total := (m.map (·.2)).sum
  if total < 1000 then (false, 0)
  else match leastBy (fun c => [-((smGet 0 m c : Nat) : Int), (c : Int)]) [1, 2, 3, 4, 5] with
    | some c => (true, BitVec.ofNat 3 c)
    | none => (false, 0)

/-- Replace a waiting descriptor. -/
def setWaiting (w : Waiting) (s : State) : State :=
  s.mFe fun e => { e with waiting := e.waiting.map fun x => if x.order = w.order then w else x }
/-- Remove a waiting descriptor. -/
def dropWaiting (order : Nat) (s : State) : State :=
  s.mFe fun e => { e with waiting := e.waiting.filter (·.order ≠ order) }

/-- Complete a waiting descriptor without admitting it: the wait of one that admission refuses ends here, that of a flushed
one or of a late failure of checks 3 to 6 at its completion (R88, R90). -/
def refuseWaiting (w : Waiting) (st : Stat) (s : State) : State :=
  let d := parseDesc (sriOf s w.fn) w.raw
  let df := w.deferral s.clk.now
  let decided := st.1 == St.refused || st.1 == St.policyDenied && st.2 == 3
  completeNow
    { fn := w.fn, ring := w.ring, accepted := if decided then none else some w.accepted, sri := sriOf s w.fn,
      cpl := { Cpl.failed d.tag st (runClass d.cls (s.sq w.ring).ceil) with
        wait := waitUs w.accepted s.clk.now, deferred := df.1, cause := df.2 } }
    (dropWaiting w.order s)

/-- The governor decides about descriptors. Serve is reachable in Production only, and so no other life-cycle state admits a
peal (R26). -/
def deciding (s : State) : Bool := s.mode.working && !s.pwr.pfwarn && s.fuses.lc == .production

/-- The cause that withholds a candidate, CLASS when only its turn is missing (R301). -/
def withheldBy (s : State) (all : List Cand) (c : Cand) : Option (BitVec 3) :=
  match c.cause s with
  | some k => some k
  | none => if (match turn s all with | some x => x.w.order == c.w.order | none => false) then none else some 4

/-- The causes that withhold the waiting descriptors are noted, as a descriptor arrives, a decision is made, a peal's entry is
freed, and at each refill boundary (R91, R301; notes/assumptions/181.md). -/
def noteCauses (s : State) : State :=
  let all := candidates s
  all.foldl (fun t c => setWaiting (c.w.note s.clk.now (if deciding s then withheldBy s all c else none)) t) s

/-- Clusters stand clock-gated where they are: at thermal trip (Table 11-7) and after PFWARN_N (R505). -/
def frozen (s : State) : Bool := s.gov.thermal == 3 || s.pwr.pfGated

/-- The cluster clock changes: every step under way has run its part at the old one (R231, R271). -/
def newClock (surge : BitVec 2) (s : State) : State :=
  let fold := fun (q : Peal) => { q with steps := q.steps.map fun r =>
    if r.phase = .running then
      { r with progress := r.progress + (if frozen s then 0 else (s.clk.now - r.started) * clockUnits s)
               started := max r.started s.clk.now }
    else r }
  { s with peals := s.peals.map fun (k, q) => (k, fold q), gov := { s.gov with surge := surge } }

/-- What stood still in gated clusters goes on from now (R317, R505). -/
def resumeCourses (s : State) : State :=
  let go := fun (q : Peal) => { q with steps := q.steps.map fun r =>
    if r.phase = .running then { r with started := max r.started s.clk.now } else r }
  { s with peals := s.peals.map fun (k, q) => (k, go q) }

/-- A condition of a grant of Surge fails within a refill period (R320). -/
def lapseSurge (s : State) : State :=
  if s.gov.surgeEn && 45 ≤ headroom s && effThermal s == 0 then s else s.mGov fun g => { g with surgeOkSince := none }

/-- Withdraw Surge, returning every cluster to 1.2 GHz, and leave mode Surge (R320, Table 1-7). -/
def withdrawSurge (s : State) : State :=
  let s1 := (newClock 0 s).mGov fun g => { g with surgeOkSince := none }
  if s.mode = .surge then s1.enter .serve else s1

/-- A cluster is idle: no peal in flight is placed on it, and it holds no context or parked job (R322). A PK core it
has lent to another cluster's release verification does not keep it from being gated, and the gating drops that job: the
model's choice, R20 speaking of peals in flight on the cluster (notes/assumptions/135.md). -/
def idleCluster (s : State) (n : ClusterNo) : Bool :=
  let c := s.cluster n
  !s.peals.any (·.2.cluster == n) && (c.se ++ c.pk).all (·.held.isEmpty)

/-- A cluster that has become idle starts its idle time (R322). -/
def noteIdle (n : ClusterNo) (s : State) : State :=
  if idleCluster s n then s.mCluster n fun c => { c with idleSince := some (c.idleSince.getD s.clk.now) } else s

/-- Wake a cluster for an admitted peal, after its gating when that is under way (R19, R21). -/
def requestWake (n : ClusterNo) (s : State) : State :=
  s.mCluster n fun c =>
    if c.gating then { c with wakeAfterGating := true, idleSince := none }
    else if c.state = .active then { c with idleSince := none }
    else { c with waking := some (c.waking.getD s.clk.now), idleSince := none }

end Sys2Proof.Machine
end

