-- ==== Sys2Proof/Machine/Rings.lean ====
section
/-! DEFINITION. Doorbells, head writes and descriptor fetch (R41 to R50, R62, R70, R72 to R82, R300). -/
namespace Sys2Proof.Machine

/-- The value a write to an 8-byte slot carries, `none` when it does not touch the slot as R44 asks. -/
def slotValue (acc : Acc) (data : BitVec 64) : Option Nat :=
  match acc with
  | .full => some (data.toNat % 2 ^ 32)
  | .low => some (data.toNat % 2 ^ 32)
  | .high => none
  | .other => none

/-- Raise a function event and change nothing else. -/
def ignored (fn : Fn) (ev : FnEvent) (s : State) : State := raiseFn fn ev s

/-- Accept `n` descriptors: the tail moves and `n` credits are consumed (R44, R45, R54). -/
def SubRing.accept (now tail n : Nat) (q : SubRing) : SubRing :=
  { q with tail := BitVec.ofNat 17 tail, consumed := q.consumed + BitVec.ofNat 64 n,
           outstanding := q.outstanding + BitVec.ofNat 17 n, accepts := q.accepts ++ [(now, n)] }

/-- A doorbell write of a value to a ring that its function owns (R44, R51). -/
def doorbell (fn : Fn) (r : SqNo) (v : Nat) (s : State) : State :=
  let q := s.sq r
  let tail := v % 2 ^ 17
  let n := (tail + 2 * q.size - q.tail.toNat) % (2 * q.size)
  if q.state ≠ .enabled then ignored fn .dbDisabled s
  else if 2 * q.size ≤ tail || v / 2 ^ 17 ≠ 0 then ignored fn .dbMalformed s
  else if n = 0 then s
  else if q.free < n then ignored fn .dbOvercredit s
  else s.mSq r (SubRing.accept s.clk.now tail n)

/-- A head write of a value to a completion ring (R48): the entries it frees let waiting completions post. -/
def headWrite (fn : Fn) (c : CqNo) (v : Nat) (s : State) : State :=
  let q := s.cq c
  let head := v % 2 ^ 17
  let n := (head + 2 * q.size - q.head.toNat) % (2 * q.size)
  if 2 * q.size ≤ head || v / 2 ^ 17 ≠ 0 then ignored fn .dbMalformed s
  else if q.used < n then ignored fn .cqHeadInvalid s
  else drainReady (s.mCq c fun q =>
    { q with head := BitVec.ofNat 17 head, pending := q.pending.drop (q.pending.length - (q.used - n)) })

/-- The value a write at an offset of BAR2 carries: a full or low-half write stands at the start of its slot (R44). -/
def slotAt (off : Nat) (acc : Acc) (data : BitVec 64) : Option Nat := if off % 8 = 0 then slotValue acc data else none

/-- A write to a completion head slot of a function (R42, R48, R70). One before the function reports ready is ignored with
DB_EARLY, as a doorbell is: the model's choice (notes/assumptions/190.md). -/
def headSlot (fn : Fn) (off : Nat) (acc : Acc) (data : BitVec 64) (s : State) : State :=
  if !barsOn s fn then s
  else if !s.fe.reported then ignored fn .dbEarly s
  else match cqOf s fn (off % 0x1000 / 8), slotAt off acc data with
    | some c, some v => headWrite fn c v s
    | _, _ => ignored fn .dbMalformed s

/-- SUBMISSION_DOORBELL_WRITE: a write at an offset of BAR2 (Table 2-2, R42 to R45, R51, R70). -/
def execSubmissionDoorbellWrite (fn : Fn) (off : BitVec 17) (acc : Acc) (data : BitVec 64) (s : State) : Res :=
  let o := off.toNat
  .next (if 0x10000 ≤ o && o < 0x11000 then headSlot fn o acc data s
  else if !barsOn s fn then s
  else if !s.fe.reported then ignored fn .dbEarly s
  else if 0x11000 ≤ o || 0x200 ≤ o % 0x1000 then ignored fn .dbMalformed s
  else match sqOf s fn (64 * (o / 0x1000) + o % 0x1000 / 8), slotAt o acc data with
    | some r, some v => doorbell fn r v s
    | _, _ => ignored fn .dbMalformed s)

/-- COMPLETION_HEAD_WRITE: a write to the head slot of a local completion ring (R48). -/
def execCompletionHeadWrite (fn : Fn) (cq : BitVec 9) (acc : Acc) (data : BitVec 64) (s : State) : Res :=
  .next (headSlot fn (0x10000 + 8 * cq.toNat) acc data s)

/-! Fetch. -/

/-- Take the acceptance instant of the oldest unfetched descriptor. -/
def popAccept : List (Nat × Nat) → List (Nat × Nat)
  | [] => []
  | (t, n) :: l => if n ≤ 1 then l else (t, n - 1) :: l

/-- The ring's fetch position passes one slot (R43, R46). -/
def SubRing.fetched (q : SubRing) : SubRing :=
  { q with head := BitVec.ofNat 17 ((q.head.toNat + 1) % (2 * q.size)), accepts := popAccept q.accepts,
           roleLost := q.roleLost - 1 }

/-- Bytes of a descriptor under an SRI version (R39). -/
def descBytes (sri : BitVec 8) : Nat := if sri = 0x12 then 32 else 64

/-- The read of the slot at a ring's fetch position (R46). -/
def readSlot (fn : Fn) (q : SubRing) (s : State) : State :=
  hostRead fn (q.base.toNat + descBytes (sriOf s fn) * (q.head.toNat % q.size)) (descBytes (sriOf s fn)) s

/-- The acceptance instant of the oldest unfetched descriptor of a ring. -/
def SubRing.oldest (q : SubRing) (now : Nat) : Nat := match q.accepts with | (t, _) :: _ => t | [] => now

/-- Complete a fetched descriptor that is not admitted, its wait running to its completion (R82, R90). -/
def completeFetched (fn : Fn) (r : SqNo) (t : Nat) (d : Desc) (st : Stat) (s : State) : State :=
  completeNow { fn := fn, ring := r, accepted := some t, sri := sriOf s fn,
                cpl := Cpl.failed d.tag st (runClass d.cls (s.sq r).ceil) } s

/-- Descriptors of a ring that wait for admission. -/
def waitingOf (s : State) (r : SqNo) : Nat := (s.fe.waiting.filter (·.ring == r)).length

/-- The front end can fetch the next descriptor of a ring now (R46, R300). -/
def canFetch (s : State) (ring : SqNo) : Bool :=
  let q := s.sq ring
  match sqOwner s ring with
  | none => false
  | some fn =>
    q.unfetched ≠ 0 && canDma s fn && (q.state == .resetting ||
      (q.state == .enabled && (0 < q.roleLost || (waitingOf s ring < 16 && s.fe.waiting.length < 32768))))

/-- It is a ring's turn: no ring that comes between the one served last and it can be fetched from (R300). -/
def fetchTurn (s : State) (ring : SqNo) : Bool :=
  canFetch s ring && s.fe.sqs.all fun e =>
    after 65536 s.fe.lastFetch ring.toNat ≤ after 65536 s.fe.lastFetch e.1 || !canFetch s (BitVec.ofNat 16 e.1)

/-- DESCRIPTOR_FETCH: the next descriptor of a ring arrives (R46). In a queue reset or Lockdown, or where it was
outstanding as the active role was lost, it is flushed (R62, R66); otherwise checks 1 and 2 decide whether it waits for its
admission decision, at which checks 3 to 6 are made against the tables in force in that cycle (R82, R99); rings are served in
round-robin order (R300). -/
def execDescriptorFetch (ring : SqNo) (desc : BitVec 512) (s0 : State) : Res :=
  let s := s0.mFe fun e => { e with lastFetch := ring.toNat }
  .next (match sqOwner s ring with
  | none => s0
  | some fn =>
    let q := s.sq ring
    let sri := sriOf s fn
    let d := parseDesc sri desc
    let t := q.oldest s.clk.now
    if !fetchTurn s0 ring then s0
    else if q.state = .resetting then
      completeFetched fn ring t d (St.flushed, if s.mode = .lockdown then 3 else 1) (readSlot fn q (s.mSq ring SubRing.fetched))
    else if 0 < q.roleLost then
      completeFetched fn ring t d (St.flushed, 2) (readSlot fn q (s.mSq ring SubRing.fetched))
    else
      let s1 := readSlot fn q (s.mSq ring SubRing.fetched)
      match checks12 sri d with
      | some st => completeFetched fn ring t d st s1
      | none =>
        noteCauses <| s1.mFe fun e => { e with nextOrder := e.nextOrder + 1, waiting := e.waiting ++
          [{ fn := fn, ring := ring, raw := desc, accepted := t, order := e.nextOrder, withheld := [],
             cause := none }] })

/-- The tag of a descriptor that could not be fetched, under its SRI version (R62, R94). -/
def fetchErrorTag : BitVec 64 := 0xFFFFFFFFFFFFFFFF

/-- Complete every unfetched descriptor of a ring as FLUSHED, fetch error, with the reserved tag (R62). -/
def flushUnfetched (fn : Fn) (r : SqNo) : Nat → State → State
  | 0, s => s
  | n + 1, s =>
    let q := s.sq r
    if q.unfetched = 0 then s
    else
      let t := q.oldest s.clk.now
      let s1 := completeNow { fn := fn, ring := r, accepted := some t, sri := sriOf s fn,
                              cpl := Cpl.failed fetchErrorTag (St.flushed, 4) q.ceil } (s.mSq r SubRing.fetched)
      flushUnfetched fn r n s1

/-- DESCRIPTOR_FETCH_ERROR: the read of the next slot is refused, and the ring enters ERROR (R62, R71). In a queue reset
already under way the ring stays RESETTING and its unfetched descriptors are flushed at once with cause fetch error: the
model's choice, R62 speaking of the next reset (notes/assumptions/131.md). -/
def execDescriptorFetchError (ring : SqNo) (s : State) : Res :=
  .next (match sqOwner s ring with
  | none => s
  | some fn =>
    let q := s.sq ring
    let err := fun s => raiseFn fn .ringFetchError (reportAer fn .descriptor (readSlot fn q s))
    if q.unfetched = 0 || !canDma s fn then s
    else if q.state = .enabled then err (s.mSq ring fun q => { q with state := .error })
    else if q.state = .resetting then err (flushUnfetched fn ring q.unfetched s)
    else s)

end Sys2Proof.Machine
end

