-- ==== Sys2Proof/Machine/Admission.lean ====
section
/-! DEFINITION. Admission: the governor's decision about a waiting descriptor, and what arrives for an admitted
peal before its steps run: keys, lists, input, peal entry (R77 to R82, R98, R99, R107, R118, R143, R158 to R170,
R301 to R323). -/
namespace Sys2Proof.Machine

/-! The peal cache, R98. -/

/-- The cache key of an entry of a peal's tables: tenant (256 for the built-in tables), number and the generation the peal
is bound to; format entries are numbered from 0x10000 on. -/
def cacheKey (q : Peal) (fmt : Bool) (id : Nat) : Nat × Nat × Nat :=
  let n := if fmt then 0x10000 + id else id
  if q.entry.id.toNat < 0x100 then (256, n, 0) else (q.fn.toNat, n, q.gens.getD (if fmt then 1 else 0) 0)

/-- Bytes of a format entry on the die. -/
def FmtEntry.bytes (f : FmtEntry) : Nat := 8 + 8 * f.instrs.length + pad8 f.consts.length

/-- The entries a peal needs on the die: its own, its request format and those of its FORMAT steps (R98). -/
def neededEntries (q : Peal) : List ((Nat × Nat × Nat) × Nat) :=
  let ids := q.entry.reqFmt.toNat :: (q.entry.steps.filter (·.op == 0x60)).map (·.param.toNat)
  (cacheKey q false q.entry.id.toNat, q.entry.bytes) :: ids.eraseDups.filterMap fun n =>
    (q.fmts.find? (·.id.toNat == n)).map fun f => (cacheKey q true n, f.bytes)

/-- Every entry a peal needs is in the peal cache. -/
def entriesCached (s : State) (q : Peal) : Bool :=
  (neededEntries q).all fun e => s.gov.pealCache.any (·.1 == e.1)

/-- Keep the most recently used entries that fit 256 KiB. -/
def trimCache : Nat → List ((Nat × Nat × Nat) × Nat) → List ((Nat × Nat × Nat) × Nat)
  | _, [] => []
  | room, (k, n) :: l => if n ≤ room then (k, n) :: trimCache (room - n) l else []

/-- Put the entries of a peal first in the cache. -/
def touchCache (q : Peal) (s : State) : State :=
  let es := neededEntries q
  s.mGov fun g => { g with pealCache := trimCache 262144 (es ++ g.pealCache.filter fun x => !es.any (·.1 == x.1)) }

/-! Buffers, R80. -/

/-- The capacity of an SRI 1.2 output buffer: the peal's maximum output, and 12 bytes for a generated CTR, GCM or CCM nonce
before it (R93, R94). -/
def capacity12 (q : Peal) : Nat :=
  pealMaxOut q.entry q.fmts q.desc.inLen + match q.nonceRun with
    | some (st, _) => if generatesCbc st then 0 else 12
    | none => 0

/-- A direct buffer of a descriptor wraps past the top of the address space; under SRI 1.2 the output buffer is
as long as the peal's output (R80, R93). -/
def directFault (q : Peal) : Bool :=
  let d := q.desc
  (d.inMode == 1 && !rangeOk d.inAddr.toNat d.inLen) ||
    (d.outMode == 1 && !rangeOk d.outAddr.toNat (if d.sri12 then capacity12 q else d.outLen))

/-- Check 8 once the lists are read: reserved fields, descriptions, then lengths, input before output; in one row
the input list before the output list (R80, R82). -/
def check8 (q : Peal) : Option Stat :=
  let i := q.inSgl.getD []
  let o := q.outSgl.getD []
  let d := q.desc
  if (i ++ o).any (fun e => sgeReserved e ≠ 0) then some (St.inputInvalid, 1)
  else if !(i ++ o).all sgeOk || directFault q then some (St.lengthInvalid, 6)
  else if (d.inMode == 2 && sglSum i < d.inLen) || (d.outMode == 2 && sglSum o < d.outLen) then
    some (St.lengthInvalid, 2)
  else none

/-- Judge check 8 when the lists are there. -/
def judgeBuffers (p : PealSlot) (s : State) : State :=
  match s.peal p with
  | none => s
  | some q =>
    if q.phase ≠ .running || q.abort.isSome || !q.listsRead then s
    else match check8 q with
      | some st => failPeal p st none s
      | none => s

/-! Keys. -/

/-- Ask for one bound key: a tier-1 hit is judged at once, a tier-2 hit is paged, a miss joins or starts a tier-3
fetch (R166, R167). -/
def bindKey (p : PealSlot) (slot : Nat) (s : State) : State :=
  match s.peal p with
  | none => s
  | some q =>
    match q.keys[slot]? with
    | none => s
    | some b =>
      let setPhase (ph : KeyPhase) (s : State) : State :=
        s.mPeal p fun q => { q with keys := modAt slot (fun b => { b with phase := ph }) q.keys }
      if (s.krec b.key).isSome then
        if inTier1 s q.cluster b.key then judgeKey p slot false s else setPhase .paging s
      else
        let s1 := setPhase .fetching s
        if s.ks.fetches.any (·.key == b.key) then
          let join := fun (f : Fetch) =>
            if f.key = b.key && !f.waiters.contains p then { f with waiters := f.waiters ++ [p] } else f
          s1.mKs fun k => { k with fetches := k.fetches.map join }
        else s1.mKs fun k => { k with fetches := k.fetches ++ [{ key := b.key, waiters := [p] }] }

/-- The peal in a slot still runs. -/
def isRunning (s : State) (p : PealSlot) : Bool :=
  match s.peal p with | some q => q.phase == .running && q.abort.isNone | none => false

/-- Ask for every bound key of a peal that still runs, in slot order (R166). -/
def bindKeys (p : PealSlot) (n : Nat) (s : State) : State :=
  if isRunning s p then
    keysSettle p ((List.range n).foldl (fun s i => bindKey p i s) s)
  else s

/-! The decision. -/

/-- The lowest free slot of the peal table. -/
def freeSlot (s : State) : Option PealSlot :=
  ((List.range 4096).find? fun n => (smFind n s.peals).isNone).map (BitVec.ofNat 12 ·)

/-- The Toll class bound at admission (R108). -/
def boundToll (s : State) (fn : Fn) (e : PealEntry) : BitVec 8 :=
  let id := e.id.toNat
  let v := smGet (if id < 0x100 then 0xFF else 0xFE) (s.tenant fn).tollMap id
  if v = 0xFE then e.toll else v

/-- The input of a descriptor that carries it or has none. -/
def carriedInput (d : Desc) : Option Bytes :=
  if d.inMode = 0 then some [] else if d.inMode = 3 then some (d.inline.take d.inLen) else none

/-- The peal-table entry an admitted descriptor takes. -/
def newPeal (s : State) (c : Cand) (cl : ClusterNo) : Peal :=
  let w := c.w
  let df := w.deferral s.clk.now
  let crit := c.cls == 0 && critRoom s w.fn c.e.steps.length
  { fn := w.fn, ring := w.ring, raw := w.raw, sri := sriOf s w.fn, entry := c.e,
    fmts := fmtsOf s w.fn c.e.id, curves := curvesOf s w.fn, gens := (s.tabs w.fn).gen, cls := c.cls, checked := c.checked, cm610 := c.cm610,
    dualRun := c.d.dual, spec := specMarked s c.e c.maxOut, seq := s.gov.admissions + 1,
    wait := waitUs w.accepted s.clk.now, deferred := df.1, deferCause := df.2, toll := boundToll s w.fn c.e, pol := policiesOf s w.fn,
    cluster := cl, crit := crit, tokens := c.tokens, granules := granulesFor c.maxOut,
    staging := stagingFor c.maxOut,
    keys := c.keys.map fun k => { key := k, phase := .fetching, fault := none, reserved := false, tier3 := false },
    entryReady := false, inSgl := none, outSgl := none,
    input := carriedInput c.d, fields := [], parsed := c.e.reqFmt == 0xFF, parseFail := false,
    steps := List.replicate c.e.steps.length StepRun.init, phase := .running, status := 0, sub := 0,
    failStep := none, abort := none, opOut := [], effect := .none, opDone := false, opDraws := [], storeWait := 0, lostWrites := [], tollWait := false, barrier := none,
    drained := false, sealedAt := none, committedAt := 0, journalSeq := none, window := windowOf s w.fn, outFault := false,
    suppressed := false, cplHeld := true, replicated := false, dualMatched := !c.d.dual, dualResult := none }

/-- Reserve what an admitted peal needs: an entry of its completion ring, tokens, granules and staging (R50, R133,
R134, R307). -/
def reserveFor (c : Cand) (s : State) : State :=
  let s1 := match boundCq s c.w.ring with
    | some q => s.mCq q fun x => { x with reserved := x.reserved + 1 }
    | none => s
  let s2 := s1.mClap fun k =>
    { k with staging := k.staging + stagingFor c.maxOut,
             granulesCrit := if c.cls = 0 then k.granulesCrit + granulesFor c.maxOut else k.granulesCrit,
             granulesOther := if c.cls = 0 then k.granulesOther else k.granulesOther + granulesFor c.maxOut }
  let lvl := signed32 (s.gov.level - c.tokens)
  whenDo (0 ≤ s.gov.level && lvl < 0) (raiseDev .govCapOverrun) (s2.mGov fun g => { g with level := lvl })

/-- Ready becomes Serve with an admitted peal (Table 1-7). -/
def readyToServe (s : State) : State := if s.mode = .ready && govFree s then s.enter .serve else s

/-- Admit a candidate onto a cluster (R301 to R303). -/
def admitPeal (c : Cand) (n : Nat) (p : PealSlot) (s : State) : State :=
  let cl : ClusterNo := BitVec.ofNat 4 n
  let q0 := newPeal s c cl
  let q := { q0 with entryReady := entriesCached s q0 }
  let s1 := dropWaiting c.w.order (noteAdmission c (reserveFor c s))
  let s2 := requestWake cl ({ s1 with peals := smInsert p.toNat q s1.peals }.mGov fun g =>
    { g with admissions := g.admissions + 1 })
  let s3 := whenDo q.entryReady (touchCache q) s2
  let s4 := readyToServe (lapseSurge s3)
  let s5 := whenDo (s4.mode == .surge && q.entry.id == 0xDF && q.inputBytes == [1]) withdrawSurge s4
  let s6 := whenDo q.dualRun (xlSend 0x06 (natLe 64 q.raw.toNat)) s5
  bindKeys p q.keys.length (judgeBuffers p s6)

/-- Sub-reason of REFUSED by the withholding cause (R86). -/
def refusedSub (cause : BitVec 3) : BitVec 8 :=
  if cause = 2 then 3 else if cause = 1 then 4 else 1

/-- The deadline cannot be met, or has passed (R85, R323). -/
def deadlineMissed (s : State) (c : Cand) : Bool :=
  let limit := c.w.accepted + us c.d.deadline
  let spec := specMarked s c.e c.maxOut
  c.d.deadline ≠ 0 && (match c.cluster with
    | some n => limit < s.clk.now + predictedFinish s c.e c.keys c.costs spec n
    | none => limit < s.clk.now)

/-- The status with which a decision refuses a candidate that the cause `held` withholds: with NO_WAIT by the obstacle, then by
its deadline, then for want of a partner (R86, R323, R399). -/
def refusal (s : State) (c : Cand) (held : Option (BitVec 3)) : Option Stat :=
  let cause : Option (BitVec 3) :=
    if c.thermalFails s then some 2 else if c.energyFails s then some 1
    else if c.capacityFails s then some 3 else if held = some 4 then some 4 else none
  match (if c.d.noWait then cause else none) with
  | some k => some (St.refused, refusedSub k)
  | none =>
    if deadlineMissed s c then some (St.refused, 2)
    else if c.d.dual && !(s.pair.inService && s.pair.version == 2) then some (St.policyDenied, 3) else none

/-- The decision a refill boundary makes about a waiting descriptor with a deadline: it may refuse it (R303, R323). -/
def judgeDeadline (s : State) (w : Waiting) : State :=
  if !deciding s || !contends s w then s
  else match candOf s w with
  | .inl _ => s
  | .inr c =>
    if c.d.deadline = 0 then s
    else match refusal s c (withheldBy s (candidates s) c) with
      | some st => refuseWaiting w st s
      | none => s

/-- Decide about a waiting descriptor (R86, R301, R323, R388, R399). -/
def decideWaiting (w : Waiting) (s : State) : State :=
  if !deciding s then s
  else if w.fn ≠ 0 && !s.pair.roles.getLsbD w.fn.toNat then refuseWaiting w (St.flushed, 2) s
  else match candOf s w with
  | .inl st => refuseWaiting w st s
  | .inr c =>
    if s.mode = .maintenance && w.fn ≠ 0 then refuseWaiting w (St.refused, 5) s
    else
    let all := candidates s
    let s1 := noteDecision all s
    let held := withheldBy s1 all c
    match refusal s1 c held with
    | some st => refuseWaiting w st s1
    | none =>
      match held, c.cluster, freeSlot s1 with
        | none, some n, some p => admitPeal { c with w := w.note s1.clk.now none } n p s1
        | h, _, _ =>
          let waits := c.cls.toNat ≤ 1 && (h == some 3 || h == some 4)
          setWaiting (w.note s1.clk.now h) (whenDo waits (State.mGov fun g => { g with waited := true }) s1)

/-- ADMISSION_DECISION: the governor decides about the waiting descriptor of a fetch order. -/
def execAdmissionDecision (order : Nat) (s : State) : Res :=
  .next (match s.fe.waiting.find? (·.order == order) with
  | none => s
  | some w => noteCauses (decideWaiting w s))

/-! What arrives for an admitted peal. -/

/-- The key slots of a peal that wait in a phase for a key. -/
def slotsWaiting (q : Peal) (k : Nat) (ph : KeyPhase) : List Nat :=
  (List.range q.keys.length).filter fun i => match q.keys[i]? with
    | some b => b.key == k && b.phase == ph
    | none => false

/-- Fail the key slots of a peal that wait for a fetch. -/
def faultKeys (k : Nat) (st : Stat) (s : State) (p : PealSlot) : State :=
  keysSettle p (s.mPeal p fun q => { q with keys := q.keys.map fun b =>
      if b.key = k && b.phase = .fetching then { b with phase := .judged, fault := some st } else b })

/-- Judge the key slots of a peal that wait in a phase, after the key has become resident. -/
def arriveKeys (k : Nat) (ph : KeyPhase) (tier3 : Bool) (s : State) (p : PealSlot) : State :=
  match s.peal p with
  | none => s
  | some q => keysSettle p ((slotsWaiting q k ph).foldl (fun s i => judgeKey p i tier3 s) s)

/-- A record built from tier 3 takes its key state from the revocation set where the set is newer (R190). -/
def underSet (s : State) (k : Nat) (r : KeyRec) : KeyRec :=
  match smFind k s.ks.rset with
  | some e => if e.revoked then { r with state := 4, flags := r.flags ||| 0x20 } else r
  | none => r

/-- TIER3_FETCH_COMPLETE: a fetch ends for every peal that waits for it (R160, R167): each waiter judges the record
itself, and a record whose ledger or cell index is not its own is dropped again (R160; notes/assumptions/22.md). A record
that the revocation set refuses stays resident: the model's choice (notes/assumptions/199.md). -/
def execTier3FetchComplete (fn : Fn) (handle : BitVec 24) (rd : HostRead) (s : State) : Res :=
  let k := keyNo fn handle.toNat
  .next (match s.ks.fetches.find? (·.key == k) with
  | none => s
  | some f =>
    if !canDma s fn then s
    else
      let s1 := s.mKs fun q => { q with fetches := q.fetches.filter (·.key ≠ k) }
      let (mask, s0) := freshBytes 512 (fetchReads fn handle.toNat rd s1)
      match fetchOutcome s fn handle.toNat rd mask with
      | .inl st =>
        let s2 := whenDo (st.2 == 4) (fun s => reportAer fn .keyTable (raiseFn fn .fetchError s)) s0
        f.waiters.foldl (faultKeys k st) s2
      | .inr r =>
        let kept := { underSet s k r with pinned := s.ks.repin.contains k }
        let s2 := startCellWrite k (installRec k kept (s0.mKs fun q => { q with repin := q.repin.filter (· ≠ k) }))
        let s3 := f.waiters.foldl (arriveKeys k .fetching true) s2
        if indicesMatch s3 k r then s3 else dropRec k s3)

/-- TIER2_PAGE_IN_COMPLETE: a resident key reaches a cluster key slot (R166). -/
def execTier2PageInComplete (slot : PealSlot) (handle : BitVec 24) (s : State) : Res :=
  .next (match s.peal slot with
  | none => s
  | some q =>
    let k := keyNo q.fn handle.toNat
    if q.phase ≠ .running || q.abort.isSome then s else arriveKeys k .paging false s slot)

/-- PEAL_ENTRY_FETCH_COMPLETE: the entries of a peal arrive from the table region and enter the peal cache (R98); a peal
whose entry stood on a line with a confirmed failure ends (R469, Table 17-4). -/
def execPealEntryFetchComplete (slot : PealSlot) (ok : Bool) (s : State) : Res :=
  .next (match s.peal slot with
  | none => s
  | some q =>
    if q.entryReady || q.phase ≠ .running then s
    else if !ok then failPeal slot (St.engineFault, 1) none s
    else touchCache q (s.mPeal slot fun q => { q with entryReady := true }))

/-- SGL_LIST_READ: a list has been read; once all are there check 8 judges them (R77, R80, R82). -/
def execSglListRead (slot : PealSlot) (out : Bool) (entries : List (BitVec 128)) (s : State) : Res :=
  .next (match s.peal slot with
  | none => s
  | some q =>
    let d := q.desc
    let cnt := if out then d.outCnt else d.inCnt
    let mode := if out then d.outMode else d.inMode
    let have_ := if out then q.outSgl else q.inSgl
    if q.phase ≠ .running || q.abort.isSome || mode ≠ 2 || have_.isSome || entries.length ≠ cnt || !canDma s q.fn then s
    else keysSettle slot (judgeBuffers slot (hostRead q.fn (if out then d.outAddr else d.inAddr).toNat (16 * cnt) (s.mPeal slot fun q =>
      if out then { q with outSgl := some entries } else { q with inSgl := some entries }))))

/-- INPUT_READ_ERROR: a read of a list or of the input is refused; the peal stops before its commit (R82, R140). -/
def execInputReadError (slot : PealSlot) (s : State) : Res :=
  .next (match s.peal slot with
  | none => s
  | some q =>
    if q.phase ≠ .running || !canDma s q.fn || (q.listsRead && q.input.isSome) then s
    else abortPeal .inputRead slot (reportAer q.fn .input s))

/-- REQUEST_PARSE: the whole input is on the die; the request format, when the peal has one, defines and checks
its fields. A failure is reported once check 9 has decided (R118). -/
def execRequestParse (slot : PealSlot) (input : Bytes) (s : State) : Res :=
  .next (match s.peal slot with
  | none => s
  | some q =>
    let given := match q.input with | some b => b | none => fit q.desc.inLen input
    let taken := if q.input.isSome then s else forwardDual slot given <|
      (bufRanges q.desc.inMode q.desc.inAddr (q.inSgl.getD []) q.desc.inLen).foldl (fun s r => hostRead q.fn r.1 r.2 s) s
    if q.phase ≠ .running || q.abort.isSome || (q.input.isSome && q.parsed) || !q.listsRead || !q.entryReady ||
        (q.input.isNone && !canDma s q.fn) then s
    else if q.parsed then taken.mPeal slot fun q => { q with input := some given }
    else match q.fmts.find? (·.id == q.entry.reqFmt) with
      | none => taken.mPeal slot fun q => { q with input := some given, parsed := true }
      | some f =>
        match runParse f.consts given [] f.instrs with
        | some fs => taken.mPeal slot fun q => { q with input := some given, parsed := true, fields := fs }
        | none => keysSettle slot (taken.mPeal slot fun q => { q with input := some given, parseFail := true }))

end Sys2Proof.Machine
end

