-- ==== Sys2Proof/Machine/RngOps.lean ====
section
/-! DEFINITION. The entropy block's operations: draws, reseeds, reseed limits and instantiation (R280 to R293, R526). -/
namespace Sys2Proof.Machine

/-- The DRBG instance of a number: 0 to 255 the tenants', 256 + k the internal Ik. -/
def State.drbg (s : State) (i : Nat) : Drbg := smGet Drbg.none s.rng.drbg i
/-- Change a DRBG instance. -/
def State.mDrbg (i : Nat) (f : Drbg → Drbg) (s : State) : State :=
  s.mRng fun g => { g with drbg := smMod Drbg.none i f g.drbg }
/-- The number of the internal instance Ik (R283). -/
def instI (k : Nat) : Nat := 256 + k

/-- Metronome periods in a number of seconds. -/
def periods (n : Nat) : Nat := 32768 * n

/-- Conditioned blocks of one 384-bit entropy input (Table 10-2). -/
def entropyInput : Nat := 3

/-- The scheduled reseed of an instance is due (Table 10-2). -/
def reseedDue (s : State) (i : Nat) : Bool :=
  let d := s.drbg i
  d.instantiated && (65536 ≤ d.sinceReseed || d.reseedAt + periods 1 ≤ s.clk.vtime.toNat)

/-- An instance has reached its reseed limit (Table 10-2); I2 has none (R526). -/
def atLimit (s : State) (i : Nat) : Bool :=
  let d := s.drbg i
  i ≠ instI 2 && d.instantiated && (1048576 ≤ d.sinceReseed || d.reseedAt + periods 60 ≤ s.clk.vtime.toNat)

/-! CTR_DRBG of SP 800-90A with AES-256, without derivation function: Key ‖ V of 48 bytes (Table 10-2). -/

/-- AES of V + 1, V + 2, and so on. -/
def ctrBlocks (k : Bytes) (v n : Nat) : Bytes :=
  (List.range n).flatMap fun j => natBe 16 (Config.aes k (BitVec.ofNat 128 (v + j + 1))).toNat
/-- The update function. -/
def drbgUpdate (st data : Bytes) : Bytes := xorBytes (ctrBlocks (st.take 32) (beNat (st.drop 32)) 3) data
/-- One request: its bytes, and the state after it. -/
def drbgGenerate (n : Nat) (st : Bytes) : Bytes × Bytes :=
  let k := st.take 32
  let v := beNat (st.drop 32)
  let b := (n + 15) / 16
  ((ctrBlocks k v b).take n, drbgUpdate (k ++ natBe 16 ((v + b) % 2 ^ 128)) (zeros 48))
/-- The personalisation string: serial number, instance number, boot number (Table 10-2). -/
def personal (s : State) (i : Nat) : Bytes := fit 48 (fit 16 s.fuses.serial ++ natBe 2 i ++ natBe 4 s.ks.boot.toNat)
/-- The state of an instance that an entropy input instantiates. -/
def drbgInit (s : State) (i : Nat) (entropy : Bytes) : Bytes := drbgUpdate (zeros 48) (xorBytes entropy (personal s i))

/-- Bytes of conditioned blocks. -/
def blockBytes (l : List (BitVec 128)) : Bytes := l.flatMap fun b => natBe 16 b.toNat
/-- Blocks are taken from the pool, and erased from it (R280). -/
def takePool (n : Nat) (s : State) : Bytes × State :=
  (blockBytes (s.rng.pool.take n), s.mRng fun g => { g with pool := g.pool.drop n })
/-- The pool holds an entropy input, and the known-answer test has not failed (R291). -/
def canSeed (s : State) : Bool := entropyInput ≤ s.rng.pool.length && !s.rng.katFailed

/-- Take one entropy input from the pool and start the instance's state from it: instantiation or reseed. -/
def seedDrbg (i : Nat) (s : State) : State :=
  let (ent, s1) := takePool entropyInput s
  let d := s.drbg i
  let st := if d.instantiated then drbgUpdate d.state.value ent else drbgInit s i ent
  let (m, s2) := freshBytes 48 s1
  s2.mDrbg i fun _ =>
    { instantiated := true, state := Shares.of st m, sinceReseed := 0, reseedAt := s.clk.vtime.toNat, limitRaised := false }

/-- Reseed an instance when its scheduled reseed is due and the pool can give an entropy input (R285). -/
def reseedIfDue (i : Nat) (s : State) : State :=
  if (reseedDue s i || atLimit s i) && canSeed s then seedDrbg i s else s

/-- One generate request to an instance (R284). -/
def generateBytes (i n : Nat) (s : State) : Bytes × State :=
  let x := drbgGenerate n (s.drbg i).state.value
  let (m, s1) := freshBytes 48 s
  (x.1, s1.mDrbg i fun d => { d with state := Shares.of x.2 m, sinceReseed := d.sinceReseed + 1 })

/-- RNG_RESEED_LIMIT, once per instance: the device's event and, for a tenant's instance, its function's
(R293, R295). -/
def raiseLimit (i : Nat) (s : State) : State :=
  if (s.drbg i).limitRaised then s
  else
    let s1 := raiseDev .rngReseedLimit (s.mDrbg i fun d => { d with limitRaised := true })
    if i < 256 then raiseFn (BitVec.ofNat 8 i) .reseedLimit s1 else s1

/-- How a request to an instance fares (R284 to R286, R292, R293). -/
inductive Draw
  | served (bytes : Bytes)
  /-- Held for an instantiation, or waiting for the pool. -/
  | held
  | failed (sub : BitVec 8)
  deriving DecidableEq, Repr

/-- No source is left that is not failed, so that no request is held for an instantiation (R292). -/
def sourcesGone (s : State) : Bool :=
  s.rng.outage || s.rng.sources.all fun n => n.state == .failed || n.state == .unusable

/-- One generate request of `n` bytes to an instance; `pr` for a prediction-resistant one. -/
def draw (i n : Nat) (pr : Bool) (s : State) : Draw × State :=
  if pr && s.rng.outage then (.failed 1, s)
  else if !(s.drbg i).instantiated then (if sourcesGone s then .failed 3 else .held, s)
  else if pr && !canSeed s then (.held, s)
  else
    let s1 := if pr then seedDrbg i s else reseedIfDue i s
    if atLimit s1 i then (if s1.rng.outage then .failed 2 else .held, raiseLimit i s1)
    else
      let (bs, s2) := generateBytes i n s1
      (.served bs, s2)

/-- Another draw from an instance has been held longer: requests to one instance are served in order (R284). -/
def heldAhead (s : State) (i : Nat) (u : DrawUser) : Bool :=
  match s.rng.held.find? (·.inst == i) with
  | some h => h.who ≠ u
  | none => false

/-- A draw in its turn (R284). -/
def drawAfter (u : DrawUser) (i n : Nat) (pr : Bool) (s : State) : Draw × State :=
  if heldAhead s i u then (.held, s) else draw i n pr s

/-- A draw by a step of a peal, in its turn (R284). -/
def drawInTurn (p : PealSlot) (step i n : Nat) (pr : Bool) (s : State) : Draw × State :=
  match drawAfter (.step p step) i n pr s with
  | (.served bs, s1) => (.served bs, forwardDual p bs s1)
  | r => r

/-- A draw of no bytes needs no request. -/
def drawSome (p : PealSlot) (step i n : Nat) (s : State) : Draw × State :=
  if n = 0 then (.served [], s) else drawInTurn p step i n false s

/-- The draw of shadow PIN digits from I2: it is served whenever the tenant's own draw is (R526). -/
def drawShadow (s : State) : Bytes × State :=
  generateBytes (instI 2) 8 (reseedIfDue (instI 2) s)

/-- Hold a user's draw from now, unless it is held already (R292). -/
def holdFor (u : DrawUser) (i : Nat) (pr : Bool) (s : State) : State :=
  s.mRng fun g =>
    if g.held.any (·.who == u) then g else { g with held := g.held ++ [{ inst := i, who := u, pr := pr, at_ := s.clk.now }] }
/-- A user's draw is no longer held. -/
def unholdFor (u : DrawUser) (s : State) : State := s.mRng fun g => { g with held := g.held.filter (·.who ≠ u) }
/-- The same for a step of a peal. -/
def holdDraw (i : Nat) (p : PealSlot) (step : Nat) (s : State) : State := holdFor (.step p step) i false s
def unholdDraw (p : PealSlot) (step : Nat) (s : State) : State := unholdFor (.step p step) s

/-- A hold of 50 ms has passed and the instance is still not instantiated (R292). -/
def holdOver (s : State) (h : HeldDraw) : Bool := h.at_ + 50000000 ≤ s.clk.now && !(s.drbg h.inst).instantiated

/-- RNG_HOLD_EXPIRED: a held draw ends, in the device's events and in those of a tenant's function (R292, R295). -/
def expireHold (h : HeldDraw) (s : State) : State :=
  let s1 := raiseDev .rngHoldExpired (unholdFor h.who s)
  if h.inst < 256 then raiseFn (BitVec.ofNat 8 h.inst) .holdExpired s1 else s1

/-- A draw by a function of the device, in its turn: held for an instantiation for 50 ms (R284, R292, R526). -/
def drawFor (u : DrawUser) (i n : Nat) (s : State) : Draw × State :=
  match drawAfter u i n false s with
  | (.held, s1) =>
    match s1.rng.held.find? (·.who == u) with
    | some h => if holdOver s1 h then (.failed 3, expireHold h s1) else (.held, s1)
    | none => (.held, holdFor u i false s1)
  | (r, s1) => (r, unholdFor u s1)

/-- A draw of one of the device's own signatures, all ECDSA P-384, from I3 (R283, R526, Table 9-2). -/
def drawI3 (s : State) : Draw × State := draw (instI 3) 56 false s

/-- Instantiate an instance afresh when the pool can give an entropy input, else leave it uninstantiated (R288). -/
def reinstantiate (i : Nat) (s : State) : State :=
  let s1 := s.mDrbg i fun _ => Drbg.none
  if canSeed s1 then seedDrbg i s1 else s1

/-! Windows, R275 to R277. -/

/-- The samples of a window, in order. -/
def samplesOf (w : BitVec 1024) : List Bool := (List.range 1024).map w.getLsbD
/-- The repetition count test over samples, from the run under way: the run after them, and whether one reached the cutoff
of 41 (Table 10-1). -/
def repetition (last : Bool) (n : Nat) (l : List Bool) : Bool × Nat × Bool :=
  l.foldl (fun x b =>
    let k := if x.2.1 ≠ 0 && b == x.1 then x.2.1 + 1 else 1
    (b, k, x.2.2 || decide (41 ≤ k))) (last, n, false)
/-- A window fails the adaptive proportion test: 800 or more occurrences of its first sample (Table 10-1). -/
def proportionFails (l : List Bool) : Bool := 800 ≤ (l.filter (· == l.headD false)).length
/-- A window of a source passes both continuous tests; the run goes on in the next window, or afresh after a failure
(R275, R276). -/
def windowTest (n : NoiseSource) (w : BitVec 1024) : Bool × NoiseSource :=
  let l := samplesOf w
  let r := repetition n.lastBit n.runLen l
  let pass := !r.2.2 && !proportionFails l
  (pass, if pass then { n with lastBit := r.1, runLen := r.2.1 } else { n with lastBit := false, runLen := 0 })
/-- The two blocks of a window that passed: CMAC with AES-256 over each half (R277). -/
def conditioned (w : BitVec 1024) : List (BitVec 128) :=
  [w.extractLsb' 0 512, w.extractLsb' 512 512].map fun h =>
    BitVec.ofNat 128 (beNat (cmac false (natBe 32 Config.condKey.toNat) (natLe 64 h.toNat)))
/-- Blocks enter the pool, which discards what it has no room for (R280). -/
def addPool (l : List (BitVec 128)) (s : State) : State := s.mRng fun g => { g with pool := (g.pool ++ l).take 1024 }

end Sys2Proof.Machine
end

