-- ==== Sys2Proof/Machine/StepOps.lean ====
section
/-! DEFINITION. What a step needs and does on its engines: readiness, run-time input checks, draws, nonces, output
lengths, engine choice (R125, R126, R221, R237 to R256, R268, R525). -/
namespace Sys2Proof.Machine

/-! Engines. -/

/-- Change the engines of one kind of a cluster. -/
def Cluster.mEng (isPk : Bool) (f : List EngineRec → List EngineRec) (c : Cluster) : Cluster :=
  if isPk then { c with pk := f c.pk } else { c with se := f c.se }
/-- The engines of one kind. -/
def Cluster.eng (c : Cluster) (isPk : Bool) : List EngineRec := if isPk then c.pk else c.se
/-- Change an engine. -/
def State.mEng (c : ClusterNo) (isPk : Bool) (n : Nat) (f : EngineRec → EngineRec) (s : State) : State :=
  s.mCluster c (Cluster.mEng isPk (modAt n f))
/-- An engine. -/
def State.eng (s : State) (c : ClusterNo) (isPk : Bool) (n : Nat) : EngineRec :=
  ((s.cluster c).eng isPk).getD n EngineRec.init

/-- The shares of a step's key: of its bound key, from the cluster's tier-1 copy, or of the key output it takes (R110,
R165). -/
def stepShares (s : State) (p : PealSlot) (q : Peal) (st : StepDef) : Shares :=
  if st.keyA = 4 then
    match (s.cluster q.cluster).cache.find? (·.key == outKey p.toNat st.ksrc.toNat) with
    | some x => x.shares
    | none => Shares.none
  else if st.keyA.toNat < 4 then
    match q.keys[st.keyA.toNat]? with
    | some b =>
      match (s.cluster q.cluster).cache.find? (·.key == b.key), s.krec b.key with
      | some x, _ => x.shares
      | none, some r => r.key
      | none, none => Shares.none
    | none => Shares.none
  else Shares.none

/-- The inputs of a step, empty for a range beyond its source. -/
def stepInputs (q : Peal) (st : StepDef) : Bytes × Bytes := ((refBytes q st.inA).getD [], (refBytes q st.inB).getD [])

/-- The NTT unit serves its first request, on shares of what that core's lanes hold (R267). -/
def Cluster.nttServe (l : List (Nat × Nat)) (c : Cluster) : Cluster :=
  { c with ntt := l, nttBuf := match l with | [] => Shares.none | x :: _ => (c.pk.getD x.1 EngineRec.init).lanes }
/-- A core asks for the NTT unit at an instant, after those that have asked, of one cycle the lower core first (R267,
R273). -/
def Cluster.nttAsk (n now : Nat) (c : Cluster) : Cluster :=
  let before := fun (x : Nat × Nat) => x.2 ≠ now || x.1 < n
  c.nttServe (c.ntt.takeWhile before ++ [(n, now)] ++ c.ntt.dropWhile before)
/-- A core's last request ends, or its job leaves at a yield point, the buffers being zeroised after each request: those
that asked before it have been served a layer each, and ask again (R262, R266, R267). -/
def Cluster.nttLeave (n : Nat) (c : Cluster) : Cluster :=
  if c.ntt.any (·.1 == n) then
    c.nttServe ((c.ntt.dropWhile (·.1 ≠ n)).drop 1 ++ c.ntt.takeWhile (·.1 ≠ n))
  else c
/-- Operations with NTT work (Table 9-6). -/
def usesNtt (op : Nat) : Bool := 0x50 ≤ op && op ≤ 0x55

/-- A step leaves an engine that runs it. -/
def vacate (c : ClusterNo) (isPk : Bool) (n : Nat) (p : PealSlot) (i : Nat) (s : State) : State :=
  let here := (s.eng c isPk n).job = some (p, i)
  let s1 := s.mEng c isPk n fun e => if e.job = some (p, i) then { e.cleared with idleSince := s.clk.now } else e
  whenDo (isPk && here) (State.mCluster c (Cluster.nttLeave n)) s1

/-- Free the engine a step's run names, in the peal's cluster for an SE. -/
def freeEngine (c : ClusterNo) (p : PealSlot) (i : Nat) (e : Option Engine) (s : State) : State :=
  match e with
  | some (.se n) => vacate c false n p i s
  | some (.pk k n) => vacate k true n p i s
  | _ => s

/-- Free both engines of a step. -/
def freeEngines (c : ClusterNo) (p : PealSlot) (i : Nat) (r : StepRun) (s : State) : State :=
  freeEngine c p i r.second (freeEngine c p i r.engine s)

/-- A cluster can issue steps (Table 1-5). -/
def canIssue (s : State) (c : ClusterNo) : Bool :=
  let cl := s.cluster c
  !frozen s && s.mode.working && cl.inService && cl.state == .active && !cl.gating

/-! Readiness, R125. -/

/-- The steps a step waits for have ended (R125, R142). -/
def Peal.depsEnded (q : Peal) (st : StepDef) : Bool :=
  (stepDeps st q.spec).all fun d => (q.run d).phase == .ended

/-- The steps a step's data and key come from. -/
def dataPreds (st : StepDef) : List Nat :=
  (if st.inA.src = 2 then [st.inA.idx.toNat] else []) ++ (if st.inB.src = 2 then [st.inB.idx.toNat] else []) ++
    (if st.keyA = 4 then [st.ksrc.toNat] else [])

/-- A streamed output in production, with which a step that may read it runs in step: of a step that is no guard, under way
on symmetric engines or as a draw, its own inputs there (R114, R125; notes/assumptions/177.md). -/
def Peal.flows (q : Peal) (d : Nat) : Bool :=
  match q.stepDef d with
  | none => false
  | some st =>
    let r := q.run d
    streamed st && !st.guard && (engKind st.op.toNat == some .se || st.op == 0x68) &&
      (r.phase == .running || r.phase == .suspended || r.phase == .tieBreak) &&
      (dataPreds st).all fun e => (q.run e).phase == .ended

/-- The operations that may run in step with an output they read (R114). -/
def inStep (st : StepDef) : Bool := st.op == 0x05 || st.op == 0x06 || st.op == 0x07

/-- A step's data reference is there, or flows to it. -/
def Peal.refFlows (q : Peal) (st : StepDef) (r : DRef) : Bool :=
  refReady q r || (r.src == 2 && inStep st && q.flows r.idx.toNat)

/-- A peal can still start step `i`: it runs, and no failure or abort forbids it (R140). -/
def Peal.mayStart (q : Peal) (i : Nat) : Bool :=
  q.phase == .running && q.sealedAt.isNone && !q.isAdmin && !q.doomed i && q.keysOk && q.entryReady &&
    q.listsRead && q.parsed && !q.parseFail

/-- Step `i` waits to be issued, for the first time or again. -/
def StepPhase.waits : StepPhase → Bool
  | .waiting => true | .cellWait => true | .drawWait => true | .verifyWait => true | _ => false

/-- Step `i` is ready (R125). -/
def Peal.stepReady (q : Peal) (i : Nat) : Bool :=
  match q.stepDef i with
  | none => false
  | some st =>
    q.mayStart i && (q.run i).phase.waits &&
      (stepDeps st q.spec).all (fun d => (q.run d).phase == .ended || (inStep st && q.flows d)) &&
      q.refFlows st st.inA && q.refFlows st st.inB

/-- A step of lower index of the same peal is ready for the same kind of engine, so that it goes first (R126). -/
def Peal.lowerReady (q : Peal) (i : Nat) (k : EngKind) : Bool :=
  (List.range i).any fun j => match q.stepDef j with
    | some st => engKind st.op.toNat == some k && (q.run j).phase == .waiting && q.stepReady j
    | none => false

/-! Keys of steps. -/

/-- Algorithm and parameter of a step's key: of its bound key, or of the key output it takes (R174, R252). -/
def stepKey (s : State) (q : Peal) (st : StepDef) : Nat × Nat :=
  if st.keyA.toNat < 4 then
    match (q.keys[st.keyA.toNat]?).bind fun b => s.krec b.key with
    | some r => (r.alg.toNat, r.param.toNat)
    | none => (0, 0)
  else (stepAlg s q.fn (q.keys.map (·.key)) q.entry.steps 32 st, 0)

/-- The key a step binds, by its key number. -/
def boundKey (q : Peal) (st : StepDef) : Option Nat :=
  if st.keyA.toNat < 4 then (q.keys[st.keyA.toNat]?).map (·.key) else none

/-- The step runs under the ZT610 countermeasure: selected by its key or its ring (R7, R229). -/
def countermeasure (s : State) (q : Peal) (st : StepDef) : Bool :=
  engKind st.op.toNat == some .se &&
    (q.cm610 || (match (boundKey q st).bind s.krec with | some r => r.compat610 | none => false))

/-! Run-time input checks, R221, R254. -/

/-- What the run-time checks of a step's inputs find. -/
inductive InputFault
  /-- A reference runs beyond its source: INPUT_INVALID, FORMAT (Table 4-7). -/
  | beyond
  /-- INPUT_INVALID with a sub-reason (R221, Table 9-3). -/
  | input (sub : BitVec 8)
  /-- SIG_INVALID, MALFORMED: a guard outcome (R255). -/
  | malformed
  deriving DecidableEq, Repr

/-- A numeral string of a radix (R224). -/
def numeralsOk (radix : Nat) (a : Bytes) : Bool :=
  (if radix = 10 then 6 ≤ a.length else 4 ≤ a.length) && a.length ≤ 64 &&
    a.all fun b => (48 ≤ b.toNat && b.toNat ≤ 57) || (radix == 36 && 65 ≤ b.toNat && b.toNat ≤ 90)

/-- A PAN field in the form of Table 4-12. -/
def panFieldOk (f : Bytes) : Bool := 7 ≤ f.length && f.length ≤ 11 && panFormOk f

/-- The KSN's transaction counter has no more set bits than its family allows (R225). -/
def ksnOk (tdes : Bool) (ksn : Bytes) : Bool :=
  if tdes then ksn.length == 10 && popcount (beNat ksn % 2 ^ 21) ≤ 10
  else ksn.length == 12 && popcount (beNat ksn % 2 ^ 32) ≤ 16

/-- The inputs of a symmetric step are those of Table 8-1 under its key's algorithm (R221). -/
def symInputOk (alg : Nat) (st : StepDef) (a b : Bytes) : Bool :=
  let op := st.op.toNat
  let p := st.param.toNat
  let blk := if isTdes alg then 8 else 16
  let m := fieldNat p 0 4
  let big := 0x1000000
  let ccmMax := if m = 1 then 0xFFFFFF else big
  if op = 0x01 || op = 0x02 then
    a.length ≤ big && (m == 2 || a.length % blk == 0) &&
      (m == 0 || (op == 0x01 && bitAt p 4) || b.length == blk)
  else if op = 0x03 then a.length ≤ ccmMax && b.length ≤ 65536
  else if op = 0x04 then
    tagLen st ≤ a.length && a.length ≤ ccmMax + tagLen st && 12 ≤ b.length && b.length ≤ 12 + 65536
  else if op = 0x06 then a.length ≤ big && b.length == fieldNat p 8 7
  else if op = 0x08 then 1 ≤ a.length && a.length ≤ 64 && b.length ≤ 64
  else if op = 0x09 || op = 0x0A then numeralsOk p a && b.length ≤ 32
  else if op = 0x10 then
    if p = 4 then a.length == 16 && (b.length == 16 || panFieldOk b) else a.length == 8
  else if op = 0x11 then a.length == 8
  else if op = 0x12 then a.length == 32
  else if op = 0x18 then
    b.length == 3 && (p ≠ 0 || (panFormOk a && (nibbles (b.take 1)).all (· ≤ 9)))
  else if op = 0x19 then 1 ≤ a.length && a.length ≤ 4095 && b.length == 8
  else if op = 0x1A then a.length == 8 && (if p = 0 then b.length == 2 else 4 ≤ b.length && b.length ≤ 12)
  else if op = 0x1C then if bitAt p 5 then a.length == 8 else ksnOk (bitAt p 4) a
  else a.length ≤ big

/-- The checks of Table 9-3 on a public-key step's inputs, under its key's parameter and public part. -/
def pkInputFault (curves : List Curve) (param : Nat) (pub : Bytes) (st : StepDef) (a b : Bytes) : Option InputFault :=
  let op := st.op.toNat
  let p := st.param.toNat
  let curve := fieldNat p 0 8
  let d := domainOf curves curve
  let k := 4 * param
  let n := (rsaPublic k pub).1
  let h := hashBytes (fieldNat p 8 4)
  let enc (ok : Bool) : Option InputFault := if ok then none else some (.input 7)
  let sig (ok : Bool) : Option InputFault := if ok then none else some .malformed
  let digestOk := fieldNat p 8 4 ≠ 15 || a.length == 32 || a.length == 48 || a.length == 64
  if op = 0x40 || op = 0x42 then enc digestOk
  else if op = 0x41 then
    if !digestOk then some (.input 7)
    else match d.readSig (bitAt p 12) b with
      | some (r, s) => sig (1 ≤ r && r < d.n && 1 ≤ s && s < d.n)
      | none => some .malformed
  else if op = 0x43 || op = 0x45 then enc (a.length ≤ 8192)
  else if op = 0x44 then
    if 8192 < a.length then some (.input 7)
    else sig (b.length == 64 && leNat (b.drop 32) < edL &&
      (match edDecode (b.take 32) with | some x => !edSmall x | none => false))
  else if op = 0x48 then
    if curve = 4 then
      if a.length ≠ 32 then some (.input 7)
      else if p25519 ≤ peerU a then some (.input 5)
      else if smallU (peerU a) then some (.input 6) else none
    else if a = [0] then some (.input 6)
    else if a.length ≠ 1 + 2 * fieldBytes curves curve || a.head? ≠ some 4 then some (.input 7)
    else
      let (x, y) := d.xy a
      if d.p ≤ x || d.p ≤ y then some (.input 5) else if d.onCurve x y then none else some (.input 6)
  else if op = 0x4B then sig (b.length == k && beNat b ≠ 0 && beNat b < n)
  else if op = 0x4D then
    if a.length ≠ k || 4095 < b.length then some (.input 7)
    else if beNat a = 0 || n ≤ beNat a then some (.input 5) else none
  else if op = 0x4E then enc (a.length + 2 * h + 2 ≤ k && b.length ≤ 4095)
  else if op = 0x50 || op = 0x52 then enc (b.length ≤ 255)
  else if op = 0x51 then
    if b.length < mldsaSig p then some .malformed
    else if mldsaSig p + 255 < b.length then some (.input 7)
    else sig (hintOk p (b.take (mldsaSig p)))
  else if op = 0x54 then if st.keyA = 0xF then enc (a.length == mlkemKey p && ekOk p a) else none
  else if op = 0x55 then enc (a.length == mlkemCt p)
  else none

/-- The public part of a step's bound key. -/
def stepPub (s : State) (q : Peal) (st : StepDef) : Bytes :=
  match (if st.keyA.toNat < 4 then (q.keys[st.keyA.toNat]?).bind fun b => s.krec b.key else none) with
  | some r => r.pub
  | none => []

/-- What the checks at a step's issue find (Table 4-7, R221, R254). -/
def inputFault (s : State) (q : Peal) (st : StepDef) : Option InputFault :=
  if (refBytes q st.inA).isNone || (refBytes q st.inB).isNone then some .beyond
  else
    let (a, b) := stepInputs q st
    let (alg, param) := stepKey s q st
    match engKind st.op.toNat with
    | some .se => if symInputOk alg st a b then none else some (.input 7)
    | some .pk => pkInputFault q.curves param (stepPub s q st) st a b
    | _ => none

/-- A step whose inputs come from a shadow output and fail a check runs without its key: one of Table 4-7, of R221 or of
Table 9-3, the bound on an ML-DSA signature's z among them (R221, R258, R525). -/
def dryRun (s : State) (q : Peal) (st : StepDef) : Bool :=
  stepShadow q st && ((inputFault s q st).isSome ||
    (st.op == 0x51 && !zSmall st.param.toNat ((stepInputs q st).2.take (mldsaSig st.param.toNat))))

/-- Bytes of blinding values a public-key operation takes from the masking generator: the 64-bit value of a secret scalar, the
two of an RSA private operation (R259). -/
def blindLen (op : Nat) : Nat :=
  if [0x40, 0x42, 0x43, 0x45, 0x48].contains op then 8 else if [0x4A, 0x4C, 0x4D].contains op then 16 else 0

/-- An engine works on a step, with its own re-share of the key, which the verification half of a combined step and a step
that runs without its key do not have, its blinding values, and its inputs shared at the lane boundary; HASH runs unmasked
(R227, R259, R268, R525). -/
def occupy (c : ClusterNo) (isPk : Bool) (n : Nat) (p : PealSlot) (i : Nat) (s : State) : State :=
  match s.peal p with
  | none => s
  | some q =>
    match q.stepDef i with
    | none => s
    | some st =>
      let half := isPk && (q.run i).second.isSome
      let key := if half || dryRun s q st then Shares.none else stepShares s p q st
      let x := stepInputs q st
      let (m, s1) := clusterBytes c key.a.length s
      let (l, s2) := clusterBytes c (x.1.length + x.2.length) s1
      let (r, s3) := clusterBytes c (if half then 0 else blindLen st.op.toNat) s2
      whenDo (isPk && usesNtt st.op.toNat) (State.mCluster c (Cluster.nttAsk n s.clk.now)) (s3.mEng c isPk n fun e => { e with
        job := some (p, i), work := key.refresh m, blind := r
        lanes := if st.op = 0x07 then { a := x.1 ++ x.2, b := [] } else Shares.of (x.1 ++ x.2) l })

/-! Draws, Table 9-2, R120, R283. -/

/-- Bits of a curve's group order. -/
def orderBits (curves : List Curve) (id : Nat) : Nat :=
  if id = 1 then 256 else if id = 2 then 384 else if id = 3 then 521
  else match curves.find? (·.id.toNat == id) with | some c => bitLen c.n | none => 0

/-- The length of a step's IN_A; of a range beyond its source, that its reference asks for (R115, R525). -/
def inLenOf (q : Peal) (st : StepDef) : Nat :=
  match refBytes q st.inA with
  | some a => a.length
  | none => st.inA.len.toNat

/-- Bytes a RANDOM step draws: its output length, or that of IN_A, at most 65,536 (Table 4-8). -/
def randomLen (q : Peal) (st : StepDef) : Nat :=
  if st.outLen = 0xFFFF then min (inLenOf q st) 65536 else st.outLen.toNat

/-- Bytes a step draws from the tenant's instance (Table 9-2, R120). -/
def drawLen (q : Peal) (st : StepDef) : Nat :=
  let op := st.op.toNat
  let p := st.param.toNat
  if op = 0x40 || op = 0x42 then (orderBits q.curves (fieldNat p 0 8) + 64 + 7) / 8
  else if op = 0x4A || op = 0x4C then if fieldNat p 0 4 = 0 then hashBytes (fieldNat p 8 4) else 0
  else if op = 0x4E then hashBytes (fieldNat p 8 4)
  else if op = 0x50 || op = 0x52 || op = 0x54 then 32
  else if op = 0x68 then randomLen q st
  else if op = 0x60 then
    match q.fmts.find? (·.id.toNat == p) with
    | some f => if fmtDraws f then 8 else 0
    | none => 0
  else 0

/-! Outputs. -/

/-- The most bytes a step's output may have (Table 4-6, R115, R237). -/
def outBound (q : Peal) (st : StepDef) : Nat :=
  stepMax st (inLenOf q st) + if generatesCbc st then 16 else 0

/-- The shadow output of zero bytes of a step that could not use its inputs (R525). -/
def zeroOut (q : Peal) (st : StepDef) : Bytes := zeros (outBound q st)

/-- Operations whose product is a key (R110, Table 4-8). -/
def givesKey (op : Nat) : Bool := [0x08, 0x18, 0x1C, 0x48, 0x54, 0x55].contains op

/-! Generated values, R237, R238, Table 3-11. -/

/-- The fixed field of an algorithm policy: device field, then the instance byte with the device's role in bit 0 (R238). -/
def fixedField (s : State) (policy : BitVec 40) : Bytes :=
  let pol := policy.toNat
  [bitsAt pol 8 8, bitsAt pol 16 8, bitsAt pol 24 8,
   BitVec.ofNat 8 (2 * fieldNat pol 33 7 + if s.pair.secondary then 1 else 0)]

/-- The returned nonce or KSN of a generating step for a counter value (Table 3-11, R225). -/
def nonceOf (s : State) (q : Peal) (st : StepDef) (v : Nat) : Bytes :=
  let (a, _) := stepInputs q st
  if st.op = 0x1C then
    if st.param.getLsbD 4 then natBe 10 (beNat (a.take 8) * 2 ^ 16 / 2 ^ 21 * 2 ^ 21 + v) else a.take 8 ++ natBe 4 v
  else fixedField s q.pol.alg ++ natBe 8 v

/-! Results, R222 to R225, R232, R237, R250, R252. -/

/-- What a step's operation gives: its data output, its key output, and the verdict of one that verifies. -/
structure StepResult where
  out : Bytes
  key : Bytes
  verdict : SigVerdict
  deriving DecidableEq, Repr

def StepResult.data (bs : Bytes) : StepResult := { out := bs, key := [], verdict := .valid }
def StepResult.keyOut (bs : Bytes) : StepResult := { out := [], key := bs, verdict := .valid }
def StepResult.check (ok : Bool) (bs : Bytes) : StepResult :=
  { out := bs, key := [], verdict := if ok then .valid else .notVerified }

/-- The counter block or IV a CIPHER step starts from: supplied, or generated for a CTR nonce and for a CBC IV (R237). -/
def startBlock (tdes : Bool) (st : StepDef) (k b nonce : Bytes) : Bytes :=
  if !st.param.getLsbD 4 then b
  else if generatesCbc st then blkEnc tdes k (nonce ++ zeros 4) else nonce ++ natBe 4 1

/-- CIPHER_ENC and CIPHER_DEC; a generated CBC IV is the output's first block (R222, R237). -/
def cipherResult (alg : Nat) (st : StepDef) (k a b nonce : Bytes) : Bytes :=
  let tdes := isTdes alg
  let mode := fieldNat st.param.toNat 0 4
  let bs := blocksOf (blkLen tdes) a
  let iv := startBlock tdes st k b nonce
  if mode = 2 then ctrMode tdes k (beNat iv) bs
  else if st.op = 0x01 then
    if mode = 0 then ecb (blkEnc tdes k) bs else (if generatesCbc st then iv else []) ++ cbcEnc tdes k iv bs
  else if mode = 0 then ecb (blkDec tdes k) bs else cbcDec tdes k iv bs

/-- The MAC of MAC_GEN and MAC_VER at its full length (R220, R222). -/
def macResult (alg : Nat) (st : StepDef) (k m : Bytes) : Bytes :=
  let p := st.param.toNat
  let mode := fieldNat p 0 4
  let two := bitAt p 4
  let full := if mode = 0 then cmac (isTdes alg) k m else if mode = 1 then isoMac1 (isTdes alg) two k m
    else if mode = 2 then isoMac3 two k m else hmac (mode - 3) k m
  full.take (fieldNat p 8 7)

/-- What a symmetric step gives from its key, inputs and generated value. -/
def symResult (alg : Nat) (st : StepDef) (k a b nonce : Bytes) : StepResult :=
  let op := st.op.toNat
  let p := st.param.toNat
  let ccm := fieldNat p 0 4 == 1
  if op = 0x01 || op = 0x02 then .data (cipherResult alg st k a b nonce)
  else if op = 0x03 then .data (aeadEnc ccm (tagLen st) k nonce b a)
  else if op = 0x04 then
    let r := aeadDec ccm (tagLen st) k (b.take 12) (b.drop 12) a
    .check r.2 r.1
  else if op = 0x05 then .data (macResult alg st k a)
  else if op = 0x06 then .check (macResult alg st k a == b) []
  else if op = 0x07 then .data (digest p a)
  else if op = 0x08 then .keyOut (kdfKey (fieldNat p 0 8) k a b)
  else if op = 0x09 || op = 0x0A then .data (ff1 (op == 0x0A) p k b a)
  else if op = 0x10 then
    .data (if p = 4 then pin4Dec k a (if b.length = 16 then b else panField16 b) else tdesDec k a)
  else if op = 0x11 then .data (tdesEnc k a)
  else if op = 0x12 then .data (pin4Enc k a)
  else if op = 0x18 then
    .keyOut (emvSessionKey alg (if p = 0 then emvCardKey alg k a (b.headD 0) else k) (b.drop 1))
  else if op = 0x19 then .check ((emvMac alg k a).take 8 == b) b
  else if op = 0x1A then .data (if p = 0 then arpc1 alg k a b else (emvMac alg k (a ++ b)).take 4)
  else if op = 0x1C then
    let tdes := bitAt p 4
    .keyOut ((dukptKey tdes (fieldNat p 0 2) k (if bitAt p 5 then nonce else a)).take 16)
  else .data []

/-- What a signature is made of and checked against: the digest of a message, for ML-DSA its representative μ, for Ed25519 the
message itself (R251). -/
def msgDigest (pub : Bytes) (st : StepDef) (a ctx : Bytes) : Bytes :=
  let op := st.op.toNat
  let h := fieldNat st.param.toNat 8 4
  if [0x50, 0x51, 0x52].contains op then dsaMu pub a ctx
  else if [0x43, 0x44, 0x45].contains op || h = 15 then a
  else digest h a

/-- A signature verifies for a digest under a public key (R250). -/
def pkVerify (curves : List Curve) (param : Nat) (st : StepDef) (pub dg sig : Bytes) : Bool :=
  let op := st.op.toNat
  let p := st.param.toNat
  let d := domainOf curves (fieldNat p 0 8)
  let h := fieldNat p 8 4
  let m := 4 * param
  if op = 0x41 || op = 0x42 then
    match d.readSig (bitAt p 12) sig with
    | some (r, s) => d.verify (d.xy pub) 15 dg r s
    | none => false
  else if op = 0x44 || op = 0x45 then edVerify pub dg sig
  else if op = 0x4B || op = 0x4C then
    let (n, e) := rsaPublic m pub
    let em := natBe m (rsaPow n (beNat sig) e)
    if fieldNat p 0 4 = 0 then pssOk m h dg em else em == emsaPkcs1 m h dg
  else dsaVerify p pub dg (sig.take (mldsaSig p))

/-- What a public-key step gives from its key, its public part, the digest of its message, its inputs and its draw, or its
failure (R250, R252, R256, R261). -/
def pkResult (curves : List Curve) (param : Nat) (st : StepDef) (k pub dg a b drawn : Bytes) : Stat ⊕ StepResult :=
  let op := st.op.toNat
  let p := st.param.toNat
  let d := domainOf curves (fieldNat p 0 8)
  let h := fieldNat p 8 4
  let m := 4 * param
  if op = 0x40 || op = 0x42 then .inr (.data (d.sigBytes (bitAt p 12) (d.sign (beNat k) 15 dg drawn)))
  else if verifies op then .inr (.check (pkVerify curves param st pub dg b) [])
  else if op = 0x43 || op = 0x45 then .inr (.data (edSign k dg))
  else if op = 0x48 then
    .inr (.keyOut (if p = 4 then x25519 k a
      else match d.mul (beNat k) (some (d.xy a)) with
        | some (x, _) => (natBe (byteLen d.p) x).take 32
        | none => zeros 32))
  else if op = 0x4A || op = 0x4C then
    let (n, e, _) := rsaPrivate m k
    let em := if fieldNat p 0 4 = 0 then emsaPss m h dg drawn else emsaPkcs1 m h dg
    .inr (.data (natBe m (rsaPow n (beNat em) e)))
  else if op = 0x4D then
    let (n, e, _) := rsaPrivate m k
    match oaepDecode m h (natBe m (rsaPow n (beNat a) e)) b with
    | some msg => .inr (.data msg)
    | none => .inl (St.inputInvalid, 7)
  else if op = 0x4E then
    let (n, e) := rsaPublic m pub
    .inr (.data (natBe m (rsaPow n (beNat (oaepEncode m h a b drawn)) e)))
  else if op = 0x50 || op = 0x52 then
    match dsaSign p k dg drawn with
    | some sig => .inr (.data sig)
    | none => .inl (St.engineFault, 2)
  else if op = 0x54 then
    let (key, c) := kemEncap p (if st.keyA = 0xF then a else pub) drawn
    .inr { out := c, key := key, verdict := .valid }
  else if op = 0x55 then .inr (.keyOut (kemDecap p k a))
  else .inr (.data [])

/-- An ECDSA nonce that gives r = 0 or s = 0 (R253). -/
def zeroSignature (q : Peal) (st : StepDef) (k a drawn : Bytes) : Bool :=
  let d := domainOf q.curves (fieldNat st.param.toNat 0 8)
  (st.op == 0x40 || st.op == 0x42) &&
    (let x := d.sign (beNat k) (fieldNat st.param.toNat 8 4) a drawn; x.1 == 0 || x.2 == 0)

/-- The SEs a step runs on. -/
def seOf (r : StepRun) : List Nat :=
  [r.engine, r.second].filterMap fun e => match e with | some (.se n) => some n | _ => none

/-- The working copy of the key of the first engine a step runs on, in its shares. -/
def workShares (s : State) (q : Peal) (i : Nat) : Shares :=
  match (q.run i).engine with
  | some (.se n) => (s.eng q.cluster false n).work
  | some (.pk c n) => (s.eng c true n).work
  | _ => Shares.none
def workKey (s : State) (q : Peal) (i : Nat) : Bytes := (workShares s q i).value

/-- A step is a release verify (R112). -/
def isReleaseVerify (st : StepDef) : Bool := verifies st.op.toNat && st.guard && st.gstat == 2

/-- The digest a public-key step works on: a release verify has that which the signing step hands it (R251). -/
def stepDigest (s : State) (q : Peal) (st : StepDef) : Bytes :=
  let x := stepInputs q st
  if isReleaseVerify st && (q.run st.inB.idx.toNat).handed ≠ [] then (q.run st.inB.idx.toNat).handed
  else msgDigest (stepPub s q st) st x.1
    (if st.op = 0x51 then x.2.drop (mldsaSig st.param.toNat) else if st.op = 0x50 || st.op = 0x52 then x.2 else [])

/-- What the operation of a running step gives, or its failure. -/
def computed (s : State) (q : Peal) (i : Nat) (st : StepDef) : Stat ⊕ StepResult :=
  let x := stepInputs q st
  let key := stepKey s q st
  let r := q.run i
  match engKind st.op.toNat with
  | some .se => .inr (symResult key.1 st (workKey s q i) x.1 x.2 r.nonce)
  | some .pk => pkResult q.curves key.2 st (workKey s q i) (stepPub s q st) (stepDigest s q st) x.1 x.2 r.drawn
  | _ => .inr (.data [])

/-! The course of a symmetric message, R230 to R234, Tables 8-3, 8-4. -/

/-- Bytes a digest takes in a block (Table 8-3). -/
def hashRate (h : Nat) : Nat := if h = 0 then 64 else if h ≤ 2 then 128 else 200 - 2 * hashBytes h

/-- Blocks of a message: how many, and the nanoseconds before the first and for each at the nominal clock. -/
def blockCourse (alg : Nat) (st : StepDef) (a b : Bytes) : Nat × Nat × Nat :=
  let op := st.op.toNat
  let m := fieldNat st.param.toNat 0 4
  let tdes := isTdes alg
  let up (n k : Nat) : Nat := (n + k - 1) / k
  let n := up a.length (blkLen tdes)
  if op = 0x01 && m = 1 then (n, if generatesCbc st then 70 else 0, if tdes then 40 else 70)
  else if op = 0x01 || op = 0x02 then if tdes then (n, 35, 5) else (n, 50, 20)
  else if op = 0x03 || op = 0x04 then
    let aad := if m = 1 then up (ccmAad (if op = 0x04 then b.drop 12 else b)).length 16
      else up (if op = 0x04 then b.length - 12 else b.length) 16
    let data := up (if op = 0x04 then a.length - tagLen st else a.length) 16
    if m = 1 then (aad + data, 140, 70) else (aad + data, 90, 20)
  else if op = 0x05 || op = 0x06 then
    if m = 0 then (n, if tdes then 40 else 70, if tdes then 40 else 70)
    else if m = 1 then (n, 0, if tdes then 40 else 70)
    else if m = 2 then (n, 30, 10)
    else if m = 3 then (up a.length 64, 180, 60) else (up a.length 128, 240, 80)
  else
    let h := st.param.toNat
    (up a.length (hashRate h), 0, if h = 0 then 60 else if h ≤ 2 then 80 else 20)

/-- The peal with each streamed output in production as it comes out of its step, for those that run in step with it
(R114). -/
def Peal.live (s : State) (p : PealSlot) (q : Peal) : Peal :=
  { q with steps := (List.range q.steps.length).map fun i =>
      let r := q.run i
      match q.stepDef i with
      | none => r
      | some st =>
        if !q.flows i then r
        else
          let x := stepInputs q st
          let out := if st.op = 0x68 then r.drawn
            else (symResult (stepKey s q st).1 st (stepShares s p q st).value x.1 x.2 r.nonce).out
          { r with phase := .ended, shadow := stepShadow q st
                   out := if dryRun s q st then zeroOut q st else out.take (outBound q st) } }

/-- What a step has run under the present clock and before, in ns at the nominal clock (R231, R271). -/
def nsRun (s : State) (r : StepRun) : Nat := (r.progress + (s.clk.now - r.started) * clockUnits s) / 6

/-- Blocks a running step's own time allows, under the countermeasure where it applies (R229 to R231). -/
def ownBlocks (s : State) (q : Peal) (i : Nat) (st : StepDef) : Nat :=
  let x := stepInputs q st
  let (n, base, each) := blockCourse (stepKey s q st).1 st x.1 x.2
  let ns := nsRun s (q.run i) - 40
  let t := if countermeasure s q st then ns * 2 / 3 else ns
  min n ((t - base) / each)

/-- Bytes of a step's input in a block. -/
def bytesPerBlock (alg : Nat) (st : StepDef) : Nat :=
  let m := fieldNat st.param.toNat 0 4
  if st.op = 0x07 then hashRate st.param.toNat
  else if (st.op = 0x05 || st.op = 0x06) && 3 ≤ m then hashRate (m - 3)
  else blkLen (isTdes alg)

/-- Blocks a running step has done: no more than the producer of its input has put out, where the two run in step (R114). -/
def blocksDone (s : State) (p : PealSlot) (q : Peal) (i : Nat) (st : StepDef) : Nat :=
  let own := ownBlocks s (q.live s p) i st
  let d := st.inA.idx.toNat
  match q.stepDef d with
  | some pst =>
    if st.inA.src = 2 && q.flows d then
      let put := ownBlocks s q d pst * bytesPerBlock (stepKey s q pst).1 pst + if generatesCbc pst then 16 else 0
      min own ((put - st.inA.off.toNat) / bytesPerBlock (stepKey s q st).1 st)
    else own
  | none => own

/-- Blocks of a step's message (R233). -/
def blockCount (s : State) (p : PealSlot) (q : Peal) (st : StepDef) : Nat :=
  let x := stepInputs (q.live s p) st
  (blockCourse (stepKey s q st).1 st x.1 x.2).1
/-- Blocks it has still to run (R233). -/
def blocksLeft (s : State) (p : PealSlot) (q : Peal) (i : Nat) (st : StepDef) : Nat :=
  blockCount s p q st - blocksDone s p q i st

/-- Time between re-shares of a working key, in the step's measure: blocks of a symmetric step, ns of one with a secret operand
on a PK core (R227, R259). -/
def resharesDue (s : State) (p : PealSlot) (q : Peal) (i : Nat) (st : StepDef) : Nat :=
  match engKind st.op.toNat with
  | some .se => if st.op = 0x07 then 0 else blocksDone s p q i st / 1024
  | some .pk => if st.op = 0x4E || verifies st.op.toNat || (q.run i).second.isSome then 0 else nsRun s (q.run i) / 500000
  | _ => 0

/-- The course of a step up to now: what it has run is noted, and the re-shares of its working key that fell due have drawn on
the masking generator (R227, R231, R259, R271). -/
def noteCourse (p : PealSlot) (i : Nat) (s : State) : State :=
  match s.peal p with
  | none => s
  | some q =>
    match q.stepDef i with
    | none => s
    | some st =>
      let r := q.run i
      if r.phase ≠ .running then s
      else
        let due := resharesDue s p q i st
        let one := (workShares s q i).a.length * max 1 (seOf r).length
        let (_, s1) := clusterBytes q.cluster ((due - r.reshared) * one) s
        s1.mRun p i fun r => { r with
          progress := r.progress + (s.clk.now - r.started) * clockUnits s, started := max r.started s.clk.now
          reshared := max r.reshared due }

/-- The chaining value, counter block, or GHASH or hash state after some blocks (R234, R245). -/
def chainState (alg : Nat) (st : StepDef) (k a b nonce : Bytes) (done : Nat) : Bytes :=
  let op := st.op.toNat
  let p := st.param.toNat
  let m := fieldNat p 0 4
  let tdes := isTdes alg
  let n := blkLen tdes
  let part := (blocksOf n a).take done
  let iv := startBlock tdes st k b nonce
  if op = 0x01 || op = 0x02 then
    if m = 0 then []
    else if m = 2 then natBe n ((beNat iv + done) % 2 ^ (8 * n))
    else if op = 0x01 then lastN n (iv ++ cbcEnc tdes k iv part) else part.getLastD iv
  else if op = 0x03 || op = 0x04 then
    let nc := if op = 0x03 then nonce else b.take 12
    let aad := if op = 0x03 then b else b.drop 12
    let data := if op = 0x03 then a else a.take (a.length - tagLen st)
    let head := if m = 1 then ccmAad aad else aad
    let past := done - (head.length + 15) / 16
    let text := data.take (16 * past)
    if m = 1 then
      let pt := if op = 0x03 then text else ccmCrypt k nc text
      natBe 3 (past + 1) ++ cbcMac false k (zeros 16)
        (ccmFirst nc aad data.length (tagLen st) :: ((blocksOf 16 head).take done ++ blocksOf 16 pt).map (fit 16))
    else
      let ct := if op = 0x04 then text else gcmCrypt k nc text
      natBe 4 (past + 2) ++
        natBe 16 (ghash (beNat (aesEnc k (zeros 16))) (blocksOf 16 (aad.take (16 * done)) ++ blocksOf 16 ct))
  else if op = 0x07 then natBe 64 (Config.hashState p (a.take (done * hashRate p))).toNat
  else if m ≤ 1 then cbcMac tdes k (zeros n) part
  else if m = 2 then part.foldl (fun c x => desEnc (k.take 8) (xorBytes x c)) (zeros 8)
  else
    let r := hashRate (m - 3)
    natBe 64 (Config.hashState (m - 3) ((fit r k).map (· ^^^ 0x36) ++ a.take (done * r))).toNat

/-- Operations whose steps may be suspended, which save contexts (R233, R245). -/
def suspendable (op : Nat) : Bool := [0x01, 0x02, 0x03, 0x04, 0x05, 0x06, 0x07].contains op

/-- The context of a running symmetric step after some blocks; an operation of one stretch has none. -/
def contextAt (s : State) (p : PealSlot) (q : Peal) (i : Nat) (st : StepDef) (done : Nat) : Bytes :=
  let x := stepInputs (q.live s p) st
  if suspendable st.op.toNat then chainState (stepKey s q st).1 st (workKey s q i) x.1 x.2 (q.run i).nonce done else []

/-- An output with the segments a majority has decided in their places (R246). -/
def patchSegments (out : Bytes) (l : List (Nat × Bytes)) : Bytes :=
  l.foldl (fun o x =>
    let n := min 4096 (o.length - 4096 * x.1)
    o.take (4096 * x.1) ++ fit n x.2 ++ o.drop (4096 * x.1 + n)) out

/-! Engine choice, R126, R235, R244, R268. -/

/-- The SEs of the nearest SE predecessor in the data chain, level by level, higher indices first in a level (R126). Of
two in one level the higher is taken, and the key source step belongs to the chain: the model's choice
(notes/assumptions/193.md). -/
def chainEngines (q : Peal) : Nat → List Nat → List Nat
  | 0, _ => []
  | n + 1, level =>
    if level.isEmpty then []
    else
      let sorted := (List.range 32).reverse.filter (level.contains ·)
      let found := sorted.findSome? fun i =>
        match (q.run i).engine, (q.run i).second with
        | some (.se x), some (.se y) => some [x, y]
        | some (.se x), _ => some [x]
        | _, _ => none
      match found with
      | some l => l
      | none => chainEngines q n (sorted.flatMap fun i => match q.stepDef i with
          | some st => dataPreds st
          | none => [])

/-- An SE that may take a step: active, free, and with no set-aside context unless the peal is Critical (R235). -/
def seFree (s : State) (c : ClusterNo) (crit : Bool) (n : Nat) : Bool :=
  let e := s.eng c false n
  e.role == .active && e.job.isNone && e.selfTest.isNone && (crit || e.held.isEmpty)

/-- A PK core that may take a step: active, free, not in a test and with no parked job (R263, R264). -/
def pkFree (s : State) (c : ClusterNo) (n : Nat) : Bool :=
  let e := s.eng c true n
  e.role == .active && e.job.isNone && e.selfTest.isNone && e.held.isEmpty

/-- Free engines of a kind, those idle longest first, the lower number on equal times (R126). -/
def byIdle (s : State) (c : ClusterNo) (isPk : Bool) (l : List Nat) : List Nat :=
  l.mergeSort fun x y =>
    let a := (s.eng c isPk x).idleSince
    let b := (s.eng c isPk y).idleSince
    a < b || (a == b && x ≤ y)

/-- The SEs that produced the PIN data a reference names: those of its PIN_DEC, through FORMAT steps (R113). -/
def pinEngines (q : Peal) : Nat → DRef → List Nat
  | 0, _ => []
  | n + 1, r =>
    if r.src ≠ 2 then []
    else match q.stepDef r.idx.toNat with
      | some p => if p.op = 0x10 then seOf (q.run r.idx.toNat) else if p.op = 0x60 then pinEngines q n p.inA else []
      | none => []

/-- The SEs a step goes to, `none` when they are not free (R126, R244); sensitive data stays on the engines that produced
it (R113). A checked step after a producer that ran on one SE takes another idle SE beside it: the model's choice
(notes/assumptions/194.md). -/
def pickSe (s : State) (q : Peal) (st : StepDef) : Option (List Nat) :=
  let c := q.cluster
  let n := if q.checked && st.sec then 2 else 1
  let crit := q.cls == 0
  let free := (List.range 5).filter (seFree s c crit)
  let chain := (chainEngines q 32 (dataPreds st)).filter fun x => (s.eng c false x).role == .active
  let pin := (pinEngines q 32 st.inA).filter fun x => (s.eng c false x).role == .active
  let rest := (byIdle s c false free).filter (!pin.contains ·)
  if !pin.isEmpty then
    if pin.all (free.contains ·) && n ≤ pin.length + rest.length then some ((pin ++ rest).take n) else none
  else if n ≤ chain.length && (chain.take n).all (free.contains ·) then some (chain.take n)
  else if n ≤ free.length then some ((byIdle s c false free).take n) else none

/-- The core that signed for a release verify, or for the second half of a combined step (R268). -/
def signerOf (q : Peal) (i : Nat) (st : StepDef) : Option Engine :=
  if isReleaseVerify st then (q.run st.inB.idx.toNat).engine
  else if (q.run i).phase = .verifyWait then (q.run i).engine else none

/-- Free cores of a cluster other than the signer. -/
def freeCores (s : State) (c : ClusterNo) (signer : Option Engine) : List Nat :=
  byIdle s c true ((List.range 6).filter fun n => pkFree s c n && signer ≠ some (.pk c n))

/-- The PK core a step goes to: in its own cluster, or for a verification before release in another active one; one that
found none waits for its own cluster's (R126, R268). -/
def pickPk (s : State) (q : Peal) (i : Nat) (st : StepDef) : Option Engine :=
  let signer := signerOf q i st
  match freeCores s q.cluster signer with
  | n :: _ => some (.pk q.cluster n)
  | [] =>
    if signer.isNone || (q.run i).ownOnly then none
    else (List.range 16).findSome? fun k =>
      let c : ClusterNo := BitVec.ofNat 4 k
      if c = q.cluster || !canIssue s c then none
      else match freeCores s c signer with
        | n :: _ => some (.pk c n)
        | [] => none

/-- The cluster's format unit is free: no FORMAT step runs on it. -/
def fmtFree (s : State) (c : ClusterNo) : Bool :=
  !s.peals.any fun p => p.2.cluster == c && p.2.steps.any fun r => r.phase == .running && r.engine == some .fmt

/-- The engines a step goes to now, `none` when they are not free. -/
def pickEngines (s : State) (q : Peal) (i : Nat) (st : StepDef) : Option (List Engine) :=
  match engKind st.op.toNat with
  | some .se => (pickSe s q st).map fun l => l.map Engine.se
  | some .pk => (pickPk s q i st).map ([·])
  | some .fmt => if fmtFree s q.cluster then some [.fmt] else none
  | some .drbg => some [.drbg]
  | _ => none

/-- Seat a step on its engines. -/
def seat (p : PealSlot) (i : Nat) (c : ClusterNo) (l : List Engine) (s : State) : State :=
  l.foldl (fun s e => match e with
    | .se n => occupy c false n p i s
    | .pk k n => occupy k true n p i s
    | _ => s) s

/-! Ends. -/

/-- A step ends: its engines are freed and its run changed, and the peal settles. -/
def endStep (p : PealSlot) (i : Nat) (f : StepRun → StepRun) (s : State) : State :=
  match s.peal p with
  | none => s
  | some q =>
    settle p (freeEngines q.cluster p i (q.run i) ((noteCourse p i s).mRun p i fun r => f { r with phase := .ended }))

/-- The status of a failing guard (Table 4-9, R255). -/
def guardStat (st : StepDef) (malformed : Bool) : Stat :=
  if st.gstat = 0 then (St.guardFailed, st.gsub.setWidth 8)
  else if st.gstat = 2 then (St.engineFault, 2)
  else if st.op = 0x60 then (St.inputInvalid, 8)
  else if st.op = 0x41 || st.op = 0x44 || st.op = 0x4B || st.op = 0x51 then
    (St.sigInvalid, if malformed then 2 else 1)
  else (St.authFailed, 1)

/-- A step that could not use its inputs ends with a shadow output of zero bytes (R525). -/
def zeroRun (q : Peal) (st : StepDef) (r : StepRun) : StepRun := { r with out := zeroOut q st, shadow := true }

/-- Algorithm and usage of the key a step uses: of its bound key, or of the key output in its cluster's slot (R110, R174). -/
def keyAttr (s : State) (p : PealSlot) (q : Peal) (st : StepDef) : Nat × Nat :=
  if st.keyA = 4 then
    match (s.cluster q.cluster).cache.find? (·.key == outKey p.toNat st.ksrc.toNat) with
    | some x => (x.alg.toNat, x.usage.toNat)
    | none => (0, 0)
  else match (boundKey q st).bind s.krec with
    | some r => (r.alg.toNat, r.usage.toNat)
    | none => (0, 0)

/-- The key output of a step, as two shares, takes its slot (R110). -/
def keepKey (p : PealSlot) (i : Nat) (q : Peal) (st : StepDef) (key : Bytes) (s : State) : State :=
  if key.isEmpty then s
  else
    let (m, s1) := clusterBytes q.cluster key.length s
    placeOut q.cluster p.toNat i (outputKey st (keyAttr s p q st)) (Shares.of key m) s1

/-- A step ends with a shadow output of zero bytes, and one that gives a key with a key of zeros (R525). -/
def endZero (p : PealSlot) (i : Nat) (q : Peal) (st : StepDef) (s : State) : State :=
  endStep p i (zeroRun q st) (keepKey p i q st (if givesKey st.op.toNat then zeros 32 else []) s)

/-- A step fails on its own account (R140); with inputs from a shadow output it ends with a zero output instead
(R525). -/
def failStep (p : PealSlot) (i : Nat) (st : StepDef) (fl : Stat) (s : State) : State :=
  match s.peal p with
  | none => s
  | some q => if stepShadow q st then endZero p i q st s else endStep p i (fun r => { r with fail := some fl, out := [] }) s

/-! Promotion, R15, R236, R379, R380. -/

/-- Move the engine numbers of steps that ran or are set aside on one SE of a cluster to another. -/
def renameSe (c : ClusterNo) (a b : Nat) (s : State) : State :=
  let mv (e : Option Engine) : Option Engine := if e = some (.se a) then some (.se b) else e
  let one := fun (q : Peal) =>
    if q.cluster = c then { q with steps := q.steps.map fun r => { r with engine := mv r.engine, second := mv r.second } }
    else q
  { s with peals := s.peals.map fun (k, q) => (k, one q) }

/-- Restart from its beginning a job that was parked on a retired core: on the promoted core, with fresh draws, or
as a waiting step where there is none; the verification half of a combined step keeps its signature (Table 9-8). -/
def restartJob (c : ClusterNo) (core : Option Nat) (h : HeldJob) (s : State) : State :=
  let p := h.slot
  let fresh := fun (r : StepRun) => { r with started := s.clk.now, progress := 0, reshared := 0 }
  match s.peal p with
  | none => s
  | some q =>
    match q.stepDef h.step with
    | none => s
    | some st =>
      if (q.run h.step).second.isSome then
        match core with
        | some m => occupy c true m p h.step (s.mRun p h.step fun r =>
            { fresh r with phase := .running, second := some (.pk c m) })
        | none => s.mRun p h.step fun r => { fresh r with phase := .verifyWait, second := none }
      else match core with
        | none => s.mRun p h.step fun r => { fresh r with phase := .waiting, engine := none, drawn := [] }
        | some m =>
          match drawSome p h.step q.fn.toNat (drawLen q st) s with
          | (.served bs, s1) =>
            occupy c true m p h.step (s1.mRun p h.step fun r =>
              { fresh r with phase := .running, engine := some (.pk c m), drawn := bs })
          | (.held, s1) =>
            holdDraw q.fn.toNat p h.step (s1.mRun p h.step fun r => { fresh r with phase := .drawWait, engine := none })
          | (.failed sub, s1) => failStep p h.step st (St.entropyUnavailable, sub) s1

/-- Retire an engine at once, count it, and promote the cluster's spare of its kind (R15, R137, R246, R269). -/
def retireEngine (c : ClusterNo) (isPk : Bool) (n : Nat) (cause : RetireCause) (s : State) : State :=
  let l := (s.cluster c).eng isPk
  let old := l.getD n EngineRec.init
  let dead := fun (e : EngineRec) => { e.cleared with role := .retired, cause := cause, held := [], selfTest := none,
                                                      testPaused := false }
  let key := 16 * c.toNat + (if isPk then 5 + n else n)
  let s0 := whenDo isPk (State.mCluster c (Cluster.nttLeave n)) (s.mEng c isPk n dead)
  let s1 := raiseDev .engineRetired (s0.mHealth fun h =>
    { h with lifetime := smMod 0 key (· + 1) h.lifetime })
  let s2 := nvQueue 5 (.retirement key) s1
  match l.findIdx? (·.role == .spare) with
  | none => if isPk then old.held.foldl (fun s h => restartJob c none h s) s2 else s2
  | some m =>
    if old.role ≠ .active then s2
    else
      let s3 := s2.mEng c isPk m fun e =>
        { e with role := .active, held := if isPk then [] else old.held, selfTest := none, testPaused := false,
                 idleSince := s.clk.now }
      if isPk then old.held.foldl (fun s h => restartJob c (some m) h s) s3 else renameSe c n m s3

end Sys2Proof.Machine
end

