-- ==== Sys2Proof/Machine/Entropy.lean ====
section
/-! DEFINITION. The noise sources, the pool and the generators' timers (R275 to R293). -/
namespace Sys2Proof.Machine

/-- A noise source. -/
def State.source (s : State) (k : BitVec 2) : NoiseSource := s.rng.sources.getD k.toNat NoiseSource.init
/-- Change a noise source. -/
def State.mSource (k : BitVec 2) (f : NoiseSource → NoiseSource) (s : State) : State :=
  s.mRng fun g => { g with sources := modAt k.toNat f g.sources }

/-- Window failures of a source within the last second of vault time (R278). -/
def NoiseSource.recent (v : Nat) (n : NoiseSource) : List Nat := n.fails.filter fun t => v < t + periods 1

/-- Some source is in a state. -/
def anySource (st : SrcState) (s : State) : Bool := s.rng.sources.any (·.state == st)

/-- The instances that the device instantiates, in order (Table 10-5); in Lockdown I3 alone (R417). -/
def instOrder (s : State) : List Nat :=
  if s.mode = .lockdown then [instI 3] else (List.range 20).map instI ++ List.range 256

/-- Instantiate the instances still waiting for it while the pool can give entropy inputs (Table 10-5, R288). -/
def instantiateWaiting (s : State) : State :=
  (instOrder s).foldl (fun s i =>
    if (s.drbg i).instantiated || !canSeed s then s else seedDrbg i s) s

/-- A held draw's step ends with a sub-reason of ENTROPY_UNAVAILABLE (R292, R293). -/
def endHeld (h : HeldDraw) (sub : BitVec 8) (s : State) : State :=
  let s1 := unholdFor h.who s
  match h.who with
  | .step p i =>
    match s1.peal p with
    | none => s1
    | some q =>
      if q.isAdmin then opFail p (St.entropyUnavailable, sub) i s1
      else match q.stepDef i with
        | none => s1
        | some st => failStep p i st (St.entropyUnavailable, sub) s1
  | .challenge => s1.mLc fun l => { l with busy := false, result := 6 }
  | _ => s1

/-- A draw that is waiting when an outage begins is decided in that cycle: a prediction-resistant one fails, as does one of
an instance at its limit or not instantiated; an ordinary one of an instance below its limit is served when it is asked for
again (Table 10-6). -/
def outageDecides (s : State) (h : HeldDraw) : State :=
  if h.pr then endHeld h 1 s
  else if !(s.drbg h.inst).instantiated then endHeld h 3 s
  else if atLimit s h.inst then endHeld h 2 (raiseLimit h.inst s)
  else s

/-- An entropy outage begins (R281, R293). -/
def outage (s : State) : State :=
  let s1 := raiseDev .rngOutage (s.mRng fun g => { g with outage := true, pool := [] })
  s1.rng.held.foldl outageDecides s1

/-- A source produces nothing more; with the last healthy one the outage begins, and with none left that could pass
its start-up test the core minimum is not met (R278, R279, R281, R445). -/
def sourceLost (k : BitVec 2) (st : SrcState) (s : State) : State :=
  let wasHealthy := (s.source k).state == SrcState.healthy
  let s1 := raiseDev .rngSrcFailed (s.mSource k fun n => { n with state := st })
  if anySource .healthy s1 then s1
  else if wasHealthy then outage s1
  else if s1.rng.outage || anySource .starting s1 || s1.mode = .lockdown then s1
  else s1.mBoot fun b => { b with coreMin := false, stage := 0xE, awaitNoise := none }

/-- STARTUP_TEST_RETRY: the second attempt of a source's start-up test begins, 1 ms after the first failed (R279). -/
def execStartupTestRetry (src : BitVec 2) (s : State) : Res :=
  .next (if onMain s && (s.source src).state == SrcState.starting && (s.source src).startFailed == 1 &&
      (s.source src).failedAt + ms 1 ≤ s.clk.now then
    s.mSource src fun n => { n with startPassed := 0, startFailed := 2 } else s)

/-- DRBG_SCHEDULED_RESEED: a reseed that is due takes its entropy input when the pool has one (R285). -/
def execDrbgScheduledReseed (inst : BitVec 9) (s : State) : Res :=
  .next (if onMain s then reseedIfDue inst.toNat s else s)

/-- DRBG_RESEED_LIMIT_REACHED: an instance that did not reseed stands at its limit and serves nothing until it has
(R285, R293, R295). -/
def execDrbgReseedLimitReached (inst : BitVec 9) (s : State) : Res :=
  .next (if onMain s && atLimit s inst.toNat then
      (if canSeed s then seedDrbg inst.toNat s else raiseLimit inst.toNat s)
    else s)

/-- The masking generators of a list of clusters take new keys, one block of the pool each (R290). -/
def rekeyClusters : List Nat → State → State
  | [], s => s
  | n :: l, s =>
    let (k, s1) := takePool 1 s
    rekeyClusters l (s1.mCluster (BitVec.ofNat 4 n) fun c =>
      { c with maskKey := some (BitVec.ofNat 128 (beNat k)), maskPos := 0, maskRekeys := c.maskRekeys + 1 })

/-- The clusters that have a masking generator running (R289): none in Lockdown (R417). -/
def masked (s : State) : List Nat :=
  if s.mode = .lockdown then [] else (List.range 16).filter fun n => let c := s.cluster (BitVec.ofNat 4 n); c.enabled && c.inService

/-- The masking generators, of the device and of the enabled clusters, take new keys from the pool (R289, R290). -/
def rekeyMasks (s : State) : State :=
  let (k, s1) := takePool 1 s
  rekeyClusters (masked s) (s1.mRng fun g =>
    { g with maskKey := some (BitVec.ofNat 128 (beNat k)), maskPos := 0, maskRekeys := g.maskRekeys + 1, maskAt := s.clk.now })

/-- MASKING_GENERATOR_REKEY: every 10 ms the masking generators are rekeyed from the pool (R290). -/
def execMaskingGeneratorRekey (s : State) : Res :=
  .next (if !onMain s || s.rng.outage || s.clk.now < s.rng.maskAt + ms 10 ||
      s.rng.pool.length < 1 + (masked s).length then s
    else rekeyMasks s)

/-- Replace the carried seed by 256 pool bits (R290). -/
def replaceSeed (s : State) : State :=
  if s.rng.outage || s.rng.pool.length < 2 then s
  else
    let (bs, s1) := takePool 2 s
    s1.mRng fun g => { g with carriedSeed := some bs, seedReplaced := g.seedReplaced + 1, seedAt := s.clk.now }

/-- CARRIED_SEED_REPLACE: the carried seed is replaced once per second (R290). -/
def execCarriedSeedReplace (s : State) : Res :=
  .next (if onMain s && s.rng.seedAt + 1000000000 ≤ s.clk.now then replaceSeed s else s)

end Sys2Proof.Machine
end

