-- ==== Sys2Proof/Machine/Effects.lean ====
section
/-! DEFINITION. What the operations of admin peals do at their commit point: keys, tenants, tables, the Toll's
settings, roles and modes (R27, R101 to R104, R108, R124, R170 to R192, R206 to R214, R332 to R349, R372, R373,
R388 to R391). -/
namespace Sys2Proof.Machine

/-! What the counters region holds of a tenant, Table 13-2. -/

/-- A byte stands in one of the slots of a width. -/
def inSlots (l : List Nat) (width : Nat) (c : Host.Cell) : Bool := l.any fun a => decide (a ≤ c.1) && decide (c.1 < a + width)
/-- The slots of a width, between two addresses, whose first byte names a tenant. -/
def slotsOf (t : Fn) (m : List Host.Cell) (lo hi width : Nat) : List Nat :=
  (storeSlots m lo hi width).filter fun a => storeGet m a 1 == [BitVec.ofNat 8 t.toNat]
/-- A tenant's bytes in the revocation set: home slots and log words. -/
def inSet (t : Fn) (m : List Host.Cell) (c : Host.Cell) : Bool :=
  inSlots (slotsOf t m (homeAddr 0) (homeAddr 16384) 8) 8 c ||
    inSlots (slotsOf t m (setLogAddr 0) (setLogAddr 0 + 16 * 512) 16) 16 c
/-- A tenant's bytes in the high-water pairs and in the use ledger's copies. -/
def inOwn (t : Fn) (m : List Host.Cell) (c : Host.Cell) : Bool :=
  inSlots [(pairAt (3 * t.toNat)).a] 384 c || inSlots (slotsOf t m (ledgerAddr false 0) (ledgerAddr true 512) 16) 16 c

/-! Journal mode, R338. -/

/-- Whether journal mode is to be in force (R338). -/
def journalWanted (s : State) : Bool :=
  let held (here : Bool) (since : Option Nat) : Bool :=
    here && (match since with | some t => decide (t + sec 1 ≤ s.clk.now) | none => false)
  s.toll.mode == 1 || (s.toll.mode ≠ 2 && !held s.pwr.battA s.pwr.battASince && !held s.pwr.battB s.pwr.battBSince)

/-- Enter or leave journal mode at a group boundary: entry writes its delta record first, and exit waits for the
open group (R338). -/
def journalSwitch (s : State) : State :=
  match s.toll.journalNext with
  | none => s
  | some true =>
    if s.toll.writing.isSome then s
    else startDelta false true (s.mToll fun k => { k with journal := true, journalNext := none })
  | some false =>
    if !s.clap.group.isEmpty || !s.clap.writing.isEmpty || !s.clap.late.isEmpty then s
    else s.mToll fun k => { k with journal := false, journalNext := none }

/-- Judge journal mode anew. -/
def journalJudge (s : State) : State :=
  let w := journalWanted s
  journalSwitch (s.mToll fun k => { k with journalNext := if w = k.journal then none else some w })

/-! Keys. -/

/-- Install a new key with its ledger entry and counter cell (R178, R181, R184). -/
def createKey (k : Nat) (r : KeyRec) (s : State) : State :=
  let s1 := s.mKs fun q => { q with
    ledger := if r.limited then smInsert r.ledger.toNat { key := k, gen := r.gen, uses := 0, dirty := false } q.ledger
              else q.ledger,
    cells := if r.ivgen then smInsert r.cell.toNat { key := k, gen := r.gen, h := 0, exhausted := false, committed := 0 } q.cells else q.cells }
  startCellWrite k (installRec k r s1)

/-- The entry a state change or revocation writes, with its barrier and what a peal before it still sees (R189,
R190, R192). -/
def barrierEntry (s : State) (revoke : Bool) (r : KeyRec) : RsEntry :=
  { minGen := (r.gen + 1).setWidth 31, revoked := revoke, barrier := some s.gov.admissions,
    before_ := some (r.state, r.flags.getLsbD 5) }

/-- A state change or revocation takes its barrier: the record moves to its new state and generation, its ledger
entry follows, and the set entry is in force on the die (R177, R189, R191). -/
def takeBarrier (p : Option PealSlot) (k : Nat) (target : BitVec 3) (revoke : Bool) (s : State) : State :=
  match s.krec k with
  | none => s
  | some r =>
    let e := barrierEntry s revoke r
    let gen := r.gen + 1
    let s1 := s.mKs fun q => { q with
      rset := smInsert k e q.rset,
      ledger := match smFind r.ledger.toNat q.ledger with
        | some l => if r.limited && l.key == k then smInsert r.ledger.toNat { l with gen := gen } q.ledger else q.ledger
        | none => q.ledger,
      barriers := q.barriers ++ [{ slot := p, key := k, b := s.gov.admissions, revoke := revoke,
                                   destroyed := revoke || target == 4, drained := false }] }
    let s2 := s1.mRec k fun r =>
      { r with state := target, gen := gen, flags := if revoke then r.flags ||| 0x20 else r.flags }
    let s3 := match p with
      | some p => s2.mPeal p fun q => { q with barrier := some s.gov.admissions }
      | none => s2
    match p with
    | none => s3
    | some _ =>
      if s3.pair.partner.isNone then s3
      else
        let (f, s4) := xlSendAcked 0x04 (natLe 8 (e.word k).toNat) s3
        s4.mPair fun x => { x with revokeUnacked := x.revokeUnacked.filter (·.2 ≠ k) ++ [(f, k)] }

/-- Pin or unpin a resident key in tier 2 and in the clusters that hold it, at most 256 slots each (R170). -/
def pinKey (k : Nat) (on : Bool) (s : State) : State :=
  let one := fun (cl : Cluster) =>
    let room := (cl.cache.filter (·.pinned)).length < 256
    { cl with cache := cl.cache.map fun x => if x.key = k then { x with pinned := on && (x.pinned || room) } else x }
  (s.mRec k fun r => { r with pinned := on }).mClusters fun cs => cs.map one

/-! Tenants. -/

/-- Keys of a tenant in a map by key number. -/
def keepOthers {β : Type} (t : Fn) (m : SMap β) : SMap β := m.filter fun e => keyTenant e.1 ≠ t

/-- Install a KEK: current at generation 1 where the tenant has none, else pending at the next (R211). -/
def installKek (t : Fn) (alg : BitVec 8) (key : Bytes) (s : State) : State :=
  s.mTenant t fun x => match x.kek with
    | none => { x with kek := some { alg := alg, gen := 1, key := key },
                       state := if x.state = .creating then .active else x.state }
    | some c => { x with pendingKek := some { alg := alg, gen := c.gen + 1, key := key } }
/-- The check value of a KEK (R173). -/
def Kek.kcv (g : Kek) : BitVec 24 := keyKcv g.alg.toNat g.key []

/-- Empty a tenant's revocation set (R213, R214). -/
def emptyRset (t : Fn) (s : State) : State :=
  (s.mKs fun q => { q with rset := keepOthers t q.rset }).mNv fun n =>
    { n with slots := keepOthers t n.slots, array := n.array.filter (!inSet t n.array ·) }

/-- Destroy a tenant (R214): its instance starts afresh (R288). -/
def destroyTenant (t : Fn) (s : State) : State :=
  let s1 := (s.ks.recs.filter fun e => keyTenant e.1 == t).foldl (fun s e => dropRec e.1 s) s
  let s2 := (emptyRset t s1).mKs fun q =>
    { q with ledger := q.ledger.filter fun e => keyTenant e.2.key ≠ t,
             cells := q.cells.filter fun e => keyTenant e.2.key ≠ t }
  let s3 := s2.mNv fun n => { n with array := n.array.filter (!inOwn t n.array ·) }
  let s4 := (s3.mTabs t fun x => { x with peal := none, fmt := none, curve := none, gen := x.gen.map (· + 1) }).mTenant t
    fun x => { x with state := .absent, tskAlg := 0, tsk := [], tskGen := 0, kek := none, pendingKek := none,
                      storageGen := x.storageGen + 1 }
  reinstantiate t.toNat { s4 with sessions := s4.sessions.filter (·.tenant ≠ t) }

/-- Create a tenant (R208, R288). -/
def createTenant (t : Fn) (alg : BitVec 8) (tsk : Bytes) (s : State) : State :=
  reinstantiate t.toNat (s.mTenant t fun x => { x with state := .creating, tskAlg := alg, tsk := tsk, tskGen := 1 })

/-! Tables. -/

/-- A table replaces the one in force, as a new version (R99, R102). -/
def setTable (t : Fn) (version : BitVec 8) (body : TableBody) (s : State) : State :=
  s.mTabs t fun x => match body with
    | .peals l => { x with peal := some (version, l), gen := modAt 0 (· + 1) x.gen }
    | .fmts l => { x with fmt := some (version, l), gen := modAt 1 (· + 1) x.gen }
    | .curves l => { x with curve := some (version, l), gen := modAt 2 (· + 1) x.gen }
/-- Clear a tenant's table (R102). -/
def clearTable (t : Fn) (kind : BitVec 8) (s : State) : State :=
  s.mTabs t fun x =>
    if kind = 1 then { x with peal := none, gen := modAt 0 (· + 1) x.gen }
    else if kind = 2 then { x with fmt := none, gen := modAt 1 (· + 1) x.gen }
    else { x with curve := none, gen := modAt 2 (· + 1) x.gen }

/-! The Toll. -/

/-- A peal completes only after `n` more store writes. -/
def awaitStore (p : PealSlot) (n : Nat) (s : State) : State := s.mPeal p fun q => { q with storeWait := q.storeWait + n }
/-- The write of a Toll record begins, for a peal that waits for it or for none (R332, R345). -/
def tollWrite (p : Option PealSlot) (w : NvWork) (s : State) : State :=
  nvQueue 3 w (match p with | some p => awaitStore p 1 s | none => s)
/-- A peal waits for a write of the Toll state record (R332, R345). -/
def tollStateWrite (p : PealSlot) (s : State) : State := tollWrite (some p) (.tollState (some p)) s

/-- A seal log entry takes its place in the rotation and is written; `count` is the seal event counter after the event
(Table 12-1, R347). -/
def sealLogAdd (p : Option PealSlot) (kind : BitVec 8) (count : BitVec 32) (extra : Bytes) (s : State) : State :=
  let e : SealEntry :=
    { kind := kind, events := count, vtime := s.clk.vtime, sealId := s.toll.sealId, extra := fit 16 (extra.take 16) }
  tollWrite p (.sealEntry p s.toll.sealAt e) (s.mToll fun k => { k with sealAt := (k.sealAt + 1) % 48 })

/-- A seal event: the spread counter's increment, a log entry and the state record are written (R345, R347). -/
def sealEvent (p : PealSlot) (kind : BitVec 8) (extra : Bytes) (s : State) : State :=
  sealLogAdd (some p) kind (s.toll.sealEvents + 1) extra (tollWrite (some p) (.sealCount (some p)) (tollStateWrite p s))

/-- The next statement sequence once the used ones are passed over, and those left above it. -/
def nextStatement : Nat → Nat → List Nat → Nat × List Nat
  | 0, n, used => (n, used)
  | f + 1, n, used => if used.contains n then nextStatement f (n + 1) (used.filter (· ≠ n)) else (n, used)

/-- A statement's sequence becomes used as it is released (R144, R343). -/
def useStatement (n : Nat) (s : State) : State :=
  s.mToll fun k =>
    let (next, used) := nextStatement (k.stmtUsed.length + 1) k.stmtNext.toNat (n :: k.stmtUsed)
    { k with stmtNext := BitVec.ofNat 64 next, stmtUsed := used, gapFlag := false, gapsAtStatement := k.gaps,
             epochStated := true }

/-- A map event: MAP_EVENTS and MAP_CHAIN (R332). -/
def mapEvent (t : Fn) (digest : Bytes) (s : State) : State :=
  s.mToll fun k => { k with mapEvents := k.mapEvents + 1, mapChain := sha384 (k.mapChain ++ [t] ++ digest) }

/-! Modes and roles. -/

/-- Enter or leave Maintenance (R27, Table 1-7). -/
def setMaintenance (enter : Bool) (s : State) : State :=
  if enter then
    if s.mode = .ready || s.mode = .serve || s.mode = .surge then (withdrawSurge s).enter .maintenance else s
  else if s.mode = .maintenance then s.enter .ready else s

/-- The role map is changed and written to the persistent store (R388). -/
def storeRoles (f : BitVec 256 → BitVec 256) (s : State) : State :=
  nvQueue 5 (.roleMap s.pair.stored) (s.mPair fun x => { x with roles := f x.roles, stored := f x.stored })

/-- This device takes the active role of tenants (R388 to R391, R397). -/
def gainRoles (map : BitVec 256) (s : State) : State :=
  storeRoles (· ||| map) s

/-- This device loses the active role of tenants: descriptors that wait are flushed, as are those not fetched yet once they
are, admitted peals that have not
begun their commit are aborted (Table 2-9). -/
def loseRoles (map : BitVec 256) (s : State) : State :=
  let hit (f : Fn) : Bool := f ≠ 0 && map.getLsbD f.toNat
  let keep := ~~~map ||| 1
  let s1 := storeRoles (· &&& keep) s
  let late := fun (k : Nat) (q : SubRing) =>
    if q.state = .enabled && (match sqOwner s (BitVec.ofNat 16 k) with | some f => hit f | none => false) then
      { q with roleLost := q.unfetched }
    else q
  let s2 := (s.fe.waiting.filter fun w => hit w.fn).foldl (fun s w => refuseWaiting w (St.flushed, 2) s)
    (s1.mFe fun e => { e with sqs := smMap SubRing.init late e.sqs })
  (s.peals.filter fun e => hit e.2.fn).foldl (fun s e => abortPeal .failOver (BitVec.ofNat 12 e.1) s) s2

/-- The partner is no longer in service: every wait is released, what it has not acknowledged goes out when it
returns, its session ends, and dual-run peals without its result end (R393, R395, R400). -/
def partnerGone (s : State) : State :=
  let s1 := s.mPair fun x => { x with
    inService := false, resync := false, rxDone := false, transferring := none, unacked := [],
    revokeUnacked := x.revokeUnacked.map fun r => (0, r.2), hwmPending := x.hwmPending.map fun r => (0, r.2),
    link := if x.link = .up then .authenticating else x.link, handshakeAt := none, txKey := [], rxKey := [] }
  (s1.peals.filter fun e => e.2.dualPending && e.2.dualResult.isNone).foldl (fun s e =>
    let p := BitVec.ofNat 12 e.1
    if e.2.phase = .failed then s.mPeal p fun q =>
      { q with status := St.policyDenied, sub := 3, failStep := none, abort := some .dualLost }
    else abortPeal .dualLost p s) s1

/-- A partner is registered or removed: the primary, or a device without a partner, holds every role, and the link
is handshaken again (R388, R390). -/
def registerPartner (serial : Bytes) (s : State) : State :=
  let none_ := serial.all (· == 0)
  let s1 := if none_ || !s.pair.secondary then gainRoles (BitVec.allOnes 256) s
            else if s.pair.partner.isNone then loseRoles (BitVec.allOnes 256) s else s
  (partnerGone s1).mPair fun x => { x with
    partner := if none_ then none else some serial, handshakeAt := none,
    unacked := [], revokeUnacked := if none_ then [] else x.revokeUnacked,
    hwmPending := if none_ then [] else x.hwmPending }

/-! Effects. -/

/-- The effect of an admin peal at its commit point. A drop takes a pinned record too: the model's choice
(notes/assumptions/200.md). -/
def applyEffect (p : PealSlot) (e : Effect) (s : State) : State :=
  match e with
  | .none => s
  | .maintenance b => setMaintenance b s
  | .newKey k r => createKey k r s
  | .changeState k target => takeBarrier (some p) k target false s
  | .revoke k => takeBarrier (some p) k 4 true s
  | .pin k on => pinKey k on s
  | .drop k => dropRec k s
  | .allowances t a => s.mKs fun q => { q with allowances := smSet Allowance.init t.toNat a q.allowances }
  | .keyPolicy t l => s.mKs fun q => { q with policies := smInsert t.toNat l q.policies }
  | .createTenant t alg tsk => createTenant t alg tsk s
  | .openSession x => { s with sessions := s.sessions ++ [x] }
  | .enterComponent id i key =>
    let (m, s1) := freshBytes key.length s
    let add := fun (x : Session) => if x.id = id then { x with parts := x.parts ++ [(i, Shares.of key m)] } else x
    { s1 with sessions := s1.sessions.map add }
  | .installKek t alg key ses =>
    let s1 := installKek t alg key s
    match ses with
    | some id => { s1 with sessions := s1.sessions.filter (·.id ≠ id) }
    | none => s1
  | .rotateTsk t gen alg key => s.mTenant t fun x => { x with tskAlg := alg, tsk := key, tskGen := gen }
  | .finishRotation t _ => emptyRset t (s.mTenant t fun x => { x with kek := x.pendingKek, pendingKek := none })
  | .abandonKek t => s.mTenant t fun x => { x with pendingKek := none }
  | .destroyTenant t => destroyTenant t s
  | .registerPartner b => registerPartner b s
  | .replicationMode b => s.mPair fun x => { x with syncNext := some (b, x.txSeq + 1) }
  | .transferRoles map =>
    let mine := map &&& s.pair.roles
    xlSend 0x05 (natLe 32 mine.toNat ++ [0]) ((loseRoles mine s).mPair fun x => { x with transferring := some mine })
  | .takeRoles map => gainRoles map s
  | .loadTable t v _ _ body => setTable t v body s
  | .loadCosts _ _ image body =>
    s.mGov fun g => { g with costs := body, costImage := some image }
  | .clearTable t kind => clearTable t kind s
  | .userWrite _ _ => s
  | .userWindow t page count => s.mNv fun n => { n with windows := windowSet t page count n.windows }
  | .algPolicy t b => s.mTenant t fun x => { x with algPolicy := some b }
  | .permissionMap t m => s.mTenant t fun x => { x with permission := m }
  | .tollMap t m digest => tollStateWrite p (mapEvent t digest (s.mTenant t fun x => { x with tollMap := m }))
  | .emptyCarried => s.mClap fun c => { c with carried := [], carriedSource := 0, carriedComplete := false }
  | .tollSeal id => sealEvent p 1 [] (s.mToll fun k => { k with sealed_ := true, sealId := id })
  | .tollUnseal forced =>
    sealEvent p (if forced then 3 else 2) [] (s.mToll fun k => { k with sealed_ := false, sealId := zeros 32 })
  | .tollAuthority key => sealEvent p 4 (sha384 key) (s.mToll fun k => { k with authority := some key })
  | .tollImage image v =>
    let s1 := s.mToll fun k => { k with image := image, imageVersion := v }
    sealEvent p 5 (tollDigest s1) ((List.range ((image.length + 4095) / 4096)).foldl (fun s i =>
      tollWrite (some p) (.tollImage (some p) i) s) s1)
  | .tollMode m =>
    journalJudge (sealLogAdd (some p) 6 s.toll.sealEvents [] (tollStateWrite p (s.mToll fun k => { k with mode := m })))
  | .tollStatement n => useStatement n s

end Sys2Proof.Machine
end

