-- ==== Sys2Proof/Machine/Unstored.lean ====
section
/-! DEFINITION. Writes that found no spare: what they changed is in force until the next device reset, which restores what
the store holds (R370). -/
namespace Sys2Proof.Machine

/-! Branch keys and what is sealed under them, R196, R198, R201, R206. -/

/-- Key, label, context and length in bits of a derivation branch (Table 7-1); the secret's low half is KDK-A, its high half
KDK-B (R196). -/
def Branch.input (s : State) (secret : Bytes) (b : Branch) : Bytes × Bytes × Bytes × Nat :=
  let fuse := s.fuses.fuseKey.getD []
  let serial := fit 16 s.fuses.serial
  let root := serial ++ [BitVec.ofNat 8 s.fuses.epoch]
  let kdkA := secret.drop 32
  let kdkB := secret.take 32
  match b with
  | .ident => (fuse, ztLabel [0x49, 0x44, 0x45, 0x4E, 0x54], serial, 448)
  | .rootSeal => (fuse, ztLabel [0x52, 0x4F, 0x4F, 0x54, 0x53, 0x45, 0x41, 0x4C], root, 256)
  | .mem => (kdkA, ztLabel [0x4D, 0x45, 0x4D], root ++ natBe 4 s.ks.boot.toNat, 512)
  | .xeol => (kdkA, ztLabel [0x58, 0x45, 0x4F, 0x4C], root, 448)
  | .tsk t => (kdkA, ztLabel [0x54, 0x53, 0x4B], serial ++ [t] ++ natBe 4 (s.tenant t).storageGen.toNat, 256)
  | .toll => (kdkB, ztLabel [0x54, 0x4F, 0x4C, 0x4C], root, 448)
  | .attest => (kdkB, ztLabel [0x41, 0x54, 0x54, 0x45, 0x53, 0x54], root, 448)

/-- The output of a derivation branch (R201). -/
def branchKey (s : State) (secret : Bytes) (b : Branch) : Bytes :=
  let x := b.input s secret
  kdf x.1 x.2.1 x.2.2.1 x.2.2.2

/-- The P-384 private key of a branch of 448 bits (R202). -/
def branchScalar (s : State) (secret : Bytes) (b : Branch) : Bytes := natBe 48 (scalarFrom p384.n (branchKey s secret b))

/-- The sealed root record's body: the secret under AES-256-GCM, IV of zeros (R198). -/
def sealRoot (s : State) (secret : Bytes) : Bytes := aeadEnc false 16 (branchKey s [] .rootSeal) (zeros 12) [] secret
/-- The secret a record's body holds. -/
def openRoot (s : State) (body : Bytes) : Bytes := (aeadDec false 16 (branchKey s [] .rootSeal) (zeros 12) [] body).1

/-- A tenant record as it is sealed under its TSK key: IV, ciphertext and tag (R201, R206). -/
def sealTenant (s : State) (t : Fn) : Bytes :=
  let secret := (s.root.vault.map (·.secret.value)).getD []
  let iv := natBe 12 (Config.tenantIv t.toNat s.clk.vtime.toNat).toNat
  iv ++ zeros 4 ++ aeadEnc false 16 (branchKey s secret (.tsk t)) iv [] (tenantFields (s.tenant t))
/-- A sealed tenant record opens (R201, R206). -/
def tenantOpens (s : State) (t : Fn) (body : Bytes) : Bool :=
  let secret := (s.root.vault.map (·.secret.value)).getD []
  (aeadDec false 16 (branchKey s secret (.tsk t)) (body.take 12) [] (body.drop 16)).2

/-- The copy of a record that its write goes to takes its body (R365); where the write found no spare, until the next device
reset (R370). -/
def placeRecord (lost : Bool) (r : TwoAt) (aux : BitVec 32) (body : Bytes) (s : State) : State :=
  let x := r.next s.nv.array
  let bs := r.bytes { seq := x.2, aux := aux, body := body }
  s.mNv fun n => if lost then n.lose x.1 bs else n.put x.1 bs


/-- The record of an `Unstored`: its kind, and which of its kind. -/
def Unstored.record : Unstored → Nat × Nat
  | .tenant t _ _ _ => (0, t.toNat)
  | .algPolicy t _ => (1, t.toNat)
  | .permission t _ => (2, t.toNat)
  | .tollMap t _ => (3, t.toNat)
  | .allowance t _ => (4, t.toNat)
  | .keyPolicy t _ => (5, t.toNat)
  | .partner _ => (9, 0)
  | .sync _ => (10, 0)
  | .roles _ => (11, 0)
  | .retirement e => (12, e)
  | .lifeCycle e => (13, e.seq.toNat)
  | .tamperLog _ => (14, 0)
  | .lockRecord _ => (15, 0)
  | .response _ _ => (16, 0)
  | .recoveryKey _ => (17, 0)

/-- What the store still holds of a record whose write found no spare. -/
def State.noteLost (u : Unstored) (s : State) : State := s.mNv fun n => { n with unstored := n.unstored ++ [u] }
/-- The record has been written whole: the store holds what is in force. -/
def State.noteWritten (u : Unstored) (s : State) : State :=
  s.mNv fun n => { n with unstored := n.unstored.filter (·.record ≠ u.record) }

/-- What the store keeps for a tenant. -/
def tenantStore (t : Fn) (s : State) : TenantStore :=
  { bytes := s.nv.array.filter fun c => inSet t s.nv.array c || inOwn t s.nv.array c
    ledger := s.ks.ledger.filter fun e => keyTenant e.2.key == t
    cells := s.ks.cells.filter fun e => keyTenant e.2.key == t }

/-- The records that each of an effect's Steward writes holds, as the store holds them before it, by the write's index; the
words of the user region, of the windows and of the high-water pairs are kept apart (R18, R370, R388, R390). -/
def storedBefore (s : State) (e : Effect) : List (Nat × Unstored) :=
  let tenant (t : Fn) (destroyed : Bool) : List (Nat × Unstored) :=
    [(0, .tenant t (s.tenant t) (tenantStore t s) destroyed)]
  match e with
  | .allowances t _ => [(0, .allowance t (smGet Allowance.init s.ks.allowances t.toNat))]
  | .keyPolicy t _ => [(0, .keyPolicy t (smFind t.toNat s.ks.policies))]
  | .createTenant t _ _ => tenant t false
  | .installKek t _ _ _ => tenant t false
  | .rotateTsk t _ _ _ => tenant t false
  | .finishRotation t _ => tenant t false
  | .abandonKek t => tenant t false
  | .destroyTenant t => tenant t true
  | .algPolicy t _ => [(0, .algPolicy t (s.tenant t).algPolicy)]
  | .permissionMap t _ => [(0, .permission t (s.tenant t).permission)]
  | .tollMap t _ _ => [(0, .tollMap t (s.tenant t).tollMap)]
  | .registerPartner _ => [(0, .partner s.pair.partner)]
  | .replicationMode _ => [(0, .sync s.pair.sync)]
  | .transferRoles _ => [(0, .roles s.pair.stored)]
  | .takeRoles _ => [(0, .roles s.pair.stored)]
  | _ => []

/-- A commit's records are written, but for those whose write found no spare (R370). -/
def noteStored (lost : List Nat) (l : List (Nat × Unstored)) (s : State) : State :=
  l.foldl (fun s e => if lost.contains e.1 then s.noteLost e.2 else s.noteWritten e.2) s

/-! The next device reset. -/

/-- List the entries of `old` in `m`. -/
def smJoin {β : Type} (old m : SMap β) : SMap β := old.foldl (fun m e => smInsert e.1 e.2 m) m

/-- A tenant's record reads as the store holds it; where the tenant was destroyed, so does all that the store keeps for it;
a set that was emptied holds its entries again, older than those written since. -/
def restoreTenant (t : Fn) (old : Tenant) (kept : TenantStore) (destroyed : Bool) (s : State) : State :=
  let s1 := s.mTenant t fun x => { x with
    state := old.state, tskAlg := old.tskAlg, tsk := old.tsk, tskGen := old.tskGen, kek := old.kek,
    pendingKek := old.pendingKek, storageGen := old.storageGen }
  let s2 := s1.mNv fun n => { n with
    array := kept.bytes.foldl (fun m c => if smGet 0 m c.1 = 0 then smSet 0 c.1 c.2 m else m) n.array }
  if destroyed then
    s2.mKs fun q => { q with
        ledger := smJoin kept.ledger (q.ledger.filter fun e => keyTenant e.2.key ≠ t),
        cells := smJoin kept.cells (q.cells.filter fun e => keyTenant e.2.key ≠ t) }
  else s2

/-- A record reads as the store holds it. -/
def Unstored.restore (s : State) : Unstored → State
  | .tenant t old kept destroyed => restoreTenant t old kept destroyed s
  | .algPolicy t old => s.mTenant t fun x => { x with algPolicy := old }
  | .permission t old => s.mTenant t fun x => { x with permission := old }
  | .tollMap t old => s.mTenant t fun x => { x with tollMap := old }
  | .allowance t old => s.mKs fun q => { q with allowances := smSet Allowance.init t.toNat old q.allowances }
  | .keyPolicy t old => s.mKs fun q => { q with policies := match old with
      | some l => smInsert t.toNat l q.policies
      | none => smErase t.toNat q.policies }
  | .partner old => s.mPair fun x => { x with partner := old }
  | .sync old => s.mPair fun x => { x with sync := old }
  | .roles old => s.mPair fun x => { x with stored := old }
  | .retirement e => s.mHealth fun h => { h with lifetime := smMod 0 e (· - 1) h.lifetime }
  | .lifeCycle e => s.mLc fun l => { l with journal := l.journal.filter (· ≠ e) }
  | .tamperLog l => s.mTmp fun t =>
      { t with log := t.log.filter fun e => !l.any fun x => x.sensor == e.sensor && x.vtime == e.vtime,
               logTotal := t.logTotal - BitVec.ofNat 32 l.length }
  | .lockRecord rose => (s.mTmp fun t => { t with lockRecord := false }).mLc fun l =>
      { l with lcSeq := if rose then l.lcSeq - 1 else l.lcSeq }
  | .response table polarity => s.mTmp fun t => { t with response := table, polarity := polarity }
  | .recoveryKey old => s.mLc fun l => { l with recoveryKey := old }

/-- A device reset loses every change whose write found no spare, the last one first (R370; notes/assumptions/175.md,
DEDUCED). -/
def restoreUnstored (s : State) : State :=
  (s.nv.unstored.foldr (fun u s => u.restore s) s).mNv fun n => { n with unstored := [] }

end Sys2Proof.Machine
end

