-- ==== Sys2Proof/Machine/Commit.lean ====
section
/-! DEFINITION. The Clapper: commit points, release, completions, the commit journal and journal-mode groups (R18,
R49, R53, R60, R65, R78, R81 to R92, R129 to R136, R146 to R155). -/
namespace Sys2Proof.Machine

/-! The commit point, R130, Table 5-1. -/

/-- Use ledger entries a peal's commit charges (R178). -/
def ledgerCharges (s : State) (q : Peal) : List Nat :=
  (q.keys.filterMap fun b =>
    if b.reserved then
      match s.krec b.key with
      | some r => if r.limited then some r.ledger.toNat else none
      | none => none
    else none).eraseDups

/-- Counters and ledger entries a commit would newly make dirty (R335). -/
def newDirty (s : State) (q : Peal) : Nat :=
  (if q.toll.toNat < 16 && !s.toll.dirty.contains (tollIndex q.fn q.toll) then 1 else 0) +
    ((ledgerCharges s q).filter fun i => match smFind i s.ks.ledger with | some e => !e.dirty | none => false).length

/-- Charge every use reserved and use every counter value reserved (Table 5-1). One handle bound in two slots is two bound
keys here, each with its use: the model's choice, R107 counting uses by bound key (notes/assumptions/142.md). -/
def chargeAll (q : Peal) (s : State) : State :=
  let s1 := q.keys.foldl (fun s b => if b.reserved then chargeUse b.key s else s) s
  q.steps.foldl (fun s r => match r.reserved with | some (k, v) => commitCounter k v s | none => s) s1

/-- Put an entry whose sequence was taken earlier into its place in the journal bank (R148). -/
def journalInsert (e : JEntry) (s : State) : State :=
  s.mClap fun c =>
    let l := c.journal.filter (·.seq.toNat < e.seq.toNat) ++ [e] ++ c.journal.filter (e.seq.toNat < ·.seq.toNat)
    { c with journal := lastN 65536 l }

/-- The peal has taken its commit point. -/
def Peal.atCommit (now : Nat) (seq : Option Nat) (q : Peal) : Peal :=
  { q with phase := .committed, committedAt := now, journalSeq := seq, tollWait := false,
           keys := q.keys.map fun b => { b with reserved := false },
           steps := q.steps.map fun r => { r with reserved := none } }

/-- A committed peal's completion is suppressed: its journal entry says so and goes to the recovery list (R63, R65). -/
def noteSuppressed (p : PealSlot) (s : State) : State :=
  match (s.peal p).bind fun q => q.journalSeq.map fun n => (q.fn, n) with
  | none => s
  | some (fn, n) =>
    match journalAt s n with
    | some j => recoveryAdd fn j.recEntry (setJournalFlag n 0x02 s)
    | none => s

/-- The completion ring of a peal is in ERROR (R65). -/
def cqBroken (s : State) (r : SqNo) : Bool :=
  match boundCq s r with | some c => (s.cq c).state == .error | none => false

/-- The entry of its completion ring reserved for a peal returns (R50). -/
def unreserve (q : Peal) (c : CqNo) (s : State) : State :=
  if q.cplHeld then s.mCq c fun x => { x with reserved := x.reserved - 1 } else s

/-- Suppress the completion of a committed peal whose completion ring is in ERROR: its credit and its reserved entry
return (R53, R65). -/
def suppressBroken (p : PealSlot) (s : State) : State :=
  match s.peal p with
  | none => s
  | some q =>
    if q.suppressed || !cqBroken s q.ring then s
    else
      let s1 := noteSuppressed p (s.mPeal p fun q => { q with suppressed := true, cplHeld := false })
      let s2 := match boundCq s q.ring with
        | some c => unreserve q c s1
        | none => s1
      returnCredit true q.ring s2

/-- The tenant whose record, or whose open session, an effect changes. -/
def effectTenant (s : State) (e : Effect) : Option Fn :=
  match e with
  | .createTenant t _ _ => some t
  | .openSession x => some x.tenant
  | .enterComponent id _ _ => (s.sessions.find? (·.id == id)).map (·.tenant)
  | .installKek t _ _ _ => some t
  | .rotateTsk t _ _ _ => some t
  | .finishRotation t _ => some t
  | .abandonKek t => some t
  | .destroyTenant t => some t
  | _ => none

/-- A tenant record takes its place in the store with the commit that its write is (R18, R206). -/
def storeTenant (lost : List Nat) (e : Effect) (s : State) : State :=
  match e with
  | .openSession _ => s
  | .enterComponent _ _ _ => s
  | _ => match effectTenant s e with
    | some t => placeRecord (lost.contains 0) (tenantAt t) 0 (sealTenant s t) s
    | none => s

/-- A commit that journal mode takes singly goes into the next group record (R18, R155; notes/assumptions/49.md). -/
def noteLate (e : JEntry) (s : State) : State :=
  if s.toll.journal then
    s.mClap fun c => { c with late := c.late ++ [.group e],
                              groupSince := if c.group.isEmpty && c.late.isEmpty then s.clk.now else c.groupSince }
  else s

/-- The commit point of a peal: journal entry, Toll increment, charges, counter advances, its operation's effect, and
replication, in one transaction; a read-only peal only decides release (R130, R132, R392). `seq` is the sequence a
group record has given the peal. -/
def commitPeal (p : PealSlot) (seq : Option Nat) (s : State) : State :=
  match s.peal p with
  | none => s
  | some q =>
    if q.readOnly then applyEffect p q.effect ((returnHolds q s).mPeal p (Peal.atCommit s.clk.now none))
    else
      let n := match seq with | some n => n | none => (nextSeq s).toNat
      let e := q.journalEntry s (BitVec.ofNat 64 n)
      let s1 := match seq with | some _ => journalInsert e s | none => noteLate e (writeJournal (q.journalEntry s) s)
      let s2 := chargeAll q (tollIncrement q.fn q.toll (s1.mToll fun k => { k with lastOwn := BitVec.ofNat 64 n }))
      let s3 := replicate e (chargedEntries q s2) (s2.mPeal p (Peal.atCommit s.clk.now (some n)))
      let s4 := storeTenant q.lostWrites q.effect (noteStored q.lostWrites (storedBefore s3 q.effect) (applyEffect p q.effect s3))
      let s5 := if q.suppressed && q.abort = some .flr then noteSuppressed p s4 else suppressBroken p s4
      deltaIfDue s5

/-- Store writes of a Steward-held record that a peal's commit point waits for (R18, R102, R373). -/
def stewardWrites (s : State) (q : Peal) : Nat :=
  match q.effect with
  | .loadTable t _ seq _ body => if pairBehind s (pairNo t body.kind) seq then 1 else 0
  | .loadCosts seq _ _ _ => if pairBehind s 768 seq then 1 else 0
  | .clearTable _ _ => 1
  | .userWrite _ _ => 1
  | .userWindow t page count => 1 + (pageRuns (newPages s t page.toNat count.toNat)).length
  | _ =>
    if [0xDD, 0xDE, 0xE2, 0xE3, 0xE4, 0xE5, 0xE6, 0xE7, 0xE9, 0xEA, 0xEB, 0xEC, 0xEF, 0xF5, 0xF6, 0xF7].contains
        q.entry.id.toNat then 1 else 0

/-- A session is open: 600 s of vault time have not passed (R209). -/
def Session.live (now : Nat) (x : Session) : Bool := now < x.opened + 32768 * 600

/-- The record of the tenant an effect changes is being written for another peal, which goes first. -/
def recordBusy (s : State) (p : PealSlot) (e : Effect) : Bool :=
  match effectTenant s e with
  | none => false
  | some t => s.peals.any fun x => x.1 ≠ p.toNat && x.2.phase == .writing && effectTenant s x.2.effect == some t

/-- A tenant may be created: it is ABSENT, or T0 CREATING without a table-signing key (R208). -/
def mayCreate (s : State) (t : Fn) : Bool :=
  if t = 0 then (s.tenant t).state == .creating && (s.tenant t).tsk.isEmpty else (s.tenant t).state == .absent

/-- What an effect needs no longer holds as its commit begins: its session has ended, or has its index already; a KEK is
pending meanwhile, or none is; the tenant or its table-signing generation has changed. The peal then fails (R208 to R214,
R219). -/
def effectLapse (s : State) (e : Effect) : Option Stat :=
  let find (id : Nat) := s.sessions.find? fun x => x.id == id && x.live s.clk.vtime.toNat
  let need (ok : Bool) : Option Stat := if ok then none else some (St.policyDenied, 2)
  match e with
  | .enterComponent id i _ =>
    match find id with
    | none => some (St.policyDenied, 2)
    | some x => if x.parts.any (·.1 == i) then some (St.inputInvalid, 7) else none
  | .installKek t _ _ ses =>
    need ((match ses with | some id => (find id).isSome | none => true) && (s.tenant t).pendingKek.isNone)
  | .createTenant t _ _ => need (mayCreate s t)
  | .rotateTsk t gen _ _ =>
    need ((s.tenant t).state ≠ .absent && !(s.tenant t).tsk.isEmpty && gen == (s.tenant t).tskGen + 1)
  | .finishRotation t kcv =>
    match (s.tenant t).pendingKek with
    | none => some (St.policyDenied, 2)
    | some g => if g.kcv = kcv then none else some (St.guardFailed, 3)
  | .destroyTenant t => need ((s.tenant t).state ≠ .absent)
  | _ => none

/-- A drop waits until no other peal in flight binds the key (R184). -/
def dropWaits (s : State) (p : PealSlot) (e : Effect) : Bool :=
  match e with
  | .drop k => s.peals.any (fun x => x.1 ≠ p.toNat && x.2.keys.any (·.key == k)) || s.ks.fetches.any (·.key == k)
  | _ => false

/-- A peal is sealed and waits for nothing of its own: not for the partner's result, nor for another user of the key it
drops, nor for another peal's write of the same tenant's record (R129, R184, R206, R400). -/
def sealedReady (s : State) (p : PealSlot) : Bool :=
  match s.peal p with
  | some q => q.phase == .running && q.sealedAt.isSome && q.abort.isNone && q.dualMatched && !dropWaits s p q.effect &&
    !recordBusy s p q.effect
  | none => false

/-- Peals in flight stand still while the thermal level is trip (R317). -/
def tripped (s : State) : Bool := s.gov.thermal == 3

/-- Commits are open: the Toll has written its state record and base copies, and no new journal epoch waits for its write; a
read-only peal needs neither (R132, R147, R339, R367). Peals do not stand still (R317). -/
def commitOpen (s : State) (p : PealSlot) : Bool :=
  !tripped s && (match s.peal p with
    | some q => q.readOnly || (s.toll.regionUsed && !nvHas .epoch s)
    | none => false)

/-- A sealed peal may take, or begin, its commit: of those that waited while commit points were stopped, the first admitted
(R129, R135, R154). -/
def commitReady (s : State) (p : PealSlot) : Bool :=
  sealedReady s p && commitOpen s p && !s.clap.stopped && s.mode.working && committedWaiting s < 255 &&
    (!s.clap.resume.contains p || s.clap.resume.find? (sealedReady s) == some p)

/-- The peal leaves the queue of those that waited (R154). -/
def leaveResume (p : PealSlot) (s : State) : State :=
  s.mClap fun c => { c with resume := c.resume.filter (· ≠ p) }

/-- The use ledger entries of which a group's record holds a word: those its peals charge, and those dirty already (R155,
R178). -/
def groupIndices (s : State) (g : List PealSlot) : List Nat :=
  ((g.flatMap fun p => match s.peal p with | some q => ledgerCharges s q | none => []) ++
    (s.ks.ledger.filter (·.2.dirty)).map (·.1)).eraseDups

/-- Entry words of a journal-mode group's record (R155). -/
def groupWords (s : State) (g : List PealSlot) : Nat := g.length + s.clap.late.length + (groupIndices s g).length

/-- Begin the write of a Steward-held record (R18): `n` store commands of class 5. -/
def beginRecord (p : PealSlot) (n : Nat) (s : State) : State :=
  (List.range n).foldl (fun s i => nvQueue 5 (.stewardRecord p i) s)
    (s.mPeal p fun q => { q with phase := .writing, storeWait := n, lostWrites := [] })

/-- A peal holds at the Toll's dirty limit, until the record being written completes (R335). -/
def holdDirty (p : PealSlot) (q : Peal) (s : State) : State :=
  if q.tollWait then s
  else startDelta false false (raiseDev .tollDirtyWait (s.mPeal p fun q => { q with tollWait := true }))

/-- COMMIT_POINT: a sealed peal takes its commit point, begins the write of its Steward-held record, joins the open group
of journal mode, or holds at the Toll's dirty limit (R130, R135, R155, R335). A group's 2 ms count from the cycle in which
the first peal joins it: the model's choice (notes/assumptions/197.md). -/
def execCommitPoint (slot : PealSlot) (s : State) : Res :=
  .next (match s.peal slot with
  | none => s
  | some q =>
    if !commitReady s slot then s
    else match effectLapse s q.effect with
    | some st => failPeal slot st none s
    | none =>
      let s1 := leaveResume slot s
      if q.readOnly then commitPeal slot none s1
      else if 0 < stewardWrites s q then
        if s.boot.stewardUp then beginRecord slot (stewardWrites s q) s1 else s
      else if s.toll.journal then
        if s.toll.journalNext.isSome then s
        else if 255 < groupWords s (s.clap.group ++ [slot]) then s.mClap fun c => { c with groupFull := true }
        else (s1.mClap fun c => { c with group := c.group ++ [slot],
                                         groupSince := if c.group.isEmpty && c.late.isEmpty then s.clk.now else c.groupSince }).mPeal slot
          fun q => { q with phase := .grouped }
      else if 255 < dirtyCount s + newDirty s q then holdDirty slot q s
      else commitPeal slot none s1)

/-! Journal-mode groups, R155, R338. -/

/-- The compact entries and ledger words of a group whose peals take sequences from `seq` on. -/
def groupEntries (s : State) (g : List PealSlot) (seq : BitVec 64) : List LogWord :=
  (List.range g.length).filterMap fun i =>
    match (g[i]?).bind s.peal with
    | some q => some (.group (q.journalEntry s (seq + BitVec.ofNat 64 i)))
    | none => none

/-- The uses a group adds to a ledger entry. -/
def groupUses (s : State) (g : List PealSlot) (idx : Nat) : Nat :=
  (g.map fun p => match s.peal p with
    | some q => (q.keys.filter fun b => b.reserved && (match s.krec b.key with
        | some r => r.limited && r.ledger.toNat == idx
        | none => false)).length
    | none => 0).sum

/-- The ledger words of a group, each with its count after the group (R178, R338). -/
def groupLedger (s : State) (g : List PealSlot) : List LogWord :=
  (groupIndices s g).filterMap fun i =>
    match smFind i s.ks.ledger with
    | some e => some (ledgerWord i { e with uses := e.uses + BitVec.ofNat 32 (groupUses s g i) })
    | none => none

/-- The entry words of a group's record: commits taken singly before it, its peals in commit order with sequences from `seq`
on, and the ledger words (R155, R338). -/
def groupRecord (s : State) (late : Nat) (g : List PealSlot) (seq : BitVec 64) : List LogWord :=
  s.clap.late.take late ++ groupEntries s g seq ++ groupLedger s g

/-- Take `n` journal sequences, so that their epoch does not change among them: where the group would reach 2^32 the epoch
advances before it, the last numbers of the old one staying unused (R147 states it for one entry only; the model's choice,
notes/assumptions/138.md). -/
def takeSeqs (n : Nat) (s : State) : BitVec 64 × State :=
  let wrap := 2 ^ 32 ≤ s.clap.count.toNat + n
  let s1 := if wrap then nvQueue 2 .epoch (s.mClap fun c => { c with epoch := c.epoch + 1, count := 0 }) else s
  (nextSeq s1, s1.mClap fun c => { c with count := c.count + BitVec.ofNat 32 n })

/-- The write of the open group's record is queued; from its start every peal of it has begun its commit. The sequences its
words show now are those its peals will take unless others come first (R155, notes/assumptions/138.md). -/
def closeGroup (s : State) : State :=
  let g := s.clap.group
  let late := min s.clap.late.length (255 - g.length - (groupIndices s g).length)
  let words := groupRecord s late g (nextSeq s)
  let r : LogRec := { group := true, final := false, jm := true, seq := s.toll.logSeq + 1, words := words, valid := true,
                      page := logPlace s.toll words.length }
  let s1 := g.foldl (fun s p => s.mPeal p fun q => { q with phase := .writing }) s
  nvQueue 2 (.groupRec r) ((s1.mClap fun c => { c with
    group := [], groupFull := false, writing := g, groupDone := false, lateIn := late }).mToll fun k =>
      { k with writing := some r, logSeq := r.seq })

/-- JOURNAL_GROUP_CLOSE: the open group closes after 2 ms, when its record would hold more than 255 entry words with the
next sealed peal, or when journal mode ends; it waits while its commits would pass the 255 that may await completion
(R135, R155, R338). -/
def execJournalGroupClose (s : State) : Res :=
  .next (if (s.clap.group.isEmpty && s.clap.late.isEmpty && !s.clap.groupFull) || s.toll.writing.isSome || s.pwr.pfwarn ||
      255 < committedWaiting s + s.clap.group.length then s
  else if s.clap.groupSince + ms 2 ≤ s.clk.now || s.clap.groupFull || s.toll.journalNext = some false then
    closeGroup s
  else s)

/-- A peal has begun its commit and not taken it. -/
def anyBegun (s : State) : Bool := s.peals.any (·.2.phase == .writing)

/-- In a zeroising Lockdown the counter bank is cleared once no commit is begun, no record is being written and none is owed
(R340). -/
def tollClear (s : State) : State :=
  if s.mode = .lockdown && s.tmp.zeroised && !s.toll.bankValid && s.toll.writing.isNone && !anyBegun s then
    if s.toll.finalOwed || !s.toll.dirty.isEmpty then startDelta true true (s.mToll fun k => { k with finalOwed := false })
    else s.mToll fun k => { k with counters := [] }
  else s

/-! Completions, R49, R53, R81, Table 5-2. -/

/-- Serve becomes Ready once every cluster is gated and no peal is in flight (Table 1-7). -/
def serveToReady (s : State) : State :=
  let awake := s.clusters.any fun c => c.enabled && c.inService && (c.state == .active || c.waking.isSome)
  if s.mode = .serve && s.peals.isEmpty && !awake && govFree s then s.enter .ready else s

/-- At a new Metronome period the transitions between Ready and Serve that the last one held back are taken (R24). -/
def modeSettle (s : State) : State :=
  let awake := s.peals.any fun e => (s.cluster e.2.cluster).state == .active || (s.cluster e.2.cluster).waking.isSome
  if s.mode = .ready && awake && govFree s then s.enter .serve else serveToReady s

/-- A committed peal may write its outputs and its completion: its store writes, its drain and its replication are
done (R78, R131, R191, R393). -/
def mayRelease (s : State) (q : Peal) : Bool :=
  q.storeWait == 0 && (q.barrier.isNone || q.drained) &&
    (!s.pair.inService || ((!s.pair.sync || q.journalSeq.isNone || q.replicated) &&
      (q.barrier.isNone || !s.pair.revokeUnacked.any fun x => q.keys.any (·.key == x.2))))

/-- The completion of a peal under its SRI version. -/
def Peal.cpl (q : Peal) : Cpl := (if q.phase = .committed then q.doneCpl else q.failCpl).under q.sri

/-- Free a peal's entry with what it holds, and settle its energy: reservation less spend, in tenths of a microjoule
(R133, R298, R308). -/
def freePeal (p : PealSlot) (q : Peal) (spend : Nat) (s : State) : State :=
  let s1 := (dropOuts p.toNat (freeHold q { s with peals := smErase p.toNat s.peals })).mGov fun g =>
    { g with settle := g.settle + 10 * (q.tokens : Int) - (spend : Int) }
  noteCauses (serveToReady (drainReady (noteIdle q.cluster (dropLost s1))))

/-- The output writes of a peal: its string from the first byte of its output buffer on, through the entries of its list in
order (R76, R81). -/
def Peal.outWrites (q : Peal) : List BusTxn :=
  let out := q.outString
  (spread out (bufRanges q.desc.outMode q.desc.outAddr (q.outSgl.getD []) out.length)).map fun w =>
    .output q.fn q.desc.tag (BitVec.ofNat 64 w.1) w.2

/-- Issue the output writes of a committed peal (R81). After a refused write the remaining ones are skipped: which write
that was is open, and so how many stand (Table 3-7, R83, notes/assumptions/132.md). -/
def writeOutput (q : Peal) (s : State) : State :=
  if q.phase ≠ .committed then s
  else
    let ws := q.outWrites
    let n := if q.outFault then Config.openCount s.rng.calls % (ws.length + 1) else ws.length
    let s1 := if q.outFault then s.mRng fun g => { g with calls := g.calls + 1 } else s
    s1.mFe fun e => { e with bus := e.bus ++ ws.take n }

/-- Note the completion's write in the peal's journal entry 1 µs later (Table 5-2, step 5). -/
def duePosted (q : Peal) (s : State) : State :=
  match q.journalSeq with
  | some n => s.mClap fun c => { c with postedDue := c.postedDue ++ [(BitVec.ofNat 64 n, s.clk.now)] }
  | none => s

/-- COMPLETION_POST: a peal that has ended writes its outputs and its completion, and its credit and its entry return;
a suppressed one only frees its entry (R49, R53, R63, R65, R88, R131). One whose reserved entry was lost with its ring
waits for an entry of the ring ENABLED again (notes/assumptions/133.md). -/
def execCompletionPost (slot : PealSlot) (spend : BitVec 32) (s : State) : Res :=
  .next (match s.peal slot with
  | none => s
  | some q =>
    if !((q.phase == .failed && !q.dualPending) || (q.phase == .committed && mayRelease s q)) || tripped s then s
    else if q.suppressed then freePeal slot q spend.toNat s
    else match boundCq s q.ring with
    | none => freePeal slot q spend.toNat (returnCredit true q.ring s)
    | some c =>
      let room := (s.cq c).state = .enabled && (q.cplHeld || 0 < (s.cq c).free)
      if (s.cq c).state = .error then freePeal slot q spend.toNat (returnCredit true q.ring (unreserve q c s))
      else if !canDma s q.fn || !room then s
      else
        let s1 := duePosted q (postCpl q.fn c q.cpl (unreserve q c (writeOutput q s)))
        lockdownCqs (freePeal slot q spend.toNat (returnCredit false q.ring s1)))

/-- JOURNAL_POSTED_SET: 1 µs after a completion's write, FLAGS.POSTED is set in its entry (Table 5-2, step 5). -/
def execJournalPostedSet (seq : BitVec 64) (s : State) : Res :=
  .next (if s.clap.postedDue.any fun x => x.1 == seq && x.2 + us 1 ≤ s.clk.now then
    setJournalFlag seq.toNat 0x01 (s.mClap fun c => { c with postedDue := c.postedDue.filter (·.1 ≠ seq) })
  else s)

/-- OUTPUT_WRITE_REFUSED: a write of a committed peal's output is refused; the commit stands, OUT_FAULT (R83). -/
def execOutputWriteRefused (slot : PealSlot) (s : State) : Res :=
  .next (match s.peal slot with
  | none => s
  | some q =>
    if q.phase ≠ .committed || q.suppressed || !mayRelease s q || !canDma s q.fn || q.outString.isEmpty then s
    else
      let s1 := reportAer q.fn .output (s.mPeal slot fun q => { q with outFault := true })
      match q.journalSeq with
      | some n => setJournalFlag n 0x04 s1
      | none => s1)

/-- Committed peals whose completions go to a completion ring, in commit order. -/
def committedOn (s : State) (c : CqNo) : List PealSlot :=
  let l := s.peals.filter fun e => e.2.phase == .committed && !e.2.suppressed && boundCq s e.2.ring == some c
  (l.mergeSort fun a b => (a.2.journalSeq.getD 0) ≤ (b.2.journalSeq.getD 0)).map fun e => BitVec.ofNat 12 e.1

/-- COMPLETION_WRITE_REFUSED: the write of a completion that was due is refused: its ring enters ERROR, and the
completions reserved on it are suppressed once their peals are committed (R65). -/
def execCompletionWriteRefused (cq : CqNo) (s : State) : Res :=
  .next (match cqOwner s cq with
  | none => s
  | some fn =>
    let due := s.peals.any (fun e => (e.2.phase == .committed || e.2.phase == .failed) && !e.2.suppressed &&
      boundCq s e.2.ring == some cq) || s.fe.ready.any fun r => boundCq s r.ring == some cq
    if (s.cq cq).state ≠ .enabled || !due || !canDma s fn then s
    else
      let s1 := raiseFn fn .cqWriteError (reportAer fn .completion (s.mCq cq fun q => { q with state := .error }))
      drainReady ((committedOn s1 cq).foldl (fun s p => suppressBroken p s) s1))

/-- CHIME_TIMER_EXPIRE: the timer of a completion ring's oldest pending completion has run out (R60). -/
def execChimeTimerExpire (cq : CqNo) (s : State) : Res :=
  .next (match cqOwner s cq with
  | none => s
  | some fn =>
    match (s.cq cq).pending with
    | [] => s
    | p :: _ => if s.clk.now < p.at_ + us (s.cq cq).timer then s else chimeCheck fn cq s)

end Sys2Proof.Machine
end

