-- ==== Sys2Proof/Machine/Admin.lean ====
section
/-! DEFINITION. What the operations of admin peals share: when they run, their draws, the 7L structure and host
blocks, the device's own signatures (R162, R163, R283, R526, R527). -/
namespace Sys2Proof.Machine

/-- INPUT_INVALID, ENCODING. -/
def encodingBad : Stat := (St.inputInvalid, 7)
/-- POLICY_DENIED, OPERATION. -/
def denied : Stat := (St.policyDenied, 2)

/-- The operation of an admin peal of the given numbers can run: its keys are judged, its input is on the die, its
cluster issues steps, no Steward restart is under way, and no Steward command runs in the store (R125, R360, R439, R527). -/
def adminReady (s : State) (q : Peal) (ids : List Nat) : Bool :=
  ids.contains q.entry.id.toNat && q.isAdmin && q.phase == .running && q.abort.isNone && !q.opDone && q.keysOk &&
    q.entryReady && q.listsRead && q.input.isSome && s.boot.stewardUp && canIssue s q.cluster && !s.nv.current.any (·.cls == 5)

/-- A request of peal 0x00FF can run: none of the Toll's functions needs a cluster (R329). -/
def tollReady (s : State) (q : Peal) : Bool :=
  q.entry.id == 0xFF && q.isAdmin && q.phase == .running && q.abort.isNone && !q.opDone && q.keysOk &&
    q.entryReady && q.listsRead && q.input.isSome && s.boot.stewardUp && s.mode.working

/-- Run the operation of the admin peal in a slot. -/
def runAdmin (slot : PealSlot) (ids : List Nat) (f : Peal → State → State) (s : State) : Res :=
  .next (match s.peal slot with
  | none => s
  | some q => if adminReady s q ids then f q s else s)

/-- The most bytes the output of a peal takes (R115). -/
def outRoom (q : Peal) : Nat := pealMaxOut q.entry q.fmts q.desc.inLen

/-- The operation succeeds with an output, cut at the most the entry allows. -/
def pass (p : PealSlot) (q : Peal) (out : Bytes) (e : Effect) (s : State) : State := opPass p (out.take (outRoom q)) e s

/-- The operation fails in its first step. -/
def deny (p : PealSlot) (st : Stat) (s : State) : State := opFail p st 0 s

/-- What an operation has drawn, draw by draw. -/
def drawnSo (p : PealSlot) (s : State) : List Bytes := match s.peal p with | some q => q.opDraws | none => []

/-- Draw what an operation still needs, one request after another, each in its turn: instance, length, and whether it is
prediction-resistant. What is drawn is kept, so that an operation that waits goes on from there; a refused draw ends it (R284
to R293). An operation whose draws do not end within `fuel` requests goes on at its next command. -/
def drawOn (p : PealSlot) (need : List Bytes → Option (Nat × Nat × Bool)) (k : List Bytes → State → State) :
    Nat → State → State
  | 0, s => s
  | fuel + 1, s =>
    match need (drawnSo p s) with
    | none => k (drawnSo p s) s
    | some (inst, n, pr) =>
      match drawInTurn p 0 inst n pr s with
      | (.served bs, s1) =>
        drawOn p need k fuel ((unholdDraw p 0 s1).mPeal p fun q => { q with opDraws := q.opDraws ++ [bs] })
      | (.held, s1) => holdFor (.step p 0) inst pr s1
      | (.failed sub, s1) => deny p (St.entropyUnavailable, sub) s1

/-- The `i`-th draw of an operation, and what follows it. -/
def withDraw (p : PealSlot) (i inst n : Nat) (pr : Bool) (k : Bytes → State → State) (s : State) : State :=
  drawOn p (fun l => if l.length ≤ i then some (inst, n, pr) else none) (fun l => k (l.getD i [])) 2 s

/-- A fresh call on the free values: its number, and the state after it. -/
def freshCall (s : State) : Nat × State := (s.rng.calls, s.mRng fun g => { g with calls := g.calls + 1 })

/-! Host blocks. -/

/-- Uppercase hexadecimal characters, and decimal ones. -/
def hexChar (n : Nat) : Byte := BitVec.ofNat 8 (if n < 10 then 48 + n else 55 + n)
def toHex (bs : Bytes) : Bytes := bs.flatMap fun b => [hexChar (b.toNat / 16), hexChar (b.toNat % 16)]
def decimal : Nat → Nat → Bytes
  | 0, _ => []
  | k + 1, n => decimal k (n / 10) ++ [BitVec.ofNat 8 (48 + n % 10)]

/-- The 7L structure of a key's record (Table 6-3): record bytes 0x00 to 0x17 with EXT_COUNT 0, KR.USE_LIMIT, KR.BOOT to
KR.LEDGER, the KEK generation. -/
def attrs7L (t : Fn) (h : Nat) (r : KeyRec) (kekGen : BitVec 32) : Bytes :=
  let x := { r with ext := 0 }.bytes t h
  x.take 24 ++ slice x 0x1C 4 ++ slice x 0x28 8 ++ natLe 4 kekGen.toNat ++ zeros 8

/-- Key usage and mode of use of the first row of Table 6-19 that a key's usage fits; 10 and N for none (R523). -/
def usageMode (alg usage : Nat) : Bytes × Byte :=
  let sym := isAes alg || isTdes alg
  let fits (m : Nat) : Bool := usage ≠ 0 && usage &&& m == usage
  let pick (a b : Nat) (x y z : Byte) : Byte := if usage = a then x else if usage = b then y else z
  if sym && fits 0x100 then ([0x42, 0x30], 0x58)
  else if sym && fits 0x003 then ([0x44, 0x30], pick 0x001 0x002 0x45 0x44 0x42)
  else if sym && fits 0x800 then ([0x45, 0x30], 0x58)
  else if sym && fits 0x00C then ([0x4B, 0x30], pick 0x004 0x008 0x45 0x44 0x42)
  else if (sym || alg = 0x10) && fits 0x030 then
    ([0x4D, if isAes alg then 0x36 else if alg = 8 then 0x33 else if alg = 9 then 0x31 else 0x37],
      pick 0x010 0x020 0x47 0x56 0x43)
  else if sym && fits 0x600 then ([0x50, 0x30], pick 0x200 0x400 0x45 0x44 0x42)
  else if [0x20, 0x21, 0x24, 0x25, 0x30, 0x31, 0x38, 0x39].contains alg && fits 0x0C0 then
    ([0x53, 0x30], pick 0x040 0x080 0x53 0x56 0x4E)
  else ([0x31, 0x30], 0x4E)

/-- The algorithm field (R523). -/
def algLetter (alg : Nat) : Byte :=
  if isAes alg then 0x41 else if isTdes alg then 0x54 else if alg = 0x10 then 0x48
  else if 0x20 ≤ alg && alg ≤ 0x27 then 0x45 else if alg = 0x30 || alg = 0x31 then 0x52
  else if alg = 0x38 || alg = 0x39 then 0x31 else 0x32

/-- The 7L optional block, and the padding block that makes the header a multiple of the cipher block (R163). -/
def optBlocks (attrs : Bytes) : Bytes := [0x37, 0x4C, 0x36, 0x34] ++ toHex attrs ++ [0x50, 0x42, 0x30, 0x43] ++ List.replicate 8 0x30

/-- An X9.143 block of version D, or B under a TDES key: header, enciphered key and MAC, its padding of the call the number
names (R162, R185, R523; notes/assumptions/149.md). -/
def x9Block (d : Bool) (kbpk usage : Bytes) (alg mode exp : Byte) (opts key : Bytes) (call : Nat) : Bytes :=
  let blk := if d then 16 else 8
  let room := (2 + key.length + blk - 1) / blk * blk
  let head := [if d then 0x44 else 0x42] ++ decimal 4 (16 + opts.length + 2 * (room + blk)) ++ usage ++ [alg, mode, 0x30, 0x30, exp] ++
    (if opts.isEmpty then [0x30, 0x30] else [0x30, 0x32]) ++ [0x30, 0x30] ++ opts
  let pad := (List.range (room - 2 - key.length)).map (Config.padByte call)
  head ++ toHex (x9Wrap d kbpk head (natBe 2 (8 * key.length) ++ key ++ pad))

/-- The block of a key under a protection key, with or without its 7L block. -/
def keyBlock (d : Bool) (kbpk : Bytes) (exp : Byte) (opts : Bytes) (r : KeyRec) (s : State) : Bytes × State :=
  let (n, s1) := freshCall s
  let um := usageMode r.alg.toNat r.usage.toNat
  (x9Block d kbpk um.1 (algLetter r.alg.toNat) um.2 exp opts r.key.value n, s1)

/-- The host block of a key under a KEK (R162). -/
def hostBlock (k : Nat) (r : KeyRec) (g : Kek) (s : State) : Bytes × State :=
  keyBlock true g.key (if r.nonExport then 0x4E else 0x45) (optBlocks (attrs7L (keyTenant k) (keyHandle k) r g.gen)) r s

/-- The strength order of R185: TDES 2-key, 3-key, AES-128, -192, -256; 0 for a key outside it. -/
def strength (alg : Nat) : Nat :=
  if alg = 8 then 1 else if alg = 9 then 2 else if alg = 1 then 3 else if alg = 2 then 4 else if alg = 3 then 5 else 0

/-! The device's own signatures. -/

/-- A signature under a branch key: ECDSA P-384 with SHA-384, raw, with a drawn nonce (R203, R217). -/
def deviceSign (key : Shares) (msg drawn : Bytes) : Bytes :=
  p384.sigBytes false (p384.sign (beNat key.value) 1 msg drawn)

/-- Bytes an ECDSA P-384 nonce draws (Table 9-2). -/
def signDraw : Nat := 56

/-- Sign with a branch key, its nonce the operation's `i`-th draw, from I3 (R283, R526). -/
def withSign (p : PealSlot) (i : Nat) (key : State → Shares) (msg : Bytes) (k : Bytes → State → State) (s : State) : State :=
  withDraw p i (instI 3) signDraw false (fun bs s1 => k (deviceSign (key s1) msg bs) s1) s

/-- The code of a life-cycle state in statements (Table 7-4). -/
def lcsCode (s : State) : BitVec 8 :=
  match s.fuses.lc with
  | .blank => 0 | .test => 1 | .production => 2 | .eolAnalysis => 3 | .eolScrap => 3

/-- Build number of the running Steward image. -/
def runningBuild (s : State) : Nat := (if s.boot.slotB then s.boot.slotB_ else s.boot.slotA_).build.toNat

/-- The running Steward image's digest (R217). -/
def runningDigest (s : State) : Bytes := fit 48 (if s.boot.slotB then s.boot.slotB_ else s.boot.slotA_).digest

/-- A key attestation statement but its signature (Table 7-4). -/
def attestBody (s : State) (kind : BitVec 8) (t : Fn) (r : KeyRec) (h : Nat) (pub nonce : Bytes) : Bytes :=
  [0x4B, 0x41, 0x53, 0x54, 1, kind, 0x20, 0x01] ++ fit 16 s.fuses.serial ++
    [BitVec.ofNat 8 s.fuses.epoch, lcsCode s, t, r.alg, r.param, r.flags] ++ natLe 2 r.usage.toNat ++ natLe 4 h ++
    natLe 4 r.gen.toNat ++ natBe 3 r.kcv.toNat ++ [r.state.setWidth 8] ++ natLe 4 s.ks.boot.toNat ++
    natLe 8 s.clk.vtime.toNat ++ runningDigest s ++ fit 48 pub ++ fit 32 nonce ++ zeros 8

end Sys2Proof.Machine
end

