-- ==== Sys2Proof/Machine/KeyAdmin.lean ====
section
/-! DEFINITION. Key peals: creation, state changes, revocation, pins, drops, reports, allowances, import and export,
the end of a barrier's drain, and the re-shares (R170, R173 to R192, R197, R287). -/
namespace Sys2Proof.Machine

/-! Key templates, Table 6-11. -/

/-- A key template. -/
structure Template where
  handle : Nat
  alg : Nat
  param : Nat
  usage : Nat
  /-- Key record flags (Table 6-7) it sets. -/
  flags : BitVec 8
  state : BitVec 3
  limit : BitVec 32
  deriving DecidableEq, Repr

/-- Usage bits that fit an algorithm (Table 6-8 against Tables 8-1 and 9-1, and ATTEST for every key). -/
def usageFit (alg : Nat) : Nat :=
  if isAes alg then 0x5F3F else if isTdes alg then 0x4F3F else if alg = 0x10 then 0x4030
  else if alg = 0x20 then 0x6040 else if alg = 0x21 then 0x4080 else if alg = 0x24 then 0x4040
  else if alg = 0x25 then 0x4080 else if alg = 0x26 then 0x6000 else if alg = 0x27 then 0x4000
  else if alg = 0x30 then 0x4042 else if alg = 0x31 then 0x4081 else if alg = 0x38 then 0x4040
  else if alg = 0x39 then 0x4080 else if alg = 0x3C || alg = 0x3D then 0x6000 else 0

/-- The key record flags of template flags, with LIMITED and, for a generated key, ORIGIN_INTERNAL. -/
def templateFlags (f : Nat) (limit : BitVec 32) (internal : Bool) : BitVec 8 :=
  BitVec.ofBool (bitAt f 4) ++ BitVec.ofBool (limit ≠ 0xFFFFFFFF) ++ (0 : BitVec 1) ++ BitVec.ofBool (bitAt f 3) ++
    BitVec.ofBool (bitAt f 2) ++ BitVec.ofBool internal ++ BitVec.ofBool (bitAt f 1) ++ BitVec.ofBool (bitAt f 0)

/-- Read a template, `none` where R183 refuses it. -/
def parseTemplate (internal : Bool) (bs : Bytes) : Option Template :=
  let x := leNat (bs.take 32)
  let alg := fieldNat x 32 8
  let param := fieldNat x 40 8
  let usage := fieldNat x 48 16
  let limit : BitVec 32 := bitsAt x 96 32
  if fieldNat x 24 8 ≠ 0 || fieldNat x 69 3 ≠ 0 || 1 < fieldNat x 72 3 || fieldNat x 75 21 ≠ 0 ||
      fieldNat x 128 128 ≠ 0 || !algParamOk alg param || usage &&& usageFit alg ≠ usage then none
  else some { handle := fieldNat x 0 24, alg := alg, param := param, usage := usage,
              flags := templateFlags (fieldNat x 64 5) limit internal, state := bitsAt x 72 3, limit := limit }

/-! Creation, R183 to R185. -/

/-- Keys that peals in flight are about to create, with their records. -/
def creating (s : State) : List (Nat × KeyRec) :=
  s.peals.filterMap fun e => match e.2.effect with
    | .newKey k r => if e.2.phase = .failed || e.2.phase = .committed then none else some (k, r)
    | _ => none

/-- The lowest index below a bound that is not in use. -/
def freeIndex (bound : Nat) (used : List Nat) : Option Nat := (List.range bound).find? fun i => !used.contains i

/-- The ledger index a new key of a tenant takes, within its allowance (R178, R185, R187). -/
def newLedger (s : State) (t : Fn) : Option Nat :=
  let mine := ((s.ks.ledger.filter fun e => keyTenant e.2.key == t).length) +
    ((creating s).filter fun e => keyTenant e.1 == t && e.2.limited).length
  if (allowance s t).ledger.toNat ≤ mine then none
  else freeIndex 512 (s.ks.ledger.map (·.1) ++ ((creating s).filter (·.2.limited)).map (·.2.ledger.toNat))

/-- The cell index a new key of a tenant takes, within its allowance (R181, R185, R187). -/
def newCell (s : State) (t : Fn) : Option Nat :=
  let mine := ((s.ks.cells.filter fun e => keyTenant e.2.key == t).length) +
    ((creating s).filter fun e => keyTenant e.1 == t && e.2.ivgen).length
  if (allowance s t).cells.toNat ≤ mine then none
  else freeIndex 8192 (s.ks.cells.map (·.1) ++ ((creating s).filter (·.2.ivgen)).map (·.2.cell.toNat))

/-- The record a template makes for a tenant, `none` where R185 refuses it: the handle resident, or about to be
created by another peal, or revoked, or no entry or cell left. -/
def newRecord (s : State) (t : Fn) (tp : Template) (parent parentGen : BitVec 32) : Option KeyRec :=
  let k := keyNo t tp.handle
  let entry := smFind k s.ks.rset
  let lim := tp.flags.getLsbD 6
  let ivg := tp.flags.getLsbD 7
  let led := if lim then newLedger s t else some 0xFFFF
  let cel := if ivg then newCell s t else some 0xFFFF
  let revoked := match entry with | some e => e.revoked | none => false
  if (s.krec k).isSome || (creating s).any (·.1 == k) || revoked then none
  else match led, cel with
    | some l, some c =>
      some { alg := BitVec.ofNat 8 tp.alg, param := BitVec.ofNat 8 tp.param, state := tp.state, flags := tp.flags,
             usage := BitVec.ofNat 16 tp.usage, ext := BitVec.ofNat 8 (extOf s t tp.alg tp.param),
             gen := match entry with | some e => e.minGen.setWidth 32 + 1 | none => 1, parent := parent,
             parentGen := parentGen, uses := 0, limit := tp.limit, ivHwm := 0,
             boot := if tp.flags.getLsbD 0 then s.ks.boot else 0, cell := BitVec.ofNat 16 c,
             ledger := BitVec.ofNat 16 l, kcv := 0, key := Shares.none, pub := [],
             home := 0, chain := [], pinned := false, lastUse := 0, usesReserved := 0 }
    | _, _ => none

/-- Create the key of a template from its data: its host block, and what follows it in the output (R184). A tenant without
a KEK has no host blocks. -/
def makeKey (p : PealSlot) (q : Peal) (tp : Template) (key : Bytes) (tail : Bytes) (parent parentGen : BitVec 32)
    (s : State) : State :=
  match newRecord s q.fn tp parent parentGen, (s.tenant q.fn).kek with
  | some r, some g =>
    let k := keyNo q.fn tp.handle
    let pub := publicOf q.curves tp.alg tp.param key
    let (mask, s0) := freshBytes key.length s
    let r1 := { r with key := Shares.of key mask, pub := pub, kcv := keyKcv tp.alg key pub }
    let (blk, s1) := hostBlock k r1 g s0
    pass p q (blk ++ tail) (.newKey k r1) s1
  | _, _ => deny p denied s

/-- A generation passes its checks: a template of the right algorithms, and R185. -/
def genCheck (q : Peal) (algs : List Nat) (s : State) : Stat ⊕ Template :=
  match parseTemplate true q.inputBytes with
  | none => .inl encodingBad
  | some tp =>
    if !algs.contains tp.alg then .inl encodingBad
    else if tp.alg = 0x20 && 0x10 ≤ tp.param && !(q.curves.any (·.id.toNat == tp.param)) then .inl encodingBad
    else if (newRecord s q.fn tp 0xFFFFFFFF 0).isNone || (s.tenant q.fn).kek.isNone then .inl denied
    else .inr tp

/-- The first draw of a key generation (Table 10-4). -/
def genDraw (curves : List Curve) (alg param : Nat) : Nat :=
  if alg = 1 then 16 else if alg = 2 then 24 else if alg = 3 then 32 else if alg = 8 then 16 else if alg = 9 then 24
  else if alg = 0x10 then param
  else if alg = 0x20 then (orderBits curves param + 64 + 7) / 8
  else if alg = 0x24 || alg = 0x26 then 32
  else if alg = 0x30 then 4 * param
  else if alg = 0x38 then 32 else 64

/-- Bytes a generated key's consistency test draws from its cluster's internal instance (Table 10-4, Table 9-2); for RSA the
salt of a PSS signature with SHA-256, the scheme being the model's choice (notes/assumptions/67.md). -/
def pairDraw (curves : List Curve) (alg param : Nat) : Nat :=
  if alg = 0x20 then (orderBits curves param + 64 + 7) / 8
  else if alg = 0x30 || alg = 0x38 || alg = 0x3C then 32 else 0

/-- What a generation draws next, after the draws it has made: its instance, length, and whether prediction-resistant; the
tenant's instance gives the first and every further RSA candidate, the cluster's the bases and the consistency test (Table
10-4). -/
def genNeed (curves : List Curve) (tenant inner alg param : Nat) (draws : List Bytes) : Option (Nat × Nat × Bool) :=
  let x := rsaSearch param draws
  if draws.isEmpty then some (tenant, genDraw curves alg param, true)
  else if alg = 0x30 && x.q.isNone then
    if x.cand.isSome then some (inner, 2 * param, false) else some (tenant, 2 * param, false)
  else if pairDraw curves alg param = 0 || (if alg = 0x30 then x.tested else 2 ≤ draws.length) then none
  else some (inner, pairDraw curves alg param, false)

/-- The data of a generated key from its draw (Table 10-4): TDES parity adjusted, an EC scalar by FIPS 186-5, else the draw as
it stands. -/
def keyFromDraw (curves : List Curve) (alg param : Nat) (drawn : Bytes) : Bytes :=
  if alg = 8 || alg = 9 then drawn.map oddParity
  else if alg = 0x20 then
    let n := (domainOf curves param).n
    natBe (byteLen n) (scalarFrom n drawn)
  else drawn
/-- The data of a generated key from all its draws: of RSA, what the prime search found with e = 65,537 (R257). -/
def keyFromDraws (curves : List Curve) (alg param : Nat) (draws : List Bytes) : Bytes :=
  if alg = 0x30 then rsaKey param (rsaSearch param draws) else keyFromDraw curves alg param (draws.headD [])

/-- Requests a generation makes in one command at most; a longer prime search goes on at the next. -/
def genFuel : Nat := 4096

/-- The public key that follows the host block in a generation's output (Table 6-12). -/
def publicTail (curves : List Curve) (alg param : Nat) (key : Bytes) : Bytes := publicOf curves alg param key

/-- Generate a key or a key pair of one of the given algorithms, validated as it is made (R184, R257, R283, R287). -/
def generate (p : PealSlot) (algs : List Nat) (q : Peal) (s : State) : State :=
  match genCheck q algs s with
  | .inl st => deny p st s
  | .inr tp =>
    drawOn p (genNeed q.curves q.fn.toNat (instI (4 + q.cluster.toNat)) tp.alg tp.param) (fun draws s1 =>
      let key := keyFromDraws q.curves tp.alg tp.param draws
      match keyDefect q.curves tp.alg tp.param key with
      | some sub => deny p (St.inputInvalid, sub) s1
      | none => makeKey p q tp key (publicTail q.curves tp.alg tp.param key) 0xFFFFFFFF 0 s1) genFuel s

/-- GENERATE_SYMMETRIC_KEY: peal 0x00D0. -/
def execGenerateSymmetricKey (slot : PealSlot) (_kcv : Computed) (s : State) : Res :=
  runAdmin slot [0xD0] (generate slot [1, 2, 3, 8, 9, 0x10]) s

/-- GENERATE_EC_KEY_PAIR: peal 0x00D1. -/
def execGenerateEcKeyPair (slot : PealSlot) (_kcv _pub : Computed) (s : State) : Res :=
  runAdmin slot [0xD1] (generate slot [0x20, 0x24, 0x26]) s

/-- GENERATE_RSA_KEY_PAIR: peal 0x00D2. -/
def execGenerateRsaKeyPair (slot : PealSlot) (_kcv _pub : Computed) (s : State) : Res :=
  runAdmin slot [0xD2] (generate slot [0x30]) s

/-- GENERATE_MLDSA_KEY_PAIR: peal 0x00D3. -/
def execGenerateMldsaKeyPair (slot : PealSlot) (_kcv _pub : Computed) (s : State) : Res :=
  runAdmin slot [0xD3] (generate slot [0x38]) s

/-- GENERATE_MLKEM_KEY_PAIR: peal 0x00D4. -/
def execGenerateMlkemKeyPair (slot : PealSlot) (_kcv _pub : Computed) (s : State) : Res :=
  runAdmin slot [0xD4] (generate slot [0x3C]) s

/-- The record of the key in a slot of a peal. -/
def slotRec (s : State) (q : Peal) (i : Nat) : Option (Nat × KeyRec) :=
  (q.keys[i]?).bind fun b => (s.krec b.key).map fun r => (b.key, r)

/-- The data of a key derived with SP 800-108 counter-mode CMAC under its parent, the context as the label (R184): TDES
parity adjusted as in R222, an EC scalar from N + 64 bits as in R202, otherwise the output bits as they stand. -/
def derivedKey (curves : List Curve) (parentAlg : Nat) (parent : Bytes) (alg param : Nat) (label : Bytes) : Bytes :=
  let tdes := isTdes parentAlg
  let out (n : Nat) : Bytes := kdfUnder tdes parent label [] (8 * n)
  if alg = 8 || alg = 9 then (out (keyBytes alg param)).map oddParity
  else if alg = 0x20 then
    let n := (domainOf curves param).n
    natBe (byteLen n) (scalarFrom n (out ((bitLen n + 64 + 7) / 8)))
  else out (dataLen curves alg param)

/-- Algorithms a derivation can give: those whose private or secret data is a string of bits, and EC scalars
(notes/assumptions/61.md). -/
def derivable (alg : Nat) : Bool := isAes alg || isTdes alg || [0x10, 0x20, 0x24, 0x26, 0x38, 0x3C].contains alg

/-- DERIVE_AND_STORE: peal 0x00D6 derives a child; the depth is one (R184). -/
def execDeriveAndStore (slot : PealSlot) (_kcv : Computed) (s : State) : Res :=
  runAdmin slot [0xD6] (fun q s =>
    match parseTemplate false q.inputBytes, slotRec s q 0 with
    | some tp, some (k, r) =>
      if !derivable tp.alg then deny slot encodingBad s
      else if r.parent ≠ 0xFFFFFFFF then deny slot denied s
      else
        let key := derivedKey q.curves r.alg.toNat r.key.value tp.alg tp.param (q.inputBytes.drop 32)
        makeKey slot q tp key [] (BitVec.ofNat 32 (keyHandle k)) r.gen s
    | _, _ => deny slot encodingBad s) s

/-! State changes and revocations, R176, R177, R189 to R192. -/

/-- Keys that state changes and revocations in flight are about to enter in the revocation set. -/
def entering (s : State) : List (Nat) :=
  s.peals.filterMap fun e => match e.2.effect with
    | .changeState k _ => if e.2.phase = .failed || e.2.phase = .committed then none else some k
    | .revoke k => if e.2.phase = .failed || e.2.phase = .committed then none else some k
    | _ => none

/-- Revocation set entries a tenant uses, with those on their way. -/
def rsetUsed (s : State) (t : Fn) : Nat :=
  (((s.ks.rset.map (·.1)) ++ (entering s).filter fun k => (smFind k s.ks.rset).isNone).filter
    fun k => keyTenant k == t).length

/-- Room for a key's entry: a key that has one rewrites it, and the last 8 of the allowance serve revocations only
(R192). -/
def rsetRoom (s : State) (k : Nat) (revoke : Bool) : Bool :=
  let t := keyTenant k
  (smFind k s.ks.rset).isSome || (rsetUsed s t + (if revoke then 0 else 8) < (allowance s t).rset.toNat)

/-- CHANGE_STATE: peal 0x00D8 judges the transition; its barrier is taken at the commit point (R176, R177, R192). -/
def execChangeState (slot : PealSlot) (s : State) : Res :=
  runAdmin slot [0xD8] (fun q s =>
    let target := (q.inputBytes.headD 0).toNat
    match slotRec s q 0, (s.tenant q.fn).kek with
    | some (k, r), some g =>
      if 4 < target then deny slot encodingBad s
      else if transitionBarred q.pol.keyTable r.state.toNat target || 0x7FFFFFFF ≤ r.gen.toNat then deny slot denied s
      else if !rsetRoom s k false then
        deny slot denied (whenDo (rsetRoom s k true) (raiseFn q.fn .rsetWarn) s)
      else
        let (blk, s1) := hostBlock k { r with gen := r.gen + 1, state := BitVec.ofNat 3 target } g s
        pass slot q blk (.changeState k (BitVec.ofNat 3 target)) s1
    | _, _ => deny slot denied s) s

/-- REVOKE_KEY: peal 0x00D9 moves its key to DESTROYED with REVOKED, from any state (R191, R192). -/
def execRevokeKey (slot : PealSlot) (s : State) : Res :=
  runAdmin slot [0xD9] (fun q s =>
    match slotRec s q 0 with
    | some (k, r) =>
      if 0x7FFFFFFF ≤ r.gen.toNat || !rsetRoom s k true then deny slot denied s
      else
        let e : RsEntry := { minGen := (r.gen + 1).setWidth 31, revoked := true, barrier := none, before_ := none }
        pass slot q (natLe 8 (e.word k).toNat) (.revoke k) s
    | none => deny slot denied s) s

/-- A peal other than the barrier's own that was admitted before it still uses the key, or for a revocation a child of
it or a key not known yet (Table 6-16, step 2). -/
def undrained (s : State) (b : Barrier) : Bool :=
  let uses (k : KeyBind) : Bool := k.key == b.key ||
    (b.revoke && keyTenant k.key == keyTenant b.key &&
      (match s.krec k.key with
       | some r => r.parent.toNat == keyHandle b.key
       | none => k.phase == .fetching))
  s.peals.any fun e => some (BitVec.ofNat 12 e.1) ≠ b.slot && e.2.seq ≤ b.b && e.2.phase ≠ .failed && e.2.keys.any uses

/-- Zeroise a destroyed key, and drop a revoked one's children (Table 6-16, step 3). -/
def zeroise (b : Barrier) (s : State) : State :=
  let s1 := if b.destroyed then evictTier1 b.key (s.mRec b.key fun r => { r with key := Shares.none }) else s
  if b.revoke then
    ((s1.ks.recs.filter fun e => keyTenant e.1 == keyTenant b.key && e.2.parent.toNat == keyHandle b.key).map
      (·.1)).foldl (fun s k => dropRec k s) s1
  else s1

/-- The drain of a barrier is complete (Table 6-16, steps 2 to 4). -/
def drainBarrier (b : Barrier) (s : State) : State :=
  let k := b.key
  let s1 := if b.destroyed then s.mKs fun q =>
      { q with ledger := q.ledger.filter (·.2.key ≠ k), cells := q.cells.filter (·.2.key ≠ k),
               spaces := smErase k q.spaces }
    else s
  let s2 := zeroise b s1
  let cell := s2.ks.cells.any (·.2.key == k)
  let free := fun (e : RsEntry) => { e with barrier := none, before_ := none }
  let s3 := s2.mKs fun q =>
    { q with barriers := q.barriers.filter (· ≠ b),
             rset := match smFind k q.rset with | some e => smInsert k (free e) q.rset | none => q.rset }
  let s4 := match b.slot with
    | some p => s3.mPeal p fun q => { q with drained := true, storeWait := if cell then 2 else 1 }
    | none => s3
  let s5 := queueSet k b.slot s4
  if cell then nvQueue 2 (.cellRewrite k b.slot) s5 else s5

/-- BARRIER_DRAIN_COMPLETE: the last peal before a key's barrier has ended (R181, R191, Table 6-16). -/
def execBarrierDrainComplete (fn : Fn) (handle : BitVec 24) (s : State) : Res :=
  .next (match s.ks.barriers.find? (·.key == keyNo fn handle.toNat) with
  | none => s
  | some b => if undrained s b then s else drainBarrier b s)

/-! Pins, drops, reports. -/

/-- Records a tenant's pinned keys take, with those about to be pinned (R170, R187). -/
def pinnedBy (s : State) (t : Fn) : Nat :=
  let about := s.peals.filterMap fun e => match e.2.effect with
    | .pin k true => if e.2.phase = .failed || e.2.phase = .committed then none else some k
    | _ => none
  ((s.ks.recs.filter fun e => keyTenant e.1 == t && (e.2.pinned || about.contains e.1)).map fun e => e.2.size).sum

/-- PIN_OR_UNPIN: peal 0x00DA (R170). -/
def execPinOrUnpin (slot : PealSlot) (s : State) : Res :=
  runAdmin slot [0xDA] (fun q s =>
    match slotRec s q 0 with
    | none => deny slot denied s
    | some (k, r) =>
      let op := q.inputBytes.headD 0
      if op = 0 then pass slot q [] (.pin k false) s
      else if op ≠ 1 then deny slot encodingBad s
      else if !r.critical || (!r.pinned && (allowance s q.fn).pins.toNat < pinnedBy s q.fn + r.size) then
        deny slot denied s
      else pass slot q [] (.pin k true) s) s

/-- The handle an input names, `none` with bits 31:24 set. -/
def inputHandle (q : Peal) : Option Nat := let h := leNat (q.inputBytes.take 4); if h < 2 ^ 24 then some h else none

/-- DROP: peal 0x00DB (R161, R184). -/
def execDrop (slot : PealSlot) (s : State) : Res :=
  runAdmin slot [0xDB] (fun q s =>
    match inputHandle q with
    | none => deny slot (St.inputInvalid, 4) s
    | some h => pass slot q [] (.drop (keyNo q.fn h)) s) s

/-- A key report (Table 6-14). -/
def keyReport (s : State) (k : Nat) (r : KeyRec) (tier : Nat) : Bytes :=
  let t := keyTenant k
  let entry := smFind k s.ks.rset
  let stale := r.parent ≠ 0xFFFFFFFF && (match smFind (keyNo t r.parent.toNat) s.ks.rset with
    | some e => e.revoked
    | none => false)
  let sp := smFind k s.ks.spaces
  natLe 4 (keyHandle k) ++ [t, r.alg, r.param,
    BitVec.ofNat 8 (r.state.toNat + 8 * tier + (if r.pinned then 32 else 0) + (if stale then 64 else 0)), r.flags] ++
    natBe 3 r.kcv.toNat ++ natLe 2 r.usage.toNat ++ zeros 2 ++ natLe 4 r.gen.toNat ++ natLe 4 r.parent.toNat ++
    natLe 4 r.parentGen.toNat ++ natLe 4 r.limit.toNat ++ natLe 4 (committedUses s r) ++ natLe 4 r.usesReserved ++
    natLe 8 (match cellOf s k with | some c => c.committed | none => 0) ++
    natLe 4 (match sp with | some x => x.reserved.length | none => 0) ++ natLe 4 r.boot.toNat ++
    natLe 8 (match entry with | some e => (e.word k).toNat | none => 0)

/-- KEY_REPORT: peal 0x00DC; `rd` is what the host table gives where the key is not resident (R186). A fetch of the
key already in progress is waited for. -/
def execKeyReport (slot : PealSlot) (rd : HostRead) (s : State) : Res :=
  runAdmin slot [0xDC] (fun q s =>
    match inputHandle q with
    | none => deny slot (St.inputInvalid, 4) s
    | some h =>
      let k := keyNo q.fn h
      match s.krec k with
      | some r =>
        let tier := if s.clusters.any fun c => c.enabled && c.cache.any (·.key == k) then 1 else 2
        pass slot q (keyReport s k r tier) .none s
      | none =>
        if s.ks.fetches.any (·.key == k) || !canDma s q.fn then s
        else
          let (mask, s0) := freshBytes 512 (fetchReads q.fn h rd s)
          match fetchOutcome s q.fn h rd mask with
          | .inl st => deny slot st (whenDo (st.2 == 4) (fun s => reportAer q.fn .keyTable (raiseFn q.fn .fetchError s)) s0)
          | .inr r =>
            if setRefuses s k q.seq r then pass slot q (keyReport s0 k (underSet s k r) 3) .none s0
            else if !indicesMatch s k r then deny slot (St.keyFault, 3) s0
            else
              let s1 := startCellWrite k (installRec k (underSet s k r) s0)
              pass slot q (keyReport s1 k (underSet s k r) 3) .none s1) s

/-! Allowances and policies. -/

/-- The allowances an input names (Table 6-15). -/
def inputAllowance (bs : Bytes) : Allowance :=
  { rset := BitVec.ofNat 16 (le bs 2 2), cells := BitVec.ofNat 16 (le bs 4 2), ledger := BitVec.ofNat 16 (le bs 6 2),
    pins := BitVec.ofNat 32 (le bs 8 4), tier2Cap := BitVec.ofNat 32 (le bs 12 4) }

/-- The allowances of every other tenant in one kind. -/
def othersSum (s : State) (t : Fn) (f : Allowance → Nat) : Nat :=
  (((List.range 256).filter (· ≠ t.toNat)).map fun n => f (allowance s (BitVec.ofNat 8 n))).sum

/-- A setting is at least the tenant's use and within the device's remaining totals (R187). -/
def allowanceOk (s : State) (t : Fn) (a : Allowance) : Bool :=
  rsetUsed s t ≤ a.rset.toNat &&
    (s.ks.cells.filter fun e => keyTenant e.2.key == t).length ≤ a.cells.toNat &&
    (s.ks.ledger.filter fun e => keyTenant e.2.key == t).length ≤ a.ledger.toNat &&
    pinnedBy s t ≤ a.pins.toNat && (a.tier2Cap = 0 || tier2UsedBy s t ≤ a.tier2Cap.toNat) &&
    a.rset.toNat + othersSum s t (·.rset.toNat) ≤ 16384 && a.cells.toNat + othersSum s t (·.cells.toNat) ≤ 8192 &&
    a.ledger.toNat + othersSum s t (·.ledger.toNat) ≤ 512 && a.pins.toNat + othersSum s t (·.pins.toNat) ≤ 262144

/-- SET_ALLOWANCES: peal 0x00DD (R187). -/
def execSetAllowances (slot : PealSlot) (s : State) : Res :=
  runAdmin slot [0xDD] (fun q s =>
    let bs := q.inputBytes
    let t := bs.getD 0 0
    let a := inputAllowance bs
    if bs.getD 1 0 ≠ 0 then deny slot encodingBad s
    else if !allowanceOk s t a then deny slot denied s
    else pass slot q [] (.allowances t a) s) s

/-- LOAD_KEY_STATE_POLICY: peal 0x00DE (R176). -/
def execLoadKeyStatePolicy (slot : PealSlot) (s : State) : Res :=
  runAdmin slot [0xDE] (fun q s =>
    let l := (List.range 8).map fun i => BitVec.ofNat 32 (le q.inputBytes (4 * i) 4)
    if (l.drop 5).any (· ≠ 0) || l.any (fun e => 2 ^ 24 ≤ e.toNat) then deny slot encodingBad s
    else pass slot q [] (.keyPolicy q.fn l) s) s

/-! Import and export, R185. -/

/-- Two ASCII characters of an X9.143 field, as their 16 bits. -/
def x9 (a b : Nat) : Nat := 256 * a + b

/-- The usage bits a header gives (Table 6-13), `none` for a row that is not there. -/
def importUsage (usage : Nat) (mode : Nat) (alg : Nat) : Option Nat :=
  let sym := isAes alg || isTdes alg
  let xn := mode == 0x58 || mode == 0x4E
  let edb (e d : Nat) : Option Nat :=
    if mode = 0x45 then some e else if mode = 0x44 then some d else if mode = 0x42 then some (e + d) else none
  let gvc : Option Nat :=
    if mode = 0x47 then some 0x10 else if mode = 0x56 then some 0x20 else if mode = 0x43 then some 0x30 else none
  if usage = x9 0x42 0x30 then if sym && xn then some 0x100 else none
  else if usage = x9 0x44 0x30 then if sym then edb 1 2 else none
  else if usage = x9 0x45 0x30 then if sym && xn then some 0x800 else none
  else if usage = x9 0x4B 0x30 then if sym then edb 4 8 else none
  else if usage = x9 0x4D 0x31 || usage = x9 0x4D 0x33 then if isTdes alg then gvc else none
  else if usage = x9 0x4D 0x36 then if isAes alg then gvc else none
  else if usage = x9 0x4D 0x37 then if alg = 0x10 then gvc else none
  else if usage = x9 0x50 0x30 then if sym then edb 0x200 0x400 else none
  else if usage = x9 0x53 0x30 then
    if [0x20, 0x21, 0x24, 0x25, 0x30, 0x31, 0x38, 0x39].contains alg then
      if mode = 0x53 then some 0x40 else if mode = 0x56 then some 0x80 else none
    else none
  else none

/-- A block's version fits its transport key: "D", or "B" under TDES (R185). -/
def versionFits (b : Byte) (transport : Nat) : Bool := b == 0x44 || (b == 0x42 && isTdes transport)

/-- IMPORT_X9143_BLOCK: peal 0x00E0 (R164, R185, R257). -/
def execImportX9143Block (slot : PealSlot) (_blk : Computed) (s : State) : Res :=
  runAdmin slot [0xE0] (fun q s =>
    match parseTemplate false q.inputBytes, slotRec s q 0, readX9 (q.inputBytes.drop 32) with
    | some tp, some (_, tr), some b =>
      match (if b.alg = algLetter tp.alg then importUsage (beNat b.usage) b.mode.toNat tp.alg else none) with
      | none => deny slot encodingBad s
      | some u =>
        if !versionFits b.version tr.alg.toNat then deny slot encodingBad s
        else match x9Unwrap (b.version == 0x44) tr.key.value b.head b.body with
          | none => deny slot (St.keyFault, 3) s
          | some key =>
            if tp.usage &&& u ≠ tp.usage then deny slot denied s
            else match keyDefect q.curves tp.alg tp.param key with
              | some sub => deny slot (St.inputInvalid, sub) s
              | none =>
                let ne := b.exp == 0x4E || b.exp == 0x53
                makeKey slot q { tp with flags := if ne then tp.flags ||| 0x02 else tp.flags } key [] 0xFFFFFFFF 0 s
    | _, _, _ => deny slot encodingBad s) s

/-- EXPORT_X9143_BLOCK: peal 0x00E1 (R185). -/
def execExportX9143Block (slot : PealSlot) (s : State) : Res :=
  runAdmin slot [0xE1] (fun q s =>
    let e := q.inputBytes.headD 0
    match slotRec s q 0, slotRec s q 1 with
    | some (_, r), some (_, tr) =>
      if e ≠ 0x45 && e ≠ 0x4E then deny slot encodingBad s
      else if r.nonExport then deny slot (St.policyDenied, 4) s
      else if strength tr.alg.toNat < strength r.alg.toNat then deny slot denied s
      else
        let (blk, s1) := keyBlock (isAes tr.alg.toNat) tr.key.value e [] r s
        pass slot q blk .none s1
    | _, _ => deny slot denied s) s

/-! Re-shares, R188, R197. -/

/-- A re-share of a cluster's next key slot and its next two extension units: fresh randomness enters both shares of the
key each holds (R188). -/
def reshareCluster (mask : Bytes) (c : Cluster) : Cluster :=
  let u := c.reshareUnit.toNat
  let one := fun (x : CacheSlot) =>
    let hit := if x.units.isEmpty then x.slot == c.reshareSlot.toNat else x.units.contains u || x.units.contains (u + 1)
    if hit then { x with shares := x.shares.refresh (fit x.shares.a.length mask) } else x
  { c with cache := c.cache.map one, reshareSlot := c.reshareSlot + 1, reshareUnit := c.reshareUnit + 2 }

/-- Clusters re-share one after another, each with its own randomness. -/
def reshareAll : Nat → State → State
  | 0, s => s
  | n + 1, s =>
    let s0 := reshareAll n s
    let c := s0.cluster (BitVec.ofNat 4 n)
    if c.enabled && c.inService && (c.state == .active || c.state == .clockGated) then
      let (mask, s1) := clusterBytes (BitVec.ofNat 4 n) 4096 s0
      s1.mCluster (BitVec.ofNat 4 n) (reshareCluster mask)
    else s0

/-- KEY_CACHE_RESHARE: every 960 ns every enabled cluster re-shares its next key slot and two extension units (R188). -/
def execKeyCacheReshare (s : State) : Res :=
  .next (if onMain s && s.mode ≠ .lockdown && s.ks.reshareAt + 960 ≤ s.clk.now then
    reshareAll 16 (s.mKs fun q => { q with reshareAt := s.clk.now })
  else s)

/-- Re-share the branch keys' registers (R202). -/
def BranchKeys.refresh (x : BranchKeys) (m : Bytes) : BranchKeys :=
  { ident := x.ident.refresh (fit x.ident.a.length m), xeol := x.xeol.refresh (fit x.xeol.a.length (m.drop 48)),
    toll := x.toll.refresh (fit x.toll.a.length (m.drop 96)), attest := x.attest.refresh (fit x.attest.a.length (m.drop 144)) }

/-- The 1,024 samples the AO noise cell gives for a re-share on battery fail its repetition count test (R274): free values. -/
def cellFails (s : State) : Bool :=
  (repetition false 0 (samplesOf (BitVec.ofNat 1024 (beNat (noiseBytes 128 s).1)))).2.2

/-- ROOT_SECRET_RESHARE: the AO domain re-shares the root secret, and with it the branch key registers, which hold the identity key without one too, every 64 s on main
power and every 1,024 s on battery; on battery with the AO noise cell, and at the next interval where the cell's samples fail
its repetition count test (R197, R202, R274). -/
def execRootSecretReshare (s : State) : Res :=
  let due := s.root.lastReshare + (if s.pwr.mainGood then 2097152 else 33554432)
  .next (if (s.root.vault.isNone && s.root.regs.ident.a.isEmpty) || !aoRuns s || s.clk.vtime.toNat < due then s
  else if !s.pwr.mainGood && cellFails s then
    (noiseBytes 128 s).2.mRoot fun r => { r with lastReshare := s.clk.vtime.toNat }
  else
    let fresh (n : Nat) (s : State) : Bytes × State := if s.pwr.mainGood then freshBytes n s else noiseBytes n s
    let (mask, s1) := fresh 64 (if s.pwr.mainGood then s else (noiseBytes 128 s).2)
    let (m, s2) := fresh 256 s1
    (s2.mMem fun x => { x with key := x.key.map (·.refresh (m.drop 192)) }).mRoot fun r => { r with
      vault := r.vault.map fun v => { v with secret := v.secret.refresh mask }
      regs := r.regs.refresh m, lastReshare := s.clk.vtime.toNat })

end Sys2Proof.Machine
end

