-- ==== Sys2Proof/Machine/Tenants.lean ====
section
/-! DEFINITION. Tenant and KEK peals, intake sessions, attestation and certificates (R203 to R219). -/
namespace Sys2Proof.Machine

/-- Bytes of a table-signing public key by its algorithm (R208). -/
def tskBytes (alg : BitVec 8) : Option Nat := if alg = 1 then some 97 else if alg = 2 then some 1952 else none

/-- Bytes of an input are zero. -/
def zeroAt (bs : Bytes) (o n : Nat) : Bool := (slice bs o n).all (· == 0)

/-- The status of a signature verdict that is not valid. -/
def sigFault (v : SigVerdict) : Option Stat :=
  match v with | .valid => none | .notVerified => some (St.sigInvalid, 1) | .malformed => some (St.sigInvalid, 2)

/-- CREATE_TENANT: peal 0x00E2 (R208). -/
def execCreateTenant (slot : PealSlot) (s : State) : Res :=
  runAdmin slot [0xE2] (fun q s =>
    let bs := q.inputBytes
    let t := bs.getD 0 0
    let alg := bs.getD 1 0
    if q.fn ≠ 0 then deny slot denied s
    else if tskBytes alg ≠ some (bs.length - 8) || !zeroAt bs 2 6 then deny slot encodingBad s
    else if !mayCreate s t then deny slot denied s
    else pass slot q [] (.createTenant t alg (bs.drop 8)) s) s

/-! Intake sessions, R209 to R211. -/

/-- Sessions that are open. -/
def openSessions (s : State) : List Session := s.sessions.filter (·.live s.clk.vtime.toNat)

/-- Sessions that peals in flight are about to open. -/
def opening (s : State) : List Session :=
  s.peals.filterMap fun e => match e.2.effect with
    | .openSession x => if e.2.phase = .failed || e.2.phase = .committed then none else some x
    | _ => none

/-- A caller may work on a tenant's sessions: T0 for any, a tenant for itself while it is ACTIVE (Table 7-3). -/
def mayIntake (s : State) (fn t : Fn) : Bool := fn == 0 || (t == fn && (s.tenant t).state == .active)

/-- The bytes drawn for a session's key pair by its method, the algorithm of its private key, and its data from the draw
(R209, Table 10-4). -/
def sessionDraw (method : BitVec 8) : Nat := if method = 4 then 56 else 64
def sessionAlg (method : BitVec 8) : Nat := if method = 4 then 0x20 else 0x3C
def sessionKey (method : BitVec 8) (drawn : Bytes) : Bytes := keyFromDraw [] (sessionAlg method) 2 drawn

/-- The record an attestation of a session key states (Table 7-4, KIND 1). -/
def sessionRec (method : BitVec 8) : KeyRec :=
  { alg := if method = 4 then 0x21 else 0x3D, param := 2, state := 0, flags := 0x06, usage := 8, ext := 0, gen := 0,
    parent := 0xFFFFFFFF, parentGen := 0, uses := 0, limit := 0xFFFFFFFF, ivHwm := 0, boot := 0, cell := 0xFFFF,
    ledger := 0xFFFF, kcv := 0, key := Shares.none, pub := [], home := 0, chain := [], pinned := false, lastUse := 0,
    usesReserved := 0 }

/-- Open a session and attest its key pair: the pair from I0, the signature's nonce from I3 (R209, R217, R283). -/
def openIntake (p : PealSlot) (q : Peal) (t : Fn) (method alg : BitVec 8) (nonce : Bytes) (id : Nat) (s : State) : State :=
  withDraw p 0 (instI 0) (sessionDraw method) true (fun drawn s0 =>
    let secret := sessionKey method drawn
    let key := publicOf [] (sessionAlg method) 2 secret
    let (mask, s1) := freshBytes secret.length s0
    let body := attestBody s1 1 t (sessionRec method) id (sha384 key) nonce
    withSign p 1 (·.root.regs.attest) body (fun sig s2 =>
      pass p q ([BitVec.ofNat 8 id] ++ zeros 7 ++ key ++ body ++ sig)
        (.openSession { id := id, tenant := t, method := method, kekAlg := alg, opened := s.clk.vtime.toNat,
                        secret := Shares.of secret mask, parts := [] }) s2) s1) s

/-- OPEN_INTAKE_SESSION: peal 0x00E3 (R209). -/
def execOpenIntakeSession (slot : PealSlot) (_pub : Computed) (s : State) : Res :=
  runAdmin slot [0xE3] (fun q s =>
    let bs := q.inputBytes
    let t := bs.getD 0 0
    let method := bs.getD 1 0
    let alg := bs.getD 2 0
    let all := openSessions s ++ opening s
    if !([1, 2, 3, 4].contains method.toNat) || !(alg == 1 || alg == 3) || !zeroAt bs 3 5 then deny slot encodingBad s
    else if !mayIntake s q.fn t || all.any (·.tenant == t) then deny slot denied s
    else match freeIndex 4 (all.map (·.id)) with
      | none => deny slot denied s
      | some id => openIntake slot q t method alg (bs.drop 8) id s) s

/-- The open session of a number that a caller may use. -/
def callerSession (s : State) (fn : Fn) (id : Nat) : Option Session :=
  (openSessions s).find? fun x => x.id == id && mayIntake s fn x.tenant

/-- Bytes of the key in an intake ciphertext. -/
def kekLen (alg : BitVec 8) : Nat := if alg = 1 then 16 else 32

/-- The length of a component or package (R210). -/
def intakeLen (x : Session) (tskAlg : BitVec 8) : Nat :=
  8 + (if x.method = 4 then 97 else 1088) + kekLen x.kekAlg + 3 + 16 +
    (if x.method.toNat < 3 then 0 else (sigBytes tskAlg).getD 0)

/-- The components of a ceremony, or the package of a remote session (R209, R210). -/
def intakeIndices (method : BitVec 8) : List Nat :=
  if method = 1 then [1, 2] else if method = 2 then [1, 2, 3] else [0]

/-- A key check value as its 3 bytes, leftmost first. -/
def kcvBytes (kcv : BitVec 24) : Bytes := natBe 3 kcv.toNat

/-- The secret a session's key pair shares with an encapsulation, `none` where the point is none of the curve
(notes/assumptions/150.md): of ECDH the first 32 bytes of the x-coordinate (R210). -/
def sessionSecret (x : Session) (enc : Bytes) : Option Bytes :=
  if x.method = 4 then
    match keyDefect [] 0x21 2 enc with
    | some _ => none
    | none => match p384.mul (beNat x.secret.value) (some (p384.xy enc)) with
      | some pt => some ((natBe 48 pt.1).take 32)
      | none => none
  else some (kemDecap 2 x.secret.value enc)

/-- The wrapping key of a component or package (R210). -/
def intakeWrap (s : State) (x : Session) (i : Nat) (secret : Bytes) : Bytes :=
  kdf secret (ztLabel [0x49, 0x4E, 0x54, 0x41, 0x4B, 0x45]) (fit 16 s.fuses.serial ++ [BitVec.ofNat 8 x.id, BitVec.ofNat 8 i]) 256

/-- What the ciphertext of a component or package opens to, and whether its tag verifies: IV of zeros, the header as
associated data (R210). -/
def intakeOpen (s : State) (x : Session) (i : Nat) (bs : Bytes) : Bytes × Bool :=
  let e := if x.method = 4 then 97 else 1088
  match sessionSecret x (slice bs 8 e) with
  | none => ([], false)
  | some z => aeadDec false 16 (intakeWrap s x i z) (zeros 12) (bs.take 8) (slice bs (8 + e) (kekLen x.kekAlg + 19))

/-- The verdict on a remote package's signature, over all earlier bytes under the tenant's table-signing key (R210). -/
def intakeVerdict (s : State) (x : Session) (bs : Bytes) : SigVerdict :=
  let t := s.tenant x.tenant
  let n := bs.length - (sigBytes t.tskAlg).getD 0
  ownerVerdict t.tskAlg t.tsk (bs.take n) (bs.drop n)

/-- ENTER_COMPONENT: peal 0x00E4, its guards in order (R210). -/
def execEnterComponent (slot : PealSlot) (_sig _tagOk _keyNonzero _kcvOk : Computed) (s : State) : Res :=
  runAdmin slot [0xE4] (fun q s =>
    let bs := q.inputBytes
    let i := (bs.getD 1 0).toNat
    match callerSession s q.fn (bs.getD 0 0).toNat with
    | none => deny slot denied s
    | some x =>
      let remote := decide (3 ≤ x.method.toNat)
      if bs.length ≠ intakeLen x (s.tenant x.tenant).tskAlg || !zeroAt bs 2 6 || !(intakeIndices x.method).contains i ||
          x.parts.any (·.1 == i) then deny slot encodingBad s
      else match (if remote then sigFault (intakeVerdict s x bs) else none) with
        | some st => deny slot st s
        | none =>
          let opened := intakeOpen s x i bs
          let key := opened.1.take (kekLen x.kekAlg)
          if !opened.2 then deny slot (St.authFailed, 1) s
          else if key.all (· == 0) then deny slot (St.inputInvalid, 5) s
          else if kcvBytes (keyKcv x.kekAlg.toNat key []) ≠ opened.1.drop (kekLen x.kekAlg) then deny slot (St.guardFailed, 3) s
          else pass slot q [] (.enterComponent x.id i key) s) s

/-- The KEK a session forms: its package's key, or the exclusive or of its components (R211). -/
def sessionKek (x : Session) : Bytes :=
  x.parts.foldl (fun k c => xorBytes k c.2.value) (zeros (kekLen x.kekAlg))

/-- CLOSE_INTAKE_SESSION: peal 0x00E5 forms and installs the KEK (R211). -/
def execCloseIntakeSession (slot : PealSlot) (_kcv : Computed) (s : State) : Res :=
  runAdmin slot [0xE5] (fun q s =>
    match callerSession s q.fn (q.inputBytes.headD 0).toNat with
    | none => deny slot denied s
    | some x =>
      if !(intakeIndices x.method).all (fun i => x.parts.any (·.1 == i)) || (s.tenant x.tenant).pendingKek.isSome then
        deny slot denied s
      else
        let key := sessionKek x
        pass slot q (kcvBytes (keyKcv x.kekAlg.toNat key [])) (.installKek x.tenant x.kekAlg key (some x.id)) s) s

/-- The algorithm of a KEK by its length: AES-128 or AES-256. -/
def kekAlgOf (key : Bytes) : BitVec 8 := if key.length = 16 then 1 else if key.length = 32 then 3 else 0

/-- IMPORT_KEK: peal 0x00E6 (R211). What an order of several faults would be the spec leaves open
(notes/assumptions/188.md). -/
def execImportKek (slot : PealSlot) (_blk : Computed) (s : State) : Res :=
  runAdmin slot [0xE6] (fun q s =>
    let t := q.inputBytes.getD 0 0
    if q.fn ≠ 0 then deny slot denied s
    else match slotRec s q 0, readX9 (q.inputBytes.drop 8) with
    | some (_, tr), some b =>
      if !zeroAt q.inputBytes 1 7 || !versionFits b.version tr.alg.toNat || beNat b.usage ≠ x9 0x4B 0x30 || b.alg ≠ 0x41 then
        deny slot encodingBad s
      else if (s.tenant t).pendingKek.isSome then deny slot denied s
      else match x9Unwrap (b.version == 0x44) tr.key.value b.head b.body with
        | none => deny slot (St.keyFault, 3) s
        | some key =>
          if kekAlgOf key = 0 then deny slot encodingBad s
          else if strength tr.alg.toNat < strength (kekAlgOf key).toNat then deny slot denied s
          else pass slot q (kcvBytes (keyKcv (kekAlgOf key).toNat key [])) (.installKek t (kekAlgOf key) key none) s
    | none, _ => deny slot denied s
    | _, none => deny slot encodingBad s) s

/-- The tenant whose table-signing key peal 0x00E7 changes, and whether it needs no signature: the caller itself with one;
an input of T0 without one serves the lowest CREATING tenant that has a table-signing key and to which the new generation
is the next (R212; its header names no tenant, notes/assumptions/151.md). -/
def rotateTarget (s : State) (fn : Fn) (unsigned : Bool) (gen : Nat) : Fn × Bool :=
  if fn = 0 && unsigned then
    match ((List.range 256).map (BitVec.ofNat 8)).find? fun t =>
        (s.tenant t).state == .creating && !(s.tenant t).tsk.isEmpty && gen == (s.tenant t).tskGen.toNat + 1 with
    | some t => (t, true)
    | none => (fn, false)
  else (fn, false)

/-- ROTATE_TABLE_SIGNING_KEY: peal 0x00E7 (R212). -/
def execRotateTableSigningKey (slot : PealSlot) (_sig : Computed) (s : State) : Res :=
  runAdmin slot [0xE7] (fun q s =>
    let bs := q.inputBytes
    let alg := bs.getD 0 0
    match tskBytes alg with
    | none => deny slot encodingBad s
    | some n =>
      let (t, free) := rotateTarget s q.fn (bs.length == 8 + n) (le bs 1 4)
      let x := s.tenant t
      if !zeroAt bs 5 3 then deny slot encodingBad s
      else if x.state = .absent || x.tsk.isEmpty || le bs 1 4 ≠ x.tskGen.toNat + 1 then deny slot denied s
      else if bs.length ≠ 8 + n + (if free then 0 else (sigBytes x.tskAlg).getD 0) then deny slot encodingBad s
      else match (if free then none else sigFault (ownerVerdict x.tskAlg x.tsk (bs.take (8 + n)) (bs.drop (8 + n)))) with
        | some st => deny slot st s
        | none => pass slot q [] (.rotateTsk t (BitVec.ofNat 32 (le bs 1 4)) alg (slice bs 8 n)) s) s

/-! KEK rotation, R213. -/

/-- The KEK that was pending when the peal was admitted, which may have become current since (R219). -/
def rewrapKek (s : State) (q : Peal) : Option Kek :=
  match q.pol.pendingGen with
  | none => none
  | some n => ((s.tenant q.fn).pendingKek.toList ++ (s.tenant q.fn).kek.toList).find? (·.gen == n)

/-- REWRAP_BLOCK: peal 0x00E8 returns its key's host block under the pending KEK (R213, R219). -/
def execRewrapBlock (slot : PealSlot) (s : State) : Res :=
  runAdmin slot [0xE8] (fun q s =>
    match slotRec s q 0, rewrapKek s q with
    | some (k, r), some g =>
      let (blk, s1) := hostBlock k r g s
      pass slot q blk .none s1
    | _, _ => deny slot denied s) s

/-- FINISH_KEK_ROTATION: peal 0x00E9 (R213). -/
def execFinishKekRotation (slot : PealSlot) (s : State) : Res :=
  runAdmin slot [0xE9] (fun q s =>
    match (s.tenant q.fn).pendingKek with
    | none => deny slot denied s
    | some g =>
      if q.inputBytes.getD 3 0 ≠ 0 then deny slot encodingBad s
      else if q.inputBytes.take 3 ≠ kcvBytes g.kcv then deny slot (St.guardFailed, 3) s
      else pass slot q [] (.finishRotation q.fn g.kcv) s) s

/-- ABANDON_PENDING_KEK: peal 0x00EA (R213). -/
def execAbandonPendingKek (slot : PealSlot) (s : State) : Res :=
  runAdmin slot [0xEA] (fun q s => pass slot q [] (.abandonKek q.fn) s) s

/-- Every submission ring of a function is DISABLED. -/
def sqsDisabled (s : State) (fn : Fn) : Bool :=
  !s.fe.sqs.any fun e => e.2.state ≠ .disabled && sqOwner s (BitVec.ofNat 16 e.1) == some fn
/-- Every completion ring of a function is DISABLED. -/
def cqsDisabled (s : State) (fn : Fn) : Bool :=
  !s.fe.cqs.any fun e => e.2.state ≠ .disabled && cqOwner s (BitVec.ofNat 13 e.1) == some fn
/-- Every ring of a function is DISABLED. -/
def ringsDisabled (s : State) (fn : Fn) : Bool := sqsDisabled s fn && cqsDisabled s fn

/-- DESTROY_TENANT: peal 0x00EB, in Maintenance (R207, R214). -/
def execDestroyTenant (slot : PealSlot) (s : State) : Res :=
  runAdmin slot [0xEB] (fun q s =>
    let t := q.inputBytes.headD 0
    if q.fn ≠ 0 || s.mode ≠ .maintenance || (s.tenant t).state = .absent || !ringsDisabled s t then deny slot denied s
    else pass slot q [] (.destroyTenant t) s) s

/-- Algorithm of a family's initial key: that of an AES base key, two-key TDES (R216). -/
def initialAlg (family : Byte) (bdk : Nat) : Nat := if family = 1 then bdk else 8

/-- DERIVE_INITIAL_DUKPT_KEY: peal 0x00EC: an X9.143 block of usage B1 under the transport key (R216). -/
def execDeriveInitialDukptKey (slot : PealSlot) (s : State) : Res :=
  runAdmin slot [0xEC] (fun q s =>
    let bs := q.inputBytes
    let family := bs.headD 0
    match slotRec s q 0, slotRec s q 1 with
    | some (_, r), some (_, tr) =>
      let alg := initialAlg family r.alg.toNat
      if !(family == 1 || family == 2) || !zeroAt bs 1 7 || (family == 2 && (bs.getD 15 0).toNat % 32 ≠ 0) then
        deny slot encodingBad s
      else if (family == 1) ≠ isAes r.alg.toNat then deny slot (St.keyUnusable, 2) s
      else if strength tr.alg.toNat < strength alg then deny slot denied s
      else
        let (n, s1) := freshCall s
        let ik := dukptInitial (family == 2) r.key.value (bs.drop 8)
        pass slot q (x9Block (isAes tr.alg.toNat) tr.key.value [0x42, 0x31] (algLetter alg) 0x58 0x45 [] ik n) .none s1
    | _, _ => deny slot denied s) s

/-- The tenant report (R215). -/
def tenantReport (s : State) (t : Fn) : Bytes :=
  let x := s.tenant t
  let st : BitVec 8 := match x.state with | .absent => 0 | .creating => 1 | .active => 2
  let ses : BitVec 8 := match (openSessions s).find? (·.tenant == t) with | some y => BitVec.ofNat 8 y.id | none => 0xFF
  let kek (g : Option Kek) : BitVec 32 × BitVec 24 × BitVec 8 := match g with
    | some g => (g.gen, g.kcv, g.alg)
    | none => (0, 0, 0)
  [t, st, x.tskAlg, ses] ++ natLe 4 x.tskGen.toNat ++ natLe 4 (kek x.kek).1.toNat ++ kcvBytes (kek x.kek).2.1 ++
    [(kek x.kek).2.2] ++ kcvBytes (kek x.pendingKek).2.1 ++ [if x.pendingKek.isSome then 1 else 0] ++
    natLe 4 x.storageGen.toNat ++ zeros 40

/-- TENANT_REPORT: peal 0x00ED (R215). -/
def execTenantReport (slot : PealSlot) (s : State) : Res :=
  runAdmin slot [0xED] (fun q s =>
    let t := q.inputBytes.headD 0
    if q.fn ≠ 0 && t ≠ q.fn then deny slot denied s else pass slot q (tenantReport s t) .none s) s

/-- INTAKE_SESSION_EXPIRE: a session ends 600 s of vault time after its open (R209). -/
def execIntakeSessionExpire (id : BitVec 2) (s : State) : Res :=
  .next { s with sessions := s.sessions.filter fun x => x.id ≠ id.toNat || x.live s.clk.vtime.toNat }

/-! Attestation and certificates, R203 to R205, R217, R218. -/

/-- The digest of a key's public part in its attestation; a symmetric key has none (Table 7-4). -/
def pubDigest (r : KeyRec) : Bytes := if r.alg.toNat < 0x20 then zeros 48 else sha384 r.pub

/-- KEY_ATTESTATION: peal 0x00F8 (R217, R218). -/
def execKeyAttestation (slot : PealSlot) (s : State) : Res :=
  runAdmin slot [0xF8] (fun q s =>
    match slotRec s q 0 with
    | none => deny slot denied s
    | some (k, r) =>
      let body := attestBody s 0 (keyTenant k) r (keyHandle k) (pubDigest r) q.inputBytes
      withSign slot 0 (·.root.regs.attest) body (fun sig s2 => pass slot q (body ++ sig) .none s2) s) s

/-- The X.509 certificates of the system region (R203): the identity certificate with SERIAL in hexadecimal and the identity
key, the device CA's, the root's. -/
def certPart (s : State) (i : Nat) : Bytes := s.nv.certs.getD i []
def identCert (s : State) : Bytes :=
  certPart s 0 ++ toHex (fit 16 s.fuses.serial) ++ certPart s 1 ++ p384.pub (beNat s.root.regs.ident.value) ++ certPart s 2
def x509 (s : State) : Bytes := identCert s ++ certPart s 3 ++ certPart s 4

/-- The certificate chain of peal 0x00F9: the identity certificate, which states SERIAL in hexadecimal and the identity key,
and the other X.509 certificates of the system region and the device key certificates, none
of these without a root secret (R203 to R205). -/
def certificateChain (s : State) : Bytes :=
  let area := s.root.dkcs.flatten
  natLe 2 (identCert s).length ++ natLe 2 (certPart s 3).length ++ natLe 2 (certPart s 4).length ++ natLe 2 area.length ++
    natLe 2 0 ++ zeros 6 ++ x509 s ++ area

/-- CERTIFICATE_CHAIN: peal 0x00F9 (R205). -/
def execCertificateChain (slot : PealSlot) (s : State) : Res :=
  runAdmin slot [0xF9] (fun q s => pass slot q (certificateChain s) .none s) s

end Sys2Proof.Machine
end

