-- ==== Sys2Proof/Machine/TableAdmin.lean ====
section
/-! DEFINITION. Table peals, maintenance control, the user region, policies and maps, journal lookups (R27, R101 to
R104, R108, R122, R124, R149, R150, R226, R309, R372, R373). -/
namespace Sys2Proof.Machine

/-! Maintenance control, peal 0x00DF (R27). -/

/-- The operation byte of a one-byte input. -/
def opByte (q : Peal) : BitVec 8 := q.inputBytes.headD 0

/-- MAINTENANCE_ENTER: the operations of peal 0x00DF but exit (R27). -/
def execMaintenanceEnter (slot : PealSlot) (s : State) : Res :=
  runAdmin slot [0xDF] (fun q s =>
    if opByte q = 2 then s
    else if opByte q = 1 && (s.mode == .ready || s.mode == .serve || s.mode == .surge) then
      pass slot q [] (.maintenance true) s
    else deny slot denied s) s

/-- MAINTENANCE_EXIT: operation 0x02 of peal 0x00DF (R27). -/
def execMaintenanceExit (slot : PealSlot) (s : State) : Res :=
  runAdmin slot [0xDF] (fun q s =>
    if opByte q ≠ 2 then s
    else if s.mode = .maintenance && !s.boot.fwBusy && !s.lc.busy then pass slot q [] (.maintenance false) s
    else deny slot denied s) s

/-! Table loads, R100 to R104, R309. -/

/-- The low 64 bits of the serial number. -/
def serialLow (s : State) : Nat := beNat ((fit 16 s.fuses.serial).drop 8)

/-- A load's sequence is accepted under its high-water pair (R101). -/
def seqAccepted (s : State) (n : Nat) (h : TblHeader) (digest : Bytes) : Bool :=
  match highWater s n with
  | .damaged => false
  | .absent => true
  | .copy _ c => c.aux.toNat < h.seq.toNat || (c.aux == h.seq && c.body == digest)

/-- The header's form (Table 4-3): magic number, signature algorithm, reserved fields, lengths. -/
def headerForm (h : TblHeader) (bs : Bytes) : Bool :=
  64 ≤ bs.length && h.magic == 0x42544C5A && h.clean && h.bodyLen % 8 == 0 && h.bodyLen ≤ bodyLimit h.kind &&
    (match sigBytes h.sigAlg with | some n => bs.length == 64 + h.bodyLen + n | none => false)

/-- The digest of an image's header and body. -/
def imageDigest (h : TblHeader) (bs : Bytes) : Bytes := sha384 (bs.take (64 + h.bodyLen))

/-- Step 0 of a table load: the header check for a kind's owner (R95, R100 to R102, R309). Of several faults of one header
the form is reported first, then kind and version, then key, owner and scope, then the sequence: the model's choice, the spec
giving no order (notes/assumptions/143.md). -/
def headerCheck (s : State) (q : Peal) (h : TblHeader) (bs : Bytes) : Option Stat :=
  let cost := q.entry.id == 0xFE
  let x := s.tenant h.tenant
  if !headerForm h bs then some encodingBad
  else if !cost && h.kind = 4 then some denied
  else if h.kind = 0 || 4 < h.kind.toNat || (cost && h.kind ≠ 4) then some encodingBad
  else if !versionAccepted s.fe.tblVersions h.kind h.version then
    some (St.versionMismatch, if h.kind = 1 then 2 else 3)
  else if !cost && x.tsk.isEmpty then some denied
  else if (if cost then h.tenant ≠ 0 else q.entry.id == 0xF0 && h.tenant ≠ q.fn) ||
      (h.scope ≠ 0 && h.scope ≠ serialLow s) ||
      h.keygen ≠ (if cost then Config.lenziusKeygen else x.tskGen) || (!cost && h.sigAlg ≠ x.tskAlg) then
    some encodingBad
  else if !seqAccepted s (pairNo h.tenant h.kind.toNat) h (imageDigest h bs) then some denied
  else none

/-- The tables of a tenant as lists. -/
def tabPeals (s : State) (t : Fn) : List PealEntry := match (s.tabs t).peal with | some (_, l) => l | none => []
def tabFmts (s : State) (t : Fn) : List FmtEntry := match (s.tabs t).fmt with | some (_, l) => l | none => []

/-- Step 2 of a table load: the body, `none` when it is refused (R104, R105 to R122). -/
def bodyCheck (s : State) (h : TblHeader) (body : Bytes) : Option TableBody :=
  let t := h.tenant
  if h.kind = 1 then
    match parsePeals h.count body with
    | some l => if pealTableOk (tabFmts s t) (curvesOf s t) l then some (.peals l) else none
    | none => none
  else if h.kind = 2 then
    match parseFmts h.count body with
    | some l => if fmtTableOk l && crossOk (tabPeals s t) l (curvesOf s t) then some (.fmts l) else none
    | none => none
  else match parseCurves h.count body with
    | some l =>
      if rising (l.map (·.id.toNat)) && crossOk (tabPeals s t) (tabFmts s t) l then some (.curves l) else none
    | none => none

/-- The body part of an image. -/
def imageBody (h : TblHeader) (bs : Bytes) : Bytes := slice bs 64 h.bodyLen

/-- The verdict on an image's signature under its tenant's table-signing key (R100, R101). -/
def imageVerdict (s : State) (h : TblHeader) (bs : Bytes) : SigVerdict :=
  let x := s.tenant h.tenant
  ownerVerdict x.tskAlg x.tsk (bs.take (64 + h.bodyLen)) (bs.drop (64 + h.bodyLen))

/-- A table peal has its turn, or it waits with cause CAPACITY, or is refused for it with DESC.NO_WAIT (R103;
notes/assumptions/20.md). -/
def tableTurn (slot : PealSlot) (q : Peal) (kind : Nat) (f : State → State) (s : State) : State :=
  if !tableWaits s q kind then f s
  else if q.desc.noWait then failPeal slot (St.refused, 1) none s
  else s.mPeal slot fun q => { q with deferred := true, deferCause := if q.deferred then q.deferCause else 3 }

/-- A tenant table's load, step by step (R102). -/
def loadTable (slot : PealSlot) (q : Peal) (s : State) : State :=
  let bs := q.inputBytes
  let h := parseTblHeader bs
  match headerCheck s q h bs with
  | some st => opFail slot st 0 s
  | none =>
    match sigFault (imageVerdict s h bs) with
    | some st => opFail slot st 1 s
    | none =>
      match bodyCheck s h (imageBody h bs) with
      | none => opFail slot encodingBad 2 s
      | some b =>
        let dig := imageDigest h bs
        pass slot q dig (.loadTable h.tenant h.version h.seq dig b) s

/-- LOAD_OWN_TABLE: peal 0x00F0 (R102). -/
def execLoadOwnTable (slot : PealSlot) (_sig _curvesOk : Computed) (s : State) : Res :=
  runAdmin slot [0xF0] (fun q s => tableTurn slot q (parseTblHeader q.inputBytes).kind.toNat (loadTable slot q) s) s

/-- LOAD_TABLE_FOR_TENANT: peal 0x00F1, in Maintenance (R102). -/
def execLoadTableForTenant (slot : PealSlot) (_sig _curvesOk : Computed) (s : State) : Res :=
  runAdmin slot [0xF1] (fun q s =>
    if s.mode ≠ .maintenance then deny slot denied s
    else tableTurn slot q (parseTblHeader q.inputBytes).kind.toNat (loadTable slot q) s) s

/-- LOAD_COST_TABLE: peal 0x00FE (R309). -/
def execLoadCostTable (slot : PealSlot) (sig : SigVerdict) (s : State) : Res :=
  runAdmin slot [0xFE] (fun q s =>
    let bs := q.inputBytes
    let h := parseTblHeader bs
    match headerCheck s q h bs with
    | some st => opFail slot st 0 s
    | none =>
      match sigFault sig with
      | some st => opFail slot st 1 s
      | none =>
        match parseCosts h.count (imageBody h bs) with
        | none => opFail slot encodingBad 2 s
        | some t =>
          let dig := imageDigest h bs
          pass slot q dig (.loadCosts h.seq dig bs t) s) s

/-- CLEAR_OWN_TABLE: peal 0x00F4 (R102, R104). -/
def execClearOwnTable (slot : PealSlot) (s : State) : Res :=
  runAdmin slot [0xF4] (fun q s => tableTurn slot q 0 (fun s =>
    let k := opByte q
    let t := q.fn
    let ok := if k = 1 then true else if k = 2 then crossOk (tabPeals s t) [] (curvesOf s t)
              else crossOk (tabPeals s t) (tabFmts s t) []
    if k = 4 then deny slot denied s
    else if k = 0 || 4 < k.toNat || !ok then deny slot encodingBad s
    else pass slot q [] (.clearTable t k) s) s) s

/-- READ_BUILTIN_PEAL_TABLE: peal 0x00F3 (R96, R123). -/
def execReadBuiltinPealTable (slot : PealSlot) (s : State) : Res :=
  runAdmin slot [0xF3] (fun q s => pass slot q builtinImage .none s) s

/-- READ_COST_TABLE: peal 0x00FD returns the image in force (R309). -/
def execReadCostTable (slot : PealSlot) (s : State) : Res :=
  runAdmin slot [0xFD] (fun q s => pass slot q (s.gov.costImage.getD builtinCostImage) .none s) s

/-! Policies and maps, R108, R124, R226. -/

/-- SET_ALGORITHM_POLICY: peal 0x00F5 with 8 bytes (R226). -/
def execSetAlgorithmPolicy (slot : PealSlot) (s : State) : Res :=
  runAdmin slot [0xF5] (fun q s =>
    let bs := q.inputBytes
    if bs.length ≠ 8 then s
    else if 16 ≤ (bs.getD 1 0).toNat || (bs.getD 5 0).getLsbD 0 || !zeroAt bs 6 2 then deny slot encodingBad s
    else pass slot q [] (.algPolicy (bs.getD 0 0) (BitVec.ofNat 40 (le bs 1 5))) s) s

/-- READ_ALGORITHM_POLICY: peal 0x00F5 with 1 byte (R226). -/
def execReadAlgorithmPolicy (slot : PealSlot) (s : State) : Res :=
  runAdmin slot [0xF5] (fun q s =>
    let bs := q.inputBytes
    if bs.length ≠ 1 then s
    else pass slot q ([opByte q] ++ natLe 5 (algPolicy s (opByte q)).toNat ++ zeros 2) .none s) s

/-- SET_PERMISSION_MAP: peal 0x00F6 (R124). -/
def execSetPermissionMap (slot : PealSlot) (s : State) : Res :=
  runAdmin slot [0xF6] (fun q s =>
    let bs := q.inputBytes
    if !zeroAt bs 1 7 then deny slot encodingBad s
    else pass slot q [] (.permissionMap (bs.getD 0 0) (BitVec.ofNat 256 (le bs 8 32))) s) s

/-- The default entry of a Toll binding map (R108). -/
def tollDefault (id : Nat) : BitVec 8 := if id < 0x100 then 0xFF else 0xFE

/-- The entries of a Toll binding map that differ from the default. -/
def tollEntries (bs : Bytes) : SMap (BitVec 8) :=
  (List.range 512).filterMap fun i => if bs.getD i 0 = tollDefault i then none else some (i, bs.getD i 0)

/-- An entry of a Toll binding map is permitted (R108). -/
def tollEntryOk (i : Nat) (b : BitVec 8) : Bool := b.toNat < 0x10 || b == 0xFF || (b == 0xFE && 0x100 ≤ i)

/-- SET_TOLL_BINDING_MAP: peal 0x00F7 (R108). -/
def execSetTollBindingMap (slot : PealSlot) (s : State) : Res :=
  runAdmin slot [0xF7] (fun q s =>
    let bs := q.inputBytes
    let m := bs.drop 8
    if !zeroAt bs 1 7 || !(List.range 512).all (fun i => tollEntryOk i (m.getD i 0)) then deny slot encodingBad s
    else pass slot q [] (.tollMap (bs.getD 0 0) (tollEntries m) (sha384 (m.take 512))) s) s

/-! Journal lookups, R149 to R151. -/

/-- Live journal entries above CARRIED_LAST_SEQ (R149). -/
def liveEntries (s : State) : List JEntry := s.clap.journal.filter fun j => s.clap.carriedLast.toNat < j.seq.toNat

/-- The header and entries a lookup returns (Table 5-7): carried first, then live, at most 256. -/
def lookupOut (s : State) (hit : JEntry → Bool) : Bytes :=
  let mark (j : JEntry) : JEntry := { j with flags := j.flags ||| 0x20 }
  let all := (s.clap.carried.filter hit).map mark ++ (liveEntries s).filter hit
  let got := all.take 256
  let oldest := match liveEntries s with | j :: _ => j.seq.toNat | [] => (nextSeq s).toNat
  let word := got.length + (if 256 < all.length then 2 ^ 16 else 0) + (if s.clap.carriedComplete then 2 ^ 17 else 0) +
    2 ^ 18 * s.clap.carriedSource.toNat
  natLe 8 word ++ natLe 8 oldest ++ natLe 8 (nextSeq s).toNat ++ natLe 8 s.clap.carriedLast.toNat ++
    got.flatMap JEntry.bytes

/-- LOOKUP_BY_TAG: peal 0x00FA (R150). -/
def execLookupByTag (slot : PealSlot) (s : State) : Res :=
  runAdmin slot [0xFA] (fun q s =>
    let bs := q.inputBytes
    let t : Fn := if bs.length = 9 then bs.getD 8 0 else q.fn
    if q.fn ≠ 0 && t ≠ q.fn then deny slot denied s
    else pass slot q (lookupOut s fun j => j.tenant == t && j.tag.toNat == le bs 0 8) .none s) s

/-- READ_BY_SEQUENCE: peal 0x00FB (R150). The count is read as the width of the range of sequences: the model's choice, the
spec saying no more than that it is a count (notes/assumptions/144.md). -/
def execReadBySequence (slot : PealSlot) (s : State) : Res :=
  runAdmin slot [0xFB] (fun q s =>
    let bs := q.inputBytes
    let from_ := le bs 0 8
    let n := le bs 8 4
    if n = 0 || 256 < n then deny slot encodingBad s
    else pass slot q (lookupOut s fun j => j.tenant == q.fn && from_ ≤ j.seq.toNat && j.seq.toNat < from_ + n) .none s) s

/-- EMPTY_CARRIED_JOURNAL: peal 0x00FC (R149). -/
def execEmptyCarriedJournal (slot : PealSlot) (s : State) : Res :=
  runAdmin slot [0xFC] (fun q s => pass slot q [] .emptyCarried s) s

/-! The user region, R372, R373. -/

/-- A range of words as an operation names it: its first word in the region, and its length, `none` outside the window its
caller had at admission. -/
def userRange (q : Peal) (off count : Nat) : Option (Nat × Nat) :=
  let w := q.window
  if off + count ≤ 16 * w.2.toNat then some (16 * w.1.toNat + off, count) else none

/-- A read of words of the user region waits: the command in progress is writing one of their pages, or a write of some of
them, or of their window's pages, that was admitted before has not ended (R357, R373). -/
def userBusy (s : State) (q : Peal) (addr n : Nat) : Bool :=
  let hits (a len : Nat) : Bool := decide (0 < len) && decide (a < addr + n) && decide (addr < a + len)
  let first := (userBase + addr) / 256
  let last := (userBase + addr + n - 1) / 256
  (match s.nv.current with
    | some c => (c.data.pages s.nv.array).any fun p => decide (first ≤ p) && decide (p ≤ last)
    | none => false) ||
  s.peals.any fun e => e.2.seq < q.seq && e.2.phase ≠ .committed && e.2.phase ≠ .failed && (match e.2.effect with
    | .userWrite a bs => hits a bs.length
    | .userWindow t page count => (pageRuns (newPages s t page.toNat count.toNat)).any fun r => hits (256 * r.1) (256 * r.2)
    | _ => false)

/-- USER_REGION_READ: operation 0x01 of peal 0x00F2 (R372, R373). -/
def execUserRegionRead (slot : PealSlot) (s : State) : Res :=
  runAdmin slot [0xF2] (fun q s =>
    let bs := q.inputBytes
    let n := le bs 2 2
    if bs.length ≠ 8 then s
    else if opByte q ≠ 1 || !zeroAt bs 1 1 || n = 0 || 256 < n then deny slot encodingBad s
    else match userRange q (le bs 4 4) n with
      | none => deny slot denied s
      | some (w, _) =>
        if userBusy s q (16 * w) (16 * n) then s
        else pass slot q (storeGet s.nv.seen (userBase + 16 * w) (16 * n)) .none s) s

/-- USER_REGION_WRITE: operation 0x02 of peal 0x00F2 (R372, R373). -/
def execUserRegionWrite (slot : PealSlot) (s : State) : Res :=
  runAdmin slot [0xF2] (fun q s =>
    let bs := q.inputBytes
    let n := le bs 2 2
    if bs.length < 24 then s
    else if opByte q ≠ 2 || !zeroAt bs 1 1 || n = 0 || 256 < n || bs.length ≠ 8 + 16 * n then deny slot encodingBad s
    else match userRange q (le bs 4 4) n with
      | none => deny slot denied s
      | some (w, _) =>
        if 16 < (w + n - 1) / 16 - w / 16 + 1 then deny slot denied s
        else pass slot q [] (.userWrite (16 * w) (bs.drop 8)) s) s

/-- A window would overlap another tenant's. -/
def windowClash (s : State) (t page count : Nat) : Bool :=
  s.nv.windows.any fun w => w.1 ≠ t && page < w.2.1.toNat + w.2.2.toNat && w.2.1.toNat < page + count

/-- SET_USER_WINDOW: operation 0x03 of peal 0x00F2 (R372, R373). -/
def execSetUserWindow (slot : PealSlot) (s : State) : Res :=
  runAdmin slot [0xF2] (fun q s =>
    let bs := q.inputBytes
    let t := bs.getD 1 0
    let page := le bs 4 2
    let n := le bs 6 2
    if bs.length ≠ 16 then s
    else if opByte q ≠ 3 then deny slot encodingBad s
    else if q.fn ≠ 0 then deny slot denied s
    else if t = 0 || !zeroAt bs 2 2 || !zeroAt bs 8 8 || 2047 < page || 2048 < n then deny slot encodingBad s
    else if n ≠ 0 && (2048 < page + n || windowClash s t.toNat page n) then deny slot denied s
    else pass slot q [] (.userWindow t (BitVec.ofNat 16 page) (BitVec.ofNat 16 n)) s) s

/-- The pages of the regions, first and the one after the last (Table 13-1). -/
def regionPages (r : Nat) : Nat × Nat :=
  match r with
  | 0 => (0, 4096) | 1 => (4096, 5120) | 2 => (5120, 7168) | 3 => (7168, 9216) | 4 => (9216, 9472) | _ => (9472, 16384)
/-- The highest program count of a region's pages (R373, R374). -/
def regionWear (s : State) (r : Nat) : Nat :=
  let (a, b) := regionPages r
  ((s.nv.wear.filter fun e => decide (a ≤ e.1) && decide (e.1 < b)).map (·.2)).foldl max 0

/-- USER_REGION_STATUS: operation 0x04 of peal 0x00F2 (R373). -/
def execUserRegionStatus (slot : PealSlot) (s : State) : Res :=
  runAdmin slot [0xF2] (fun q s =>
    let w := q.window
    if q.inputBytes.length ≠ 1 then s
    else if opByte q ≠ 4 then deny slot encodingBad s
    else pass slot q (natLe 2 s.nv.spares.toNat ++ natLe 2 s.nv.remapped.toNat ++
      (List.range 6).flatMap (fun r => natLe 4 (regionWear s r)) ++ natLe 4 s.nv.writeFails.toNat ++
      natLe 4 s.nv.damaged.toNat ++ natLe 2 w.1.toNat ++ natLe 2 w.2.toNat ++ zeros 24) .none s) s

end Sys2Proof.Machine
end

