-- ==== Sys2Proof/Machine/Reports.lean ====
section
/-! DEFINITION. The health summary and report (R377 to R383) and pair control, peal 0x00EF (R390). -/
namespace Sys2Proof.Machine

/-! Health, R381 to R383. -/

/-- An engine's state code (Table 14-3). -/
def roleCode : EngRole → Nat
  | .active => 0 | .spare => 1 | .retired => 2 | .failed => 3

/-- HLTH_CLUSTER.STATE of a cluster. -/
def clusterCode (c : Cluster) : Nat := if !c.enabled then 1 else if !c.inService then 2 else 0

/-- Engine states packed, two bits each. -/
def packRoles : List EngineRec → Nat
  | [] => 0
  | e :: es => roleCode e.role + 4 * packRoles es

/-- Engine states of a cluster: those of one that is not enabled read FAILED, so that no engine of it is reported as
present (R2, notes/assumptions/134.md). -/
def clusterRoles (c : Cluster) (l : List EngineRec) : Nat := if c.enabled then packRoles l else 2 ^ (2 * l.length) - 1

/-- Clusters enabled, at least 1 as a divisor. -/
def enabledCount (s : State) : Nat := (s.clusters.filter (·.enabled)).length

/-- Active SEs and PKs on the device; a cluster failed at BIST contributes none (R383). -/
def activeSe (s : State) : Nat := ((s.clusters.filter fun c => c.enabled && c.inService).map fun c => activeCount c.se).sum
def activePk (s : State) : Nat := ((s.clusters.filter fun c => c.enabled && c.inService).map fun c => activeCount c.pk).sum

/-- A list of engines has a spare. -/
def hasSpare (l : List EngineRec) : Bool := l.any (·.role == .spare)

/-- The state byte of a Xeolink lane (Table 14-4): failed at BIST, or dropped from a link that is trained. -/
def laneCode (s : State) (i : Nat) (inUse : Bool) : BitVec 8 :=
  if !s.pair.lanes.getLsbD i then 2
  else if !inUse && (s.pair.link == .authenticating || s.pair.link == .up) then 3 else 0

/-- The state byte of a noise source. -/
def sourceCode : SrcState → BitVec 8
  | .failed => 3 | .unusable => 2 | .starting => 0 | .healthy => 0

/-- The device block record (Table 14-4). -/
def blockRecord (s : State) : Bytes :=
  let core (i : Nat) : BitVec 8 := if s.boot.blocksBad.getLsbD i then 2 else 0
  (List.range 6).map core ++ (List.range 4).map (fun i => (s.mem.chans.getD i MemChan.init).state.setWidth 8) ++
    (List.range 4).map (fun i => sourceCode (s.rng.sources.getD i NoiseSource.init).state) ++
    [0, if s.boot.blocksBad.getLsbD 6 then 2 else if s.boot.stewardUp then 0 else 3, core 7, core 8, if s.health.metronomeBad then 2 else 0, 0,
     if s.pwr.gongDegraded then 1 else 0, laneCode s 0 s.pair.lane0, laneCode s 1 s.pair.lane1] ++ zeros 9

/-- Some block is retired, failed or out of service (HLTH_SUMMARY.DEGRADED). -/
def degraded (s : State) : Bool :=
  let bad (l : List EngineRec) : Bool := l.any fun e => e.role == .retired || e.role == .failed
  (s.clusters.any fun c => c.enabled && (!c.inService || bad c.se || bad c.pk)) ||
    (blockRecord s).any fun b => b == 2 || b == 3

/-- HLTH_SUMMARY (Table 14-1). -/
def hlthSummary (s : State) : Nat :=
  let on := s.clusters.filter (·.enabled)
  activeSe s + 2 ^ 8 * activePk s + 2 ^ 16 * (on.filter fun c => !hasSpare c.se).length +
    2 ^ 21 * (on.filter fun c => !hasSpare c.pk).length + (if s.boot.coreMin then 2 ^ 26 else 0) +
    (if degraded s then 2 ^ 27 else 0)

/-- SE_PERMILLE and PK_PERMILLE (R383). -/
def sePermille (s : State) : Nat := 1000 * activeSe s / (4 * enabledCount s)
def pkPermille (s : State) : Nat := 1000 * activePk s / (5 * enabledCount s)
/-- HLTH_CAPACITY. -/
def hlthCapacity (s : State) : Nat := sePermille s + 2 ^ 16 * pkPermille s

/-- A cluster's record (Table 14-3). -/
def clusterRecord (s : State) (n : Nat) : Bytes :=
  let c := s.clusters.getD n Cluster.init
  let att (i : Nat) : Bytes := natLe 2 (smGet 0 s.health.attributed (16 * n + i)).toNat
  [BitVec.ofNat 8 n, BitVec.ofNat 8 (clusterCode c)] ++ natLe 2 (clusterRoles c c.se) ++ natLe 2 (clusterRoles c c.pk) ++ zeros 2 ++
    (List.range 5).flatMap att ++ (List.range 6).flatMap (fun i => att (5 + i)) ++ zeros 2

/-- The health report (R382). -/
def healthBytes (s : State) : Bytes :=
  [0x48, 0x4C, 0x54, 0x48, 1, s.fuses.grade.setWidth 8, BitVec.ofNat 8 (enabledCount s),
   BitVec.ofNat 8 ((if s.boot.coreMin then 1 else 0) + (if degraded s then 2 else 0))] ++
    natLe 8 s.clk.vtime.toNat ++ natLe 4 (hlthSummary s) ++ natLe 4 (hlthCapacity s) ++
    natLe 4 s.health.miscompares.toNat ++ natLe 4 s.health.noMajority.toNat ++ natLe 4 s.health.releaseFails.toNat ++
    natLe 4 s.health.spareFails.toNat ++ natLe 4 s.pair.failovers.toNat ++ natLe 4 s.pair.dualMismatch.toNat ++
    zeros 16 ++ (List.range 16).flatMap (clusterRecord s) ++ blockRecord s

/-- HEALTH_REPORT: peal 0x00EE (R382). -/
def execHealthReport (slot : PealSlot) (s : State) : Res :=
  runAdmin slot [0xEE] (fun q s => pass slot q (healthBytes s) .none s) s

/-! Pair control, R390. -/

/-- REGISTER_PARTNER: operation 0x01 of peal 0x00EF. -/
def execRegisterPartner (slot : PealSlot) (s : State) : Res :=
  runAdmin slot [0xEF] (fun q s =>
    let bs := q.inputBytes
    if bs.length ≠ 24 then s
    else if opByte q ≠ 1 || !zeroAt bs 1 7 then deny slot encodingBad s
    else if s.mode ≠ .maintenance then deny slot denied s
    else pass slot q [] (.registerPartner (slice bs 8 16)) s) s

/-- SET_REPLICATION_MODE: operation 0x02 of peal 0x00EF. -/
def execSetReplicationMode (slot : PealSlot) (s : State) : Res :=
  runAdmin slot [0xEF] (fun q s =>
    let bs := q.inputBytes
    if bs.length ≠ 8 then s
    else if opByte q ≠ 2 || 1 < (bs.getD 1 0).toNat || !zeroAt bs 2 6 then deny slot encodingBad s
    else if s.pair.partner.isNone then deny slot denied s
    else pass slot q [] (.replicationMode (bs.getD 1 0 == 1)) s) s

/-- The role map of an operation. -/
def roleMap (q : Peal) : BitVec 256 := BitVec.ofNat 256 (le q.inputBytes 8 32)

/-- TRANSFER_ROLES: operation 0x03 of peal 0x00EF, and an input of its length that names no other operation (R390,
R391). -/
def execTransferRoles (slot : PealSlot) (s : State) : Res :=
  runAdmin slot [0xEF] (fun q s =>
    if q.inputBytes.length ≠ 40 || opByte q = 4 then s
    else if opByte q ≠ 3 || !zeroAt q.inputBytes 1 7 then deny slot encodingBad s
    else if !s.pair.inService then deny slot denied s
    else pass slot q [] (.transferRoles (roleMap q)) s) s

/-- TAKE_ROLES: operation 0x04 of peal 0x00EF (R390). -/
def execTakeRoles (slot : PealSlot) (s : State) : Res :=
  runAdmin slot [0xEF] (fun q s =>
    if q.inputBytes.length ≠ 40 || opByte q ≠ 4 then s
    else if !zeroAt q.inputBytes 1 7 then deny slot encodingBad s
    else if s.pair.inService then deny slot denied s
    else pass slot q [] (.takeRoles (roleMap q)) s) s

end Sys2Proof.Machine
end

