-- ==== Sys2Proof/Machine/Nv.lean ====
section
/-! DEFINITION. The persistent store: the end of its commands, remapping, records of the Toll (R333 to R339, R352,
R358 to R370, R375). -/
namespace Sys2Proof.Machine

/-- The latch is copied to the log, newest first, which keeps 1,024 entries, and is emptied (R412). -/
def copyLatch (s : State) : State :=
  s.mTmp fun t => { t with log := (t.latch.reverse ++ t.log).take 1024, latch := [],
                           logTotal := t.logTotal + BitVec.ofNat 32 t.latch.length }

/-- A peal waits for one store write less. -/
def storeDone (p : Option PealSlot) (s : State) : State :=
  match p with
  | some p => s.mPeal p fun q => { q with storeWait := q.storeWait - 1 }
  | none => s

/-! The record log and base copies, R333 to R336. -/

/-- The newer valid base copy's log sequence (R336). -/
def newerBase (k : Toll) : Nat :=
  max (if k.baseA.valid then k.baseA.seq.toNat else 0) (if k.baseB.valid then k.baseB.seq.toNat else 0)
/-- The older base copy's log sequence: no record at or below it is kept. -/
def olderBase (k : Toll) : Nat :=
  min (if k.baseA.valid then k.baseA.seq.toNat else 0) (if k.baseB.valid then k.baseB.seq.toNat else 0)

/-- The log drops the records at or below the older base copy (R336). -/
def pruneLog (s : State) : State :=
  s.mToll fun k => { k with log := k.log.filter fun r => olderBase k < r.seq.toNat }

/-- A command writes a base copy, or the checkpoint before it. -/
def NvCmd.isBase (c : NvCmd) : Bool := match c.work with | .baseRec _ _ _ => true | .ledgerCheckpoint _ _ => true | _ => false
/-- A base copy write is under way. -/
def baseBusy (s : State) : Bool := (nvAll s).any NvCmd.isBase

/-- The log sequence of the last completed record. -/
def lastRecord (s : State) : Nat :=
  match s.toll.writing with | some r => r.seq.toNat - 1 | none => s.toll.logSeq.toNat

/-- The counters without the commits of journal mode that no group record holds yet, which their record will add (R338). -/
def recordedCounters (s : State) : SMap (BitVec 64) :=
  s.clap.late.foldl (fun m w => match w with
    | .group e => if e.toll.toNat < 16 then smMod 0 (tollIndex e.tenant e.toll) (· - 1) m else m
    | _ => m) s.toll.counters

/-- Write a base copy: eight parts of counters, then the header page (R334, R336). -/
def writeBase (copyA : Bool) (c : BaseCopy) (s : State) : State :=
  (List.range 9).foldl (fun s i => nvQueue 3 (.baseRec copyA c i) s) s

/-- Write the older base copy from a snapshot of all counters, after the ledger's checkpoint in both its copies (R178,
R336). -/
def startBase (s : State) : State :=
  let copyA := !s.toll.baseA.valid || (s.toll.baseB.valid && s.toll.baseA.seq.toNat ≤ s.toll.baseB.seq.toNat)
  let c : BaseCopy :=
    { seq := BitVec.ofNat 64 (lastRecord s), jseq := s.toll.lastOwn, counters := recordedCounters s, valid := true }
  writeBase copyA c ((List.range 4).foldl (fun s i => nvQueue 3 (.ledgerCheckpoint s.ks.ledger i) s) s)

/-- A base copy is due when the records above the newer one occupy 160 pages (R336). -/
def baseIfDue (s : State) : State :=
  let pages := ((s.toll.log.filter fun r => newerBase s.toll < r.seq.toNat).map LogRec.size).sum
  if 160 ≤ pages && !baseBusy s then startBase s else s

/-- A completed record joins the log (R334). -/
def LogRec.join (r : LogRec) (k : Toll) : Toll :=
  { k with writing := none, log := k.log ++ [r], logPage := r.page + r.size }

/-- What is still dirty once a delta record is complete: what changed after its snapshot (R178, R335). -/
def cleanBy (r : LogRec) (s : State) : State :=
  let inRec (i : Nat) : Bool := r.words.any fun w => match w with
    | .delta j v => j == i && v == smGet 0 s.toll.counters i
    | _ => false
  let ledIn (i : Nat) (e : LedgerEntry) : Bool := r.words.any fun w => match w with
    | .ledger j _ g u => j == i && g == e.gen && u == e.uses
    | _ => false
  (s.mToll fun k => { k with dirty := k.dirty.filter (!inRec ·) }).mKs fun q =>
    { q with ledger := q.ledger.map fun (i, e) => (i, if ledIn i e then { e with dirty := false } else e) }

/-- Raise the use ledger entry a charge names, if this device holds one (R394). -/
def raiseLedger (c : BitVec 128) (s : State) : State :=
  let x := c.toNat
  let k := keyNo (bitsAt x 0 8) (fieldNat x 32 24)
  let uses : BitVec 32 := bitsAt x 96 32
  let up := fun (e : LedgerEntry) =>
    if e.key = k && e.gen.toNat == fieldNat x 64 32 && e.uses.toNat < uses.toNat then { e with uses := uses, dirty := true } else e
  s.mKs fun q => { q with ledger := q.ledger.map fun (i, e) => (i, up e) }

/-- Raise it, unless that would make a 256th counter or entry dirty: it then waits for the record being written (R335, R394;
notes/assumptions/185.md). -/
def raiseOrWait (c : BitVec 128) (s : State) : State :=
  if 255 < dirtyCount (raiseLedger c s) then
    let s1 := s.mPair fun x => { x with raises := x.raises ++ [c] }
    if s.toll.journal then s1 else startDelta false false s1
  else raiseLedger c s

/-- Peals that held at the dirty limit may try again, and charges that waited are taken (R335). -/
def clearTollWait (s : State) : State :=
  let s1 : State := { s with peals := s.peals.map fun (k, q) => (k, { q with tollWait := false }) }
  s1.pair.raises.foldl (fun s c => raiseOrWait c s) (s1.mPair fun x => { x with raises := [] })

/-- Commits whose completion is not written, as a power-fail record takes them (R154). -/
def uncompleted (s : State) : List JEntry :=
  let due (j : JEntry) : Bool := !j.flags.getLsbD 4 && s.peals.any fun e =>
    e.2.phase == .committed && e.2.journalSeq == some j.seq.toNat
  (s.clap.journal.filter due).map fun j => { j with vtime := 0, flags := 0 }

/-- The last journal sequence given. -/
def lastSeq (s : State) : BitVec 64 := match s.clap.journal.getLast? with | some j => j.seq | none => 0

/-- Every count is in a completed record: no counter is dirty, and no commit of journal mode awaits its group record (R338,
R343). -/
def allRecorded (s : State) : Bool := s.toll.dirty.isEmpty && s.clap.late.isEmpty

/-- The log sequence of the record that will hold what is not recorded yet (R335, R338, R343). -/
def coveringRecord (s : State) : BitVec 64 :=
  if s.toll.journal then
    if s.toll.writing.isSome && s.clap.late.length ≤ s.clap.lateIn then s.toll.logSeq else s.toll.logSeq + 1
  else s.toll.logSeq + 1

/-- Statements whose counters a completed record holds go on; for the others the next record starts (R343). -/
def serveStatements (seq : BitVec 64) (s : State) : State :=
  let ready (w : PealSlot × BitVec 64) : Bool := w.2.toNat ≤ seq.toNat || allRecorded s
  let s1 := (s.toll.stmtWaits.filter ready).foldl (fun s w => storeDone (some w.1) s)
    (s.mToll fun k => { k with stmtWaits := k.stmtWaits.filter (!ready ·) })
  if s1.toll.stmtWaits.isEmpty || s1.toll.journal then s1 else startDelta false false s1

/-- A delta record has been written (R335): its counters are clean, a base copy may fall due, and after a FINAL record
on PFWARN_N the power-fail record starts (Table 13-4); with 192 dirty by now, the next record starts. -/
def deltaWritten (r : LogRec) (s : State) : State :=
  let s1 := cleanBy r (s.mToll r.join)
  let s2 := if r.final && s.pwr.pfwarn then nvQueue 1 (.powerFail (lastSeq s) (uncompleted s)) s1 else s1
  let s3 := whenDo (r.final && !s.pwr.pfwarn) (fun s => s.mClap fun c => { c with stopped := false }) s2
  tollClear (deltaIfDue (journalSwitch (serveStatements r.seq (baseIfDue (clearTollWait s3)))))

/-! The end of a Steward-held record and of a group record. -/

/-- The write of a peal's Steward-held record has ended, and the peal takes its commit point, unless what its operation needs
has lapsed meanwhile (R18, R219). At the Toll's dirty limit it holds (R335). -/
def recordWritten (slot : PealSlot) (s : State) : State :=
  match s.peal slot with
  | none => s
  | some q =>
    if q.phase ≠ .writing || q.storeWait ≠ 0 || s.clap.writing.contains slot || 255 ≤ committedWaiting s || tripped s then s
    else match effectLapse s q.effect with
    | some st => failPeal slot st none s
    | none =>
      if !s.toll.journal && 255 < dirtyCount s + newDirty s q then holdDirty slot q s
      else tollClear (commitPeal slot none s)

/-- The ledger entries of a record's words are clean (R178). -/
def cleanLedger (words : List LogWord) (s : State) : State :=
  s.mKs fun k => { k with ledger := k.ledger.map fun (i, e) =>
    (i, if words.any (fun w => match w with | .ledger j _ _ _ => j == i | _ => false) then { e with dirty := false } else e) }

/-- The peals of a group commit in order, under sequences from `seq` on (R155). -/
def commitGroup (g : List PealSlot) (seq : BitVec 64) (s : State) : State :=
  (List.range g.length).foldl (fun s i => match g[i]? with
    | some p => commitPeal p (some (seq.toNat + i)) s
    | none => s) s

/-- A group record has been written, which is the commit point of every peal of the group (R155, R338); a base copy may fall
due (R336). -/
def groupWritten (r : LogRec) (s : State) : State :=
  let g := s.clap.writing
  let (seq, s0) := takeSeqs g.length s
  let r1 := { r with words := groupRecord s s.clap.lateIn g seq }
  let s1 := ((s0.mClap fun c => { c with writing := [], groupDone := false, late := c.late.drop c.lateIn, lateIn := 0 }).mToll
    r1.join).mNv fun n => n.put (tollAddr (661 + r1.page)) r1.bytes
  let s2 := cleanLedger r1.words (commitGroup g seq s1)
  tollClear (journalSwitch (serveStatements r1.seq (baseIfDue (clearTollWait s2))))

/-! The end of a command. -/

/-- A key's cell takes a value of H, never a lower one. -/
def raiseCell (k h : Nat) (s : State) : State :=
  let up := fun (c : CounterCell) => if c.key = k && c.h.toNat < h then { c with h := BitVec.ofNat 64 h } else c
  s.mKs fun q => { q with cells := q.cells.map fun (i, c) => (i, up c) }

/-- A counter cell write has ended: the cell holds the new H, and the partner is told of it (R240, R392, R393). -/
def cellWritten (k h : Nat) (s : State) : State :=
  let s1 := (raiseCell k h s).mSpace k fun sp => if sp.writing = some h then { sp with stored := true } else sp
  if s.pair.partner.isNone then s1
  else
    let gen := match s.krec k with | some r => r.gen.toNat | none => 0
    let (f, s2) := xlSendAcked 0x03 (natLe 4 (keyTenant k).toNat ++ natLe 4 (keyHandle k) ++ natLe 4 gen ++ natLe 8 h) s1
    s2.mPair fun x => { x with hwmPending := x.hwmPending.filter (·.2 ≠ k) ++ [(f, k)] }

/-- The partner's H of a key has been written to this device's cell: its frame may be acknowledged (R394). -/
def partnerCellWritten (k h : Nat) (frame : BitVec 64) (s : State) : State :=
  let up := fun (r : KeyRec) => if r.ivHwm.toNat < h then { r with ivHwm := BitVec.ofNat 64 h } else r
  let s1 := ((raiseCell k h s).mSpace k fun sp => { sp with h := max sp.h h }).mRec k up
  s1.mPair fun x => { x with rxHold := x.rxHold.filter (·.1 ≠ frame) }

/-- The Lockdown record is written, and LC_SEQ rises once unless the cause is 23 (R415). -/
def lockRecorded (s : State) : State :=
  match s.tmp.lock with
  | none => s
  | some l =>
    if s.tmp.lockRecord then s
    else (s.mTmp fun t => { t with lockRecord := true }).mLc fun c =>
      { c with lcSeq := if l.cause = 23 then c.lcSeq else c.lcSeq + 1 }

/-- Two events of one sensor, the later less than 1 s after the other (R412). -/
def TamperEntry.joins (e n : TamperEntry) : Bool :=
  e.sensor == n.sensor && decide (n.vtime.toNat < e.last.toNat + 32768)

/-- Add one event to an entry. -/
def TamperEntry.add (e n : TamperEntry) (overflow : Bool) : TamperEntry :=
  { e with count := if e.count = 0xFFFFFFFF then e.count else e.count + 1, last := n.vtime,
           coalesced := e.coalesced || !overflow, overflow := e.overflow || overflow }

/-- A tamper log entry goes to the tamper latch: into the entry of an event of its sensor less than 1 s before, in the
latch or copied already, else to a new entry, or into the last one when 16 are held (R412). -/
def latchEntry (n : TamperEntry) (s : State) : State :=
  let join := fun (e : TamperEntry) => if e.joins n then e.add n false else e
  s.mTmp fun t =>
    if t.latch.any (·.joins n) then { t with latch := t.latch.map join }
    else if t.log.any (·.joins n) then { t with log := t.log.map join }
    else if t.latch.length < 16 then { t with latch := t.latch ++ [n], logSinceReset := satInc16 t.logSinceReset }
    else { t with latch := modAt 15 (·.add n true) t.latch }

/-- A committed response table and polarity are in force, with their tamper log entry (R434). -/
def responseWritten (table : BitVec 44) (polarity : BitVec 4) (s : State) : State :=
  latchEntry { sensor := 0x1F, response := 0, onBattery := false, coalesced := false, overflow := false, count := 1,
               vtime := s.clk.vtime, last := s.clk.vtime }
    (s.mTmp fun t => { t with response := table, polarity := polarity, commitBusy := false })

/-! The sealed root record, R196, R198, R200. -/

/-- A copy of the sealed root record is written, or lost (R198, R370). -/
def rootCopyWritten (lost : Bool) (s : State) : State :=
  match s.root.forming with
  | none => s
  | some v => placeRecord lost rootAt (BitVec.ofNat 32 v.epoch) (sealRoot s v.secret.value) s

/-- The first copy of the sealed root record is followed by the second, which ends the forming of the root secret (R198,
R200). -/
def rootCopyEnds (second : Bool) (s : State) : State :=
  if s.root.forming.isNone then s
  else if second then s.mRoot fun r => { r with forming := none } else nvQueue 5 (.rootCopy true) s

/-- What waited for a revocation's write goes on: its peal, and the partner's REVOKE (R192, R394). -/
def revocationEnds (k : Nat) (p : Option PealSlot) (s : State) : State :=
  storeDone p (s.mPair fun x => { x with rxHold := x.rxHold.filter fun r => !(r.2.1 && r.2.2 == k) })

/-- What a command's end does (R332, R335, R336, R240, R177, R192, R154, R18). -/
def workDone (w : NvWork) (s : State) : State :=
  match w with
  | .deltaRec r => if s.toll.writing = some r then deltaWritten r s else s
  | .groupRec r => if s.toll.writing = some r then s.mClap fun c => { c with groupDone := true } else s
  | .baseRec copyA c i =>
    let c1 := { c with valid := i == 8 }
    let s1 := s.mToll fun k => if copyA then { k with baseA := c1 } else { k with baseB := c1 }
    if i ≠ 8 then s1 else pruneLog (s1.mToll fun k => { k with regionUsed := k.regionUsed || (k.baseA.valid && k.baseB.valid) })
  | .tollState p => storeDone p s
  | .tollMark h => s.mToll fun k => { k with stmtHwm := h }
  | .sealCount p =>
    storeDone p (raiseDev .tollSealChange (s.mToll fun k =>
      { k with sealEvents := BitVec.ofNat 32 (spreadValue s.nv.array sealCells) }))
  | .sealEntry p _ e => storeDone p (s.mToll fun k => { k with sealLog := lastN 48 (k.sealLog ++ [e]) })
  | .tollImage p _ => storeDone p s
  | .closing bs i n => if i + 1 = n then s.mToll fun k => { k with closing := some bs } else s
  | .powerFail _ _ => s.mNv fun n => { n with pfDone := true }
  | .cell k h => cellWritten k h s
  | .partnerCell k h f => partnerCellWritten k h f s
  | .cellRewrite k p =>
    let up := fun (c : CounterCell) => if c.key = k then { c with gen := cellGen s k c.gen } else c
    storeDone p (s.mKs fun q => { q with cells := q.cells.map fun (i, c) => (i, up c) })
  | .revocation k p => nvQueue 2 (.setHome k) (revocationEnds k p s)
  | .setHome _ => s
  | .ledgerCheckpoint _ _ => s
  | .stewardRecord p _ => storeDone (some p) s
  | .vtimeCheckpoint _ => s
  | .epoch => s
  | .wipe _ _ => s
  | .lifeCycle e => s.mLc fun l => { l with journal := lastN 64 (l.journal ++ [e]) }
  | .tamperLog => copyLatch s
  | .lockRecord => lockRecorded (s.noteWritten (.lockRecord true))
  | .response t p => responseWritten t p (s.noteWritten (.response 0 0))
  | .recoveryKey k => (s.noteWritten (.recoveryKey none)).mLc fun l => { l with recoveryKey := some k, busy := false, result := 1 }
  | .rootCopy second => rootCopyEnds second (rootCopyWritten false s)
  | .roleMap _ => s.noteWritten (.roles 0)
  | .retirement e => s.noteWritten (.retirement e)

/-- A key's cell is marked exhausted (R370, Table 8-6). -/
def exhaustCell (k : Nat) (s : State) : State := s.mCell k fun c => { c with exhausted := true }

/-- The commands of a base copy, and of the checkpoint before it, are given up. -/
def dropBase (s : State) : State :=
  s.mNv fun n => { n with queue := n.queue.filter (!NvCmd.isBase ·), stopped := n.stopped.filter (!NvCmd.isBase ·) }

/-- A base copy is written again from a fresh snapshot (R352); the first two of a region, which nothing is charged in yet, with
their own. -/
def baseAgain (copyA : Bool) (c : BaseCopy) (s : State) : State :=
  if s.toll.regionUsed then startBase (dropBase s)
  else writeBase copyA c (s.mNv fun n => { n with queue := n.queue.filter fun x => match x.work with
    | .baseRec a _ _ => a ≠ copyA
    | _ => true })

/-- What a command that finds no spare does (R370, R352): a cell is exhausted, a Toll record is written again from a
fresh snapshot, and any other requester proceeds as if it had succeeded, the store holding what it held. The partner's H
is acknowledged where its cell is exhausted (notes/assumptions/51.md, DESIGN CHOICE). -/
def workFailed (w : NvWork) (s : State) : State :=
  match w with
  | .cell k _ => exhaustCell k (s.mSpace k fun sp => { sp with writing := none, stored := false })
  | .partnerCell k _ f => exhaustCell k (s.mPair fun x => { x with rxHold := x.rxHold.filter (·.1 ≠ f) })
  | .cellRewrite k p => storeDone p (exhaustCell k s)
  | .deltaRec r =>
    if s.toll.writing = some r then
      startDelta r.final true (raiseDev .tollWriteFail (s.mToll fun k => { k with writing := none, logSeq := r.seq - 1 }))
    else s
  | .groupRec r => nvQueue 2 (.groupRec r) (raiseDev .tollWriteFail s)
  | .baseRec copyA c _ => baseAgain copyA c (raiseDev .tollWriteFail s)
  | .ledgerCheckpoint _ _ => startBase (raiseDev .tollWriteFail (dropBase s))
  | .tollState p => nvQueue 3 (.tollState p) (raiseDev .tollWriteFail s)
  | .tollMark h => nvQueue 3 (.tollMark h) (raiseDev .tollWriteFail s)
  | .sealCount p => nvQueue 3 (.sealCount p) (raiseDev .tollWriteFail s)
  | .sealEntry p i e => nvQueue 3 (.sealEntry p i e) (raiseDev .tollWriteFail s)
  | .tollImage p i => nvQueue 3 (.tollImage p i) (raiseDev .tollWriteFail s)
  | .closing bs i n => nvQueue 3 (.closing bs i n) (raiseDev .tollWriteFail s)
  | .powerFail last l => workDone (.powerFail last l) s
  | .setHome _ => s
  | .epoch => s
  | .revocation k p => nvQueue 2 (.setHome k) (revocationEnds k p s)
  | .stewardRecord p i => storeDone (some p) (s.mPeal p fun q => { q with lostWrites := q.lostWrites ++ [i] })
  | .vtimeCheckpoint _ => s
  | .wipe _ _ => s
  | .lifeCycle e => (workDone (.lifeCycle e) s).noteLost (.lifeCycle e)
  | .tamperLog => (copyLatch s).noteLost (.tamperLog s.tmp.latch)
  | .lockRecord =>
    let t := lockRecorded s
    if s.tmp.lockRecord then t else t.noteLost (.lockRecord (t.lc.lcSeq ≠ s.lc.lcSeq))
  | .response t p => (responseWritten t p s).noteLost (.response s.tmp.response s.tmp.polarity)
  | .recoveryKey k => (s.mLc fun l => { l with recoveryKey := some k, busy := false, result := 1 }).noteLost
      (.recoveryKey s.lc.recoveryKey)
  | .rootCopy second => rootCopyEnds second (rootCopyWritten true s)
  | .roleMap old => s.noteLost (.roles old)
  | .retirement e => s.noteLost (.retirement e)

/-! Interruption, R361. -/

/-- A byte in which each bit is old or new: `pick` says which (Table 13-3). -/
def mixedBytes (old new_ pick : Bytes) : Bytes :=
  (List.range new_.length).map fun j => (old.getD j 0 &&& pick.getD j 0) ||| (new_.getD j 0 &&& ~~~pick.getD j 0)

/-- The first `n` words of a write are new; where the write was not stopped at a word boundary, each bit of the next is old or
new; the others are old (Table 13-3). -/
def tearWrite (addr : Nat) (bs : Bytes) (n : Nat) (boundary : Bool) (pick : Bytes) (m : List Host.Cell) : List Host.Cell :=
  let m1 := storePut addr (bs.take (16 * n)) m
  let a := addr + 16 * n
  let word := (bs.drop (16 * n)).take 16
  if boundary then m1 else storePut a (mixedBytes (storeGet m a 16) word pick) m1

/-- The bytes of a command that its owner would have placed as its write ended: free values. -/
def NvData.openBytes (n : Nat) (m : List Host.Cell) (d : NvData) : Bytes :=
  match d with
  | .late _ _ => (List.range (d.size m)).map fun j => Config.freeByte (n + j)
  | .lateWords _ _ => (List.range (d.size m)).map fun j => Config.freeByte (n + j)
  | _ => (d.writes m).2

/-- A command cut off: some of its words are new, and one may be mixed (R361). -/
def cutOff (boundary : Bool) (s : State) (c : NvCmd) : State :=
  let k := s.rng.calls
  let bs := c.data.openBytes (k + 17) s.nv.array
  let pick := (List.range 16).map fun j => Config.freeByte (k + 1 + j)
  (s.mRng fun g => { g with calls := k + 17 + bs.length }).mNv fun v => { v with
    array := tearWrite (c.data.writes v.array).1 bs (Config.openCount k % (bs.length / 16 + 1)) boundary pick v.array }

/-- A command was cut off whose words all stand: a cell whose rewrite it was belongs to the new generation, and an entry of the
life-cycle journal is there (R177, R361, R367, R428). -/
def keepWhole (s : State) (c : NvCmd) : State :=
  match c.data, c.work with
  | .cell i k gen _ _, _ =>
    if (cellCopies s.nv.array i k gen).isEmpty then s
    else s.mKs fun q => { q with cells := q.cells.map fun e => if e.1 = i && e.2.key = k then (i, { e.2 with gen := gen }) else e }
  | _, .lifeCycle e =>
    if storeGet s.nv.array (lcAddr e) 64 == e.bytes then s.mLc fun l => { l with journal := lastN 64 (l.journal ++ [e]) } else s
  | _, _ => s

/-- The state of the store's words after a loss of main power or a reset, as its commands are interrupted: the command in
progress between two words or within one, a stopped one at a word boundary. A role map or a retirement count not written is
old (R361, R365 to R368; notes/assumptions/169.md, 174.md, 176.md). -/
def interrupted (s : State) : State :=
  let s1 := s.nv.current.toList.foldl (cutOff false) (s.nv.stopped.toList.foldl (cutOff true) s)
  let s2 := (s.nv.current.toList ++ s.nv.stopped.toList).foldl keepWhole s1
  (nvAll s).foldr (fun c s => match c.work with
    | .roleMap old => Unstored.restore s (.roles old)
    | .retirement e => Unstored.restore s (.retirement e)
    | _ => s) s2

/-! Endurance, R369. -/

/-- A page is remapped: it stands on a fresh page that has been written once (R369). -/
def remap (page : Nat) (s : State) : State :=
  let n := s.nv.spares - 1
  whenDo (n == 64) (raiseDev .nvSparesLow) (raiseDev .nvRemap (s.mNv fun v =>
    { v with spares := n, remapped := v.remapped + 1, wear := smInsert page 1 v.wear }))

/-- The program cycles a page endures. -/
def endurance : Nat := 100000000

/-- The pages of a command that reach their endurance with it (R369). -/
def wornPages (s : State) (ps : List Nat) : List Nat := ps.filter fun p => endurance ≤ smGet 0 s.nv.wear p + 1

/-- One program cycle on each page of a command (R369). -/
def countCycles (ps : List Nat) (s : State) : State :=
  s.mNv fun n => { n with wear := ps.foldl (fun m p => smMod 0 p (· + 1) m) n.wear }

/-- A page whose word failed its second reprogramming: which of the command's pages is open. -/
def failedPage (s : State) (ps : List Nat) : Nat := ps.getD (Config.openCount s.rng.calls % ps.length) 0

/-- The store goes on with its next command, after the gap that follows a Steward command (R359, R360). -/
def nextCommand (s : State) : State := s.mNv fun n => NvStore.kick s.clk.now n

/-- STEWARD_COMMAND_GAP_EXPIRE: 200 µs after a Steward command the store may start the next one (R360). -/
def execStewardCommandGapExpire (s : State) : Res :=
  .next (if s.nv.gapUntil ≤ s.clk.now then nextCommand s else s)

/-- TOLL_DELTA_RECORD_TIMER: 1 s of vault time after the last record started, the dirty counters and ledger entries are
written (R178, R335). -/
def execTollDeltaRecordTimer (s : State) : Res :=
  .next (if dirtyCount s = 0 || s.toll.journal || s.clk.vtime.toNat < s.toll.lastRecordAt + 32768 || s.pwr.pfwarn ||
      !onMain s then s
  else startDelta false false s)

/-- JOURNAL_MODE_BATTERY_TIMER: a battery has been present for 1 s, which ends journal mode under AUTO at the next
group boundary (R338). -/
def execJournalModeBatteryTimer (s : State) : Res :=
  .next (if onMain s && !journalWanted s && s.toll.journal then journalJudge s else s)

end Sys2Proof.Machine
end

