-- ==== Sys2Proof/Machine/Resets.lean ====
section
/-! DEFINITION. What stops work: function-level reset, loss of the link, PCIe reset, Lockdown and the Gong (R62 to R69,
R413 to R417, R437, R438, R489). -/
namespace Sys2Proof.Machine

/-! Rings and functions. -/

/-- A submission ring after an FLR or a loss of the link: its outstanding descriptors count as suppressed, its
parameters return to their reset values and its conservation counters stay (R54, R63). -/
def SubRing.wiped (q : SubRing) : SubRing :=
  { SubRing.init with consumed := q.consumed, posted := q.posted,
                      suppressed := q.suppressed + q.outstanding.setWidth 64 }

/-- Every ring of the functions hit is DISABLED at its reset values. -/
def wipeRings (hit : Fn → Bool) (s : State) : State :=
  let hitSq (k : Nat) : Bool := match sqOwner s (BitVec.ofNat 16 k) with | some f => hit f | none => true
  let hitCq (k : Nat) : Bool := match cqOwner s (BitVec.ofNat 13 k) with | some f => hit f | none => true
  s.mFe fun e => { e with
    sqs := smMap SubRing.init (fun k q => if hitSq k then q.wiped else q) e.sqs,
    cqs := smMap CplRing.init (fun k q => if hitCq k then CplRing.init else q) e.cqs }

/-- Change every function's interface state. -/
def mapFuncs (f : Nat → Func → Func) (s : State) : State :=
  s.mFe fun e => { e with funcs := smMap Func.init f e.funcs }

/-- Peals in commit order, those without a journal entry first. -/
def byCommit (l : SMap Peal) : SMap Peal := l.mergeSort fun a b => (a.2.journalSeq.getD 0) ≤ (b.2.journalSeq.getD 0)

/-! Function-level reset, R63, Table 18-11. -/

/-- What an FLR keeps of a function's interface state (R158, Table 18-11). -/
def Func.afterFlr (fn : Nat) (f : Func) : Func :=
  { Func.init with locked := fn == 0 && f.locked, recovery := f.recovery, recOverflow := f.recOverflow,
                   recAt := f.recAt, recFresh := f.recFresh, recFreshOver := f.recFreshOver,
                   hktBase := f.hktBase, hktEntries := f.hktEntries }

/-- An FLR reaches a peal: it stops before its commit, or its completion is suppressed (R63). -/
def flrPeal (s : State) (e : Nat × Peal) : State :=
  let p := BitVec.ofNat 12 e.1
  match e.2.phase with
  | .running => abortPeal .flr p s
  | .grouped => abortPeal .flr p s
  | .writing =>
    if begun s p then s.mPeal p fun q => { q with suppressed := true, abort := some .flr } else abortPeal .flr p s
  | .committed =>
    if e.2.suppressed then s else noteSuppressed p (s.mPeal p fun q => { q with suppressed := true })
  | .failed => s.mPeal p fun q => { q with suppressed := true }

/-- The FLR of the functions hit (R63). -/
def flrOn (hit : Fn → Bool) (s : State) : State :=
  let s1 := s.mFe fun e => { e with waiting := e.waiting.filter (!hit ·.fn), ready := e.ready.filter (!hit ·.fn) }
  let s2 := (byCommit (s1.peals.filter fun e => hit e.2.fn)).foldl flrPeal s1
  mapFuncs (fun k f => if hit (BitVec.ofNat 8 k) then f.afterFlr k else f) (wipeRings hit s2)

/-! Loss of the link and PCIe reset, Table 2-9, R438. -/

/-- A loss of the link reaches a peal: it stops without effect, or its completion is not written (Table 5-8). -/
def dropPeal (s : State) (e : Nat × Peal) : State :=
  let p := BitVec.ofNat 12 e.1
  match e.2.phase with
  | .running => abortPeal .linkLoss p s
  | .grouped => abortPeal .linkLoss p s
  | .writing => if begun s p then s.mPeal p fun q => { q with suppressed := true } else abortPeal .linkLoss p s
  | _ => s.mPeal p fun q => { q with suppressed := true }

/-- Everything outstanding is discarded and every ring DISABLED at its reset values (Table 2-9, R67). -/
def discardWork (s : State) : State :=
  let s1 := s.mFe fun e => { e with waiting := [], ready := [] }
  wipeRings (fun _ => true) (s1.peals.foldl dropPeal s1)

/-- A mode that needs the link falls back to Rest, Surge withdrawn first (Table 1-7). -/
def toRest (s : State) : State := if s.mode.working then (withdrawSurge s).enter .rest else s

/-- The link leaves L0 (Table 2-9, row 3). -/
def dropLink (s : State) : State := toRest (discardWork (s.mFe fun e => { e with linkL0 := false }))

/-- What a PCIe reset keeps of a function's interface state (Table 18-11). -/
def Func.afterPcie (f : Func) : Func := { Func.init with hktBase := f.hktBase, hktEntries := f.hktEntries }

/-- The PCIe reset column of Table 18-11, with VF Enable and configuration space. -/
def pcieReset (s : State) : State :=
  let s1 := mapFuncs (fun _ f => f.afterPcie) (dropLink s)
  s1.mFe fun e => { e with vfEnable := false, numVfs := 0, vfVectors := 64, vfVectorsInForce := 64,
                           cfgReady := false, reported := false }

/-- Rest becomes Ready once the link is in L0 and the function reports ready (Table 1-7). -/
def toReady (s : State) : State :=
  if s.mode = .rest && s.fe.linkL0 && s.fe.reported then s.enter .ready else s

/-! Clusters. -/

/-- An engine that holds nothing. -/
def EngineRec.emptied (now : Nat) (e : EngineRec) : EngineRec :=
  { e.cleared with held := [], selfTest := none, testPaused := false, idleSince := if e.job.isSome then now else e.idleSince }

/-- A power-gated cluster: key cache, operand memories, the NTT unit's buffers and Rimshot store are zeroised (R20). -/
def Cluster.gated (now : Nat) (st : ClState) (c : Cluster) : Cluster :=
  { c with state := st, gating := false, waking := none, wakeAfterGating := false, idleSince := none, cache := [],
           ntt := [], nttBuf := Shares.none,
           se := c.se.map (·.emptied now), pk := c.pk.map (·.emptied now) }

/-- Every cluster is power-gated, and with them every group's PLL is off (R19). -/
def gateAll (s : State) : State := s.mClusters fun cs => cs.map (·.gated s.clk.now .pllOff)

/-! Lockdown, R415 to R417. -/

/-- Lockdown reaches a peal that has not begun its commit: it is ABORTED at once, its cluster being gated. -/
def lockPeal (s : State) (e : Nat × Peal) : State :=
  let p := BitVec.ofNat 12 e.1
  if e.2.phase = .running || e.2.phase = .grouped || (e.2.phase = .writing && !begun s p) then
    endPeal p AbortCause.lockdown.stat none (s.mPeal p fun q =>
      { q with phase := .running, abort := some (q.abort.getD .lockdown), sealedAt := none, storeWait := 0 })
  else s

/-- Lockdown reaches a submission ring: it drains to DISABLED, its descriptors that cannot be fetched ending at once
(Table 2-9). -/
def lockRing (s : State) (k : Nat) : State :=
  let r := BitVec.ofNat 16 k
  let q := s.sq r
  if q.state = RingState.disabled then s
  else
    let s1 := match sqOwner s r with
      | some fn => if q.state = RingState.error then flushUnfetched fn r q.unfetched s else s
      | none => s
    s1.mSq r fun x => SubRing.drain { x with state := .resetting }

/-- The rings in Lockdown with the link in L0 (Table 2-9, row 2). -/
def lockRings (s : State) : State :=
  let s1 := s.peals.foldl lockPeal s
  let s2 := s1.fe.waiting.foldl (fun s w => refuseWaiting w (St.flushed, 3) s) s1
  (lockdownCqs ((s2.fe.sqs.map (·.1)).foldl lockRing s2)).mFe fun e => { e with lockdownAt := some s.clk.now }

/-- Every instance is zeroised, I3 alone instantiated again when the pool allows, the pool zeroised, and the clusters' masking
generators stop (R282, R417, Table 10-8). -/
def lockDrbgs (s : State) : State :=
  let waits := s.rng.held.any (·.who == .challenge)
  let s0 := whenDo waits (State.mLc fun l => { l with busy := false, result := 6 }) s
  let s1 := s0.mRng fun g => { g with drbg := [], held := [] }
  let s2 := if canSeed s1 && !s1.rng.outage then seedDrbg (instI 3) s1 else s1
  (s2.mRng fun g => { g with pool := [] }).mClusters fun cs => cs.map fun c => { c with maskKey := none, maskPos := 0 }

/-- The mode Lockdown, Surge withdrawn first (R24), with its boot stage. -/
def lockdownMode (s : State) : State := State.mBoot (fun b => { b with stage := 0xF }) ((withdrawSurge s).enter .lockdown)

/-- The rings and the peals in Lockdown, with the link in L0 or without it (Table 2-9). -/
def lockWork (s : State) : State :=
  if s.fe.linkL0 then lockRings s else (discardWork s).peals.foldl lockPeal (discardWork s)

/-- The device enters Lockdown on main power: rings as Table 2-9, clusters gated, the pair left, instances, tenant
tables, a loaded cost table and intake sessions removed, the record written (R97, R209, R309, R415). -/
def enterLockdown (s : State) : State :=
  let s2 := lockWork (lockdownMode s)
  let s3 := (partnerGone s2).mPair fun x => { x with link := .down, lane0 := false, lane1 := false, version := 0 }
  let s4 := s3.mGov fun g => { g with pealCache := [], costs := builtinCosts, costImage := none }
  nvQueue 4 .lockRecord (lockDrbgs (gateAll { s4 with tables := [], sessions := [] }))

/-- Latch Lockdown in the AO domain with its cause and response; a stronger response in a Lockdown replaces them (R411,
R415, R23). In Off the latch alone is set, and the next power-up ends in Lockdown (Table 1-7, R23). -/
def latchLockdown (cause : BitVec 5) (resp : BitVec 2) (s : State) : State :=
  let l : LockLatch := { cause := cause, response := resp, onBattery := !s.pwr.mainGood, vtime := s.clk.vtime }
  match s.tmp.lock with
  | some old => if old.response.toNat < resp.toNat then s.mTmp fun t => { t with lock := some l } else s
  | none =>
    let s1 := raiseDev .tmpLockdown ((s.mTmp fun t =>
      { t with lock := some l, lockRecord := false }).mLc fun c => { c with debug := none })
    if onMain s then enterLockdown (s1.mPwr fun p => { p with smbAlertN := false })
    else if s.mode = .off then s1 else s1.enter .lockdown

/-! The Gong, R413, R414, R340. -/

/-- The journal epoch advances and its count starts afresh; its spread counter is written (R147, R367). -/
def newEpoch (s : State) : State := nvQueue 2 .epoch (s.mClap fun c => { c with epoch := c.epoch + 1, count := 0 })

/-- The vault SRAM's contents, but the Toll bank, and the branch keys are overwritten (Table 15-4). -/
def zeroiseVault (s : State) : State :=
  let s1 := (s.mRoot fun r => { RootState.init with
    regs := { BranchKeys.none with ident := r.regs.ident }, lastReshare := r.lastReshare }).mKs fun k => { k with ledger := [] }
  let s2 := ((s1.mRng fun g => { g with carriedSeed := none }).mClap fun c =>
    { c with journal := [], bankRetained := false, postedDue := [] }).mToll fun k => { k with hasKey := false }
  { s2 with sessions := [] }

/-- The Toll writes a FINAL record with main power present before its bank is cleared, after a record already being written
(R335, R340). -/
def tollFinal (s : State) : State :=
  if !onMain s then s
  else if s.toll.writing.isSome then s.mToll fun k => { k with finalOwed := true }
  else startDelta true true s

/-- Key caches, instances, the pool and the memory key are zeroised, which makes the RL-DRAM unreadable
(Table 15-4). -/
def zeroiseRest (s : State) : State :=
  let s1 := (gateAll s).mRng fun g => { g with drbg := [], held := [], pool := [] }
  let s2 := (s1.mMem fun m => { m with key := none, groups := [] }).mKs fun k => { k with recs := [], spaces := [] }
  { s2.mClap fun c => { c with carried := [] } with tables := [] }

/-- The next ROOT_EPOCH bit is programmed, up to 32; on battery the programming reservoir gives the energy, which VAO_CAP
restores, and a VAO_CAP below 2.4 V is reported at the next power-up (R198, R414, R502). -/
def stepEpoch (s : State) : State :=
  if s.pwr.mainGood then s.mFuses fun r => { r with epoch := min 32 (r.epoch + 1) }
  else if s.pwr.reservoir then
    (s.mFuses fun r => { r with epoch := min 32 (r.epoch + 1) }).mPwr fun p =>
      { p with reservoir := p.capReady, gongDegraded := p.gongDegraded || !p.capReady }
  else s

/-- A Gong zeroisation (R413): the Toll's bank is cleared last, by the end of its FINAL record on main power. -/
def gong (s : State) : State :=
  let s1 := raiseDev .tmpZeroise ((s.mPwr fun p => { p with gongN := false }).mTmp fun t => { t with zeroised := true })
  let s2 := stepEpoch (zeroiseRest (zeroiseVault (tollFinal s1)))
  let s3 := if onMain s then newEpoch s2 else s2
  s3.mToll fun k => { k with bankValid := false, counters := if onMain s then k.counters else [] }

end Sys2Proof.Machine
end

