-- ==== Sys2Proof/Machine/Setup.lean ====
section
/-! DEFINITION. Setup registers: rings, SRI, snapshots, block assignment, locks, events, the registers without a row of
their own, configuration space, the PCIe link and its resets (R34 to R40, R51 to R63, R158, R474 to R489). -/
namespace Sys2Proof.Machine

/-! Access, R475 to R478. -/

/-- Configuration space of a function answers (R440, R63). -/
def configOn (s : State) (fn : Fn) : Bool := onMain s && s.fe.linkL0 && s.fe.cfgReady && fnEnabled s fn && !(s.func fn).flr
/-- A function's setup registers answer, but for Lockdown (R475, R63). -/
def busOn (s : State) (fn : Fn) : Bool := onMain s && s.fe.cfgReady && barsOn s fn
/-- A function's setup registers answer (R476). -/
def setupOn (s : State) (fn : Fn) : Bool := busOn s fn && s.mode ≠ .lockdown

/-- A setup register access of a function that takes effect. -/
def atSetup (fn : Fn) (f : State → State) (s : State) : Res := .next (if setupOn s fn then f s else s)

/-! The ring configuration window, R39, R40, R483, R484. -/

/-- The ring FE_RING_SEL names, when it belongs to a block of the function. -/
inductive Sel
  | none
  | sub (r : SqNo)
  | cpl (c : CqNo)
  deriving DecidableEq, Repr

/-- The selected ring (R483). -/
def selected (s : State) (fn : Fn) : Sel :=
  let f := s.func fn
  if f.ringKind then (match cqOf s fn f.ringSel.toNat with | some c => .cpl c | Option.none => .none)
  else match sqOf s fn f.ringSel.toNat with | some r => .sub r | Option.none => .none

/-- RING_SELECT_WRITE: FE_RING_SEL (Table 18-7). -/
def execRingSelectWrite (fn : Fn) (data : BitVec 32) (s : State) : Res :=
  atSetup fn (State.mFunc fn fun f => { f with ringSel := data.extractLsb' 0 10, ringKind := data.getLsbD 16 }) s

/-- A refused window access or ring command (R40, R52, R483). -/
def refuseRing (fn : Fn) (s : State) : State := raiseFn fn .ringConfigInvalid s

/-- The FE_RING_CFG of a submission ring that a write leaves: its RWL fields keep their value under the lock (R480). -/
def cfgWrite (locked : Bool) (old : BitVec 20) (data : BitVec 32) : BitVec 20 :=
  let new : BitVec 20 := data.setWidth 20 &&& 0xF3FFF
  if locked then (new &&& 0x3FFF) ||| (old &&& 0xF0000) else new

/-- The write would change a locked RWL field of FE_RING_CFG (R480). -/
def cfgClash (locked : Bool) (old : BitVec 20) (data : BitVec 32) : Bool :=
  locked && (data.setWidth 20 &&& 0xF0000) ≠ (old &&& 0xF0000)

/-- A write of a parameter of a submission ring. -/
def subParam (fn : Fn) (r : SqNo) (param : RingParam) (data : BitVec 64) (s : State) : State :=
  let q := s.sq r
  let locked := (s.func fn).locked
  if q.state ≠ .disabled then s
  else match param with
  | .base => s.mSq r fun q => { q with base := data }
  | .baseHalf => s
  | .cfg =>
    whenDo (cfgClash locked q.cfg (data.setWidth 32)) (raiseFn fn .lockedWrite)
      (s.mSq r fun q => { q with cfg := cfgWrite locked q.cfg (data.setWidth 32) })
  | .chime => s

/-- A write of a parameter of a completion ring. -/
def cplParam (c : CqNo) (param : RingParam) (data : BitVec 64) (s : State) : State :=
  if (s.cq c).state ≠ .disabled then s
  else match param with
  | .base => s.mCq c fun q => { q with base := data }
  | .baseHalf => s
  | .cfg => s.mCq c fun q => { q with log2 := data.setWidth 5 }
  | .chime => s.mCq c fun q => { q with chime := data.setWidth 31 }

/-- RING_PARAMETER_WRITE: FE_RING_BASE, FE_RING_CFG or FE_RING_CHIME of the selected ring (R39, R483). -/
def execRingParameterWrite (fn : Fn) (param : RingParam) (data : BitVec 64) (s : State) : Res :=
  atSetup fn (fun s => match selected s fn with
    | .none => refuseRing fn s
    | .sub r => subParam fn r param data s
    | .cpl c => cplParam c param data s) s

/-- A ring's size and base are in range (R40, R483). -/
def shapeOk (log2 : Nat) (base : BitVec 64) : Bool := 4 ≤ log2 && log2 ≤ 16 && base.extractLsb' 0 12 == 0

/-- The function may enable rings: it is enabled and its tenant exists (R34, R206, R483). -/
def mayEnable (s : State) (fn : Fn) : Bool :=
  fnEnabled s fn && (match (s.tenant fn).state with | .active => true | .creating => fn == 0 | .absent => false)

/-- A submission ring may be enabled (R40, R483). -/
def subEnableOk (s : State) (fn : Fn) (r : SqNo) : Bool :=
  let q := s.sq r
  q.state == .disabled && shapeOk q.log2 q.base && (s.func fn).sriActive ≠ 0 && mayEnable s fn &&
    (match cqOf s fn q.bound with | some c => (s.cq c).state == .enabled | none => false)

/-- A completion ring may be enabled (R40, R483). -/
def cplEnableOk (s : State) (fn : Fn) (c : CqNo) : Bool :=
  let q := s.cq c
  q.state == .disabled && shapeOk q.log2.toNat q.base && (s.func fn).sriActive ≠ 0 && mayEnable s fn &&
    q.count ≤ 256 && q.vector < vectors s fn

/-- Enable the selected ring. -/
def enableRing (fn : Fn) (s : State) : State :=
  match selected s fn with
  | .none => refuseRing fn s
  | .sub r => if subEnableOk s fn r then s.mSq r fun q => { q.drained with state := .enabled } else refuseRing fn s
  | .cpl c => if cplEnableOk s fn c then clearCq c .enabled s else refuseRing fn s

/-- RING_ENABLE: command ENABLE (Table 18-8); in Lockdown it is refused (R417). -/
def execRingEnable (fn : Fn) (s : State) : Res :=
  .next (if !busOn s fn then s else if s.mode = .lockdown then refuseRing fn s else enableRing fn s)

/-- RING_DISABLE: command DISABLE (Table 18-8, R52). -/
def execRingDisable (fn : Fn) (s : State) : Res :=
  atSetup fn (fun s => match selected s fn with
    | .none => refuseRing fn s
    | .sub r =>
      if (s.sq r).state = .enabled ∧ (s.sq r).outstanding = 0 then s.mSq r SubRing.drained else refuseRing fn s
    | .cpl c =>
      if (s.cq c).state = .enabled ∧ boundCount s c = 0 then clearCq c .disabled s else refuseRing fn s) s

/-- Complete a ring's descriptors that wait for admission as FLUSHED, queue reset (R62). -/
def flushWaiting (r : SqNo) (s : State) : State :=
  (s.fe.waiting.filter (·.ring == r)).foldl (fun s w => refuseWaiting w (St.flushed, 1) s) s

/-- Stop the admitted peals of a ring that have not begun their commit (R62). -/
def abortRing (r : SqNo) (s : State) : State :=
  (s.peals.filter fun e => e.2.ring == r).foldl (fun s e => abortPeal .queueReset (BitVec.ofNat 12 e.1) s) s

/-- The queue reset of a submission ring (R62, Table 18-8): descriptors not fetched yet are flushed as they arrive. -/
def resetSub (fn : Fn) (abort : Bool) (r : SqNo) (s : State) : State :=
  let q := s.sq r
  let start := fun (s : State) => s.mSq r fun q => { q with state := .resetting, abort := abort }
  let finish := fun (s : State) => (whenDo abort (abortRing r) (flushWaiting r s)).mSq r SubRing.drain
  match q.state with
  | .enabled => finish (start s)
  | .error => finish (flushUnfetched fn r q.unfetched (start s))
  | .resetting => if abort then (abortRing r (s.mSq r fun q => { q with abort := true })).mSq r SubRing.drain else s
  | .disabled => s

/-- The reset of a completion ring (R52, Table 18-8). -/
def resetCpl (fn : Fn) (c : CqNo) (s : State) : State :=
  if ((s.cq c).state = .enabled ∨ (s.cq c).state = .error) ∧ boundCount s c = 0 then clearCq c .disabled s
  else refuseRing fn s

/-- Reset the selected ring. -/
def resetRing (fn : Fn) (abort : Bool) (s : State) : State :=
  match selected s fn with
  | .none => refuseRing fn s
  | .sub r => resetSub fn abort r s
  | .cpl c => resetCpl fn c s

/-- RING_RESET: command RESET without ABORT (R62). -/
def execRingReset (fn : Fn) (s : State) : Res := atSetup fn (resetRing fn false) s
/-- RING_RESET_ABORT: command RESET with ABORT (R62). -/
def execRingResetAbort (fn : Fn) (s : State) : Res := atSetup fn (resetRing fn true) s

/-- CQ_IRQ_ENABLE_WRITE: FE_CQ_IRQ of the selected completion ring; enabling may send one message at once (R60). -/
def execCqIrqEnableWrite (fn : Fn) (data : BitVec 32) (s : State) : Res :=
  atSetup fn (fun s => match selected s fn with
    | .none => refuseRing fn s
    | .sub _ => s
    | .cpl c => chimeCheck fn c (s.mCq c fun q => { q with irqEnable := data.getLsbD 0 })) s

/-! SRI, snapshots, host key table. -/

/-- The highest SRI version in an offer that the device supports (R56, R57). -/
def sriChoice (offer : BitVec 3) : BitVec 8 :=
  if offer.getLsbD 2 then 0x21 else if offer.getLsbD 1 then 0x20 else if offer.getLsbD 0 then 0x12 else 0

/-- SRI_OFFER_WRITE: FE_SRI_OFFER (R57). -/
def execSriOfferWrite (fn : Fn) (data : BitVec 32) (s : State) : Res :=
  atSetup fn (fun s =>
    if !ringsDisabled s fn then raiseFn fn .sriOfferIgnored s
    else
      let offer := data.extractLsb' 0 3
      whenDo (sriChoice offer == 0) (raiseFn fn .sriNoCommon)
        (s.mFunc fn fun f => { f with sriOffer := offer, sriActive := sriChoice offer })) s

/-- The submission rings of a function whose state is not the reset one. -/
def ringsOf (s : State) (fn : Fn) : List SubRing :=
  (s.fe.sqs.filter fun e => sqOwner s (BitVec.ofNat 16 e.1) == some fn).map (·.2)

/-- CREDIT_SNAPSHOT: FE_CREDIT_SNAP_SEL latches all the counters (R55). -/
def execCreditSnapshot (fn : Fn) (data : BitVec 32) (s : State) : Res :=
  atSetup fn (fun s =>
    let ring : BitVec 10 := data.extractLsb' 0 10
    let scope := data.getLsbD 16
    let picked : Option (List SubRing) :=
      if scope then (if s.fe.sqAssign.any fun e => e.2.valid && e.2.fn == fn then some (ringsOf s fn) else none)
      else (sqOf s fn ring.toNat).map fun r => [s.sq r]
    let add (f : SubRing → BitVec 64) : BitVec 64 := match picked with
      | some l => l.foldl (fun a q => a + f q) 0
      | none => 0
    let out := match picked with | some l => (l.map (·.outstanding.toNat)).sum | none => 0
    s.mFunc fn fun f => { f with
      snapRing := ring, snapScope := scope, snapConsumed := add (·.consumed), snapPosted := add (·.posted),
      snapSuppressed := add (·.suppressed), snapOutstanding := BitVec.ofNat 17 (min 0x1FFFF out),
      snapValid := picked.isSome }) s

/-- HKT_REGISTER_WRITE: KS_HKT_BASE or KS_HKT_ENTRIES (R158). -/
def execHktRegisterWrite (fn : Fn) (entries : Bool) (data : BitVec 64) (s : State) : Res :=
  atSetup fn (fun s =>
    if !ringsDisabled s fn then raiseFn fn .hktBusy s
    else s.mFunc fn fun f => if entries then { f with hktEntries := data.setWidth 25 } else { f with hktBase := data }) s

/-! Block assignment, locks and vectors. -/

/-- A block assignment entry as written (Table 18-6). -/
def Assign.ofWord (cq : Bool) (d : BitVec 32) : Assign :=
  { valid := d.getLsbD 31, fn := d.extractLsb' 0 8,
    page := if cq then d.extractLsb' 8 6 else (d.extractLsb' 8 4).setWidth 6 }

/-- Every ring of a submission block is DISABLED. -/
def sqBlockIdle (s : State) (b : Nat) : Bool := s.fe.sqs.all fun e => e.1 / 64 ≠ b || e.2.state == .disabled
/-- Every ring of a completion block is DISABLED. -/
def cqBlockIdle (s : State) (b : Nat) : Bool := s.fe.cqs.all fun e => e.1 / 8 ≠ b || e.2.state == .disabled

/-- Another block of the kind has the same owner and local page. -/
def pageTaken (m : SMap Assign) (b : Nat) (a : Assign) : Bool :=
  a.valid && m.any fun e => e.1 ≠ b && e.2.valid && e.2.fn == a.fn && e.2.page == a.page

/-- The conservation counters of a block's rings are zero (R38). -/
def zeroCounters (b : Nat) (s : State) : State :=
  let zero := fun (k : Nat) (q : SubRing) =>
    if k / 64 = b then { q with consumed := 0, posted := 0, suppressed := 0 } else q
  s.mFe fun e => { e with sqs := smMap SubRing.init zero e.sqs }

/-- BLOCK_ASSIGN_WRITE: PF0 writes a block assignment entry (R38, R482). -/
def execBlockAssignWrite (cq : Bool) (block : BitVec 10) (data : BitVec 32) (s : State) : Res :=
  atSetup 0 (fun s =>
    let b := block.toNat
    let m := if cq then s.fe.cqAssign else s.fe.sqAssign
    let a := Assign.ofWord cq data
    if smGet Assign.none m b = a then s
    else if (s.func 0).locked then raiseFn 0 .lockedWrite s
    else if !(if cq then cqBlockIdle s b else sqBlockIdle s b) || pageTaken m b a then raiseFn 0 .blockAssignRefused s
    else if cq then s.mFe fun e => { e with cqAssign := smSet Assign.none b a e.cqAssign }
    else zeroCounters b (s.mFe fun e => { e with sqAssign := smSet Assign.none b a e.sqAssign })) s

/-- SETUP_LOCK_SET: FE_SETUP_LOCK.LOCK (R480). -/
def execSetupLockSet (fn : Fn) (s : State) : Res := atSetup fn (State.mFunc fn fun f => { f with locked := true }) s

/-- VF_VECTORS_WRITE: FE_VF_VECTORS (R480, R481). -/
def execVfVectorsWrite (data : BitVec 32) (s : State) : Res :=
  atSetup 0 (fun s =>
    let n : BitVec 7 := data.extractLsb' 0 7
    if s.fe.vfEnable || n = 0 || 64 < n.toNat || s.fe.vfVectors = n then s
    else if (s.func 0).locked then raiseFn 0 .lockedWrite s
    else s.mFe fun e => { e with vfVectors := n }) s

/-! Events, R485 to R488. -/

/-- The event register of a function that an access names exists, and answers in the present mode (R417, R476). -/
def eventOn (s : State) (fn : Fn) (device : Bool) : Bool :=
  busOn s fn && (!device || fn == 0) && (s.mode ≠ .lockdown || fn == 0)

/-- EVENT_FLAG_CLEAR: writing 1 clears a flag and leaves its counter (R488); a flag set in the same front-end cycle stays
set (R12). -/
def execEventFlagClear (fn : Fn) (device : Bool) (data : BitVec 64) (s : State) : Res :=
  .next (if !eventOn s fn device then s
  else if device then s.mFe fun e =>
    { e with devFlags := e.devFlags &&& (~~~(data.setWidth 39) ||| e.freshFlags s.clk.now) }
  else s.mFunc fn fun f => { f with evtFlags := f.evtFlags &&& (~~~(data.setWidth 17) ||| f.freshFlags s.clk.now) })

/-- EVENT_ENABLE_WRITE: enabling a flag that is set sends one message (R487); bit 10 exists on PF0 only (R485). -/
def execEventEnableWrite (fn : Fn) (device : Bool) (data : BitVec 64) (s : State) : Res :=
  .next (if !eventOn s fn device then s
  else if device then
    let new : BitVec 39 := data.setWidth 39
    whenDo ((new &&& ~~~s.fe.devEnable &&& s.fe.devFlags) ≠ 0) (eventMessage 0) (s.mFe fun e => { e with devEnable := new })
  else
    let new : BitVec 17 := data.setWidth 17 &&& (if fn = 0 then 0x1FFFF else 0x1FBFF)
    let f := s.func fn
    whenDo ((new &&& ~~~f.evtEnable &&& f.evtFlags) ≠ 0) (eventMessage fn)
      (s.mFunc fn fun f => { f with evtEnable := new }))

/-- EVENT_MESSAGE_INTERVAL: 1 µs after a function's last event message, one message covers the enabled events since
(R487). -/
def execEventMessageInterval (fn : Fn) (s : State) : Res :=
  .next (match (s.func fn).evtSentAt with
  | none => s
  | some t =>
    if !(s.func fn).evtDue || s.clk.now < t + us 1 then s
    else sendMsix fn 0 (s.mFunc fn fun f => { f with evtDue := false, evtSentAt := some s.clk.now }))

/-- FE_RECOVERY_HDR.VALID is written 1: the list empties but for what this front-end cycle added (R12, R64). -/
def Func.clearRecovery (now : Nat) (f : Func) : Func :=
  if f.recAt = now then { f with recovery := lastN f.recFresh f.recovery, recOverflow := f.recFreshOver }
  else { f with recovery := [], recOverflow := false }

/-- RECOVERY_LIST_CLEAR: FE_RECOVERY_HDR.VALID (R64). -/
def execRecoveryListClear (fn : Fn) (s : State) : Res := atSetup fn (State.mFunc fn (Func.clearRecovery s.clk.now)) s

/-- MSIX_VECTOR_UNMASK: the host unmasks a vector, and a held message is sent (R61). -/
def execMsixVectorUnmask (fn : Fn) (vector : BitVec 11) (s : State) : Res :=
  .next (if !busOn s fn || vectors s fn ≤ vector.toNat then s
  else releaseMsix fn (s.mFunc fn fun f => { f with msixUnmasked := insNat vector.toNat f.msixUnmasked }))

/-! Registers without a row of their own, R476, R490. -/

/-- TMP_RESPONSE and TMP_SWITCH take writes: in Maintenance, or in Blank and Test under a token with SNARE (R434). -/
def snareWritable (s : State) : Bool :=
  s.mode == .maintenance || ((s.fuses.lc == .blank || s.fuses.lc == .test) &&
    (match s.lc.debug with | some p => p.getLsbD 3 | none => false))

/-- Write bytes of LC_DATA. -/
def lcDataPut (o : Nat) (bs : Bytes) (s : State) : State :=
  s.mLc fun l => { l with data := l.data.take o ++ bs ++ l.data.drop (o + bs.length) }

/-- A 4-byte write of a function's own register. -/
def fnWrite (fn : Fn) (o : Nat) (d : BitVec 32) (s : State) : State :=
  if o = 0xAC then
    s.mFunc fn fun f => { f with tollCtrSel := d.extractLsb' 0 4,
                                 tollTenantSel := if fn = 0 then d.extractLsb' 8 8 else f.tollTenantSel }
  else s

/-- A 4-byte write of a selector, staging or idle-time register of PF0's device area (Table 18-4). -/
def devWrite32 (o : Nat) (d : BitVec 32) (s : State) : State :=
  match o with
  | 0x22010 => s.mBoot fun b => { b with fwLen := d.extractLsb' 0 23 }
  | 0x23008 => s.mGov fun g => { g with cgUs := d.extractLsb' 0 10, pgUs := d.extractLsb' 10 16 }
  | 0x2300C => s.mGov fun g => { g with tenantSel := d.extractLsb' 0 8 }
  | 0x23030 => s.mGov fun g => { g with tempSel := d.extractLsb' 0 5 }
  | 0x25008 => s.mNv fun n => { n with wearSel := d.extractLsb' 0 3 }
  | 0x27000 => s.mHealth fun h => { h with clusterSel := d.extractLsb' 0 4 }
  | 0x27024 => s.mMem fun m => { m with chanSel := d.extractLsb' 0 2 }
  | 0x29004 => s.mTmp fun t => { t with sensorSel := d.extractLsb' 0 5 }
  | 0x29018 =>
    if snareWritable s then s.mTmp fun t => { t with stagedPolarity := d.extractLsb' 0 4 } else raiseDev .tmpConfigRefused s
  | _ => s

/-- An 8-byte write of a 64-bit register of the device area. -/
def devWrite64 (o : Nat) (d : BitVec 64) (s : State) : State :=
  match o with
  | 0x22008 => s.mBoot fun b => { b with fwAddr := d }
  | 0x29010 =>
    if snareWritable s then s.mTmp fun t => { t with stagedResponse := d.setWidth 44 } else raiseDev .tmpConfigRefused s
  | _ => s

/-- Offsets that answer in Lockdown: the HLTH_, TMP_ and LC_ registers (R417). -/
def lockdownOff (o : Nat) : Bool := 0x27000 ≤ o && o < 0x2B000

/-- REGISTER_WRITE: a naturally aligned 4- or 8-byte write of a setup register with no row of its own (R476). -/
def execRegisterWrite (fn : Fn) (off : BitVec 18) (size : BitVec 4) (data : BitVec 64) (s : State) : Res :=
  let o := off.toNat
  let n := size.toNat
  .next (if !busOn s fn || (s.mode = .lockdown && !(fn = 0 && lockdownOff o)) || (n ≠ 4 && n ≠ 8) || o % n ≠ 0 then s
  else if o < 0x20000 then (if n = 4 then fnWrite fn o (data.setWidth 32) s else s)
  else if fn ≠ 0 then s
  else if 0x28200 ≤ o && o < 0x28400 then lcDataPut (o - 0x28200) (natLe n data.toNat) s
  else if n = 4 then devWrite32 o (data.setWidth 32) s
  else devWrite64 o data s)

/-! Configuration space, R34, R63, R70, R475. -/

/-- What the function held back while it might not access the bus goes out. -/
def busBack (fn : Fn) (s : State) : State := drainReady (releaseMsix fn s)

/-- BUS_MASTER_ENABLE_WRITE (Table 2-10). -/
def execBusMasterEnableWrite (fn : Fn) (on : Bool) (s : State) : Res :=
  .next (if !configOn s fn then s else busBack fn (s.mFunc fn fun f => { f with bme := on }))

/-- POWER_STATE_WRITE: D3hot keeps the state and stops memory access and DMA (R475). -/
def execPowerStateWrite (fn : Fn) (d3hot : Bool) (s : State) : Res :=
  .next (if !configOn s fn then s else busBack fn (s.mFunc fn fun f => { f with d3hot := d3hot }))

/-- VF_ENABLE_WRITE: NumVFs may be written while VF Enable is 0; clearing VF Enable acts on every VF as an FLR
(R34, R63, R481). -/
def execVfEnableWrite (on : Bool) (numVfs : BitVec 8) (s : State) : Res :=
  .next (if !configOn s 0 then s
  else if s.fe.vfEnable then
    (if on then s else (flrOn (· ≠ 0) s).mFe fun e => { e with vfEnable := false })
  else s.mFe fun e => { e with
    vfEnable := on, numVfs := numVfs, vfVectorsInForce := if on then e.vfVectors else e.vfVectorsInForce })

/-- FUNCTION_LEVEL_RESET: an FLR of a VF acts on it alone, one of PF0 clears VF Enable and acts on every function
(R63). -/
def execFunctionLevelReset (fn : Fn) (s : State) : Res :=
  .next (if !configOn s fn then s
  else
    let s1 := if fn = 0 then (flrOn (fun _ => true) s).mFe fun e => { e with vfEnable := false } else flrOn (· == fn) s
    s1.mFunc fn fun f => { f with flr := true })

/-- FLR_COMPLETE: the function answers again (R63). -/
def execFlrComplete (fn : Fn) (s : State) : Res :=
  .next (if (s.func fn).flr then s.mFunc fn fun f => { f with flr := false } else s)

/-! The PCIe link, R22, R66, R437 to R440. -/

/-- PCIe is held down: core minimum not met, a life-cycle transition pending, or Scrap (R427, R431, R445). -/
def pcieHeld (s : State) : Bool := !s.boot.coreMin || s.lc.pending || s.fuses.lc == .eolScrap

/-- LINK_ENTERS_L0: the link reaches L0, and held messages go out (R22, R61). -/
def execLinkEntersL0 (s : State) : Res :=
  .next (if s.fe.linkL0 || !onMain s || s.fe.perstAsserted || pcieHeld s then s
  else
    let s1 := toReady (s.mFe fun e => { e with linkL0 := true })
    drainReady ((s1.fe.funcs.map (·.1)).foldl (fun s k => releaseMsix (BitVec.ofNat 8 k) s) s1))

/-- LINK_LEAVES_L0 (Table 2-9, row 3; Table 1-7). -/
def execLinkLeavesL0 (s : State) : Res := .next (if s.fe.linkL0 then dropLink s else s)

/-- PERST_ASSERT: a PCIe reset; while RESET_N is low it has no effect of its own (R437, R438). -/
def execPerstAssert (s : State) : Res :=
  .next (if s.fe.perstAsserted then s
  else
    let s1 := s.mFe fun e => { e with perstAsserted := true, perstReleasedAt := none }
    if !s.pwr.resetN || !onMain s then s1
    else (pcieReset s1).mBoot fun b => { b with cause := if b.stage = 7 || b.stage = 0xF then 3 else b.cause })

/-- PERST_RELEASE: the time to ready starts (R440). -/
def execPerstRelease (s : State) : Res :=
  .next (if s.fe.perstAsserted then
    s.mFe fun e => { e with perstAsserted := false, perstReleasedAt := some s.clk.now }
  else s)

/-- 20 ms have passed since PERST_N was released (R440). -/
def perstSettled (s : State) : Bool :=
  !s.fe.perstAsserted && (match s.fe.perstReleasedAt with | some t => t + ms 20 ≤ s.clk.now | none => false)

/-- CONFIG_SPACE_READY: configuration space answers at the later of step 5 and 20 ms after PERST_N release (R440). -/
def execConfigSpaceReady (s : State) : Res :=
  .next (if perstSettled s && onMain s && (s.boot.stage = 7 || s.boot.stage = 0xF) && !pcieHeld s then
    s.mFe fun e => { e with cfgReady := true }
  else s)

/-- FUNCTION_READY: the function reports ready at the later of step 11 and 20 ms after PERST_N release (R440). -/
def execFunctionReady (s : State) : Res :=
  .next (if perstSettled s && onMain s && s.boot.stage = 7 then
    toReady (s.mFe fun e => { e with cfgReady := true, reported := true })
  else s)

end Sys2Proof.Machine
end

