-- ==== Sys2Proof/Machine/RegMap.lean ====
section
/-! DEFINITION. What the setup registers read as: the function area and PF0's device area (Tables 2-6 to 2-8, 4-2, 6-1,
10-7, 11-9, 11-10, 12-7, 13-8, 14-1, 14-8, 15-17, 16-7, 17-5, 18-3 to 18-10), and the read latch of R476. -/
namespace Sys2Proof.Machine

/-- The number of a mode, of a ring state, of a cluster state, of a link state (Tables 18-5, 2-5, 11-9, 14-8). -/
def Mode.num : Mode → Nat
  | .off => 0 | .vault => 1 | .rest => 2 | .ready => 3 | .serve => 4 | .surge => 5 | .maintenance => 6 | .lockdown => 7
def RingState.num : RingState → Nat
  | .disabled => 0 | .enabled => 1 | .resetting => 2 | .error => 3
def ClState.num : ClState → Nat
  | .active => 0 | .clockGated => 1 | .powerGated => 2 | .pllOff => 3
def XlLink.num : XlLink → Nat
  | .down => 0 | .training => 1 | .authenticating => 2 | .up => 3
def SrcState.num : SrcState → Nat
  | .starting => 0 | .healthy => 1 | .failed => 2 | .unusable => 3
def TenantState.num : TenantState → Nat
  | .absent => 0 | .creating => 1 | .active => 2
def LcState.num : LcState → Nat
  | .blank => 0 | .test => 1 | .production => 2 | .eolAnalysis => 3 | .eolScrap => 3
/-- The scope code of a life-cycle state (Table 15-17). -/
def LcState.scope : LcState → Nat
  | .eolAnalysis => 1 | .eolScrap => 2 | _ => 0

/-- A flag as one bit. -/
def b2n (b : Bool) : Nat := if b then 1 else 0
/-- An integer as 32 bits, two's complement. -/
def i32 (i : Int) : Nat := (BitVec.ofInt 32 i).toNat

/-! The function area, Table 18-3. -/

/-- FE_FUNC_STATUS (Table 18-5). -/
def funcStatus (s : State) (fn : Fn) : Nat :=
  b2n s.fe.reported + 2 * b2n (s.func fn).locked + 4 * (s.tenant fn).state.num +
    16 * b2n (fn == 0 || s.pair.roles.getLsbD fn.toNat) + 256 * s.mode.num + 65536 * fn.toNat

/-- FE_RECOVERY_HDR (Table 2-8). -/
def recoveryHdr (f : Func) : Nat :=
  f.recovery.length + 65536 * b2n (!f.recovery.isEmpty || f.recOverflow) + 131072 * b2n f.recOverflow

/-- RNG_INST_STATUS (Table 10-7). -/
def instStatus (s : State) (fn : Fn) : Nat :=
  let d := s.drbg fn.toNat
  b2n d.instantiated + 2 * b2n s.rng.outage + 4 * b2n (atLimit s fn.toNat) + 256 * min 0xFFFFFF d.sinceReseed

/-- GOV_FN_SHARE (Table 11-10). -/
def fnShare (s : State) (fn : Fn) : Nat :=
  let sh := share s fn
  (heldBy s false (some fn)).1 + 4096 * (heldBy s true (some fn)).1 + 2 ^ 32 * sh.min.toNat + 2 ^ 48 * sh.cap.toNat

/-- TOLL_STATUS (Table 12-7). -/
def tollStatusReg (s : State) : Nat :=
  let k := s.toll
  b2n k.sealed_ + 2 * k.mode.toNat + 8 * b2n k.journal + 16 * b2n k.gapFlag + 32 * b2n (!k.hasKey) +
    256 * min 255 k.dirty.length

/-- The counter TOLL_CTR_SEL names; a VF reads its own tenant's (R351). -/
def tollCtr (s : State) (fn : Fn) : Nat :=
  let f := s.func fn
  let t := if fn = 0 then f.tollTenantSel else fn
  (smGet 0 s.toll.counters (tollIndex t (f.tollCtrSel.setWidth 8))).toNat

/-- The window registers of the selected ring (Table 18-7). -/
def ringReg (s : State) (fn : Fn) (o : Nat) : Nat :=
  match selected s fn with
  | .none => 0
  | .sub r =>
    let q := s.sq r
    if o = 0x110 then q.cfg.toNat else if o = 0x11C then q.state.num + 4 else 0
  | .cpl c =>
    let q := s.cq c
    if o = 0x110 then q.log2.toNat else if o = 0x114 then q.chime.toNat
    else if o = 0x11C then q.state.num + 4 + 65536 * boundCount s c
    else if o = 0x120 then b2n q.irqEnable else 0

/-- FE_RING_BASE of the selected ring. -/
def ringBase (s : State) (fn : Fn) : Nat :=
  match selected s fn with
  | .none => 0 | .sub r => (s.sq r).base.toNat | .cpl c => (s.cq c).base.toNat

/-- A 32-bit register of a function's own area (Table 18-3). -/
def fnReg32 (s : State) (fn : Fn) (o : Nat) : Nat :=
  let f := s.func fn
  match o with
  | 0x00 => s.fuses.grade.toNat + 256 * s.fuses.stepping.toNat + 65536 * enabledCount s
  | 0x04 => 0x100
  | 0x08 => funcStatus s fn
  | 0x0C => b2n f.locked
  | 0x10 => leNat ((fit 16 s.fuses.serial).take 4)
  | 0x14 => leNat (((fit 16 s.fuses.serial).drop 4).take 4)
  | 0x18 => leNat (((fit 16 s.fuses.serial).drop 8).take 4)
  | 0x1C => leNat (((fit 16 s.fuses.serial).drop 12).take 4)
  | 0x20 => 7
  | 0x24 => f.sriOffer.toNat
  | 0x28 => f.sriActive.toNat
  | 0x2C => s.fe.tblVersions.toNat
  | 0x40 => f.snapRing.toNat + 65536 * b2n f.snapScope
  | 0x60 => f.snapOutstanding.toNat + 2 ^ 31 * b2n f.snapValid
  | 0x68 => recoveryHdr f
  | 0x88 => f.hktEntries.toNat
  | 0x90 => instStatus s fn
  | 0xA0 => tollStatusReg s
  | 0xA4 => s.toll.sealEvents.toNat
  | 0xA8 => s.toll.gaps.toNat
  | 0xAC => f.tollCtrSel.toNat + 256 * (if fn = 0 then f.tollTenantSel else fn).toNat
  | 0xC0 => hlthSummary s
  | 0xC4 => hlthCapacity s
  | 0x100 => f.ringSel.toNat + 65536 * b2n f.ringKind
  | 0x110 => ringReg s fn o
  | 0x114 => ringReg s fn o
  | 0x11C => ringReg s fn o
  | 0x120 => ringReg s fn o
  | 0x200 => f.evtFlags.toNat
  | 0x204 => f.evtEnable.toNat
  | _ => if 0x240 ≤ o && o < 0x284 then (smGet 0 f.evtCount ((o - 0x240) / 4)).toNat else 0

/-! PF0's device area, Table 18-4. -/

/-- The highest measure in force. -/
def topMeasure (s : State) : Nat := ((List.range 7).filter fun i => s.gov.measures.getLsbD i).foldl (fun _ i => i + 1) 0

/-- GOV_STATUS (Table 11-9). -/
def govStatus (s : State) : Nat :=
  let g := s.gov
  headroom s + 2 ^ 8 * topMeasure s + 2 ^ 11 * g.thermal.toNat + 2 ^ 13 * b2n (specPermitted s && s.mode.working) +
    2 ^ 14 * g.surge.toNat + 2 ^ 16 * (BitVec.ofInt 8 g.tjMax).toNat + 2 ^ 24 * costBin g.costs.edges (some g.tjMax) +
    2 ^ 27 * b2n (decide (g.level < 0))

/-- GOV_CLUSTERS: two bits per cluster (Table 11-9). -/
def packStates : List Cluster → Nat
  | [] => 0
  | c :: cs => (if c.enabled then c.state.num else 3) + 4 * packStates cs
/-- A cluster as it stands while all are clock-gated: an active one is gated where it is (R317, R505). -/
def Cluster.standing (c : Cluster) : Cluster := { c with state := if c.state = .active then .clockGated else c.state }

/-- The share registers of the tenant GOV_TENANT_SEL names (Table 11-9). -/
def tenantShare (s : State) : Nat :=
  let sh := share s s.gov.tenantSel
  sh.min.toNat + 2 ^ 16 * sh.cap.toNat + 2 ^ 32 * sh.critCap.toNat + 2 ^ 48 * sh.weight.toNat

/-- GOV_TEMP of the sensor selected (Table 11-9). -/
def govTemp (s : State) : Nat :=
  match s.gov.sensors[s.gov.tempSel.toNat]? with
  | some x => (BitVec.ofInt 8 x.value).toNat + 256 * b2n (x.valid && !x.failed)
  | none => 0

/-- RNG_SRC_STATUS and RNG_SRC_FAILS (Table 10-7). -/
def packSources (f : NoiseSource → Nat) : List NoiseSource → Nat
  | [] => 0
  | x :: xs => f x + 4 * packSources f xs
/-- I0 to I19 and T0 to T255 are instantiated (Table 10-7). -/
def allInstantiated (s : State) : Bool := (List.range 276).all fun i => (s.drbg i).instantiated
/-- RNG_SRC_STATUS. -/
def srcStatus (s : State) : Nat :=
  packSources (·.state.num) s.rng.sources + 2 ^ 8 * b2n s.rng.outage + 2 ^ 9 * b2n (allInstantiated s) +
    2 ^ 16 * (s.rng.pool.length / 4)
/-- Window failures of a source within the last second of vault time. -/
def recentFails (s : State) (x : NoiseSource) : Nat := min 3 (x.fails.filter fun t => s.clk.vtime.toNat < t + 32768).length

/-- NV_STATUS (Table 13-8). -/
def nvStatus (s : State) : Nat :=
  let n := s.nv
  b2n n.current.isSome + 2 * (match n.current with | some c => c.cls | none => 0) + 16 * b2n n.held + 32 * b2n n.pfDone +
    65536 * n.spares.toNat

/-- XL_STATUS (Table 14-8). -/
def xlStatus (s : State) : Nat :=
  let x := s.pair
  x.link.num + 4 * (b2n x.lane0 + b2n x.lane1) + 16 * b2n x.inService + 32 * b2n x.sync + 64 * b2n x.secondary +
    128 * b2n x.peerFail + 256 * b2n x.resync + 65536 * x.version.toNat

/-- HLTH_BOOT (Table 16-7). -/
def hlthBoot (s : State) : Nat :=
  let b := s.boot
  b.stage.toNat + 16 * b.cause.toNat + 256 * b2n b.slotB + 512 * b2n (if b.slotB then b.slotB_ else b.slotA_).confirmed +
    1024 * b.rootCase.toNat + 4096 * b2n b.quick

/-- HLTH_CLUSTER of the cluster selected (Table 14-1). -/
def hlthCluster (s : State) : Nat :=
  let c := s.cluster s.health.clusterSel
  clusterRoles c c.se + 65536 * clusterRoles c c.pk + 2 ^ 28 * clusterCode c

/-- HLTH_MEM_CHAN of the channel selected (Table 17-5). -/
def memChanReg (s : State) : Nat :=
  let c := s.mem.chans.getD s.mem.chanSel.toNat MemChan.init
  c.corrected.toNat + 65536 * c.confirmed.toNat + 2 ^ 24 * c.state.toNat

/-- LC_STATE (Table 15-17). -/
def lcState (s : State) : Nat :=
  s.fuses.lc.num + 4 * s.fuses.lc.scope + 16 * b2n s.fuses.scrapOnly + 32 * b2n s.lc.cleared + 64 * b2n s.lc.pending +
    128 * b2n s.lc.recoveryKey.isSome + 256 * b2n s.tmp.lock.isSome + 512 * b2n (Option.isSome s.lc.debug) + 1024 * s.fuses.epoch

/-- TMP_STATUS (Table 15-17). -/
def tmpStatus (s : State) : Nat :=
  let t := s.tmp
  b2n t.lock.isSome + 2 * b2n (!s.pwr.gongN) +
    (match t.lock with
      | some l => 4 * b2n l.onBattery + 256 * l.cause.toNat + 8192 * l.response.toNat
      | none => 0) +
    8 * b2n t.clear + 16 * b2n t.throttle + 65536 * t.logSinceReset.toNat

/-- The floor of a sensor's response (Table 15-1). -/
def snareFloor (n : Nat) : Nat :=
  if n ≤ 5 then 1 else if n = 6 then 2 else if n ≤ 9 then 1 else if n ≤ 12 then 2 else if n ≤ 17 then 3 else 0

/-- The response in force for a sensor; 22 and 23 are fixed at LOCKDOWN (R409). -/
def snareResponse (s : State) (n : Nat) : Nat := if n < 22 then (s.tmp.response.extractLsb' (2 * n) 2).toNat else 2

/-- TMP_SENSOR of the sensor selected (Table 15-17). -/
def tmpSensor (s : State) : Nat :=
  let n := s.tmp.sensorSel.toNat
  match s.tmp.sensors[n]? with
  | some x => (if n = 8 && s.pair.partner.isNone then 3 else x.state.toNat) + 4 * snareResponse s n + 16 * snareFloor n + 65536 * x.count.toNat
  | none => if n < 24 then 4 * snareResponse s n else 0

/-- A 32-bit register of PF0's device area (Table 18-4). -/
def devReg32 (s : State) (o : Nat) : Nat :=
  let assign (a : Assign) : Nat := a.fn.toNat + 256 * a.page.toNat + 2 ^ 31 * b2n a.valid
  match o with
  | 0x22000 => s.fe.vfVectors.toNat
  | 0x22010 => s.boot.fwLen.toNat
  | 0x22018 => b2n s.boot.fwBusy + 2 * s.boot.fwResult.toNat + 32 * b2n s.boot.fwStaged
  | 0x23000 => s.gov.watts.toNat + 256 * b2n s.gov.surgeEn + 512 * b2n s.gov.specEn
  | 0x23004 => s.gov.weightI.toNat + 256 * s.gov.weightB.toNat
  | 0x23008 => s.gov.cgUs.toNat + 1024 * s.gov.pgUs.toNat
  | 0x2300C => s.gov.tenantSel.toNat
  | 0x23018 => govStatus s
  | 0x23028 => s.gov.packagePower.toNat + 65536 * s.gov.basePower.toNat
  | 0x2302C => packStates (if frozen s then s.clusters.map Cluster.standing else s.clusters)
  | 0x23030 => s.gov.tempSel.toNat
  | 0x23034 => govTemp s
  | 0x24000 => srcStatus s
  | 0x24004 => packSources (recentFails s) s.rng.sources
  | 0x25000 => nvStatus s
  | 0x25004 => min 255 s.nv.queue.length
  | 0x25008 => s.nv.wearSel.toNat
  | 0x2500C => if s.nv.wearSel.toNat ≤ 5 then regionWear s s.nv.wearSel.toNat else 0
  | 0x26000 => xlStatus s
  | 0x26004 => s.pair.versions.toNat
  | 0x26038 => min 511 s.pair.unacked.length
  | 0x27000 => s.health.clusterSel.toNat
  | 0x27004 => hlthCluster s
  | 0x27008 => hlthBoot s
  | 0x2700C => (if s.boot.slotB then s.boot.slotB_ else s.boot.slotA_).svn.toNat
  | 0x27010 => (if s.boot.slotB then s.boot.slotB_ else s.boot.slotA_).build.toNat
  | 0x27014 => s.boot.antiRollback.toNat
  | 0x27020 => b2n s.mem.two + 2 * b2n s.mem.mismatch + 4 * b2n s.mem.trained
  | 0x27024 => s.mem.chanSel.toNat
  | 0x27028 => memChanReg s
  | 0x2702C => s.mem.scrubPasses.toNat
  | 0x28000 => lcState s
  | 0x28004 => s.lc.lcSeq.toNat
  | 0x2800C => b2n s.lc.busy + 16 * s.lc.result.toNat
  | 0x29000 => tmpStatus s
  | 0x29004 => s.tmp.sensorSel.toNat
  | 0x29008 => tmpSensor s
  | 0x29018 => s.tmp.stagedPolarity.toNat
  | 0x2901C => 3 * b2n s.tmp.commitBusy
  | _ =>
    if 0x20000 ≤ o && o < 0x21000 then assign (smGet Assign.none s.fe.sqAssign ((o - 0x20000) / 4))
    else if 0x21000 ≤ o && o < 0x22000 then assign (smGet Assign.none s.fe.cqAssign ((o - 0x21000) / 4))
    else if 0x28200 ≤ o && o < 0x28400 then leNat ((s.lc.data.drop (o - 0x28200)).take 4)
    else if 0x2A040 ≤ o && o < 0x2A0DC then (smGet 0 s.fe.devCount ((o - 0x2A040) / 4)).toNat
    else 0

/-- A 64-bit register by its offset; `none` where none stands. -/
def reg64 (s : State) (fn : Fn) (o : Nat) : Option (BitVec 64) :=
  let f := s.func fn
  let dev (v : BitVec 64) : Option (BitVec 64) := if fn = 0 then some v else none
  match o with
  | 0x48 => some f.snapConsumed
  | 0x50 => some f.snapPosted
  | 0x58 => some f.snapSuppressed
  | 0x80 => some f.hktBase
  | 0x98 => some (BitVec.ofNat 64 (fnShare s fn))
  | 0xB0 => some (BitVec.ofNat 64 (tollCtr s fn))
  | 0x108 => some (BitVec.ofNat 64 (ringBase s fn))
  | 0x22008 => dev s.boot.fwAddr
  | 0x23010 => dev (BitVec.ofNat 64 (tenantShare s))
  | 0x23020 => dev (BitVec.ofNat 64 (i32 s.gov.level + 2 ^ 32 * s.gov.depth))
  | 0x26010 => dev (s.pair.roles.extractLsb' 0 64)
  | 0x26018 => dev (s.pair.roles.extractLsb' 64 64)
  | 0x26020 => dev (s.pair.roles.extractLsb' 128 64)
  | 0x26028 => dev (s.pair.roles.extractLsb' 192 64)
  | 0x26030 => dev s.pair.lastAcked
  | 0x29010 => dev (s.tmp.stagedResponse.setWidth 64)
  | 0x2A000 => dev (s.fe.devFlags.setWidth 64)
  | 0x2A008 => dev (s.fe.devEnable.setWidth 64)
  | _ => none

/-- An offset that answers in the present mode: in Lockdown the identification and health registers, PF0's event
registers and the HLTH_, TMP_ and LC_ registers alone (R417, R476). -/
def offsetOn (s : State) (fn : Fn) (o : Nat) : Bool :=
  s.mode ≠ .lockdown || o < 0x08 || (0x10 ≤ o && o < 0x20) || (0xC0 ≤ o && o < 0xC8) ||
    (fn == 0 && ((0x200 ≤ o && o < 0x284) || lockdownOff o))

/-- An entry of the recovery window as its 16 bytes (Table 2-8). -/
def RecEntry.bytes (e : RecEntry) : Bytes :=
  natLe 8 e.tag.toNat ++ natLe 2 e.pealId.toNat ++ [e.status, e.tollClass] ++ natLe 4 e.seqLow.toNat

/-- What a naturally aligned 4-byte read of BAR0 returns: the high half of a 64-bit register is the one latched by the
last read of its low half (R476). -/
def read32 (s : State) (fn : Fn) (o : Nat) : BitVec 32 :=
  if !busOn s fn || !offsetOn s fn o then 0
  else if 0x10000 ≤ o && o < 0x20000 then
    match (s.func fn).recovery[(o - 0x10000) / 16]? with
    | some e => BitVec.ofNat 32 (leNat ((e.bytes.drop (o % 16)).take 4))
    | none => 0
  else match reg64 s fn o, reg64 s fn (o - 4) with
    | some v, _ => v.setWidth 32
    | none, some v =>
      (match (s.func fn).hiLatch with
        | some (r, hi) => if r.toNat + 4 = o then hi else v.extractLsb' 32 32
        | none => v.extractLsb' 32 32)
    | none, none =>
      if o < 0x20000 then BitVec.ofNat 32 (fnReg32 s fn o) else if fn = 0 then BitVec.ofNat 32 (devReg32 s o) else 0

/-- What a naturally aligned 8-byte read of a 64-bit register returns (R476). -/
def read64 (s : State) (fn : Fn) (o : Nat) : BitVec 64 :=
  if !busOn s fn || !offsetOn s fn o then 0
  else if 0x10000 ≤ o && o < 0x20000 then
    match (s.func fn).recovery[(o - 0x10000) / 16]? with
    | some e => BitVec.ofNat 64 (leNat ((e.bytes.drop (o % 16)).take 8))
    | none => 0
  else (reg64 s fn o).getD 0

/-- What a read of fewer bytes of a 32-bit register returns: the addressed bytes (R476). -/
def readPart (s : State) (fn : Fn) (o n : Nat) : Bytes :=
  ((natLe 4 (read32 s fn (o - o % 4)).toNat).drop (o % 4)).take n

/-! BAR2, Tables 2-3 and 2-4. -/

/-- What a submission doorbell slot reads as: TAIL, HEAD and STATE (R43). -/
def SubRing.slot (q : SubRing) : BitVec 64 :=
  BitVec.ofNat 64 (q.tail.toNat + 2 ^ 32 * q.head.toNat + 2 ^ 62 * q.state.num)
/-- What a completion head slot reads as: HEAD, POSTED and STATE (R48). -/
def CplRing.slot (c : CplRing) : BitVec 64 :=
  BitVec.ofNat 64 (c.head.toNat + 2 ^ 32 * c.posted.toNat + 2 ^ 62 * c.state.num)

/-- What an aligned 8-byte read of BAR2 returns; reserved offsets and the slots of unassigned blocks read as 0 (R42). -/
def readSlot64 (s : State) (fn : Fn) (o : Nat) : BitVec 64 :=
  if !barsOn s fn || 0x11000 ≤ o then 0
  else if 0x10000 ≤ o then (match cqOf s fn (o % 0x1000 / 8) with | some c => (s.cq c).slot | none => 0)
  else if 0x200 ≤ o % 0x1000 then 0
  else match sqOf s fn (64 * (o / 0x1000) + o % 0x1000 / 8) with | some r => (s.sq r).slot | none => 0

/-! Configuration space, Table 18-2. -/

/-- The identity and capabilities a function's configuration space presents; the vendor number is not in the spec. -/
structure ConfigSpace where
  deviceId : BitVec 16
  revision : BitVec 8
  classCode : BitVec 24
  maxPayload : Nat
  maxRead : Nat
  msixVectors : Nat
  aer : Bool
  totalVfs : Nat
  firstVfOffset : Nat
  vfStride : Nat
  serial : BitVec 64
  deriving DecidableEq, Repr

/-- Configuration space of a function (R475). -/
def configSpace (s : State) (fn : Fn) : ConfigSpace :=
  { deviceId := if fn = 0 then 0x0940 else 0x0941, revision := s.fuses.stepping, classCode := 0x108000,
    maxPayload := 512, maxRead := 4096, msixVectors := if fn = 0 then 2048 else s.fe.vfVectors.toNat, aer := fn == 0,
    totalVfs := if fn = 0 then 255 else 0, firstVfOffset := if fn = 0 then 1 else 0, vfStride := if fn = 0 then 1 else 0,
    serial := BitVec.ofNat 64 (leNat ((fit 16 s.fuses.serial).take 8)) }

/-- REGISTER_LOW_HALF_READ: a 4-byte read of the low half of a 64-bit register latches its high half (R476). -/
def execRegisterLowHalfRead (fn : Fn) (off : BitVec 18) (s : State) : Res :=
  .next (if !busOn s fn || !offsetOn s fn off.toNat then s
  else match reg64 s fn off.toNat with
    | some v => s.mFunc fn fun f => { f with hiLatch := some (off, v.extractLsb' 32 32) }
    | none => s)

end Sys2Proof.Machine
end

