-- ==== Sys2Proof/Machine/Snare.lean ====
section
/-! DEFINITION. The Snare: events, responses, self-checks, the tamper latch and log, the response table (R404 to R412,
R434), and the pins of the Gong (R502, R503). -/
namespace Sys2Proof.Machine

/-- The sensors of a set, lowest ID first. -/
def sensorList (ids : BitVec 22) : List Nat := (List.range 22).filter ids.getLsbD

/-- The Snare runs: the always-on domain is powered, and no Scrap wipe has completed (R404). -/
def snareOn (s : State) : Bool := (aoRuns s || s.pwr.mainGood) && s.fuses.lc ≠ .eolScrap

/-- A sensor is monitored: on battery IDs 0 to 5, 7 and 8 are not, and ID 8 needs a registered partner (Table 15-1). -/
def monitored (s : State) (n : Nat) : Bool :=
  (s.pwr.mainGood || n = 6 || 9 ≤ n) && (n ≠ 8 || s.pair.partner.isSome)

/-- The response a sensor has where the device is: on battery THROTTLE acts as LOG, and IDs 11 to 17 as ZEROISE (R410). -/
def responseNow (s : State) (n : Nat) : Nat :=
  let r := snareResponse s n
  if s.pwr.mainGood then r else if 11 ≤ n && n ≤ 17 then 3 else if r = 1 then 0 else r

/-- The tamper log entry of an event (Table 15-3). -/
def eventEntry (s : State) (n r : Nat) : TamperEntry :=
  { sensor := BitVec.ofNat 8 n, response := BitVec.ofNat 8 r, onBattery := !s.pwr.mainGood, coalesced := false,
    overflow := false, count := 1, vtime := s.clk.vtime, last := s.clk.vtime }

/-- A sensor is out of range, by its condition or its self-check: count, event and log entry (R407, R408, R411). -/
def noteSensor (st : BitVec 2) (s : State) (n : Nat) : State :=
  let up := fun (x : SnareSensor) =>
    { x with state := if x.state = 2 then 2 else st, count := if x.count = 0xFFFF then x.count else x.count + 1 }
  latchEntry (eventEntry s n (responseNow s n))
    (raiseDev .tmpEvent (s.mTmp fun t => { t with sensors := modAt n up t.sensors, clear := false }))

/-- The strongest response of some sensors, applied once, the cause the lowest ID that has it; one no stronger than a
Lockdown's own is logged only (R409, R411, R413). -/
def respond (ns : List Nat) (s : State) : State :=
  let top := (ns.map (responseNow s)).foldl max 0
  let cause := (ns.find? fun n => responseNow s n = top).getD 0
  let stronger := match s.tmp.lock with | some l => decide (l.response.toNat < top) | none => true
  if top = 0 || !stronger then s
  else if top = 1 then s.mTmp fun t => { t with throttle := true, throttleAt := s.clk.now }
  else latchLockdown (BitVec.ofNat 5 cause) (BitVec.ofNat 2 top) (if top = 3 then gong s else s)

/-- Sensors are out of range in one sampling cycle (R411). -/
def snareEvent (st : BitVec 2) (ids : BitVec 22) (s : State) : State :=
  let ns := (sensorList ids).filter (monitored s)
  if !snareOn s || ns.isEmpty then s else respond ns (ns.foldl (noteSensor st) s)

/-- SNARE_SENSOR_OUT_OF_RANGE: sensors are found out of range, and their responses are applied (R404, R407, R411). -/
def execSnareSensorOutOfRange (ids : BitVec 22) (s : State) : Res := .next (snareEvent 1 ids s)

/-- A sensor that passes its self-check is in range again as far as that check goes (R408). -/
def passCheck (fails : BitVec 22) (s : State) : State :=
  let one (n : Nat) (x : SnareSensor) : SnareSensor :=
    if !fails.getLsbD n && x.state = 2 then { x with state := 0 } else x
  s.mTmp fun t => { t with sensors := t.sensors.mapIdx one }

/-- The self-checks of all sensors (R408). -/
def selfCheck (fails : BitVec 22) (s : State) : State := snareEvent 2 fails (passCheck fails s)

/-- SNARE_SELF_CHECK: every second on main power each sensor runs its self-check (R408). -/
def execSnareSelfCheck (fails : BitVec 22) (s : State) : Res := .next (if onMain s then selfCheck fails s else s)

/-- TAMPER_LOG_COPY: on main power the latch goes to the log within 10 ms of an event, by a store write (R412, R425). -/
def execTamperLogCopy (s : State) : Res :=
  .next (if onMain s && !s.tmp.latch.isEmpty && !nvHas .tamperLog s then nvQueue 4 .tamperLog s else s)

/-- THROTTLE_EXPIRE: 1 s after the sensor was last out of range its THROTTLE ends (R409). -/
def execThrottleExpire (s : State) : Res :=
  .next (if s.tmp.throttle && s.tmp.throttleAt + sec 1 ≤ s.clk.now then s.mTmp fun t => { t with throttle := false } else s)

/-- SENSORS_CLEAR_TIMER: every sensor has been in range for 1 s, none failing its self-check (Table 15-17). -/
def execSensorsClearTimer (s : State) : Res :=
  .next (if !snareOn s || s.tmp.sensors.any (·.state == 2) then s
  else s.mTmp fun t => { t with clear := true, sensors := t.sensors.map fun x => { x with state := 0 } })

/-- Every staged entry is at its floor or above; floors do not apply in Blank and Test (R410). -/
def floorsOk (s : State) : Bool :=
  s.fuses.lc == .blank || s.fuses.lc == .test ||
    (List.range 22).all fun n => snareFloor n ≤ (s.tmp.stagedResponse.extractLsb' (2 * n) 2).toNat

/-- TMP_COMMIT_GO: the staged response table and polarity are written as a two-copy record, or refused (R410, R434). -/
def execTmpCommitGo (s : State) : Res :=
  .next (if !busOn s 0 then s
  else if !snareWritable s || !floorsOk s then raiseDev .tmpConfigRefused s
  else if s.tmp.commitBusy then s
  else nvQueue 4 (.response s.tmp.stagedResponse s.tmp.stagedPolarity) (s.mTmp fun t => { t with commitBusy := true }))

/-! VAO_CAP and the hold stage, R502, R503. -/

/-- VAO_CAP_CHARGE_TIMEOUT: VAO_CAP has not reached 3.0 V within 1 s of main power good (R502). -/
def execVaoCapChargeTimeout (s : State) : Res :=
  .next (if s.pwr.mainGood then s.mPwr fun p => { p with gongDegraded := true } else s)

/-- GONG_N_HOLD_EXPIRE: with main power and both batteries absent the hold stage runs out, and a low GONG_N is released
(R503). -/
def execGongNHoldExpire (s : State) : Res :=
  .next (if s.pwr.mainGood || s.pwr.battA || s.pwr.battB then s else s.mPwr fun p => { p with gongN := true })

end Sys2Proof.Machine
end

