-- ==== Sys2Proof/Machine/TollAdmin.lean ====
section
/-! DEFINITION. Peal 0x00FF: statements, the status block, the seal, the authority key, the store image and the mode
(R330, R338, R342 to R348). -/
namespace Sys2Proof.Machine

/-- A request of peal 0x00FF that has run waits for its commit or its writes: the controller serves one at a time (R345). -/
def tollBusy (s : State) (p : Option PealSlot) : Bool :=
  s.smb.stmt.isSome || s.peals.any fun e => some e.1 ≠ p.map (·.toNat) && e.2.entry.id == 0xFF && e.2.opDone && !e.2.readOnly &&
    e.2.phase ≠ .failed && (e.2.phase ≠ .committed || 0 < e.2.storeWait)

/-- A request admitted earlier has not been served yet: requests arrive in admission order (R345). -/
def tollAhead (s : State) (q : Peal) : Bool :=
  s.peals.any fun e => e.2.entry.id == 0xFF && e.2.seq < q.seq && tollReady s e.2

/-- Run a request of peal 0x00FF in its turn. -/
def runToll (slot : PealSlot) (f : Peal → State → State) (s : State) : Res :=
  .next (match s.peal slot with
  | none => s
  | some q => if tollReady s q && !tollBusy s (some slot) && !tollAhead s q then f q s else s)

/-! Statements, R342, R343. -/

/-- Statement sequences that requests in flight hold. -/
def stmtReserved (s : State) : List Nat :=
  s.smb.stmt.toList ++ s.peals.filterMap fun e => match e.2.effect with
    | .tollStatement n => if e.2.phase = .failed || e.2.phase = .committed then none else some n
    | _ => none

/-- The lowest sequence that no statement has used or holds (R343). -/
def stmtSeq (s : State) : Nat :=
  let taken := s.toll.stmtUsed ++ stmtReserved s
  ((List.range (taken.length + 1)).map (s.toll.stmtNext.toNat + ·)).find? (!taken.contains ·) |>.getD
    (s.toll.stmtNext.toNat + taken.length + 1)

/-- A counter has reached its greatest value (R331). -/
def tollSaturated (s : State) : Bool := s.toll.counters.any fun e => e.2 == 0xFFFFFFFFFFFFFFFF

/-- TS.FLAGS (Table 12-4). -/
def stmtFlags (s : State) : BitVec 8 :=
  BitVec.ofNat 8 ((if s.toll.sealed_ then 1 else 0) + (if s.toll.gaps ≠ s.toll.gapsAtStatement then 2 else 0) +
    (if s.toll.journal then 4 else 0) + (if s.toll.epochStated then 0 else 8) + (if tollSaturated s then 16 else 0))

/-- The counters of a statement: of one tenant, or all in index order. -/
def stmtCounters (s : State) (t : Option Fn) : Bytes :=
  let (first, n) := match t with | some t => (16 * t.toNat, 16) | none => (0, 4096)
  (List.range n).flatMap fun i => natLe 8 (smGet 0 s.toll.counters (first + i)).toNat

/-- A statement but its signature (Table 12-4). -/
def stmtBody (s : State) (kind : BitVec 8) (t : Option Fn) (seq : Nat) (nonce : Bytes) : Bytes :=
  [0x54, 0x4F, 0x4C, 0x53, 1, kind, stmtFlags s, t.getD 0xFF] ++ fit 16 s.fuses.serial ++
    [BitVec.ofNat 8 s.fuses.epoch, lcsCode s] ++ natLe 2 (if t.isSome then 16 else 4096) ++
    natLe 4 s.toll.sealEvents.toNat ++ natLe 8 seq ++ natLe 8 s.clk.vtime.toNat ++ natLe 8 s.toll.lastOwn.toNat ++
    natLe 4 s.toll.gaps.toNat ++ natLe 4 s.toll.mapEvents.toNat ++ tollDigest s ++
    fit 32 (if s.toll.sealed_ then s.toll.sealId else []) ++ fit 48 s.toll.mapChain ++ fit 32 nonce ++ zeros 32 ++
    stmtCounters s t

/-- The mark of the next block of statement sequences is being written. -/
def markBusy (s : State) : Bool :=
  let isMark (c : NvCmd) : Bool := match c.work with | .tollMark _ => true | _ => false
  (s.nv.current.toList ++ s.nv.stopped.toList ++ s.nv.queue).any isMark

/-- A sequence may be reserved: it lies below the persisted mark; otherwise the next block's mark is written first
(R343). -/
def markReady (seq : Nat) (s : State) : Bool × State :=
  if seq < s.toll.stmtHwm.toNat then (true, s)
  else (false, if markBusy s then s else nvQueue 3 (.tollMark (BitVec.ofNat 64 (max seq s.toll.stmtHwm.toNat + 65536))) s)

/-- A statement waits for the record that holds what was not recorded at its snapshot; outside journal mode it is started
(R343). -/
def awaitDelta (p : PealSlot) (s : State) : State :=
  if allRecorded s then s
  else
    let s1 := if s.toll.journal then s else startDelta false false s
    let seq := if s.toll.journal || s.toll.writing.isSome then coveringRecord s else s1.toll.logSeq
    awaitStore p 1 (s1.mToll fun k => { k with stmtWaits := k.stmtWaits ++ [(p, seq)] })

/-- Issue a statement (R342, R343). -/
def statement (p : PealSlot) (q : Peal) (kind : BitVec 8) (t : Option Fn) (nonce : Bytes) (s : State) : State :=
  let seq := stmtSeq s
  match markReady seq s with
  | (false, s1) => s1
  | (true, s1) =>
    let body := stmtBody s1 kind t seq nonce
    withSign p 0 (·.root.regs.toll) body (fun sig s2 => pass p q (body ++ sig) (.tollStatement seq) (awaitDelta p s2)) s1

/-- TENANT_STATEMENT: operation 0x01 (R345). -/
def execTenantStatement (slot : PealSlot) (s : State) : Res :=
  runToll slot (fun q s =>
    let bs := q.inputBytes
    let t := bs.getD 1 0
    if bs.length ≠ 40 || opByte q = 0x14 then s
    else if q.fn ≠ 0 && opByte q ≠ 3 && (opByte q ≠ 1 || t ≠ q.fn) then deny slot denied s
    else if opByte q ≠ 1 || !zeroAt bs 2 6 then deny slot encodingBad s
    else if !s.toll.hasKey then deny slot denied s
    else statement slot q 1 (some t) (slice bs 8 32) s) s

/-- FULL_STATEMENT: operation 0x02 (R345). -/
def execFullStatement (slot : PealSlot) (s : State) : Res :=
  runToll slot (fun q s =>
    let bs := q.inputBytes
    if bs.length ≠ 48 || opByte q = 0x14 then s
    else if q.fn ≠ 0 && opByte q ≠ 1 && opByte q ≠ 3 then deny slot denied s
    else if opByte q ≠ 2 || !zeroAt bs 1 7 || !zeroAt bs 40 8 then deny slot encodingBad s
    else if !s.toll.hasKey then deny slot denied s
    else statement slot q 2 none (slice bs 8 32) s) s

/-! The status block, R345, R347, R351. -/

/-- The Toll's status block and its seal log, oldest first (R351). -/
def tollStatus (s : State) : Bytes :=
  let k := s.toll
  [if k.sealed_ then 1 else 0, k.mode.setWidth 8, if k.journal then 1 else 0, BitVec.ofNat 8 k.sealLog.length] ++
    natLe 4 k.sealEvents.toNat ++ natLe 4 k.gaps.toNat ++ natLe 4 (min 255 k.dirty.length) ++
    natLe 8 k.stmtNext.toNat ++ natLe 8 (lastRecord s) ++ fit 32 k.sealId ++ tollDigest s ++ zeros 16 ++
    k.sealLog.flatMap SealEntry.bytes

/-- TOLL_STATUS_BLOCK: operation 0x03 (R345). -/
def execTollStatusBlock (slot : PealSlot) (s : State) : Res :=
  runToll slot (fun q s =>
    if q.inputBytes.length ≠ 1 then s
    else if opByte q = 3 then pass slot q (tollStatus s) .none s
    else if q.fn ≠ 0 && opByte q ≠ 1 then deny slot denied s
    else deny slot encodingBad s) s

/-! The seal, R345 to R348. -/

/-- The fields of a seal token hold for an operation and a seal identifier (Table 12-6). -/
def tokenFields (s : State) (op : BitVec 8) (tk : Bytes) : Bool :=
  tk.take 4 == [0x54, 0x53, 0x54, 0x4B] && tk.getD 4 0 == op && zeroAt tk 5 3 && slice tk 8 16 == fit 16 s.fuses.serial &&
    le tk 0x18 4 == s.toll.sealEvents.toNat && zeroAt tk 0x1C 4 &&
    (if op = 0x10 then !zeroAt tk 0x20 32 else slice tk 0x20 32 == fit 32 s.toll.sealId)

/-- A seal token's operation: caller, its counter value, condition, the other fields, then signature. A stale counter value is
found before the condition, as Table 12-8 has it for two requests queued together (R345, R346; notes/assumptions/186.md). -/
def sealOp (slot : PealSlot) (q : Peal) (op : BitVec 8) (cond : Bool) (e : Effect) (s : State) : State :=
  let bs := q.inputBytes
  if q.fn ≠ 0 then deny slot denied s
  else if le bs 0x20 4 ≠ s.toll.sealEvents.toNat then deny slot encodingBad s
  else if !cond then deny slot denied s
  else if !zeroAt bs 1 7 || !tokenFields s op (bs.drop 8) then deny slot encodingBad s
  else match sigFault (ownerVerdict 1 (s.toll.authority.getD []) (slice bs 8 64) (slice bs 0x48 96)) with
    | some st => deny slot st s
    | none => pass slot q [] e s

/-- TOLL_SEAL: operation 0x10, and an input of its length that names no other operation (R345, R346). -/
def execTollSeal (slot : PealSlot) (_sig : Computed) (s : State) : Res :=
  runToll slot (fun q s =>
    let bs := q.inputBytes
    if bs.length ≠ 168 || opByte q = 0x11 || opByte q = 0x14 then s
    else if opByte q ≠ 0x10 then deny slot (if q.fn ≠ 0 && opByte q ≠ 1 && opByte q ≠ 3 then denied else encodingBad) s
    else sealOp slot q 0x10 (!s.toll.sealed_ && s.toll.authority.isSome) (.tollSeal (slice bs 0x28 32)) s) s

/-- UNSEAL: operation 0x11 (R345, R346). -/
def execUnseal (slot : PealSlot) (_sig : Computed) (s : State) : Res :=
  runToll slot (fun q s =>
    if q.inputBytes.length ≠ 168 || opByte q ≠ 0x11 then s
    else sealOp slot q 0x11 s.toll.sealed_ (.tollUnseal false) s) s

/-- FORCED_UNSEAL: operation 0x12 (R345, R347). -/
def execForcedUnseal (slot : PealSlot) (s : State) : Res :=
  runToll slot (fun q s =>
    let bs := q.inputBytes
    if bs.length ≠ 8 || opByte q ≠ 0x12 then s
    else if q.fn ≠ 0 then deny slot denied s
    else if !zeroAt bs 1 3 || le bs 4 4 ≠ s.toll.sealEvents.toNat then deny slot encodingBad s
    else if !s.toll.sealed_ || s.mode ≠ .maintenance then deny slot denied s
    else pass slot q [] (.tollUnseal true) s) s

/-- Mode settings of R338. -/
def modeSettingOk (b : BitVec 8) : Bool := b.toNat ≤ 2

/-- SET_JOURNAL_MODE: operation 0x15, and an input of its length that names no other operation (R338, R345). -/
def execSetJournalMode (slot : PealSlot) (s : State) : Res :=
  runToll slot (fun q s =>
    let bs := q.inputBytes
    if bs.length ≠ 8 || opByte q = 0x12 || opByte q = 0x14 then s
    else if q.fn ≠ 0 && opByte q ≠ 1 && opByte q ≠ 3 then deny slot denied s
    else if opByte q ≠ 0x15 || !modeSettingOk (bs.getD 1 0) || !zeroAt bs 2 6 then deny slot encodingBad s
    else pass slot q [] (.tollMode ((bs.getD 1 0).setWidth 2)) s) s

/-- SET_AUTHORITY_KEY: operation 0x13, and an input of its length that names no other operation (R345, R348). -/
def execSetAuthorityKey (slot : PealSlot) (s : State) : Res :=
  runToll slot (fun q s =>
    let bs := q.inputBytes
    if bs.length ≠ 105 || opByte q = 0x14 then s
    else if q.fn ≠ 0 && opByte q ≠ 1 && opByte q ≠ 3 then deny slot denied s
    else if opByte q ≠ 0x13 then deny slot encodingBad s
    else if s.toll.sealed_ || s.mode ≠ .maintenance then deny slot denied s
    else if !zeroAt bs 1 7 || bs.getD 8 0 ≠ 4 then deny slot encodingBad s
    else pass slot q [] (.tollAuthority (slice bs 8 97)) s) s

/-- Lengths that fit an operation of peal 0x00FF but 0x14 (Table 12-5). -/
def tollOpLen (n : Nat) : Bool := n == 1 || n == 8 || n == 40 || n == 48 || n == 105 || n == 168

/-- REPLACE_STORE_IMAGE: operation 0x14, and an input of a length that fits no other operation (R330, R345, R348). -/
def execReplaceStoreImage (slot : PealSlot) (sig : SigVerdict) (version : BitVec 32) (_digest : Computed) (s : State) : Res :=
  runToll slot (fun q s =>
    if opByte q ≠ 0x14 then
      if tollOpLen q.inputBytes.length then s
      else deny slot (if q.fn ≠ 0 && opByte q ≠ 1 && opByte q ≠ 3 then denied else encodingBad) s
    else if q.inputBytes.length < 8 then s
    else if q.fn ≠ 0 || s.toll.sealed_ || s.mode ≠ .maintenance then deny slot denied s
    else match sigFault sig with
      | some st => deny slot st s
      | none =>
        if version.toNat < s.toll.imageVersion.toNat then deny slot denied s
        else pass slot q [] (.tollImage (q.inputBytes.drop 8) version) s) s

end Sys2Proof.Machine
end

