-- ==== Sys2Proof/Machine/LifeCycle.lean ====
section
/-! DEFINITION. Life-cycle tokens, transitions, wipes, the Lockdown report and debug tokens (R418 to R433, R349). -/
namespace Sys2Proof.Machine

/-! The command window, Table 15-17. -/

/-- A life-cycle command ends with a RESULT. -/
def lcResult (r : BitVec 4) (s : State) : State := s.mLc fun l => { l with result := r, busy := false }

/-- A life-cycle command is refused; a token's refusal raises LC_TOKEN_REFUSED (R421). -/
def lcRefuse (token : Bool) (r : BitVec 4) (s : State) : State :=
  whenDo token (raiseDev .lcTokenRefused) (s.mLc fun l => { l with result := r })

/-- A command written to LC_CMD.CODE: refused with RESULT 7 while another is in progress (Table 15-17). -/
def lcCommand (token : Bool) (f : State → State) (s : State) : Res :=
  .next (if !busOn s 0 then s else if s.lc.busy then lcRefuse token 7 s else f s)

/-- LC_DATA, whole. -/
def lcBytes (s : State) : Bytes := fit 512 s.lc.data

/-! The life-cycle journal, R428. -/

/-- The latest entry. -/
def lcLast (s : State) : Option LcEntry := s.lc.journal.getLast?

/-- The KA.LCS code of a state (Table 7-4). -/
def LcState.code : LcState → BitVec 8
  | .blank => 0 | .test => 1 | .production => 2 | .eolAnalysis => 3 | .eolScrap => 3

/-- Write an entry of the transition in progress, which the store holds once its command ends; 64 are kept. -/
def lcWrite (step : BitVec 8) (e : LcEntry) (s : State) : State :=
  let seq : BitVec 32 := match lcLast s with | some x => x.seq + 1 | none => 1
  nvQueue 4 (.lifeCycle { e with step := step, vtime := s.clk.vtime, boot := s.ks.boot, seq := seq }) s

/-- An entry of the journal has not been written yet. -/
def lcWriting (s : State) : Bool := (nvAll s).any fun c => match c.work with | .lifeCycle _ => true | _ => false

/-- Increment LC_SEQ (R422). -/
def lcSeqInc (s : State) : State := s.mLc fun l => { l with lcSeq := l.lcSeq + 1 }

/-- The target of a transition by its scope and where it starts. -/
def LcEntry.target (e : LcEntry) : LcState :=
  if e.scope = 2 then .eolScrap else if e.scope = 1 then .eolAnalysis
  else if e.to_ = 1 then .test else if e.to_ = 2 then .production else if e.to_ = 3 then .eolScrap else .blank

/-- A transition's target is an End-of-Life state. -/
def LcEntry.eol (e : LcEntry) : Bool := e.target == .eolAnalysis || e.target == .eolScrap

/-! Closing statement, R349. -/

/-- The closing record: a full statement of kind 0x03 and the Toll key's certificate, its signature, over the nonce drawn,
zero when there is no TOLL key (R349, R431). -/
def closingRecord (s : State) (drawn : Option Bytes) : Bytes :=
  let body := stmtBody s 3 none (stmtSeq s) (zeros 32)
  let sig := match drawn with
    | some bs => if s.toll.hasKey then deviceSign s.root.regs.toll body bs else zeros 96
    | none => zeros 96
  body ++ sig ++ s.root.dkcs.getD 1 (zeros 232)

/-- The parts of a closing record, of at most sixteen pages each. -/
def closingParts (bs : Bytes) : Nat := (bs.length + 4095) / 4096

/-- The closing record is written, after the seal log's entry (R349). -/
def writeClosing (seq : Nat) (sig : Option Bytes) (s : State) : State :=
  let bs := closingRecord s sig
  let n := closingParts bs
  let s1 := sealLogAdd none 8 s.toll.sealEvents [] (useStatement seq (s.mLc fun l => { l with closing := none }))
  (List.range n).foldl (fun s i => nvQueue 3 (.closing bs i n) s) s1

/-- The closing statement of a transition is taken once every commit begun has ended, with a sequence below the persisted mark
and a nonce from I3; where that cannot be served, unsigned (R343, R349, R431). -/
def closeGoesOn (s : State) : State :=
  if s.lc.closing.isNone || anyBegun s then s
  else
    let seq := stmtSeq s
    match markReady seq s with
    | (false, s1) => s1
    | (true, s1) =>
      if !s1.toll.hasKey then writeClosing seq none s1
      else match drawFor .closing (instI 3) signDraw s1 with
        | (.served bs, s2) => writeClosing seq (some bs) s2
        | (.held, s2) => s2
        | (.failed _, s2) => writeClosing seq none s2

/-- A transition to End-of-Life asks for its closing statement (R349). -/
def close (e : LcEntry) (s : State) : State := closeGoesOn (s.mLc fun l => { l with closing := some e })

/-- A closing statement whose nonce is held is asked for again. -/
def serveClosing (s : State) : State := if s.rng.held.any (·.who == .closing) then closeGoesOn s else s

/-- A command of the closing record, or the seal log's. -/
def NvCmd.isClosing (c : NvCmd) : Bool :=
  match c.work with | .closing _ _ _ => true | .sealEntry _ _ _ => true | _ => false

/-- The closing record and its seal log entry are in the store: the CLOSED entry is written (R349, Table 15-15). -/
def closed (s : State) : State :=
  match s.lc.entry with
  | some e =>
    if s.lc.pending && e.eol && s.lc.closing.isNone && !s.lc.wiped && !lcWriting s && s.toll.closing.isSome &&
        !(nvAll s).any NvCmd.isClosing && (match lcLast s with | some x => x.step == 1 | none => true) then
      lcWrite 2 e s
    else s
  | none => s

/-- STEWARD_RECORD_WRITE_COMPLETE: the write of a peal's Steward-held record has ended; a closing statement that waited for its
commit is taken (R18, R219, R335, R349). -/
def execStewardRecordWriteComplete (slot : PealSlot) (s : State) : Res := .next (closeGoesOn (recordWritten slot s))

/-- GROUP_RECORD_COMPLETE: the group record's write has ended (R155, R338); a closing statement that waited for it is taken
(R349). -/
def execGroupRecordComplete (s : State) : Res :=
  .next (if !s.clap.groupDone || 255 < committedWaiting s + s.clap.writing.length then s
  else match s.toll.writing with
    | none => s
    | some r => closeGoesOn (groupWritten r s))

/-! Wipes, Table 15-14. -/

/-- The items of Table 15-4, the Toll's bank with them. -/
def wipeVolatile (s : State) : State :=
  (zeroiseRest (zeroiseVault s)).mToll fun k => { k with bankValid := false, counters := [], dirty := [], writing := none }

/-- A command whose end a committed peal waits for. -/
def NvWork.forPeal : NvWork → Bool
  | .tollState p => p.isSome
  | .sealCount p => p.isSome
  | .sealEntry p _ _ => p.isSome
  | .tollImage p _ => p.isSome
  | .cellRewrite _ p => p.isSome
  | .revocation _ p => p.isSome
  | .stewardRecord _ _ => true
  | _ => false

/-- The pages a wipe of a scope clears, as first and last ones: 0 Manufacturing, 1 Analysis, which keeps the certificates and the
closing record, 2 Scrap (Tables 13-1, 15-14, R430). -/
def wipePages (scope : BitVec 8) : List (Nat × Nat) :=
  if scope = 0 then [(32, 9215), (9232, 9237)]
  else if scope = 1 then [(32, 4369), (4501, 9215), (9232, 9237)]
  else [(0, 9215), (9472, 16383)]
/-- Pages in commands of at most sixteen (R358). -/
def wipeRuns (ps : List (Nat × Nat)) : List (Nat × Nat) :=
  ps.flatMap fun p => (List.range ((p.2 - p.1) / 16 + 1)).map fun i => (p.1 + 16 * i, min 16 (p.2 + 1 - p.1 - 16 * i))
/-- Zero words are written to pages (R355, R429). -/
def wipeStart (ps : List (Nat × Nat)) (s : State) : State :=
  let cmd (p : Nat × Nat) : NvCmd := { cls := 4, work := .wipe p.1 p.2, data := (NvWork.wipe p.1 p.2).data s }
  s.mNv fun n => NvStore.kick s.clk.now { n with queue := n.queue ++ (wipeRuns ps).map cmd }
/-- The pages hold zero words alone. -/
def zeroPages (ps : List (Nat × Nat)) (m : List Host.Cell) : Bool :=
  m.all fun c => !ps.any fun p => decide (pageAddr p.1 ≤ c.1) && decide (c.1 < pageAddr (p.2 + 1))
/-- A command of a wipe. -/
def NvCmd.isWipe (c : NvCmd) : Bool := match c.work with | .wipe _ _ => true | _ => false

/-- What the system, counters and user regions hold goes with their words: tenants and every record kept for them, the pair's
registration, the boot record, retirement counts and every counter of Table 13-2. -/
def wipeStore (s : State) : State :=
  let n0 := NvStore.init
  let left (n : NvStore) : List NvCmd := (n.current.toList ++ n.stopped.toList ++ n.queue).filter (·.work.forPeal)
  let s1 := s.mNv fun n => NvStore.kick s.clk.now { n0 with
    spares := n.spares, remapped := n.remapped, writeFails := n.writeFails, wear := n.wear, queue := left n, array := n.array,
    unstored := n.unstored.filter fun u => match u with | .lifeCycle _ => true | .tamperLog _ => true | _ => false }
  let s2 := s1.mKs fun k => { KeyStore.init with boot := k.boot }
  let s3 := s2.mPair fun x => { x with partner := none, inService := false, sync := false, syncNext := none,
                                       roles := BitVec.allOnes 256, stored := BitVec.allOnes 256, hwmPending := [], revokeUnacked := [] }
  let slot (f : FwSlot) : FwSlot := { f with trials := 0, confirmed := false }
  let s4 := s3.mBoot fun b => { b with preferB := false, antiRollback := 0, slotA_ := slot b.slotA_, slotB_ := slot b.slotB_ }
  let s5 := (s4.mHealth fun h => { h with lifetime := [] }).mRoot fun r => { r with dkcs := [] }
  { s5 with tenants := [] }

/-- The Toll region is wiped: counters and records, the closing record only when `all`. -/
def wipeToll (all : Bool) (s : State) : State :=
  s.mToll fun k => { Toll.init with closing := if all then none else k.closing }

/-- Life-cycle region pages 9,232 to 9,237: Lockdown record, recovery key, response table. -/
def wipeLcRecords (s : State) : State :=
  (s.mTmp fun t => { t with lockRecord := false, response := Tamper.init.response, stagedResponse := Tamper.init.response,
                            polarity := 0, stagedPolarity := 0 }).mLc fun l => { l with recoveryKey := none }

/-- The wipe of a scope: 0 Manufacturing, 1 Analysis, 2 Scrap. An End-of-Life wipe runs the Gong and programs every
remaining bit of ROOT_EPOCH. -/
def wipeScope (scope : BitVec 8) (s : State) : State :=
  let s1 := if scope = 0 then s
    else (raiseDev .tmpZeroise ((s.mPwr fun p => { p with gongN := false }).mTmp fun t => { t with zeroised := true })).mFuses
      fun r => { r with epoch := 32 }
  wipeStart (wipePages scope) (wipeLcRecords (wipeToll (scope = 0 || scope = 2) (wipeStore (wipeVolatile s1))))

/-! Transitions, R429 to R431. -/

/-- A transition begins: its BEGUN entry goes to the store (R429). -/
def beginTransition (e : LcEntry) (s : State) : State :=
  lcWrite 1 e (s.mLc fun l => { l with
    pending := true, entry := some e, wipeFails := 0, wiped := false, verified := false, busy := true, result := 0,
    cleared := false })

/-- The wipe of the transition's scope is made; a transition to Test has none (R429). -/
def wipeFor (e : LcEntry) (s : State) : State :=
  if e.target = .test then s.mLc fun l => { l with wiped := true, verified := true }
  else (wipeScope e.scope s).mLc fun l => { l with wiped := true }

/-- The journal entry a transition writes, but its step (R428). -/
def newEntry (s : State) (to_ : LcState) (kind signer : BitVec 8) : LcEntry :=
  { step := 1, from_ := s.fuses.lc.code, to_ := to_.code, scope := BitVec.ofNat 8 to_.scope, lcSeq := s.lc.lcSeq,
    vtime := 0, boot := 0, seq := 0, kind := kind, signer := signer }

/-- WIPE_VERIFICATION_COMPLETE: the read-back, which follows the wipe's commands, ends. All zero, CLEARED is set and VERIFIED written; a first failure
repeats the wipe, a second leaves the transition pending until the next power-up (R429, R430). -/
def execWipeVerificationComplete (ok : Bool) (s : State) : Res :=
  .next (match s.lc.entry with
  | none => s
  | some e =>
    if !onMain s || !s.lc.pending || !s.lc.wiped || 2 ≤ s.lc.wipeFails || s.lc.verified || (nvAll s).any NvCmd.isWipe then s
    else if ok && zeroPages (wipePages e.scope) s.nv.array then lcWrite 3 e (s.mLc fun l => { l with cleared := true, verified := true })
    else
      let s1 := (wipeScope e.scope s).mLc fun l => { l with wipeFails := l.wipeFails + 1 }
      whenDo (s.lc.wipeFails == 1) (raiseDev .lcWipeFail) s1)

/-- A Scrap device's life-cycle region is wiped after the fuse groups, and its fuse key is gone (Table 15-14, R430). -/
def scrapEnd (s : State) : State :=
  let s1 := (s.mLc fun l => { l with journal := [], lcSeq := 0 }).mTmp fun t => { t with log := [], latch := [], logTotal := 0 }
  let s2 := if zeroPages [(9216, 9471)] s1.nv.array then s1 else wipeStart [(9216, 9471)] s1
  ((s2.mFuses fun f => { f with fuseKey := none }).mRoot fun r => { r with regs := BranchKeys.none }).mPwr fun p => { p with gongN := false }

/-- The fuse groups of a state are programmed (R424, R430). -/
def Fuses.program (t : LcState) (f : Fuses) : Fuses := { f with lcFuse := f.lcFuse ||| t.fuses }

/-- The transition is over: its Lockdown is cleared, and vault time starts when the device leaves Test for Production (R429,
R430, R507). -/
def completeTransition (t : LcState) (s : State) : State :=
  let s1 := lcResult 1 (s.mLc fun l => { l with pending := false, entry := none, wiped := false, verified := false })
  let s2 := if t = .production then s1.mClk fun c => { c with vtime := 0 } else s1
  if s2.tmp.lock.isSome then
    let s3 := State.mBoot (fun b => { b with stage := 7 }) ((s2.mTmp fun x => { x with lock := none }).enter .rest)
    if t = .eolScrap then scrapEnd (dropLink s3) else toReady s3
  else s2

/-- The transition's fuse groups are programmed, and COMPLETE is written; a Scrap device wipes its life-cycle region instead
(R429, R430). -/
def fusesProgrammed (e : LcEntry) (s : State) : State :=
  let s1 := s.mFuses (Fuses.program e.target)
  if e.target = .eolScrap then completeTransition .eolScrap s1
  else lcWrite 4 e (s1.mLc fun l => { l with wiped := false, verified := false })

/-- An entry of the life-cycle journal is in the store, and the transition goes on (R429): after BEGUN LC_SEQ rises, and
an End-of-Life transition latches Lockdown with cause 23 and takes the closing statement, which the wipe follows; after
COMPLETE it is over. -/
def lcWritten (e : LcEntry) (s : State) : State :=
  if !s.lc.pending || s.lc.entry.isNone then s
  else if e.step = 1 then
    let s1 := lcSeqInc s
    if e.eol then close e (latchLockdown 23 2 s1) else wipeFor e s1
  else if e.step = 2 then wipeFor e s
  else if e.step = 4 then completeTransition e.target s
  else s

/-- MANUFACTURING_TRANSITION: Blank to Test, or Test to Production under a debug token with MFG (Table 15-13). -/
def execManufacturingTransition (s : State) : Res :=
  .next (if !onMain s || s.lc.busy || s.lc.pending then s
  else match s.fuses.lc with
    | .blank => beginTransition (newEntry s .test 0 0) s
    | .test =>
      if (match s.lc.debug with | some p => p.getLsbD 4 | none => false) then beginTransition (newEntry s .production 0 0) s
      else s
    | _ => s)

/-! Life-cycle tokens, R421 to R423, R426, R429. -/

/-- LT.KIND and LT.SIGNER. -/
def ltKind (s : State) : BitVec 8 := (lcBytes s).getD 4 0
def ltSigner (s : State) : BitVec 8 := (lcBytes s).getD 5 0

/-- Check 1: the mode and state permit the kind (Table 15-8). -/
def tokenPermitted (s : State) : Bool :=
  let prod := s.fuses.lc == .production
  let test := s.fuses.lc == .test
  let k := ltKind s
  if k = 1 then prod && s.mode == .lockdown && s.fuses.epoch < 32
  else if k = 2 then ((prod && (s.mode == .maintenance || s.mode == .lockdown)) || test) && !s.fuses.scrapOnly
  else if k = 3 then (prod && (s.mode == .maintenance || s.mode == .lockdown)) || test
  else if k = 4 then prod && s.mode == .maintenance
  else if k = 5 then (prod && s.mode == .maintenance) || test
  else false

/-- Check 2: magic, reserved bytes, SERIAL, LC_SEQ and the current state (Table 15-7). -/
def tokenFieldsOk (s : State) : Bool :=
  let d := lcBytes s
  d.take 4 == [0x4C, 0x43, 0x54, 0x4B] && zeroAt d 6 2 && slice d 8 16 == fit 16 s.fuses.serial &&
    le d 0x18 4 == s.lc.lcSeq.toNat && d.getD 0x1C 0 == s.fuses.lc.code && zeroAt d 0x1D 3 && zeroAt d 0x81 7 &&
    (ltKind s == 4 || zeroAt d 0x20 97)

/-- Check 3: the signer is one the kind takes, holds a key, and the signature verifies (Table 15-8). -/
def tokenSigned (s : State) (sig : Bool) : Bool :=
  let k := ltKind s
  let lenzius := k == 2 || k == 3 || (k == 5 && s.fuses.lc == .test)
  sig && ((ltSigner s == 1 && s.lc.recoveryKey.isSome) || (ltSigner s == 2 && lenzius))

/-- The RESULT of the first check a token fails, in the order of R421. -/
def tokenFault (s : State) (sig : Bool) : Option (BitVec 4) :=
  if !tokenPermitted s then some 2 else if !tokenFieldsOk s then some 3 else if !tokenSigned s sig then some 4
  else if ltKind s = 1 && !s.tmp.clear then some 5 else none

/-- A token of a kind is submitted with LC_CMD.CODE 1. -/
def token (mine : Bool) (sig : Bool) (accept : State → State) (s : State) : Res :=
  if !mine then .next s
  else lcCommand true (fun s => match tokenFault s sig with
    | some r => lcRefuse true r s
    | none => accept s) s

/-- RECOVER_TOKEN: kind 0x01, and a token of no kind of Table 15-8. Accepted, it increments LC_SEQ and leads to a
recovery reset (R421, R423). -/
def execRecoverToken (sig : Bool) (s : State) : Res :=
  token (!(2 ≤ (ltKind s).toNat && (ltKind s).toNat ≤ 5)) sig
    (fun s => lcSeqInc (s.mLc fun l => { l with busy := true, result := 0, recovering := some s.clk.now })) s

/-- EOL_ANALYSIS_TOKEN: kind 0x02 (R429). -/
def execEolAnalysisToken (sig : Bool) (s : State) : Res :=
  token (ltKind s == 2) sig (fun s => beginTransition (newEntry s .eolAnalysis 2 (ltSigner s)) s) s

/-- EOL_SCRAP_TOKEN: kind 0x03 (R429). -/
def execEolScrapToken (sig : Bool) (s : State) : Res :=
  token (ltKind s == 3) sig (fun s => beginTransition (newEntry s .eolScrap 3 (ltSigner s)) s) s

/-- Write the recovery key's two-copy record (R420). -/
def writeRecoveryKey (key : Bytes) (s : State) : State :=
  nvQueue 4 (.recoveryKey key) (s.mLc fun l => { l with busy := true, result := 0 })

/-- REPLACE_RECOVERY_KEY_TOKEN: kind 0x04 (R420, R421). -/
def execReplaceRecoveryKeyToken (sig : Bool) (s : State) : Res :=
  token (ltKind s == 4) sig (fun s => writeRecoveryKey (slice (lcBytes s) 0x20 97) (lcSeqInc s)) s

/-- SCRAP_ONLY_POLICY_TOKEN: kind 0x05 programs EOL_SCOPE_POLICY (R426). -/
def execScrapOnlyPolicyToken (sig : Bool) (s : State) : Res :=
  token (ltKind s == 5) sig (fun s => lcResult 1 (lcSeqInc (s.mFuses fun f => { f with scrapOnly := true }))) s

/-- REGISTER_RECOVERY_KEY: LC_CMD.CODE 2, in Maintenance and while no key is registered (R420). -/
def execRegisterRecoveryKey (_pointOk : Computed) (s : State) : Res :=
  lcCommand false (fun s =>
    if s.mode ≠ .maintenance || s.lc.recoveryKey.isSome then lcRefuse false 2 s
    else if (keyDefect [] 0x21 2 (slice (lcBytes s) 0 97)).isSome then lcRefuse false 3 s
    else writeRecoveryKey (slice (lcBytes s) 0 97) s) s

/-! The Lockdown report, R418. -/

/-- A tamper log entry as its 16 bytes (Table 15-3). -/
def TamperEntry.bytes (e : TamperEntry) : Bytes :=
  [e.sensor, e.response, BitVec.ofNat 8 (b2n e.onBattery + 2 * b2n e.coalesced + 4 * b2n e.overflow), 0] ++
    natLe 4 e.count.toNat ++ natLe 8 e.vtime.toNat

/-- LR.FLAGS (Table 15-6). -/
def reportFlags (s : State) : Nat :=
  b2n s.tmp.zeroised + 2 * b2n (match s.tmp.lock with | some l => l.onBattery | none => false) + 4 * b2n s.tmp.clear +
    8 * b2n s.lc.recoveryKey.isSome + 16 * b2n (s.mode == .lockdown)

/-- The Lockdown report but its signature (Table 15-6). -/
def reportBody (s : State) (nonce : Bytes) : Bytes :=
  let (cause, resp, ev) : BitVec 8 × BitVec 8 × Nat := match s.tmp.lock with
    | some l => (l.cause.setWidth 8, l.response.setWidth 8, l.vtime.toNat)
    | none => (0xFF, 0, 0)
  let close : Bytes := match s.toll.closing with | some c => sha384 c | none => zeros 48
  [0x4C, 0x4B, 0x52, 0x50, 1, s.fuses.lc.code, BitVec.ofNat 8 s.fuses.lc.scope, BitVec.ofNat 8 (reportFlags s)] ++
    fit 16 s.fuses.serial ++ [BitVec.ofNat 8 s.fuses.epoch, cause, resp, 0] ++ natLe 4 s.lc.lcSeq.toNat ++
    natLe 8 ev ++ natLe 8 s.clk.vtime.toNat ++ natLe 4 s.ks.boot.toNat ++ zeros 4 ++ runningDigest s ++ close ++
    fit 32 nonce ++ natLe 4 s.tmp.logTotal.toNat ++ zeros 4 ++ fit 64 ((s.tmp.log.take 4).flatMap TamperEntry.bytes)

/-- The Lockdown report is available (R418). -/
def reportAllowed (s : State) : Bool := s.mode == .lockdown || s.fuses.lc == .eolAnalysis

/-- The report signed with the identity key, its nonce drawn from I3 (R203, R283). -/
def signedReport (s : State) (nonce drawn : Bytes) : Bytes :=
  let body := reportBody s nonce
  body ++ deviceSign s.root.regs.ident body drawn

/-- LOCKDOWN_REPORT: LC_CMD.CODE 3; without I3 in an outage it ends with RESULT 6 (R418, R526). -/
def execLockdownReport (s : State) : Res :=
  lcCommand false (fun s =>
    if !reportAllowed s then lcRefuse false 2 s
    else if s.rng.outage && !(s.drbg (instI 3)).instantiated then lcRefuse false 6 s
    else s.mLc fun l => { l with busy := true, result := 0, report := some (slice (lcBytes s) 0 32) }) s

/-- LOCKDOWN_REPORT_READY: the report appears in LC_DATA once I3 serves its nonce, and the command ends with RESULT 6 where it
cannot (R292, R418, R526). -/
def execLockdownReportReady (s : State) : Res :=
  .next (match s.lc.report with
  | none => s
  | some nonce =>
    if !onMain s then s
    else match drawFor .report (instI 3) signDraw s with
    | (.served bs, s1) =>
      lcResult 1 (s1.mLc fun l => { l with report := none, data := signedReport s nonce bs ++ (fit 512 l.data).drop 352 })
    | (.held, s1) => s1
    | (.failed _, s1) => lcResult 6 (s1.mLc fun l => { l with report := none }))

/-! Debug tokens and scan, R432, R433. -/

/-- Debug tokens are accepted in the present state (Table 15-12). -/
def debugState (s : State) : Bool := s.fuses.lc == .test || (s.fuses.lc == .eolAnalysis && s.lc.cleared)

/-- The debug challenge is drawn from I1, now or, while its draw is held, later; a draw that cannot be served ends the command
with RESULT 6 (R283, R292, R432, R526; notes/assumptions/179.md). -/
def drawChallenge (s : State) : State :=
  match drawFor .challenge (instI 1) 32 s with
  | (.served c, s1) =>
    lcResult 1 (s1.mLc fun l => { l with challenge := some c, data := c ++ (fit 512 l.data).drop 32 })
  | (.held, s1) => s1.mLc fun l => { l with busy := true, result := 0 }
  | (.failed _, s1) => lcResult 6 s1

/-- A held debug challenge is asked for again. -/
def serveChallenge (s : State) : State := if s.rng.held.any (·.who == .challenge) then drawChallenge s else s

/-- DEBUG_CHALLENGE: LC_CMD.CODE 4 draws a challenge from I1 (R283, R432). -/
def execDebugChallenge (s : State) : Res :=
  lcCommand false (fun s => if !debugState s then lcRefuse false 2 s else drawChallenge s) s

/-- The fields of a debug token hold: SERIAL, the state, the boot number and the latest challenge (Table 15-16). -/
def debugFieldsOk (s : State) : Bool :=
  let d := lcBytes s
  let perms := le d 6 2
  d.take 4 == [0x44, 0x42, 0x54, 0x4B] && d.getD 4 0 == 1 && d.getD 5 0 == s.fuses.lc.code &&
    perms < (if s.fuses.lc == .test then 32 else 8) && slice d 8 16 == fit 16 s.fuses.serial &&
    s.lc.challenge == some (slice d 0x18 32) && le d 0x38 4 == s.ks.boot.toNat && zeroAt d 0x3C 4

/-- A token with SCAN in Test has the device zeroise and confirm it before scan is enabled (R433). -/
def openScan (s : State) : State :=
  let s1 := if s.fuses.lc == .test && !s.lc.cleared then (wipeVolatile s).mLc fun l => { l with cleared := true } else s
  s1.mLc fun l => { l with scan := l.cleared }

/-- DEBUG_TOKEN: LC_CMD.CODE 5, or the mailbox: verified and put in force (R432, R433). -/
def execDebugToken (sig : Bool) (s : State) : Res :=
  lcCommand true (fun s =>
    if !debugState s then lcRefuse true 2 s
    else if !debugFieldsOk s then lcRefuse true 3 s
    else if !sig then lcRefuse true 4 s
    else
      let p : BitVec 16 := BitVec.ofNat 16 (le (lcBytes s) 6 2)
      whenDo (p.getLsbD 1) openScan (lcResult 1 (s.mLc fun l => { l with debug := some p, challenge := none }))) s

end Sys2Proof.Machine
end

