-- ==== Sys2Proof/Machine/Boot.lean ====
section
/-! DEFINITION. Device resets: what they clear, the boot sequence, the root secret, the Toll's and the journal's
recovery, BIST, the boot ROM's choice of a slot, and Lockdown at power-up (R137, R147, R149, R180, R199, R200, R338,
R339, R363, R389, R437 to R453, R507). -/
namespace Sys2Proof.Machine

/-! What a reset clears, Tables 16-1, 18-11. -/

/-- The front end after a device reset; its pins, and the model's log of what was sent, stay. -/
def FrontEnd.afterReset (e : FrontEnd) : FrontEnd :=
  { FrontEnd.init with bus := e.bus, reads := e.reads, aer := e.aer, nextOrder := e.nextOrder, perstAsserted := e.perstAsserted,
                       perstReleasedAt := e.perstReleasedAt }

/-- The governor after a device reset, by grade (Table 11-9). -/
def Governor.afterReset (grade : BitVec 2) (now : Nat) : Governor :=
  { Governor.init with specEn := grade == 2, boundaryAt := now }

/-- A DRBG block with no instance and its sources untested; the carried seed is in vault SRAM. -/
def Rng.afterReset (g : Rng) : Rng :=
  { Rng.init with carriedSeed := g.carriedSeed, seedReplaced := g.seedReplaced, seedAt := g.seedAt, calls := g.calls }

/-- The Clapper's volatile part goes; journal bank, carried journal's marks and the epoch are handled at power-up. -/
def Clapper.afterReset (c : Clapper) : Clapper :=
  { Clapper.init with journal := c.journal, bankRetained := c.bankRetained, epoch := c.epoch, count := c.count }

/-- Store commands queued and in progress are lost; what is stored stays. -/
def NvStore.afterReset (n : NvStore) : NvStore :=
  { n with current := none, queue := [], stopped := none, held := false, pfDone := false, gapUntil := 0, wearSel := 0, lost := [] }

/-- The pair after a reset: no link; what the partner has not acknowledged goes out again later. -/
def Pair.afterReset (x : Pair) : Pair :=
  { x with link := .down, lane0 := false, lane1 := false, version := 0, inService := false, syncNext := none, resync := false,
           partnerRoles := 0, lastFrameAt := 0, lastAcked := 0, unacked := [],
           revokeUnacked := x.revokeUnacked.map fun r => (0, r.2), hwmPending := x.hwmPending.map fun r => (0, r.2),
           dropped := [], rxSeq := 0, txSeq := 0, rxHold := [], raises := [], rxDone := false, transferring := none, failovers := 0,
           dualMismatch := 0, handshakeAt := none,
           roles := if x.partner.isSome then 1 else BitVec.allOnes 256 }

/-- Snare counts and staged values after a reset. -/
def Tamper.afterReset (t : Tamper) : Tamper :=
  { t with sensors := Tamper.init.sensors, stagedResponse := t.response, stagedPolarity := t.polarity, sensorSel := 0,
           commitBusy := false, clear := false, throttle := false, logSinceReset := 0 }

/-- The life-cycle controller after a reset: what is stored stays. -/
def LifeCycle.afterReset (l : LifeCycle) : LifeCycle :=
  { l with cleared := false, pending := false, entry := none, wipeFails := 0, wiped := false, verified := false, busy := false, result := 0, data := zeros 512,
           challenge := none, debug := none, scan := false, closing := none, recovering := none, report := none }

/-- The Toll after a reset: nothing is being written; whether the store holds the record that was is found at power-up. -/
def Toll.afterReset (k : Toll) : Toll :=
  let seq := match k.writing with | some r => r.seq - 1 | none => k.logSeq
  { k with writing := none, log := k.log ++ k.writing.toList, logSeq := seq, journal := false, journalNext := none, stmtWaits := [],
           stmtUsed := [], hasKey := false, gapFlag := false, finalOwed := false }

/-- Clusters a grade enables, from C0 up (Table 0-1): S 8, M 12, X 16. -/
def gradeCount (grade : BitVec 2) : Nat := if grade = 0 then 8 else if grade = 1 then 12 else 16

/-- The clusters the grade fuses enable; the others are permanently power-gated (R2). -/
def gradeClusters (s : State) : State :=
  s.mClusters fun cs => cs.mapIdx fun n c => { c with enabled := decide (n < gradeCount s.fuses.grade) }

/-- Set entries of committed changes whose write has not ended, with their commits' journal sequences: their drain is open, or
the command waits or runs (R193). -/
def unwrittenSet (s : State) : SMap (RsEntry × Nat) :=
  let seq (p : Option PealSlot) : Nat := ((p.bind s.peal).bind (·.journalSeq)).getD 0
  let queued := (nvAll s).filterMap fun c => match c.work with
    | .revocation k p => some (k, seq p)
    | _ => none
  ((s.ks.barriers.map fun b => (b.key, seq b.slot)) ++ queued).foldl (fun m x => match smFind x.1 s.ks.rset with
    | some e => smInsert x.1 ({ e with barrier := none, before_ := none }, x.2) m
    | none => m) s.ks.heldSet

/-- Everything outside the AO domain, the persistent store and the fuses is cleared. -/
def clearVolatile (s : State) : State :=
  let s1 := { s with
    fe := s.fe.afterReset, peals := [], gov := Governor.afterReset s.fuses.grade s.clk.now, tables := [],
    rng := s.rng.afterReset, clap := s.clap.afterReset, toll := s.toll.afterReset, nv := s.nv.afterReset,
    pair := s.pair.afterReset, tmp := s.tmp.afterReset, lc := s.lc.afterReset, smb := SmBus.init,
    mem := Memory.init, health := { Health.init with lifetime := s.health.lifetime }, sessions := [] }
  let s2 := s1.mKs fun k => { k with recs := [], spaces := [], rset := [], fetches := [], barriers := [], lost := [], repin := [],
                                     heldSet := unwrittenSet s }
  let s3 := s2.mRoot fun r => { RootState.init with vault := if r.forming.isSome then none else r.vault, lastReshare := r.lastReshare }
  let s4 := s3.mBoot fun b => { b with stage := 0, rootCase := 0, stewardUp := false, activating := false, fwAddr := 0, fwLen := 0,
                                       fwBusy := false, fwResult := 0, fwStaged := false, coreMin := true, blocksBad := 0, resume := none, awaitNoise := none }
  gateAll (gradeClusters (s4.mPwr fun p => { p with pfwarn := false, pfGated := false, smbAlertN := true }))

/-- The always-on domain loses its supply: vault SRAM, the tamper latch and what else is volatile there (R500). -/
def loseAo (s : State) : State :=
  let s1 := (zeroiseVault s).mToll fun k => { k with bankValid := false, counters := [], dirty := [] }
  (s1.mTmp fun t => { t with latch := [] }).mPwr fun p => { p with aoHeld := false, reservoir := p.reservoir }

/-! BIST, R15, R443 to R445. -/

/-- The highest-numbered engine that passed. -/
def lastPassing (pass : Nat → Bool) (n : Nat) : Option Nat := (List.range n).reverse.find? pass

/-- Engines after a power-up BIST: with `least` or more passing, the highest-numbered is the spare (R15, R444). -/
def bistFull (pass : Nat → Bool) (n least : Nat) (now : Nat) : List EngineRec :=
  let ok := ((List.range n).filter pass).length
  let sp := if least ≤ ok then lastPassing pass n else none
  (List.range n).map fun i =>
    if !pass i then { EngineRec.init with role := .failed, cause := .none, idleSince := now }
    else { EngineRec.init with role := if sp = some i then .spare else .active, idleSince := now }

/-- Engines after a quick BIST: marks stay, a new failure is marked, and the spare takes a failed active engine's place. -/
def bistQuick (pass : Nat → Bool) (old : List EngineRec) (now : Nat) : List EngineRec :=
  let clean := old.map fun e => { EngineRec.init with role := e.role, cause := e.cause, idleSince := now }
  let hit := (List.range clean.length).any fun i => !pass i && (clean.getD i EngineRec.init).role == .active
  let one (i : Nat) (e : EngineRec) : EngineRec :=
    if e.role = .retired || e.role = .failed then e
    else if !pass i then { e with role := .failed }
    else if hit && e.role = .spare then { e with role := .active } else e
  clean.mapIdx one

/-- Engines that are not retired and did not fail. -/
def sound (l : List EngineRec) : Nat := (l.filter fun e => e.role == .active || e.role == .spare).length

/-- A cluster after BIST (R444); an engine retired three times counts as failed (R379). -/
def bistCluster (quick : Bool) (b : ClusterBist) (tired : Nat → Bool) (now : Nat) (mask : Option (BitVec 128))
    (c : Cluster) : Cluster :=
  let seOk (i : Nat) : Bool := b.se.getLsbD i && !tired i
  let pkOk (i : Nat) : Bool := b.pk.getLsbD i && !tired (5 + i)
  let se := if quick then bistQuick seOk c.se now else bistFull seOk 5 3 now
  let pk := if quick then bistQuick pkOk c.pk now else bistFull pkOk 6 2 now
  let up := c.enabled && b.shared && 2 ≤ sound se && 1 ≤ sound pk && (!quick || c.inService)
  { Cluster.init with enabled := c.enabled, inService := up, se := se, pk := pk, maskKey := if up then mask else none }

/-- Blocks of a cluster that failed: its engines by their bits, and its shared blocks as one. -/
def bistFails (b : ClusterBist) : Nat :=
  ((List.range 5).filter fun i => !b.se.getLsbD i).length + ((List.range 6).filter fun i => !b.pk.getLsbD i).length +
    (if b.shared then 0 else 1)

/-- A cluster nothing was reported of. -/
def ClusterBist.absent : ClusterBist := { se := 0, pk := 0, shared := false }

/-- Raise an event `n` times. -/
def raiseTimes (ev : DevEvent) (n : Nat) (s : State) : State := (List.range n).foldl (fun s _ => raiseDev ev s) s

/-- BIST of the clusters (Table 16-4): marks, spares, events. -/
def bistClusters (quick : Bool) (r : BootReport) (s : State) : State :=
  let rep (n : Nat) : ClusterBist := r.clusters.getD n ClusterBist.absent
  let tired (n i : Nat) : Bool := 3 ≤ smGet 0 s.health.lifetime (16 * n + i)
  let run (n : Nat) (c : Cluster) : Cluster := bistCluster quick (rep n) (tired n) s.clk.now s.rng.maskKey c
  let fails := ((List.range s.clusters.length).map fun n =>
    if (s.clusters.getD n Cluster.init).enabled then bistFails (rep n) else 0).sum
  raiseTimes .bistFail fails (s.mClusters fun cs => cs.mapIdx run)

/-- The memory key of this boot enters its register, with a root secret (R202, Table 7-1). -/
def memKeyUp (s : State) : State :=
  match (if s.root.present then s.root.vault else none) with
  | none => s
  | some v =>
    let (mask, s1) := freshBytes 64 s
    s1.mMem fun m => { m with key := some (Shares.of (branchKey s v.secret.value .mem) mask) }

/-- The memory after training (R457, R459). -/
def bistMemory (r : BootReport) (s : State) : State :=
  let st : BitVec 2 := if !r.memTrained then 2 else if r.popMismatch then 1 else 0
  let s1 := memKeyUp (s.mMem fun m => { m with
    two := r.twoDevices && !r.popMismatch, mismatch := r.popMismatch, trained := r.memTrained,
    chans := List.replicate 4 { MemChan.init with state := st }, key := none })
  whenDo r.popMismatch (raiseDev .memPopulation) (whenDo (!r.memTrained) (raiseDev .bistFail) s1)

/-- The Xeolink lanes, tested by a power-up BIST alone; training begins in Rest (R384, Table 16-4). -/
def bistLanes (quick : Bool) (r : BootReport) (s : State) : State :=
  let fit : BitVec 2 := if quick then s.pair.lanes else BitVec.ofBool r.lane1 ++ BitVec.ofBool r.lane0
  let bad := if quick then 0 else (if r.lane0 then 0 else 1) + (if r.lane1 then 0 else 1)
  raiseTimes .bistFail bad (s.mPair fun x => { x with lanes := fit, secondary := r.secondary })

/-! Entropy start-up, R279, R291. -/

/-- A source after its start-up test, with the window failures it has recorded at a vault time (R278, R279). -/
def bootSource (now v : Nat) (r : BootReport) (k : Nat) : NoiseSource :=
  if r.noisePass.getLsbD k then { NoiseSource.init with state := .healthy, startPassed := 4 }
  else if r.noiseRetry.getLsbD k then { NoiseSource.init with startFailed := 1, failedAt := now, fails := [v] }
  else { NoiseSource.init with state := .unusable, startFailed := 2, fails := [v, v] }

/-- Conditioned blocks of windows that no command reports. -/
def noiseBlocks (n : Nat) (s : State) : List (BitVec 128) × State :=
  ((List.range n).map fun i =>
      BitVec.ofNat 128 (beNat ((List.range 16).map fun j => Config.freeByte (s.rng.calls + 16 * i + j))),
   s.mRng fun g => { g with calls := g.calls + 16 * n })

/-- The masking generators are keyed from the carried seed, the boot number and 1,024 raw samples of each source, 4,096
where there is no seed (R290): each takes the leftmost 128 bits (notes/assumptions/155.md). -/
def keyMasks (s : State) : State :=
  let (x, s1) := noiseBytes (if s.rng.carriedSeed.isSome then 512 else 2048) s
  let k := (sha384 (s.rng.carriedSeed.getD [] ++ natBe 4 s.ks.boot.toNat ++ x)).take 16
  s1.mRng fun g => { g with maskKey := some (BitVec.ofNat 128 (beNat k)), maskPos := 0, maskRekeys := 0 }

/-- The pool fills from the sources that pass (R280). -/
def fillPool (s : State) : State :=
  let (l, s1) := noiseBlocks (1024 - s.rng.pool.length) s
  addPool l s1

/-- The sequence generators of the four mesh loops are seeded from the device-level masking generator (R405). -/
def seedLoops (s : State) : State :=
  let (x, s1) := freshBytes 16 s
  s1.mTmp fun t => { t with loops := (List.range 4).map fun i => BitVec.ofNat 31 (beNat (slice x (4 * i) 4)) }

/-- Entropy start-up (Table 10-5): the masking generators are keyed; with a source passing every instance is instantiated and
the pool is full again; in Lockdown I3 alone (R417); after a failed known-answer test none (R291). -/
def bootEntropy (lock : Bool) (r : BootReport) (s : State) : State :=
  let srcs := (List.range 4).map (bootSource s.clk.now s.clk.vtime.toNat r)
  let lost := (srcs.filter (·.state == .unusable)).length
  let discards := (srcs.map (·.startFailed)).sum
  let s1 := raiseTimes .rngWindowDiscard discards (raiseTimes .rngSrcFailed lost
    ((seedLoops (keyMasks s)).mRng fun g => { g with sources := srcs, katFailed := !r.drbgKat }))
  if !srcs.any (·.state == .healthy) || !r.drbgKat then s1
  else
    let which := if lock then [instI 3] else List.range 276
    let (ent, s2) := noiseBlocks (3 * which.length) s1
    let (m, s3) := freshBytes (48 * which.length) s2
    let place (i : Nat) : Nat := if lock then 0 else if i < 256 then 20 + i else i - 256
    let one (i : Nat) : Drbg :=
      { instantiated := true, state := Shares.of (drbgInit s i (blockBytes ((ent.drop (3 * place i)).take 3))) (slice m (48 * place i) 48),
        sinceReseed := 0, reseedAt := s.clk.vtime.toNat, limitRaised := false }
    fillPool (s3.mRng fun g => { g with drbg := which.map fun i => (i, one i) })

/-! The boot ROM, R449 to R451. -/

/-- A slot of the flash. -/
def Boot.slot (b : Boot) (isB : Bool) : FwSlot := if isB then b.slotB_ else b.slotA_
/-- Change a slot of the flash. -/
def Boot.mSlot (isB : Bool) (f : FwSlot → FwSlot) (b : Boot) : Boot :=
  if isB then { b with slotB_ := f b.slotB_ } else { b with slotA_ := f b.slotA_ }

/-- A slot is valid (R449). -/
def slotValid (ar : Nat) (x : FwSlot) : Bool :=
  x.present && x.sound && ar ≤ x.svn.toNat && x.svn.toNat ≤ ar + 64 && x.trials < 3

/-- The slot to start: the one tried first when it is valid and its body loads, else the other (R450). -/
def chooseSlot (b : Boot) (first bodyA bodyB : Bool) : Option Bool :=
  let ok (isB : Bool) : Bool := slotValid b.antiRollback.toNat (b.slot isB) && (if isB then bodyB else bodyA)
  if ok first then some first else if ok (!first) then some (!first) else none

/-- Start the Steward from a slot: an unconfirmed image's trial is counted, starting the slot that is not preferred is
reported, and the table version maps are those of its image (R95, R450, R451). -/
def startSteward (isB : Bool) (s : State) : State :=
  let try_ := fun (x : FwSlot) => if x.confirmed then x else { x with trials := x.trials + 1 }
  whenDo (isB ≠ s.boot.preferB) (raiseDev .fwFallback)
    ((s.mBoot fun b => { b.mSlot isB try_ with slotB := isB, stewardUp := true }).mFe fun e =>
      { e with tblVersions := (s.boot.slot isB).versions })

/-- A spread counter is incremented during the sequence (R367). -/
def spreadUp (c : Nat × Nat) (s : State) : State :=
  let w := spreadWrite s.nv.array c
  countCycles [w.1 / 256] (s.mNv fun n => n.put w.1 w.2)

/-- The running image is confirmed, and the anti-rollback counter rises to its security version (R451). -/
def confirmFw (s : State) : State :=
  let up := (s.boot.slot s.boot.slotB).svn.toNat - s.boot.antiRollback.toNat
  let ok := fun (x : FwSlot) => { x with confirmed := true, trials := 0 }
  ((List.range up).foldl (fun s _ => spreadUp arbCells s) s).mBoot fun b =>
    { b.mSlot b.slotB ok with antiRollback := b.antiRollback + BitVec.ofNat 32 up }

/-! The root secret, R199, R200. -/

/-- Every tenant is ABSENT but T0, which is CREATING, and every storage generation rises (R200). -/
def newTenants (s : State) : State :=
  let one (t : Nat) : Nat × Tenant :=
    let x := smGet Tenant.none s.tenants t
    (t, { x with state := if t = 0 then .creating else .absent, tskAlg := 0, tsk := [], tskGen := 0, kek := none,
                 pendingKek := none, storageGen := x.storageGen + 1 })
  { s with tenants := (List.range 256).map one }

/-- The sealed root record opens with the current root epoch (R198, R366): a copy is valid, and it is of that epoch, since the
key of another epoch's record is none of this one. -/
def sealedRoot (s : State) : Option Bytes :=
  match twoSelect s.nv.array rootAt with
  | .copy _ c => if s.fuses.fuseKey.isSome && c.aux.toNat = s.fuses.epoch then some c.body else none
  | _ => none

/-- The case of R199 that applies: 1 vault, 2 sealed record, 3 a new secret, 4 none left; 0 where a latched Lockdown
rules out the third (R441). -/
def rootCaseOf (held latched : Bool) (s : State) : Nat :=
  if held && (match s.root.vault with | some v => v.epoch == s.fuses.epoch | none => false) then 1
  else if (sealedRoot s).isSome then 2
  else if 32 ≤ s.fuses.epoch then 4 else if latched then 0 else 3

/-- A device key certificate but its signature (Table 7-2). -/
def dkcBody (s : State) (kind : BitVec 8) (key : Shares) : Bytes :=
  [0x44, 0x4B, 0x43, 0x54, 1, kind, BitVec.ofNat 8 s.fuses.epoch, 0] ++ fit 16 s.fuses.serial ++
    natLe 8 s.clk.vtime.toNat ++ p384.pub (beNat key.value) ++ zeros 7

/-- Issue a device key certificate, signed by the identity key over a nonce from I3 (R204, R283). -/
def issueDkc (kind : BitVec 8) (key : Shares) (s : State) : State :=
  match drawI3 s with
  | (.served bs, s1) =>
    let body := dkcBody s kind key
    s1.mRoot fun r => { r with dkcs := r.dkcs ++ [body ++ deviceSign r.regs.ident body bs] }
  | (_, s1) => s1

/-- The three device key certificates of this power-up in KIND order, once I3 serves their nonces (R204). -/
def issueDkcs (s : State) : State :=
  if !s.root.present || !s.root.dkcs.isEmpty || !(s.drbg (instI 3)).instantiated then s
  else issueDkc 3 s.root.regs.xeol (issueDkc 2 s.root.regs.toll (issueDkc 1 s.root.regs.attest s))

/-- The identity key, of every power-up in every life-cycle state (Table 7-1, R203). -/
def identUp (s : State) : State :=
  if s.fuses.fuseKey.isNone then s
  else
    let (m, s1) := freshBytes 48 s
    s1.mRoot fun r => { r with regs := { r.regs with ident := Shares.of (branchScalar s [] .ident) m } }

/-- The root secret is there: its branch keys and certificates follow (R199, R202, R204). -/
def rootUp (c : Nat) (s : State) : State :=
  match s.root.vault with
  | none => s
  | some v =>
    let x := v.secret.value
    let (m, s1) := freshBytes 144 s
    let key (b : Branch) (i : Nat) : Shares := Shares.of (branchScalar s x b) (slice m (48 * i) 48)
    issueDkcs (((s1.mRoot fun r => { r with
      present := true
      regs := { r.regs with xeol := key .xeol 0, toll := key .toll 1, attest := key .attest 2 } }).mToll fun k =>
      { k with hasKey := true }).mBoot fun b => { b with rootCase := BitVec.ofNat 2 c })

/-- A secret enters the vault as fresh shares (R196, R199). -/
def vaultWrite (secret : Bytes) (s : State) : State :=
  let (m, s1) := freshBytes 64 s
  s1.mRoot fun r => { r with vault := some { epoch := s.fuses.epoch, secret := Shares.of secret m } }

/-- A new root secret is drawn from I0 with prediction resistance, and its sealed record is written, copy by copy, before
anything is derived from it (R200); it waits for the instance. -/
def rootNew (s : State) : State :=
  match draw (instI 0) 64 true s with
  | (.served bs, s1) =>
    let s2 := vaultWrite bs s1
    nvQueue 5 (.rootCopy false) (s2.mRoot fun r => { r with forming := r.vault })
  | (_, s1) => s1

/-- The new root secret stands: branches, certificates, tenants, and the memory's key (R200). -/
def rootMade (s : State) : State :=
  let s1 := newTenants ((rootUp 3 s).mToll fun k => { k with epochStated := false })
  if s1.mem.trained then memKeyUp s1 else s1

/-- Establish the root secret in Production (R199, R200). -/
def rootStep (held latched : Bool) (s : State) : State :=
  let c := rootCaseOf held latched s
  if s.fuses.lc ≠ .production || c = 0 || c = 4 then s.mRoot fun r => { r with vault := none }
  else if c = 3 then rootNew (s.mRoot fun r => { r with vault := none })
  else if c = 2 then rootUp 2 (vaultWrite (openRoot s ((sealedRoot s).getD [])) s)
  else rootUp 1 s

/-- The root secret is established, where the life-cycle state has one (R199). -/
def rootReady (s : State) : Bool := s.root.present || s.fuses.lc ≠ .production

/-! The Toll's counters, R339, and the use ledger, R178. -/

/-- What a replay builds: counters and ledger, the sequence reached, and whether the last record had FINAL or JM. -/
structure Replay where
  counters : SMap (BitVec 64)
  ledger : SMap LedgerEntry
  seq : Nat
  complete : Bool
  deriving DecidableEq, Repr

/-- Apply one word of a record (R339). -/
def replayWord (x : Replay) (w : LogWord) : Replay :=
  match w with
  | .delta i v => { x with counters := smSet 0 i v x.counters }
  | .group e =>
    if e.toll = 0xFF then x else { x with counters := smMod 0 (tollIndex e.tenant e.toll) satInc64 x.counters }
  | .ledger i k g u => { x with ledger := smInsert i { key := k, gen := g, uses := u, dirty := false } x.ledger }

/-- Replay the records above a sequence in order, stopping at the first missing or invalid one (R339). -/
def replay : List LogRec → Replay → Replay
  | [], x => x
  | r :: rs, x =>
    if r.seq.toNat ≤ x.seq then replay rs x
    else if r.seq.toNat = x.seq + 1 && r.valid then
      let y := r.words.foldl replayWord x
      replay rs { y with seq := r.seq.toNat, complete := r.final || r.jm }
    else x

/-- The store holds a base copy whole: its header, with the digest of its counter pages, and those (R334, R336). -/
def BaseCopy.stored (m : List Host.Cell) (copyA : Bool) (c : BaseCopy) : Bool :=
  let a := tollAddr (basePage copyA)
  storeGet m (a + 256 * 128) 4 == [0x54, 0x42, 0x41, 0x53] && storeGet m (a + 256 * 128) 256 == baseHeader c &&
    (List.range 8).all fun i => storeGet m (a + 4096 * i) 4096 == basePart c i
/-- The store holds a record of the log whole (R334). -/
def LogRec.stored (m : List Host.Cell) (r : LogRec) : Bool := storeGet m (tollAddr (661 + r.page)) r.bytes.length == r.bytes

/-- The Toll region holds a valid state record, base copy or record (R339). -/
def regionHeld (m : List Host.Cell) (k : Toll) : Bool :=
  (match twoSelect m tollAt with | .copy _ _ => true | _ => false) || k.baseA.valid || k.baseB.valid || !k.log.isEmpty

/-- The Toll as its region gives it: state record, seal event counter, the base copies and records that are whole; statements go
on at the persisted mark (R333, R334, R343). -/
def loadToll (s : State) : State :=
  let m := s.nv.array
  let body := match twoSelect m tollAt with | .copy _ c => c.body | _ => []
  s.mToll fun k =>
    let k1 := { tollFrom (fit 208 body) k with
      sealEvents := BitVec.ofNat 32 (spreadValue m sealCells)
      log := k.log.filter (·.stored m)
      baseA := { k.baseA with valid := k.baseA.stored m true }
      baseB := { k.baseB with valid := k.baseB.stored m false } }
    { k1 with stmtNext := if k1.stmtHwm = 0 then 1 else k1.stmtHwm, regionUsed := regionHeld m k1 }

/-- An entry of the use ledger as its checkpoint copies hold it: the higher valid one, copy A where they are of two keys; an
entry whose copies fail has reached its limit (R367). -/
def ledgerHeld (s : State) (i : Nat) : Option LedgerEntry :=
  let m := s.nv.array
  match ledgerRead m (ledgerAddr false i), ledgerRead m (ledgerAddr true i) with
  | some x, some y => some (if x.key = y.key ∧ x.uses.toNat < y.uses.toNat then y else x)
  | some x, none => some x
  | none, some y => some y
  | none, none => (smFind i s.ks.ledger).bind fun e =>
    if (storeGet m (ledgerAddr false i) 16 ++ storeGet m (ledgerAddr true i) 16).any (· ≠ 0) then
      some { e with uses := 0xFFFFFFFF, dirty := false }
    else none
/-- The use ledger as its checkpoint holds it (R178). -/
def ledgerImage (s : State) : SMap LedgerEntry :=
  let at_ (b : Bool) : List Nat :=
    (storeSlots s.nv.array (ledgerAddr b 0) (ledgerAddr b 512) 16).map fun a => (a - ledgerAddr b 0) / 16
  (at_ false ++ at_ true).eraseDups.foldl (fun l i => match ledgerHeld s i with
    | some e => smInsert i e l
    | none => l) []

/-- The counters and ledger as the store alone gives them. -/
def tollImage (s : State) : Replay :=
  let k := s.toll
  let base := if k.baseA.valid && (!k.baseB.valid || k.baseB.seq.toNat ≤ k.baseA.seq.toNat) then k.baseA else k.baseB
  replay k.log (if base.valid then
      { counters := base.counters, ledger := ledgerImage s, seq := base.seq.toNat, complete := false }
    else { counters := [], ledger := ledgerImage s, seq := 0, complete := false })

/-- The counters that differ between two maps. -/
def differing (a b : SMap (BitVec 64)) : List Nat :=
  ((a.map (·.1)) ++ (b.map (·.1))).foldl (fun l i => if smGet 0 a i = smGet 0 b i then l else insNat i l) []

/-- A gap is recorded: in the state record, and in the seal log (R339). -/
def recordGap (s : State) : State :=
  let s1 := tollWrite none (.tollState none) (s.mToll fun k => { k with gaps := k.gaps + 1, gapFlag := true })
  raiseDev .tollGap (sealLogAdd none 7 s1.toll.sealEvents [] s1)

/-- A region as the manufacturing wipe leaves it: the state record and both base copies are written before the first commit
(R339). -/
def startRegion (s : State) : State :=
  let b : BaseCopy := { BaseCopy.init with valid := true }
  writeBase false b (writeBase true b (tollWrite none (.tollState none) s))

/-- Charges that cannot be established are counted as made, so that a use is never created (R178). -/
def countOwed (s : State) : State :=
  let up := fun (i : Nat) (e : LedgerEntry) => match smFind i s.toll.owed with
    | some o => if o.key = e.key && e.uses.toNat < o.uses.toNat then { e with uses := o.uses } else e
    | none => e
  s.mKs fun q => { q with ledger := q.ledger.map fun (i, e) => (i, up i e) }

/-- The Toll establishes its counters (R339): the bank when it was retained, else the store's image; journal mode is
judged from the start (R338). -/
def tollStep (held : Bool) (s : State) : State :=
  let s0 := (loadToll s).mToll fun k => { k with lastRecordAt := s.clk.vtime.toNat }
  let img := tollImage s0
  let clean (m : SMap LedgerEntry) : SMap LedgerEntry := m.map fun e => (e.1, { e.2 with dirty := false })
  let next (k : Toll) : Nat := match k.log.getLast? with | some r => r.page + r.size | none => k.logPage
  let s1 :=
    if held && s.toll.bankValid then
      startDelta false false (s0.mToll fun k => { k with dirty := differing k.counters img.counters })
    else
      let s2 := (s0.mToll fun k =>
        let log := k.log.filter (·.seq.toNat ≤ img.seq)
        { k with counters := img.counters, dirty := [], bankValid := true, logSeq := BitVec.ofNat 64 img.seq,
                 log := log, logPage := next { k with log := log } }).mKs fun q => { q with ledger := clean img.ledger }
      if !s0.toll.regionUsed || img.complete then s2 else recordGap (countOwed s2)
  journalJudge (whenDo (!s0.toll.regionUsed) startRegion (s1.mToll fun k => { k with owed := [] }))

/-! The journal, R147, R149, R363. -/

/-- A compact entry as it is carried: without a time (R154, R507). -/
def JEntry.compact (j : JEntry) : JEntry := { j with vtime := 0, flags := 0 }

/-- The entries of the last 16 group records, when the last valid record carries JM (R149, R153). -/
def groupEntriesCarried (s : State) : Option (List JEntry) :=
  match s.toll.log.getLast? with
  | some r =>
    if r.jm then
      let gs := s.toll.log.filter (·.group)
      let ws := (gs.drop (gs.length - 16)).flatMap (·.words)
      some (ws.filterMap fun w => match w with | .group e => some e.compact | _ => none)
    else none
  | none => none

/-- A compact entry of a power-fail record whose last sequence is given: its epoch is that one's, or the one before it where
its count is the higher (R147, R154). -/
def pfEntry (last : Nat) (w : Bytes) : JEntry :=
  let low := le w 8 4
  { tag := BitVec.ofNat 64 (le w 0 8), seq := BitVec.ofNat 64 (2 ^ 32 * (last / 2 ^ 32 - (if last % 2 ^ 32 < low then 1 else 0)) + low),
    vtime := 0, tenant := w.getD 14 0, pealId := BitVec.ofNat 16 (le w 12 2), toll := w.getD 15 0, flags := 0 }
/-- The power-fail record is carried: its check passes with the boot number one below the present one (R363). -/
def pfEntries (r : BootReport) (s : State) : Option (List JEntry) :=
  let h := storeGet s.nv.array pfAddr 16
  let body := storeGet s.nv.array (pfAddr + 16) (16 * le h 0 1)
  if r.pfCheck && le h 1 1 = 1 && slice h 10 2 == [0x50, 0x46] &&
      le h 12 4 = (crc32 (h.take 12 ++ body ++ natLe 4 (s.ks.boot - 1).toNat)).toNat then
    some ((List.range (le h 0 1)).map fun i => pfEntry (le h 2 8) (slice body (16 * i) 16))
  else none

/-- The highest sequence of a list of entries. -/
def lastOf (l : List JEntry) : BitVec 64 := BitVec.ofNat 64 ((l.map (·.seq.toNat)).foldl max 0)

/-- The carried journal of this power-up (R149). -/
def carry (src : BitVec 2) (l : List JEntry) (s : State) : State :=
  s.mClap fun c => { c with carried := l, carriedLast := lastOf l, carriedSource := src, carriedComplete := src ≠ 0 }

/-- The journal at a power-up: the retained bank is carried and goes on, an epoch whose write was lost being written again; else
a new epoch begins, and what the store holds is carried (R147, R149). -/
def journalStep (held : Bool) (r : BootReport) (s : State) : State :=
  if held && s.clap.bankRetained then
    carry 1 s.clap.journal (whenDo (spreadValue s.nv.array epochCells < s.clap.epoch.toNat) (nvQueue 2 .epoch) s)
  else
    let s0 := spreadUp epochCells s
    let s1 := s0.mClap fun c => { c with
      epoch := BitVec.ofNat 32 (spreadValue s0.nv.array epochCells), count := 0, journal := [], bankRetained := true }
    match pfEntries r s with
    | some l => carry 2 l s1
    | none => match groupEntriesCarried s with
      | some l => carry 3 l s1
      | none => carry 0 [] s1

/-! Records of the store, R180, R366 to R368, R447, R507. -/

/-- A revocation set entry from its stored word (Table 6-17). -/
def RsEntry.ofWord (w : BitVec 64) : RsEntry :=
  { minGen := w.extractLsb' 32 31, revoked := w.getLsbD 63, barrier := none, before_ := none }

/-- A committed change whose set entry was not written stands again: it is written now, and a revoked key's ledger entry and
cell are freed, no peal using them any more (R151, R191, R193). -/
def restoreEntry (s : State) (k : Nat) (e : RsEntry) : State :=
  queueSet k none (s.mKs fun q => { q with
    rset := smInsert k e q.rset
    ledger := if e.revoked then q.ledger.filter (·.2.key ≠ k) else q.ledger
    cells := if e.revoked then q.cells.filter (·.2.key ≠ k) else q.cells })

/-- The home slots of the revocation set as they stand, by slot. -/
def homeWords (m : List Host.Cell) : SMap (BitVec 64) :=
  (storeSlots m (homeAddr 0) (homeAddr 16384) 8).foldl (fun w a =>
    smSet 0 ((a - homeAddr 0) / 8) (BitVec.ofNat 64 (le (storeGet m a 8) 0 8)) w) []
/-- The key a set entry is for (Table 6-17). -/
def setKey (w : BitVec 64) : Nat := keyNo (w.extractLsb' 0 8) (w.extractLsb' 8 24).toNat

/-- The revocation set as the store holds it: the home slots, each log word applied in order to its slot, which is written again
where it differs (R368); then the changes whose commit the carried journal shows (R151, R193). -/
def loadRset (s : State) : State :=
  let m := s.nv.array
  let home := homeWords m
  let words := (setLogOrder m).foldl (fun w x => smSet 0 x.2.1 x.2.2 w) home
  let s1 := (s.mKs fun k => { k with
      rset := words.foldl (fun r e => smInsert (setKey e.2) (RsEntry.ofWord e.2) r) [], heldSet := [] }).mNv fun n =>
    { n with slots := words.foldl (fun r e => smInsert (setKey e.2) e.1 r) [] }
  let torn := words.filter fun e => smFind e.1 home ≠ some e.2
  let s2 := torn.foldl (fun s e => nvQueue 2 (.setHome (setKey e.2)) s) s1
  let seen := s.ks.heldSet.filter fun e => s.clap.carried.any (·.seq.toNat == e.2.2)
  seen.foldl (fun s e => restoreEntry s e.1 e.2.1) s2

/-- Every counter cell as its copies hold it; an exhausted one stays so (R367, R370). -/
def loadCells (s : State) : State :=
  let read (i : Nat) (c : CounterCell) : CounterCell :=
    let r := cellRead s.nv.array i c.key c.gen
    { c with h := BitVec.ofNat 64 r.1, exhausted := c.exhausted || r.2 }
  s.mKs fun q => { q with cells := q.cells.map fun e => (e.1, read e.1 e.2) }

/-- The user windows as their record holds them (R373). -/
def loadWindows (s : State) : State :=
  let w := match twoSelect s.nv.array windowsAt with | .copy _ c => windowsOf c.body | _ => []
  s.mNv fun n => { n with windows := w }

/-- The boot number rises (R180). -/
def bootNumber (s : State) : State :=
  let s1 := spreadUp bootCells s
  s1.mKs fun k => { k with boot := BitVec.ofNat 32 (spreadValue s1.nv.array bootCells) }

/-- A spread counter has no valid cell and one that is not zero, a fatal failure (R367, R446). -/
def spreadFatal (s : State) : Bool := [bootCells, epochCells, arbCells, sealCells].any (spreadBroken s.nv.array)

/-- Vault time where the AO domain was not held up: the checkpoint, or without one the highest time found, plus 2^21
(R507). -/
def vtimeRestart (s : State) : State :=
  let found := (s.lc.journal.map (·.vtime.toNat) ++ s.tmp.log.map (·.vtime.toNat) ++ s.toll.sealLog.map (·.vtime.toNat)).foldl max 0
  let v := match twoSelect s.nv.array vtimeAt with | .copy _ c => leNat (c.body.take 8) | _ => found
  s.mClk fun c => { c with vtime := BitVec.ofNat 64 (v + 2 ^ 21) }

/-- A tenant's sealed record is damaged, or does not open under its key (R201, R366). -/
def recordBroken (s : State) (t : Fn) : Bool :=
  s.root.present && (s.tenant t).state == .active && match twoSelect s.nv.array (tenantAt t) with
    | .copy _ c => !tenantOpens s t c.body
    | .damaged => true
    | .absent => false

/-- A tenant's damaged records are erased (Table 16-5). -/
def eraseDamaged (s : State) (t : Fn) : State :=
  let s1 := destroyTenant t (raiseDev .nvRecordDamaged (s.mNv fun n => { n with damaged := n.damaged + 1 }))
  let s2 := s1.mTenant t fun x => { Tenant.none with state := if t = 0 then .creating else .absent, storageGen := x.storageGen }
  (s2.mKs fun k => { k with policies := smErase t.toNat k.policies, allowances := smErase t.toNat k.allowances }).mNv fun n =>
    { n with windows := smErase t.toNat n.windows }

/-- The device blocks that failed, each reported; the Toll fails with its store image (R444, Table 16-4). -/
def bistBlocks (r : BootReport) (s : State) : State :=
  let bad : BitVec 9 := if r.tollImage then r.coreBad else r.coreBad ||| 0x100
  raiseTimes .bistFail ((List.range 9).filter bad.getLsbD).length (s.mBoot fun b => { b with blocksBad := bad })

/-- A damaged record that is no tenant's is counted, and read as Table 16-5 states. -/
def lostRecord (f : State → State) (s : State) : State :=
  raiseDev .nvRecordDamaged (f (s.mNv fun n => { n with damaged := n.damaged + 1 }))

/-- A boot record that is damaged reads as slot A preferred, no trials, nothing confirmed (Table 16-5). -/
def Boot.unrecorded (b : Boot) : Boot :=
  let slot (x : FwSlot) : FwSlot := { x with trials := 0, confirmed := false }
  { b with preferB := false, slotA_ := slot b.slotA_, slotB_ := slot b.slotB_ }

/-- A damaged role map holds no role (Table 16-5). -/
def loseRoleMap (s : State) : State :=
  lostRecord (State.mPair fun x => { x with roles := 1, stored := 1 }) s

/-- The system records that are damaged (R447, Table 16-5). -/
def damagedRecords (r : BootReport) (s : State) : State :=
  let s1 := whenDo r.countsDamaged (lostRecord (State.mHealth fun h => { h with lifetime := [] })) s
  whenDo r.bootRecDamaged (lostRecord (State.mBoot Boot.unrecorded)) s1

/-! The sequence. -/

/-- A fatal self-test failure (R446). -/
def bootFatal (r : BootReport) (s : State) : Bool := spreadFatal s || !r.bootRom || !r.drbgKat || !r.spreadCounters || !r.certificates

/-- A power-up in Lockdown: clusters gated, the services of R417 alone (R23, R441). -/
def lockdownUp (s : State) : State :=
  let s1 := State.mBoot (fun b => { b with stage := 0xF, stewardUp := true }) (s.enter .lockdown)
  let s2 := lockRecorded (s1.mPair fun x => { x with link := .down })
  (gateAll s2).mPwr fun p => { p with smbAlertN := false }

/-- The core minimum is met but for the noise sources (R445). -/
def coreRest (r : BootReport) (slot : Option Bool) (s : State) : Bool :=
  r.coreBad = 0 && r.memTrained && r.tollImage && slot.isSome && s.clusters.any fun c => c.enabled && c.inService
/-- The core minimum is met (R445). -/
def coreMet (r : BootReport) (slot : Option Bool) (s : State) : Bool := coreRest r slot s && anySource .healthy s

/-- The last step: READY and confirmation of the running image; while the root secret is being made, or the only sources left
await their retry, the sequence waits; else Rest below the core minimum (R25, R200, R279, R445, R451). -/
def bootEnd (r : BootReport) (slot : Option Bool) (s : State) : State :=
  if coreMet r slot s && rootReady s then
    let s1 := confirmFw (startSteward (slot.getD false) s)
    let s2 := s1.mPair fun x => { x with link := if x.lanes = 0 then .down else .training }
    State.mBoot (fun b => { b with stage := 7, awaitNoise := none }) (s2.enter .rest)
  else if coreRest r slot s && (anySource .starting s || anySource .healthy s) then
    State.mBoot (fun b => { b with stage := 4, awaitNoise := some (r, slot) }) (s.enter .rest)
  else State.mBoot (fun b => { b with stage := 0xE, coreMin := false, awaitNoise := none }) (s.enter .rest)

/-- A word reads wrong from now on. -/
def spoilWord (a : Nat) (m : List Host.Cell) : List Host.Cell := storePut a ((storeGet m a 16).map (~~~ ·)) m
/-- The copies of the sealed root record that fail their check (R366, Table 16-5). -/
def spoilRoot (bad : BitVec 2) (s : State) : State :=
  let spoil (hit : Bool) (a : Nat) (m : List Host.Cell) : List Host.Cell :=
    if hit && le (storeGet m a 2) 0 2 ≠ 0 then spoilWord a m else m
  let s1 := s.mNv fun n =>
    { n with array := spoil (bad.getLsbD 1) rootAt.b (spoil (bad.getLsbD 0) rootAt.a n.array) }
  whenDo (twoSelect s1.nv.array rootAt == .damaged) (lostRecord id) s1

/-- The junction temperature sensors that fail their BIST (R316). -/
def bistTemps (r : BootReport) (s : State) : State :=
  let one (i : Nat) (x : TempSensor) : TempSensor :=
    if r.tempBad.getLsbD i then { x with valid := false, failed := true } else x
  raiseTimes .govSensorFail ((List.range 24).filter fun i => r.tempBad.getLsbD i).length
    (s.mGov fun g => { g with sensors := g.sensors.mapIdx one })

/-- The sequence after the life-cycle read (Table 16-2, steps 3 to 11; Table 16-3). -/
def bootRest (r : BootReport) (s : State) : State :=
  let held := s.pwr.aoHeld && r.vaultCheck
  let latched := s.tmp.lock.isSome
  let s0 := spoilRoot r.rootBad (identUp (bootEntropy latched r (bistBlocks r (damagedRecords r s))))
  let none_ := s.fuses.lc == .production && rootCaseOf held latched s0 == 4
  let s1 := tollStep held (rootStep held latched s0)
  let s2 := loadWindows (loadCells (loadRset (journalStep held r s1)))
  let broken := r.damaged ++ ((List.range 256).map (BitVec.ofNat 8 ·)).filter (recordBroken s2)
  let s3 := broken.eraseDups.foldl eraseDamaged (whenDo r.roleMapDamaged loseRoleMap s2)
  let s4 := bistTemps r (s3.mGov fun g => { g with costs := builtinCosts })
  if latched then lockdownUp s4
  else if bootFatal r s0 || none_ then
    (latchLockdown 22 2 (s4.enter .rest)).mBoot fun b => { b with stewardUp := r.bootRom }
  else
    let quick := s.boot.quick
    let s5 := bistLanes quick r (bistMemory r (bistClusters quick r s4))
    let s6 := if anySource .healthy s5 && r.drbgKat then fillPool (rekeyMasks s5) else s5
    let slot := if quick && r.retained then some s.boot.slotB else chooseSlot s6.boot s6.boot.preferB r.bodyA r.bodyB
    bootEnd r slot s6

/-- What waited for noise or for the store goes on: a new root secret is drawn once I0 is instantiated, it stands once both
copies of its record are written, and the sequence ends, unless Lockdown was latched meanwhile (R23, R200, R279, R445). -/
def bootGoesOn (s : State) : State :=
  let s1 :=
    if rootReady s || s.root.forming.isSome || s.tmp.lock.isSome then s
    else if s.root.vault.isSome then rootMade s
    else if s.boot.awaitNoise.isSome && (s.drbg (instI 0)).instantiated then rootNew s else s
  match s1.boot.awaitNoise with
  | some (r, slot) => if s1.tmp.lock.isSome then issueDkcs s1 else bootEnd r slot (issueDkcs s1)
  | none => issueDkcs s1

/-- A transition is pending at power-up (R431). -/
def lcPending (s : State) : Bool :=
  s.fuses.lcIncomplete || (match lcLast s with | some e => e.step ≠ 4 | none => false)

/-- The entry a resumed transition goes on from: its scope and target as R431 decides them. -/
def resumeEntry (s : State) : LcEntry :=
  let e := (lcLast s).getD { newEntry s s.fuses.lc 0 0 with step := 2 }
  let eol := s.fuses.lc == .eolAnalysis || s.fuses.lc == .eolScrap
  let named := s.lc.journal.any fun x => x.to_ == 3
  let to_ := if e.from_.toNat < s.fuses.lc.code.toNat then s.fuses.lc.code else e.to_
  { e with to_ := to_, scope := if eol && !named then 2 else e.scope }

/-- A pending transition is resumed: Lockdown with cause 23, the closing statement if it was not made, and the wipe
again, after its CLOSED entry (R431). -/
def resumeTransition (r : BootReport) (s : State) : State :=
  let e := resumeEntry s
  let s0 := (latchLockdown 23 2 (s.enter .rest)).enter .lockdown
  let s1 := s0.mLc fun l => { l with
    pending := true, entry := some e, wiped := false, verified := false, wipeFails := 0, busy := true,
    lcSeq := if e.step = 1 ∧ l.lcSeq.toNat ≤ e.lcSeq.toNat then l.lcSeq + 1 else l.lcSeq }
  let s2 := if e.eol && e.step = 1 then
      close e (rootStep (s.pwr.aoHeld && r.vaultCheck) true
        (tollStep (s.pwr.aoHeld && r.vaultCheck) (identUp (bootEntropy true r s1))))
    else wipeFor e s1
  s2.mBoot fun b => { b with stage := 1, resume := some r }

/-- A device reset (R437): 0 power-on, 1 warm, 2 recovery. -/
def deviceReset (cause : BitVec 4) (r : BootReport) (s : State) : State :=
  let s1 := (clearVolatile (restoreUnstored (interrupted { s with mode := .off }))).mBoot fun b => { b with cause := cause, quick := cause == 1 }
  let s2 := if s.pwr.aoHeld then s1 else vtimeRestart s1
  let s3 := (bootNumber s2).mPwr fun p => { p with capReady := true, reservoir := true }
  let s4 := lockRecorded (copyLatch s3)
  let bad := r.snareFails ||| (if r.metronome then 0 else BitVec.ofNat 22 512)
  let s5 := snareEvent 1 r.snareOut (selfCheck bad (s4.mHealth fun h => { h with metronomeBad := !r.metronome }))
  let s6 := if s.fuses.lc = .eolScrap then scrapEnd s5 else s5
  let s7 := if lcPending s6 then resumeTransition r s6 else bootRest r s6
  s7.mPwr fun p => { p with aoHeld := true }

/-- POWER_ON_RESET: the sequence of Table 16-2 runs, once main power is good (R440). -/
def execPowerOnReset (report : BootReport) (s : State) : Res :=
  .next (if s.pwr.mainGood && s.pwr.resetN && s.boot.stage = 0 then deviceReset 0 report s else s)

/-- WARM_RESET: RESET_N was low for 1 µs with main power present; the sequence of Table 16-3 runs (R438, R442). -/
def execWarmReset (report : BootReport) (s : State) : Res :=
  .next (if s.pwr.mainGood && s.boot.stage ≠ 0 then
    deviceReset 1 report { s with pwr := { s.pwr with aoHeld := true } }
  else s)

/-- RECOVERY_RESET: 8 ms after an accepted Recover token the latch clears, GONG_N is released, and the power-up sequence
runs (R421, R423). -/
def execRecoveryReset (report : BootReport) (s : State) : Res :=
  .next (match s.lc.recovering with
  | none => s
  | some t =>
    if s.clk.now < t + ms 8 || !onMain s then s
    else
      let s1 := s.mTmp fun x => { x with lock := none, lockRecord := false, zeroised := false }
      deviceReset 2 report (s1.mPwr fun p => { p with gongN := true, aoHeld := true }))

/-- Once a resumed transition is over, the rest of the power-up sequence runs (R431). -/
def transitionGoesOn (s : State) : State :=
  match s.boot.resume with
  | some r => if s.lc.pending then s else bootRest r (s.mBoot fun b => { b with resume := none })
  | none => s

/-- FUSE_GROUP_PROGRAM_COMPLETE: with the wipe verified and VERIFIED written, the fuse groups are programmed (R429 to
R431). -/
def execFuseGroupProgramComplete (s : State) : Res :=
  .next (match s.lc.entry with
  | none => s
  | some e =>
    if !onMain s || !s.lc.pending || !s.lc.verified || lcWriting s then s
    else
      transitionGoesOn (fusesProgrammed e s))

/-! Windows of the noise sources, R275 to R281. -/

/-- A window of a source in its start-up test ends (R279); its samples do not reach the pool. -/
def startWindow (k : BitVec 2) (pass : Bool) (s : State) : State :=
  let n := s.source k
  if n.startFailed = 1 then s
  else if pass then
    if n.startPassed + 1 < 4 then s.mSource k fun m => { m with startPassed := m.startPassed + 1 }
    else bootGoesOn (s.mSource k fun m => { m with state := .healthy, startPassed := 4 })
  else
    let s1 := raiseDev .rngWindowDiscard (s.mSource k fun m =>
      { m with startPassed := 0, startFailed := m.startFailed + 1, failedAt := s.clk.now, fails := m.recent s.clk.vtime.toNat ++ [s.clk.vtime.toNat] })
    if n.startFailed = 0 then s1 else sourceLost k .unusable s1

/-- The masking generators' first rekey from the pool, once every instance is instantiated (Table 10-5, step 6). -/
def startRekey (s : State) : State :=
  if s.rng.maskRekeys = 0 && (instOrder s).all (fun i => (s.drbg i).instantiated) && (masked s).length < s.rng.pool.length then
    rekeyMasks s
  else s

/-- A window of a healthy source ends: two conditioned blocks, or a discard and a failure at the third within a second
(R276 to R278, R280). -/
def healthyWindow (k : BitVec 2) (pass : Bool) (w : BitVec 1024) (s : State) : State :=
  if pass then
    if s.rng.outage then s
    else serveClosing (serveChallenge (bootGoesOn (startRekey (instantiateWaiting (addPool (conditioned w) s)))))
  else
    let fs := (s.source k).recent s.clk.vtime.toNat ++ [s.clk.vtime.toNat]
    let s1 := raiseDev .rngWindowDiscard (s.mSource k fun m => { m with fails := fs })
    if 3 ≤ fs.length then sourceLost k .failed s1 else s1

/-- NOISE_WINDOW_COMPLETE: a window of 1,024 samples of a source ends, the first sample in bit 0 (R275 to R281). -/
def execNoiseWindowComplete (src : BitVec 2) (samples : BitVec 1024) (s : State) : Res :=
  let t := windowTest (s.source src) samples
  let s1 := s.mSource src fun _ => t.2
  .next (if !onMain s then s
    else match (s.source src).state with
    | .starting => if (s.source src).startFailed = 1 then s else startWindow src t.1 s1
    | .healthy => healthyWindow src t.1 samples s1
    | .failed => s
    | .unusable => s)

/-! The end of a store command, R358 to R370. -/

/-- What waited for a store command goes on: a life-cycle transition, its closing statement, or the power-up sequence (R200,
R349, R429, R431). -/
def afterStore (w : NvWork) (s : State) : State :=
  match w with
  | .lifeCycle e => transitionGoesOn (lcWritten e s)
  | _ => bootGoesOn (closed (closeGoesOn s))

/-- A write that found no spare reads as if it had succeeded until the next device reset, but for a counter cell's and the Toll's
(R370). -/
def loseWrite (c : NvCmd) (s : State) : State :=
  match c.work with
  | .cell _ _ => s
  | .partnerCell _ _ _ => s
  | .cellRewrite _ _ => s
  | _ =>
    let w := c.data.writes s.nv.array
    if c.cls = 3 && !(match c.work with | .vtimeCheckpoint _ => true | _ => false) then s else s.mNv (·.lose w.1 w.2)

/-- The pages a command remaps: those at their endurance, and one of which a word failed its second reprogramming; of a
power-fail command, which is not retried, those for which there is a spare, in advance (R362, R369). -/
def remapPages (c : NvCmd) (res : NvResult) (s : State) : List Nat :=
  let ps := c.data.pages s.nv.array
  let worn := wornPages s ps
  if c.cls = 1 then worn.take s.nv.spares.toNat
  else if res = .done || ps.isEmpty then worn else (worn ++ [failedPage s ps]).eraseDups

/-- NV_COMMAND_COMPLETE: the command in progress ends, having taken spares, or for want of one having failed, and
the next starts; a boot that waited for it goes on (R200, R358 to R360, R369, R370). -/
def execNvCommandComplete (res : NvResult) (s : State) : Res :=
  .next (match s.nv.current with
  | none => s
  | some c =>
    let bad := (res == .remapped && s.nv.spares = 0) || (res == .noSpare && s.nv.spares ≠ 0) || (c.cls == 1 && res ≠ .done)
    if bad || (s.nv.held && c.cls ≠ 1) || !s.pwr.mainGood then s
    else
      let need := remapPages c res s
      let w := c.data.writes s.nv.array
      let s1 := countCycles (c.data.pages s.nv.array) (s.mNv fun n => { n with
        current := none, gapUntil := if c.cls = 5 then s.clk.now + us 200 else n.gapUntil })
      afterStore c.work (nextCommand (
        if res = .noSpare || s.nv.spares.toNat < need.length then
          workFailed c.work (loseWrite c (raiseDev .nvWriteFail (s1.mNv fun n =>
            { n with writeFails := if n.writeFails = 0xFFFFFFFF then n.writeFails else n.writeFails + 1 })))
        else workDone c.work (need.foldl (fun s p => remap p s) (s1.mNv (·.put w.1 w.2))))))

end Sys2Proof.Machine
end

