-- ==== Sys2Proof/Machine/Firmware.lean ====
section
/-! DEFINITION. The Steward: its watchdog, its restarts, and the replacement of its firmware (R437, R439, R448 to R453). -/
namespace Sys2Proof.Machine

/-! FE_FW_CMD, Table 16-7. -/

/-- A firmware command ends with a RESULT; any but 1 raises FE_FW_REFUSED (R453). -/
def fwEnd (r : BitVec 4) (s : State) : State :=
  whenDo (r ≠ 1) (raiseDev .fwRefused) (s.mBoot fun b => { b with fwResult := r })

/-- A code written to FE_FW_CMD: RESULT 2 outside Maintenance, 11 while another command is in progress (R452). -/
def fwCommand (f : State → State) (s : State) : Res :=
  .next (if !busOn s 0 || s.mode = .lockdown then s
  else if s.mode ≠ .maintenance then fwEnd 2 s
  else if s.boot.fwBusy then fwEnd 11 s
  else f s)

/-- FW_STAGE: CODE 1 reads and checks an image; a length outside 0x2000 to 0x40_0000 is a header fault (R452). -/
def execFwStage (s : State) : Res :=
  fwCommand (fun s =>
    if s.boot.fwLen.toNat < 0x2000 || 0x400000 < s.boot.fwLen.toNat then fwEnd 3 s
    else s.mBoot fun b => { b with fwBusy := true, fwResult := 0 }) s

/-! The image header block, Table 16-6. -/

def fwSvn (img : Bytes) : Nat := le img 8 4
def fwBuild (img : Bytes) : Nat := le img 0xC 4
/-- The body. -/
def fwBody (img : Bytes) : Bytes := img.drop 0x2000
/-- Magic, format, reserved bytes, body length and key generation are as Table 16-6 states. -/
def fwHeaderOk (img : Bytes) : Bool :=
  img.take 4 == [0x5A, 0x53, 0x46, 0x57] && img.getD 4 0 == 1 && (img.getD 5 0).toNat < 8 && zeroAt img 6 2 &&
    zeroAt img 0x48 184 && zeroAt img 0x901 7 && zeroAt img 0x1655 2475 && le img 0x10 4 == (fwBody img).length &&
    1 ≤ le img 0x14 4 && le img 0x14 4 ≤ 4

/-- The bit of FW.STEPPINGS for a stepping as FE_ID0.STEPPING encodes it: A0, A1, B0; none for another. -/
def steppingBit (x : BitVec 8) : Nat := if x = 0 then 0 else if x = 1 then 1 else if x = 0x10 then 2 else 8

/-- The RESULT of staging an image (R449, Table 16-7): the checks in the order of R449, each with its RESULT
(notes/assumptions/157.md); that the keys are those of the ROM's digest and the signatures verify is given. -/
def stageFault (s : State) (img : Bytes) (key sig flash : Bool) : BitVec 4 :=
  let ar := s.boot.antiRollback.toNat
  if !fwHeaderOk img then 3
  else if !((img.getD 5 0).getLsbD (steppingBit s.fuses.stepping)) then 7
  else if !key || !sig then 4
  else if sha384 (fwBody img) ≠ slice img 0x18 48 then 5
  else if fwSvn img < ar || ar + 64 < fwSvn img then 6
  else if !flash then 8 else 1

/-- The slot that holds an image. -/
def FwSlot.ofImage (img : Bytes) : FwSlot :=
  { present := true, svn := BitVec.ofNat 32 (fwSvn img), build := BitVec.ofNat 32 (fwBuild img), sound := true,
    digest := sha384 img, versions := Config.fwVersions (sha384 img) &&& 0xFEFEFEFE, trials := 0, confirmed := false }

/-- FW_STAGE_COMPLETE: staging ends: the image was read from the host, or its read refused; one that passes every check of R449
is in the slot that does not run, and a flash write that failed leaves that slot invalid (R449, R452). -/
def execFwStageComplete (image : Option Bytes) (key sig flash : Bool) (s : State) : Res :=
  .next (if !s.boot.fwBusy || s.boot.activating then s
  else
    let img := fit s.boot.fwLen.toNat (image.getD [])
    let r : BitVec 4 := if image.isNone || !canDma s 0 then 9 else stageFault s img key sig flash
    let s1 := whenDo (canDma s 0) (hostRead 0 s.boot.fwAddr.toNat s.boot.fwLen.toNat) s
    fwEnd r (s1.mBoot fun b =>
      let b1 := { b with fwBusy := false }
      if r = 1 then { b1.mSlot (!b.slotB) (fun _ => FwSlot.ofImage img) with fwStaged := true }
      else if r = 8 then { b1.mSlot (!b.slotB) (fun _ => FwSlot.empty) with fwStaged := false }
      else b1))

/-- The Steward restarts: its session over the Xeolink ends (R437, R439). -/
def restartSteward (s : State) : State :=
  (s.mBoot fun b => { b with stewardUp := false, cause := 4 }).mPair fun x => { x with
    link := if x.link = .up then .authenticating else x.link, handshakeAt := none, txKey := [], rxKey := [] }

/-- FW_ACTIVATE: CODE 2 makes the staged slot preferred and restarts the Steward (R452). -/
def execFwActivate (s : State) : Res :=
  fwCommand (fun s =>
    if !s.boot.fwStaged then fwEnd 10 s
    else
      let idle := !s.boot.slotB
      let fresh := fun (x : FwSlot) => { x with confirmed := false, trials := 0 }
      restartSteward (s.mBoot fun b => { b.mSlot idle fresh with
        preferB := idle, slotB := idle, fwStaged := false, fwBusy := true, fwResult := 0, activating := true })) s

/-- FW_ABANDON: CODE 3 erases the staged image's header block (R452). -/
def execFwAbandon (s : State) : Res :=
  fwCommand (fun s =>
    if !s.boot.fwStaged then fwEnd 10 s
    else fwEnd 1 (s.mBoot fun b => { b.mSlot (!b.slotB) (fun _ => FwSlot.empty) with fwStaged := false })) s

/-! Restarts, R439, R451. -/

/-- STEWARD_WATCHDOG_EXPIRE: the Steward has not serviced its watchdog for 1 s and restarts from the same slot; an
image that hung while starting has used a trial (R439, R451). -/
def execStewardWatchdogExpire (s : State) : Res :=
  .next (if !onMain s || s.boot.stage ≠ 7 then s
  else
    let tried := fun (x : FwSlot) => if x.confirmed || s.boot.stewardUp then x else { x with trials := min 3 (x.trials + 1) }
    restartSteward (s.mBoot fun b => b.mSlot b.slotB tried))

/-- No Steward store command is in progress (R439). -/
def stewardStoreIdle (s : State) : Bool := match s.nv.current with | some c => c.cls ≠ 5 | none => true

/-- An activation ends: RESULT 1, Maintenance becomes Ready and the image is confirmed (R451, Table 1-7). -/
def activated (s : State) : State :=
  let s1 := fwEnd 1 (s.mBoot fun b => { b with fwBusy := false, activating := false })
  if s.mode = .maintenance then confirmFw (s1.enter .ready) else s1

/-- STEWARD_RESTART_COMPLETE: the boot ROM has chosen a slot, the same one first; built-in tables are in force again and
waiting admin peals proceed. With no valid slot the core minimum is not met (R437, R439, R445, R450). -/
def execStewardRestartComplete (bodyA bodyB : Bool) (s : State) : Res :=
  .next (if s.boot.stewardUp || !onMain s || s.boot.stage ≠ 7 || !stewardStoreIdle s then s
  else match chooseSlot s.boot s.boot.slotB bodyA bodyB with
    | some isB =>
      let s1 := startSteward isB s
      if s.boot.activating then activated s1 else s1
    | none => (dropLink s).mBoot fun b => { b with coreMin := false, stage := 0xE, fwBusy := false, activating := false })

end Sys2Proof.Machine
end

