-- ==== Sys2Proof/Machine/Governor.lean ====
section
/-! DEFINITION. The Tempo governor's own events: refill boundaries, its registers, waking and gating of clusters (R19 to
R21, R305 to R308, R314 to R325). -/
namespace Sys2Proof.Machine

/-! Registers, R305, R325. -/

/-- GOV_CAP_WRITE: a cap outside 25 to 110 W is refused; SPEC_EN is writable on the X grade only (Table 11-9). -/
def execGovCapWrite (data : BitVec 32) (s : State) : Res :=
  atSetup 0 (fun s =>
    let w : BitVec 7 := data.extractLsb' 0 7
    if w.toNat < 25 || 110 < w.toNat then raiseDev .govCapInvalid s
    else lapseSurge (s.mGov fun g => { g with
      watts := w, surgeEn := data.getLsbD 8, specEn := if s.fuses.grade = 2 then data.getLsbD 9 else g.specEn })) s

/-- GOV_WEIGHT_WRITE: a 0 in either weight refuses the write (Table 11-9). -/
def execGovWeightWrite (data : BitVec 32) (s : State) : Res :=
  atSetup 0 (fun s =>
    let i : BitVec 8 := data.extractLsb' 0 8
    let b : BitVec 8 := data.extractLsb' 8 8
    if i = 0 || b = 0 then raiseDev .govShareInvalid s else s.mGov fun g => { g with weightI := i, weightB := b }) s

/-- A share as GOV_TENANT_SHARE lays it out (Table 11-9). -/
def Share.ofWord (d : BitVec 64) : Share :=
  { min := d.extractLsb' 0 12, cap := d.extractLsb' 16 12, critCap := d.extractLsb' 32 11, weight := d.extractLsb' 48 8 }

/-- The MIN values of every tenant but one. -/
def otherMins (s : State) (t : Fn) : Nat :=
  ((List.range 256).map fun n => if n = t.toNat then 0 else (share s (BitVec.ofNat 8 n)).min.toNat).sum

/-- A share may be set for a tenant (R305, the ranges of Table 11-9). -/
def shareOk (s : State) (t : Fn) (x : Share) : Bool :=
  x.min.toNat ≤ x.cap.toNat && x.cap ≠ 0 && x.cap.toNat ≤ 3072 && x.critCap.toNat ≤ 1024 && x.weight ≠ 0 &&
    otherMins s t + x.min.toNat ≤ 3072

/-- GOV_TENANT_SHARE_WRITE: the share of the tenant GOV_TENANT_SEL names (R305). -/
def execGovTenantShareWrite (data : BitVec 64) (s : State) : Res :=
  atSetup 0 (fun s =>
    let t := s.gov.tenantSel
    let x := Share.ofWord data
    if shareOk s t x then s.mGov fun g => { g with shares := smSet (shareDefault t) t.toNat x g.shares }
    else raiseDev .govShareInvalid s) s

/-! The refill boundary, R306. -/

/-- Settlement, refill and limit: the base power is in units of 10 mW, the settlement in tenths of a microjoule
(R306, R308). -/
def refill (base : BitVec 16) (s : State) : State :=
  let g := s.gov
  let d := 1000 * g.watts.toNat
  let tenths : Int := g.settle + 100 * (g.watts.toNat : Int) - (base.toNat : Int)
  let l := g.level + tenths / 10
  let new := signed32 (min l (d : Int))
  whenDo (0 ≤ g.level && new < 0) (raiseDev .govCapOverrun) (s.mGov fun g =>
    { g with level := new, depth := d, settle := if l < (d : Int) then tenths % 10 else 0 })

/-- The thresholds and lift values of the seven measures (Table 11-6). -/
def measureTable : List (Nat × Nat) := [(75, 80), (60, 65), (50, 55), (40, 45), (30, 35), (20, 25), (10, 15)]

/-- The measures in force at a headroom, given those in force before (R314). -/
def measuresAt (h : Nat) (old : BitVec 7) : BitVec 7 :=
  let on (i : Nat) : Bool :=
    let (t, lift) := measureTable.getD i (0, 0)
    h < t || (old.getLsbD i && h < lift)
  BitVec.ofNat 7 (((List.range 7).filter on).map (2 ^ ·)).sum

/-- Take the readings of the sensors read: a reading outside −55 to 150 °C makes a sensor failed (R316). -/
def readSensors (temps : List (BitVec 9)) (s : State) : State :=
  let read (i : Nat) (x : TempSensor) : TempSensor :=
    let v := (temps.getD i 0).toInt
    if x.failed || temps.length ≤ i || (i < 16 && !(s.clusters.getD i Cluster.init).enabled) then x
    else if v < -55 || 150 < v then { x with valid := false, failed := true }
    else { value := v, valid := true, failed := false }
  let new := (List.range s.gov.sensors.length).map fun i => read i (s.gov.sensors.getD i { value := 0, valid := false, failed := false })
  let fails := (new.filter (·.failed)).length - (s.gov.sensors.filter (·.failed)).length
  let s1 := (List.range fails).foldl (fun s _ => raiseDev .govSensorFail s) (s.mGov fun g => { g with sensors := new })
  s1.mGov fun g => match (new.filter fun x => x.valid).map (·.value) with
    | [] => g
    | v :: vs => { g with tjMax := vs.foldl max v }

/-- The thermal level at a temperature, given the level before (R317, Table 11-7). -/
def thermalAt (tj : Int) (old : Nat) : Nat :=
  let on (n : Nat) (enter leave : Int) : Bool := if n ≤ old then leave ≤ tj else enter ≤ tj
  if on 3 115 110 then 3 else if on 2 105 100 then 2 else if on 1 95 90 then 1 else 0

/-- The thermal level is judged, with THERM_N, which follows the hot level; at trip what runs stands still (R317, R318). -/
def judgeThermal (s : State) : State :=
  let old := s.gov.thermal.toNat
  let new := thermalAt s.gov.tjMax old
  let s0 := if old < 3 && new = 3 then newClock s.gov.surge s else if old = 3 && new < 3 then resumeCourses s else s
  let s1 := s0.mGov fun g => { g with thermal := BitVec.ofNat 2 new, thermN := new < 2 }
  whenDo (old < 3 && new == 3) (raiseDev .govTrip) (whenDo (decide (old < new)) (raiseDev .govThermal) s1)

/-- Surge may be granted (R320). -/
def surgeOk (s : State) (waited : Bool) : Bool :=
  s.gov.surgeEn && !measure s 4 && 45 ≤ headroom s && effThermal s == 0 && s.gov.tjMax < 85 && waited

/-- Surge is to be withdrawn (R320): the waiting condition has been absent since `absent`. -/
def surgeOff (s : State) (absent : Option Nat) : Bool :=
  measure s 4 || 0 < effThermal s || 90 ≤ s.gov.tjMax || !s.gov.surgeEn ||
    (match absent with | some t => t + ms 1 ≤ s.clk.now | none => false)

/-- Surge is judged: withdrawn, granted after a whole period of its conditions, or raised 100 µs later (R320). -/
def judgeSurge (waited : Bool) (s : State) : State :=
  let now := s.clk.now
  let ok := surgeOk s waited
  let absent := if waited then none else some (s.gov.waitAbsentSince.getD now)
  let held := ok && s.gov.surgeOkSince.isSome
  let s1 := s.mGov fun g => { g with
    waitAbsentSince := absent, surgeOkSince := if ok then some (g.surgeOkSince.getD now) else none }
  if s1.gov.surge ≠ 0 && surgeOff s1 absent then serveToReady (withdrawSurge s1)
  else if held && s1.gov.surge = 0 && s1.mode = .serve && govFree s1 then
    ((newClock 1 s1).mGov fun g => { g with surgeSince := now }).enter .surge
  else if held && s1.gov.surge = 1 && max s1.gov.surgeSince (s1.gov.surgeOkSince.getD now) + us 100 ≤ now then newClock 2 s1
  else s1

/-- An admitted step waits for an engine now. -/
def stepWaits (s : State) : Bool :=
  s.peals.any fun p => canIssue s p.2.cluster && (List.range p.2.steps.length).any fun i => match p.2.stepDef i with
    | some st => p.2.stepReady i && (pickEngines s p.2 i st).isNone
    | none => false
/-- A Critical or Interactive descriptor waits with cause CLASS or CAPACITY now. -/
def descWaits (s : State) : Bool :=
  s.fe.waiting.any fun w =>
    (runClass (parseDesc (sriOf s w.fn) w.raw).cls (s.sq w.ring).ceil).toNat ≤ 1 &&
      (match w.cause with | some (k, _) => k == 3 || k == 4 | none => false)

/-- REFILL_BOUNDARY: every 10 µs the governor settles, refills, limits, and judges measures, thermal level and Surge, and
decides about waiting descriptors with a deadline (R303, R306). -/
def execRefillBoundary (base package : BitVec 16) (temps : List (BitVec 9)) (_waited : Computed) (s : State) : Res :=
  .next (if !onMain s || s.clk.now < s.gov.boundaryAt + us 10 then s
  else
    let s1 := (refill base s).mGov fun g =>
      { g with boundaryAt := s.clk.now, packagePower := package, basePower := base }
    let s2 := s1.mGov fun g => { g with measures := measuresAt (headroom s1) g.measures }
    let waited := s.gov.waited || stepWaits s || descWaits s
    let s3 := (judgeSurge waited (judgeThermal (readSensors temps s2))).mGov fun g => { g with waited := false }
    noteCauses (s3.fe.waiting.foldl judgeDeadline s3))

/-! Waking and gating, R19 to R21, R322. -/

/-- The clusters of a cluster's PLL group (R19). -/
def groupOf (n : ClusterNo) : List ClusterNo := (List.range 4).map fun i => BitVec.ofNat 4 (4 * (n.toNat / 4) + i)

/-- CLUSTER_WAKE_COMPLETE: the wake time has passed and the cluster can issue steps; its group's PLL runs (R19). A cluster
woken from a group whose PLL was off, while a sibling's wake ends first, goes on from its own decision at the 15 µs of the
power-gated state: the model's choice (notes/assumptions/189.md). -/
def execClusterWakeComplete (cluster : ClusterNo) (s : State) : Res :=
  .next (match (s.cluster cluster).waking with
  | none => s
  | some t =>
    if s.clk.now < t + wakeTime (s.cluster cluster) then s
    else
      let pll := fun (s : State) (n : ClusterNo) =>
        s.mCluster n fun c => if c.state = .pllOff ∧ c.enabled then { c with state := .powerGated } else c
      let s1 := (groupOf cluster).foldl pll s
      noteIdle cluster (s1.mCluster cluster fun c => { c with state := .active, waking := none }))

/-- The idle times in force, in µs: measure 5 shortens them (R322). -/
def idleCg (s : State) : Nat := if measure s 5 then 1 else s.gov.cgUs.toNat
def idlePg (s : State) : Nat := if measure s 5 then 20 else s.gov.pgUs.toNat

/-- A cluster has been idle in a state for a time. -/
def idleFor (s : State) (n : ClusterNo) (st : ClState) (t : Nat) : Bool :=
  let c := s.cluster n
  c.state == st && !c.gating && c.waking.isNone && idleCluster s n &&
    (match c.idleSince with | some x => x + us t ≤ s.clk.now | none => false)

/-- CLOCK_GATE_TIMER: an idle active cluster has reached CG_US (R322). -/
def execClockGateTimer (cluster : ClusterNo) (s : State) : Res :=
  .next (if idleFor s cluster .active (idleCg s) then
    serveToReady (s.mCluster cluster fun c => { c with state := .clockGated, idleSince := some s.clk.now })
  else s)

/-- POWER_GATE_TIMER: an idle clock-gated cluster has reached PG_US; gating begins and its contents are zeroised (R20,
R322). -/
def execPowerGateTimer (cluster : ClusterNo) (s : State) : Res :=
  .next (if idleFor s cluster .clockGated (idlePg s) then
    s.mCluster cluster fun c => { c.gated s.clk.now .clockGated with gating := true }
  else s)

/-- CLUSTER_GATING_COMPLETE: the cluster is power-gated; the fourth of its group switches the PLL off; a wake request
that waited is served from now (R19, R21). -/
def execClusterGatingComplete (cluster : ClusterNo) (s : State) : Res :=
  .next (if !(s.cluster cluster).gating then s
  else
    let woken := (s.cluster cluster).wakeAfterGating
    let s1 := s.mCluster cluster fun c => { c with
      state := .powerGated, gating := false, wakeAfterGating := false, waking := if woken then some s.clk.now else none }
    let off := (groupOf cluster).all fun n =>
      let c := s1.cluster n
      !c.gating && c.waking.isNone && (c.state == .powerGated || c.state == .pllOff)
    if off then (groupOf cluster).foldl (fun s n => s.mCluster n fun c => { c with state := .pllOff }) s1 else s1)

end Sys2Proof.Machine
end

