-- ==== Sys2Proof/Machine/MemErrors.lean ====
section
/-! DEFINITION. Line counters, the patrol scrub, corrected errors, integrity failures and impedance calibration (R458, R467 to R469). -/
namespace Sys2Proof.Machine

/-- A memory channel. -/
def State.chan (s : State) (c : BitVec 2) : MemChan := s.mem.chans.getD c.toNat MemChan.init
/-- Change a memory channel. -/
def State.mChan (c : BitVec 2) (f : MemChan → MemChan) (s : State) : State :=
  s.mMem fun m => { m with chans := modAt c.toNat f m.chans }

/-- A protected line is written (R464). -/
def writeLine (n : Nat) (s : State) : State := s.mMem (Memory.write n)

/-! What stands in the key store's lines, two to a record (R165, R461). -/

/-- The record whose base or extension record has an index. -/
def recordAt (s : State) (i : Nat) : Option (Nat × KeyRec) := s.ks.recs.find? fun e => e.2.home == i || e.2.chain.contains i

/-- The plaintext of a line of the key store. -/
def keyLine (s : State) (n : Nat) : Bytes :=
  match recordAt s (n / 2) with
  | none => zeros 64
  | some (k, r) =>
    let whole := if r.home = n / 2 then r.bytes (keyTenant k) (keyHandle k)
      else r.extBytes.getD (r.chain.findIdx (· == n / 2)) []
    fit 64 (whole.drop (64 * (n % 2)))

/-- A line of the key store as the device stores it. -/
def keyLineStored (s : State) (n : Nat) : Option (Bytes × Bytes) := storedLine s.mem n (keyLine s n)

/-- Corrected errors of the last 60 s. -/
def MemChan.within60 (now : Nat) (c : MemChan) : List (Nat × Nat) := c.recent.filter fun e => now < e.1 + sec 60
/-- How many they are. -/
def errorCount (l : List (Nat × Nat)) : Nat := (l.map (·.2)).sum

/-- A corrected error: counted, and with 256 within 60 s the channel is degraded (R468). -/
def correctedError (c : BitVec 2) (s : State) : State :=
  let l := (s.chan c).within60 s.clk.now ++ [(s.clk.now, 1)]
  let s1 := raiseDev .memCorrected (s.mChan c fun x => { x with corrected := satInc16 x.corrected, recent := l })
  if 256 ≤ errorCount l && (s.chan c).state = 0 then raiseDev .memDegraded (s1.mChan c fun x => { x with state := 1 }) else s1

/-- Confirmed failures within the last second of vault time, by Metronome instant (R469). -/
def recentConfirmed (s : State) (c : BitVec 2) : List Nat :=
  (smGet [] s.mem.confirmedAt c.toNat).filter fun t => s.clk.vtime.toNat < t + 32768

/-- The confirmed failures of every channel within the last second. -/
def confirmedCount (s : State) : Nat := ((List.range 4).map fun c => (recentConfirmed s (BitVec.ofNat 2 c)).length).sum

/-- Mark carried entries of a line, two to a line of 64 bytes, as damaged (R146, Table 17-4). -/
def damageCarried (line : Nat) (s : State) : State :=
  let hit (i : Nat) (j : JEntry) : JEntry := if i / 2 = line then { j with sound := false } else j
  s.mClap fun c => { c with carried := c.carried.mapIdx hit }

/-- The record of a key stands on a failed line: it goes once no peal in flight binds the key (Table 17-4). -/
def loseKey (k : Nat) (s : State) : State :=
  if (s.krec k).isSome && !s.ks.lost.contains k then dropLost (s.mKs fun q => { q with lost := q.lost ++ [k] }) else s

/-- Bytes of a peal's internal outputs before a step's own, in step order (R114; notes/assumptions/187.md). -/
def spillBefore (q : Peal) (i : Nat) : Nat :=
  ((List.range i).map fun j => if (q.stepDef j).any (·.outPos == 0xFF) then (q.run j).out.length else 0).sum
/-- A step reads bytes of internal outputs beyond the first 1,024, which are not on the die (R114). -/
def readsSpill (q : Peal) (st : StepDef) : Bool :=
  [st.inA, st.inB].any fun r => r.src == 2 && (q.stepDef r.idx.toNat).any (·.outPos == 0xFF) &&
    (match refBytes q r with
      | some bs => !bs.isEmpty && decide (1024 < spillBefore q r.idx.toNat + r.off.toNat + bs.length)
      | none => false)

/-- A peal's step reads a failed line of its spill, and ends (Table 17-4, R140). -/
def loseSpill (slot : PealSlot) (step : Nat) (s : State) : State :=
  match s.peal slot with
  | some q =>
    match q.stepDef step with
    | some st => if q.phase = .running && readsSpill q st then failStep slot step st (St.engineFault, 1) s else s
    | none => s
  | none => s

/-- Staged output of a peal is lost during its release: the commit stands (Table 17-4, R83). -/
def loseStaged (slot : PealSlot) (s : State) : State :=
  match s.peal slot with
  | some q =>
    if q.phase = .committed then
      let s1 := s.mPeal slot fun x => { x with outFault := true }
      match q.journalSeq with | some n => setJournalFlag n 0x04 s1 | none => s1
    else s
  | none => s

/-- A confirmed failure by the line's region, and by what it served there (Table 17-4). -/
def regionFault (line : Nat) (owner : LineOwner) (s : State) : State :=
  match lineRegion s.mem.two line, owner with
  | .keyStore, _ => match recordAt s (line / 2) with | some (k, _) => loseKey k s | none => s
  | .index, .key fn handle => loseKey (keyNo fn handle.toNat) s
  | .tables, .table tenant kind => clearTable tenant kind s
  | .tables, .spill slot step => loseSpill slot step.toNat s
  | .staging, .peal slot => loseStaged slot s
  | .carried, _ => damageCarried (line - carriedLine s.mem.two) s
  | _, _ => s

/-- A confirmed integrity failure (R469): the fourth within a second of vault time, or one of a counter line, marks the
channel failed in service and latches Lockdown. -/
def integrityFault (line : Nat) (owner : LineOwner) (s : State) : State :=
  let c := lineChan line
  let up := fun (x : MemChan) => { x with confirmed := if x.confirmed = 0xFF then x.confirmed else x.confirmed + 1 }
  let l := recentConfirmed s c ++ [s.clk.vtime.toNat]
  let s1 := raiseDev .memIntegrity ((s.mChan c up).mMem fun m => { m with confirmedAt := smSet [] c.toNat l m.confirmedAt })
  let counters := (lineRegion s.mem.two line).counters
  let s2 := if counters then s1 else writeLine line (regionFault line owner s1)
  if counters || 4 ≤ confirmedCount s1 then latchLockdown 22 2 (s2.mChan c fun x => { x with state := 3 }) else s2

/-- A line is of the memory and checked by a MAC: protected, or a counter line (R460, R469). -/
def checkedLine (s : State) (line : Nat) : Bool :=
  decide (line < lineCount s.mem.two) && !(lineRegion s.mem.two line == .macs || lineRegion s.mem.two line == .training)

/-- PATROL_SCRUB: a pass ends, or a line read has an error that was corrected or is confirmed (R467 to R469). In a
zeroised memory a failure is ignored (Table 17-7). -/
def execPatrolScrub (found : ScrubFinding) (s : State) : Res :=
  .next (if !onMain s || !s.mem.trained then s
  else match found with
    | .passEnd => s.mMem fun m => { m with scrubPasses := m.scrubPasses + 1 }
    | .corrected c => correctedError c s
    | .integrity line owner =>
      if s.mem.key.isNone || !checkedLine s line.toNat then s else integrityFault line.toNat owner s)

/-- IMPEDANCE_CALIBRATION: every 128 ms each controller calibrates (R458). -/
def execImpedanceCalibration (s : State) : Res :=
  .next (if onMain s && s.mem.trained then
    s.mMem fun m => { m with chans := m.chans.map fun (c : MemChan) => { c with calibrations := c.calibrations + 1 } }
  else s)

/-- CHANNEL_DEGRADED_CLEAR: 60 s with fewer than 16 corrected errors (R468). -/
def execChannelDegradedClear (chan : BitVec 2) (s : State) : Res :=
  let l := (s.chan chan).within60 s.clk.now
  .next (if (s.chan chan).state = 1 && !s.mem.mismatch && errorCount l < 16 then
    s.mChan chan fun c => { c with state := 0, recent := l }
  else s)

end Sys2Proof.Machine
end

