-- ==== Sys2Proof/Machine/PairLink.lean ====
section
/-! DEFINITION. The Xeolink and the pair: training, hellos, handshakes, frames, replication on receipt,
resynchronisation, roles and fail-over (R384 to R400). -/
namespace Sys2Proof.Machine

/-! Going out of service, R396, R397. -/

/-- The partner goes out of service: waits are released, and its roles are taken, or the own ones released (R393,
R396, R397). -/
def failOver (s : State) : State :=
  if !s.pair.inService then partnerGone s
  else
    let s1 := raiseDev .xlFailover (partnerGone s)
    if s.pair.peerFail || !s.pair.secondary then
      gainRoles (BitVec.allOnes 256) (s1.mPair fun x => { x with
        failovers := if x.failovers = 0xFFFFFFFF then x.failovers else x.failovers + 1 })
    else loseRoles (BitVec.allOnes 256) s1

/-- PEER_FAIL_N_LOW: PEER_FAIL_N has been low for 1 µs (R396, R509). -/
def execPeerFailNLow (s : State) : Res :=
  .next (if !onMain s then s
  else
    let s1 := s.mPair fun x => { x with peerFail := true, peerFailSince := some (x.peerFailSince.getD s.clk.vtime.toNat) }
    if s.pair.inService then failOver s1 else s1)

/-- PARTNER_SILENCE_TIMEOUT: 1 ms without a valid frame (R396). -/
def execPartnerSilenceTimeout (s : State) : Res :=
  .next (if (s.pair.inService || s.pair.resync) && s.pair.lastFrameAt + ms 1 ≤ s.clk.now then failOver s else s)

/-- PEER_FAIL_ROLE_TIMER: with the link down and PEER_FAIL_N low for 2 s of vault time, a device takes the roles
registered for it (R389). -/
def execPeerFailRoleTimer (s : State) : Res :=
  .next (match s.pair.peerFailSince with
  | none => s
  | some t =>
    if s.pair.link = .down && s.pair.peerFail && t + 65536 ≤ s.clk.vtime.toNat && onMain s then
      s.mPair fun x => { x with roles := x.roles ||| x.stored }
    else s)

/-! Lanes and hellos, R384, R385. -/

/-- A lane passed its BIST. -/
def laneFit (s : State) (lane : Bool) : Bool := s.pair.lanes.getLsbD (if lane then 1 else 0)

/-- With no lane left the link is down, and its session is over. -/
def linkDownIfBare (s : State) : State :=
  if s.pair.lane0 || s.pair.lane1 then s else s.mPair fun x => { x with link := .down, version := 0, resync := false, txKey := [], rxKey := [] }

/-- The instant a lane was dropped, or last failed to train again; note one (R384). -/
def Pair.laneTime (x : Pair) (lane : Bool) : Nat := if lane then x.laneAt.2 else x.laneAt.1
def Pair.laneMark (lane : Bool) (t : Nat) (x : Pair) : Pair :=
  { x with laneAt := if lane then (x.laneAt.1, t) else (t, x.laneAt.2) }

/-- XEOLINK_TRAINING_COMPLETE: lanes have trained; hellos follow (R384, R385). -/
def execXeolinkTrainingComplete (lane0 lane1 : Bool) (s : State) : Res :=
  .next (if s.pair.link ≠ .training || s.pair.lane0 || s.pair.lane1 || !onMain s then s
  else linkDownIfBare (s.mPair fun x =>
    { x with lane0 := lane0 && laneFit s false, lane1 := lane1 && laneFit s true, laneAt := (s.clk.now, s.clk.now) }))

/-- XEOLINK_BLOCK_LOCK_LOSS: a lane that has lost block lock for 10 µs is dropped (R384). -/
def execXeolinkBlockLockLoss (lane : Bool) (s : State) : Res :=
  .next (if !(if lane then s.pair.lane1 else s.pair.lane0) then s
  else linkDownIfBare (s.mPair fun x => Pair.laneMark lane s.clk.now
    (if lane then { x with lane1 := false } else { x with lane0 := false })))

/-- XEOLINK_LANE_RETRAIN: a dropped lane retrains every 100 ms (R384). -/
def execXeolinkLaneRetrain (lane ok : Bool) (s : State) : Res :=
  .next (if (if lane then s.pair.lane1 else s.pair.lane0) || !laneFit s lane || !onMain s ||
      decide (s.clk.now < s.pair.laneTime lane + ms 100) then s
  else if !ok then s.mPair (Pair.laneMark lane s.clk.now)
  else s.mPair fun x =>
    let x1 := if lane then { x with lane1 := true } else { x with lane0 := true }
    if x.link = .down then { x1 with link := .training } else x1)

/-- The highest version two maps share, 0 for none (R57, R385). -/
def commonVersion (a b : BitVec 8) : BitVec 8 :=
  match ((List.range 8).reverse.find? fun n => n ≠ 0 && a.getLsbD n && b.getLsbD n) with
  | some n => BitVec.ofNat 8 n
  | none => 0

/-- HELLO: the partner's version map selects the XP version; with none in common the partner is out of service
(R385). -/
def execHello (map : BitVec 8) (s : State) : Res :=
  .next (if s.pair.link ≠ .training || !(s.pair.lane0 || s.pair.lane1) then s
  else
    let v := commonVersion s.pair.versions map
    if v = 0 then
      let s1 := raiseDev .xlVersionNone (s.mPair fun x => { x with version := 0 })
      if s.pair.inService then failOver s1 else s1
    else s.mPair fun x => { x with version := v, link := .authenticating, handshakeAt := none })

/-! Resynchronisation, R395. -/

/-- Cut a list into pieces of 64. -/
def pieces64 {α : Type} : Nat → List α → List (List α)
  | 0, _ => []
  | n + 1, l => if l.isEmpty then [] else l.take 64 :: pieces64 n (l.drop 64)

/-- Own journal entries the partner has not acknowledged, carried first. -/
def unreplicated (s : State) : List JEntry :=
  (s.clap.carried ++ liveOwn s).filter fun j => !j.flags.getLsbD 3 && !j.flags.getLsbD 4
where
  /-- Live entries that are not among the carried ones. -/
  liveOwn (s : State) : List JEntry := s.clap.journal.filter fun j => s.clap.carriedLast.toNat < j.seq.toNat

/-- Send one RESYNC message of journal entries. -/
def sendResync (s : State) (js : List JEntry) : State :=
  let s1 := xlSend 0x08 (js.flatMap JEntry.bytes) s
  s1.mPair fun x => { x with unacked := x.unacked ++ js.map fun j => (s1.pair.txSeq, j.seq) }

/-- Send the H of a cell written while the link was down. -/
def sendHwm (s : State) (k : Nat) : State :=
  let c := (s.ks.cells.find? fun e => e.2.key == k).map (·.2)
  let s1 := xlSend 0x03 (natLe 4 (keyTenant k).toNat ++ natLe 4 (keyHandle k) ++
    natLe 4 (match c with | some c => c.gen.toNat | none => 0) ++ natLe 8 (match c with | some c => c.h.toNat | none => 0)) s
  s1.mPair fun x => { x with hwmPending := x.hwmPending.map fun r => if r.2 = k then (s1.pair.txSeq, k) else r }

/-- Send a revocation set entry whose REVOKE was not acknowledged. -/
def sendRevoke (s : State) (k : Nat) : State :=
  match smFind k s.ks.rset with
  | none => s.mPair fun x => { x with revokeUnacked := x.revokeUnacked.filter (·.2 ≠ k) }
  | some e =>
    let s1 := xlSend 0x04 (natLe 8 (e.word k).toNat) s
    s1.mPair fun x => { x with revokeUnacked := x.revokeUnacked.map fun r => if r.2 = k then (s1.pair.txSeq, k) else r }

/-- Both directions have finished: the partner is in service (R395, R396). -/
def resyncEnd (s : State) : State :=
  let x := s.pair
  if x.resync && x.rxDone && x.unacked.isEmpty && x.revokeUnacked.isEmpty && x.hwmPending.isEmpty then
    s.mPair fun x => { x with resync := false, inService := true }
  else s

/-- The session is keyed: what the partner has missed goes out (R395). -/
def startResync (s : State) : State :=
  let s1 := s.mPair fun x => { x with resync := true, rxDone := false, unacked := [] }
  let s2 := (pieces64 4096 (unreplicated s)).foldl sendResync s1
  let s3 := (s.pair.hwmPending.map (·.2)).foldl sendHwm s2
  let s4 := (s.pair.revokeUnacked.map (·.2)).foldl sendRevoke s3
  s4.mPair fun x => { x with syncNext := x.syncNext.map fun n => (n.1, s4.pair.txSeq + 1) }

/-! Handshakes, R386. -/

/-- SERIAL of the two devices, the primary's first. -/
def pairSerials (s : State) : Bytes :=
  let own := fit 16 s.fuses.serial
  let other := s.pair.partner.getD (zeros 16)
  if s.pair.secondary then other ++ own else own ++ other

/-- The session keys, to the partner and from it, out of the ephemeral secret and the partner's ephemeral public key: the
primary's direction first (R386, notes/assumptions/156.md). -/
def sessionKeys (s : State) (secret peer : Bytes) : Bytes × Bytes :=
  let z := match p384.mul (beNat secret) (some (p384.xy peer)) with
    | some pt => (natBe 48 pt.1).take 32
    | none => zeros 32
  let ks := kdf z (ztLabel [0x58, 0x4C, 0x49, 0x4E, 0x4B]) (pairSerials s) 512
  if s.pair.secondary then (ks.drop 32, ks.take 32) else (ks.take 32, ks.drop 32)

/-- The key that signs this device's part of a handshake: the XEOL key, or without a root secret the identity key (R386). -/
def shakeKey (s : State) : Shares := if s.root.present then s.root.regs.xeol else s.root.regs.ident

/-- What this device sends in a handshake: the three certificates, its Xeolink device key certificate, and a signed ephemeral
public key (R386). -/
def shakeBytes (s : State) (pub nonce : Bytes) : Bytes :=
  x509 s ++ (s.root.dkcs.filter fun d => d.getD 5 0 == 3).flatten ++ pub ++ deviceSign (shakeKey s) pub nonce

/-- This device's part of a handshake (R386): an ephemeral key pair drawn from I1 and a signature's nonce from I3, the session
keyed with the partner's ephemeral key. While a draw is held the handshake waits, and it fails where one cannot be served; the
nonce is asked for first (R284, R292, R526). -/
def shakeHands (peer : Bytes) (s : State) : Draw × State :=
  match drawFor .handshake (instI 3) signDraw s with
  | (.served nonce, s1) =>
    match drawFor .handshake (instI 1) signDraw s1 with
    | (.served bs, s2) =>
      let secret := keyFromDraw [] 0x20 2 bs
      let ks := sessionKeys s2 secret peer
      (.served bs, s2.mPair fun x =>
        { x with shake := shakeBytes s2 (publicOf [] 0x20 2 secret) nonce, txKey := ks.1, rxKey := ks.2 })
    | r => r
  | r => r

/-- A handshake fails: it restarts 100 ms later (R386, R396). -/
def shakeFailed (s : State) : State :=
  let s1 := raiseDev .xlAuthFail (s.mPair fun x => { x with handshakeAt := some s.clk.now })
  if s.pair.inService then (failOver s1).mPair fun x => { x with handshakeAt := some s.clk.now } else s1

/-- XEOLINK_HANDSHAKE_COMPLETE: the exchange of certificates and keys has ended; a partner with the registered serial
and the other role is authenticated (R386, R395, R396). -/
def execXeolinkHandshakeComplete (ok peerHasRoot : Bool) (peer : Hello) (peerSecondary : Bool) (s : State) : Res :=
  .next (if s.pair.link ≠ .authenticating || s.pair.handshakeAt.isSome || !s.boot.stewardUp then s
  else if ok && s.pair.partner == some (natLe 16 peer.serial.toNat) && peerSecondary ≠ s.pair.secondary &&
      (keyDefect [] 0x21 2 peer.key).isNone then
    match shakeHands peer.key s with
    | (.held, s0) => s0
    | (.failed _, s0) => shakeFailed s0
    | (.served _, s0) =>
      let s1 := s0.mPair fun x =>
        { x with link := .up, rxSeq := 0, txSeq := 0, rxHold := [], dropped := [], lastFrameAt := s.clk.now }
      if peerHasRoot && s.root.present then startResync s1 else s1
  else shakeFailed s)

/-- XEOLINK_HANDSHAKE_RETRY: 100 ms after a failure the handshake restarts (R386). -/
def execXeolinkHandshakeRetry (s : State) : Res :=
  .next (match s.pair.handshakeAt with
  | none => s
  | some t => if t + ms 100 ≤ s.clk.now then s.mPair fun x => { x with handshakeAt := none } else s)

/-- The ephemeral public key of an authenticated partner in a re-key, of a private key it drew itself: a free value (R386,
notes/assumptions/156.md). -/
def partnerKey (s : State) : Bytes × State :=
  let (bs, s1) := noiseBytes 56 s
  (publicOf [] 0x20 2 (keyFromDraw [] 0x20 2 bs), s1)

/-- XEOLINK_REKEY: with nothing unacknowledged the session is keyed anew with fresh ephemeral keys, and both sequences start
again (R387). -/
def execXeolinkRekey (s : State) : Res :=
  let x := s.pair
  .next (if x.link ≠ .up || !x.unacked.isEmpty || x.revokeUnacked.any (·.1 ≠ 0) || x.hwmPending.any (·.1 ≠ 0) ||
      x.syncNext.isSome || !x.rxHold.isEmpty then s
  else
    let (key, s0) := partnerKey s
    match shakeHands key s0 with
    | (.served _, s1) => s1.mPair fun x => { x with rxSeq := 0, txSeq := 0, dropped := [] }
    | (_, s1) => s1)

/-! Frames, R387. -/

/-- Note a commit as replicated: in its journal entry, live or carried, and in its peal (R131, R148, R393). -/
def noteReplicated (s : State) (seq : BitVec 64) : State :=
  let mark := fun (l : List JEntry) => l.map fun (j : JEntry) => if j.seq = seq then { j with flags := j.flags ||| 0x08 } else j
  let s1 := s.mClap fun c => { c with journal := mark c.journal, carried := mark c.carried }
  let note := fun (q : Peal) => if q.journalSeq = some seq.toNat then { q with replicated := true } else q
  let s2 := { s1 with peals := s1.peals.map fun (k, q) => (k, note q) }
  s2.mPair fun x => { x with lastAcked := seq }

/-- The partner acknowledges every frame up to a sequence (R387, R390, R393). -/
def ackTo (n : BitVec 64) (s : State) : State :=
  let hit (f : BitVec 64) : Bool := f ≠ 0 && f.toNat ≤ n.toNat
  let s1 := ((s.pair.unacked.filter fun r => hit r.1).map (·.2)).foldl noteReplicated s
  let s2 := s1.mPair fun x => { x with
    unacked := x.unacked.filter fun r => !hit r.1
    revokeUnacked := x.revokeUnacked.filter fun r => !hit r.1
    hwmPending := x.hwmPending.filter fun r => !hit r.1 }
  let s3 := match s2.pair.syncNext with
    | some (b, f) => if hit f then s2.mPair fun x => { x with sync := b, syncNext := none } else s2
    | none => s2
  resyncEnd s3

/-- A frame that fails its tag or goes back on its sequence is dropped; sixteen within 1 ms restart the handshake
(R387). -/
def dropFrame (s : State) : State :=
  s.mPair fun x =>
    let l := x.dropped.filter (fun t => s.clk.now < t + ms 1) ++ [s.clk.now]
    if 16 ≤ l.length then { x with dropped := [], link := .authenticating, handshakeAt := none, txKey := [], rxKey := [] }
    else { x with dropped := l }

/-- Take a received frame: drop it, or note its sequence and acknowledgement and act on its message (R387, R396). -/
def frameIn (fr : Frame) (act : State → State) (s : State) : Res :=
  .next (if s.pair.link ≠ .up then s
  else if !fr.tagOk || fr.seq.toNat ≤ s.pair.rxSeq.toNat then dropFrame s
  else act (ackTo fr.ack (s.mPair fun x => { x with rxSeq := fr.seq, lastFrameAt := s.clk.now })))

/-- HEARTBEAT_SEND: a HEARTBEAT goes out: FAIL_N's level, the roles held, the last journal sequence sent (R396). -/
def execHeartbeatSend (s : State) : Res :=
  .next (xlSend 0x01 ([if failNHigh s then 1 else 0] ++ natLe 32 s.pair.roles.toNat ++ natLe 8 s.toll.lastOwn.toNat) s)

/-- HEARTBEAT: the partner's roles are known, PEER_FAIL_N follows its FAIL_N, and roles registered for this device
that the partner shows it does not hold are taken (R389, R396). -/
def execHeartbeat (fr : Frame) (failN : Bool) (roles : BitVec 256) (_lastSeq : BitVec 64) (s : State) : Res :=
  frameIn fr (fun s => s.mPair fun x => { x with
    partnerRoles := roles, roles := x.roles ||| (x.stored &&& ~~~roles),
    peerFail := x.peerFail && !failN, peerFailSince := if failN then none else x.peerFailSince }) s

/-! Messages, R394. -/

/-- The journal entry a COMMIT makes: FROM_PARTNER, the sender's tag, tenant, peal, status, Toll class and vault time,
and a sequence of this device's own. -/
def partnerEntry (e : BitVec 256) (seq : BitVec 64) : JEntry :=
  let x := e.toNat
  { tag := bitsAt x 0 64, seq := seq, vtime := bitsAt x 128 64, tenant := bitsAt x 192 8, pealId := bitsAt x 200 16,
    toll := bitsAt x 224 8, flags := 0x10 ||| (bitsAt x 232 8 &&& 0x40) }

/-- Record one COMMIT payload (R394). -/
def recordCommit (s : State) (c : CommitPayload) : State :=
  let s1 := writeJournal (partnerEntry c.entry) s
  deltaIfDue (if s.pair.version = 1 then s1 else (c.charges.take 4).foldl (fun s c => raiseOrWait c s) s1)

/-- COMMIT: the partner's commit is recorded (R394). -/
def execCommit (fr : Frame) (payload : CommitPayload) (s : State) : Res :=
  frameIn fr (fun s => recordCommit s payload) s

/-- RESYNC: entries the partner made while the link was down are recorded; with its last, its direction has finished
(R395). -/
def execResync (fr : Frame) (payloads : List CommitPayload) (done : Bool) (s : State) : Res :=
  frameIn fr (fun s =>
    let s1 := (payloads.take 64).foldl recordCommit s
    if done then resyncEnd (s1.mPair fun x => { x with rxDone := true }) else s1) s

/-- HWM: the counter cell of a key is raised, and the frame acknowledged once that persists (R394). -/
def execHwm (fr : Frame) (tenant : Fn) (handle : BitVec 24) (gen : BitVec 32) (h : BitVec 64) (s : State) : Res :=
  let k := keyNo tenant handle.toNat
  frameIn fr (fun s =>
    if s.ks.cells.any fun e => e.2.key == k && e.2.gen == gen && e.2.h.toNat < h.toNat then
      nvQueue 2 (.partnerCell k h.toNat fr.seq) (s.mPair fun x => { x with rxHold := x.rxHold ++ [(fr.seq, false, k)] })
    else s) s

/-- REVOKE: the entry is applied as a barrier of this device's own; it is written, and the frame acknowledged, once
the barrier's drain is complete (R189, R394). -/
def execRevoke (fr : Frame) (entry : BitVec 64) (s : State) : Res :=
  let x := entry.toNat
  let k := keyNo (bitsAt x 0 8) (fieldNat x 8 24)
  let min : BitVec 31 := bitsAt x 32 31
  let dead := bitAt x 63
  frameIn fr (fun s =>
    let old := smFind k s.ks.rset
    let e : RsEntry := { minGen := min, revoked := dead, barrier := some s.gov.admissions,
                         before_ := (s.krec k).map fun r => (r.state, match old with | some o => o.revoked | none => false) }
    let move := fun (l : LedgerEntry) => if l.key = k && !dead then { l with gen := min.setWidth 32 } else l
    (s.mKs fun q => { q with
      rset := smInsert k e q.rset, ledger := q.ledger.map fun (i, l) => (i, move l),
      barriers := q.barriers ++ [{ slot := none, key := k, b := s.gov.admissions, revoke := dead, destroyed := dead,
                                   drained := false }] }).mPair fun x =>
        { x with rxHold := x.rxHold ++ [(fr.seq, true, k)] }) s

/-- ROLE: a release gives this device the mapped roles, which it accepts; an accept ends its own transfer (R391). -/
def execRole (fr : Frame) (map : BitVec 256) (accept : Bool) (s : State) : Res :=
  frameIn fr (fun s =>
    if accept then s.mPair fun x => { x with transferring := none }
    else xlSend 0x05 (natLe 32 map.toNat ++ [1]) (gainRoles map s)) s

/-- DUAL_REQ: this device runs the partner's peal and returns its status, sub-reason and output digest (R399;
notes/assumptions/3.md). -/
def execDualReq (fr : Frame) (_fn : Fn) (_desc : BitVec 512) (status sub : BitVec 8) (digest : Bytes) (s : State) : Res :=
  frameIn fr (fun s =>
    if s.pair.version = 2 then xlSend 0x07 ([status, sub] ++ fit 48 digest) s else s) s

/-- DUAL_RESULT: the partner's result of a dual-run peal is compared with the own one before sealing (R400). -/
def execDualResult (fr : Frame) (slot : PealSlot) (status sub : BitVec 8) (digest : Bytes) (s : State) : Res :=
  frameIn fr (fun s => dualJudge slot (s.mPeal slot fun q =>
    if q.dualPending && q.dualResult.isNone then { q with dualResult := some (status, sub, fit 48 digest) } else q)) s

end Sys2Proof.Machine
end

