-- ==== Sys2Proof/Machine/Power.lean ====
section
/-! DEFINITION. Supplies: the power-fail warning, main power, the batteries and vault time's checkpoint (R22, R154,
R337, R362, R364, R497 to R507). -/
namespace Sys2Proof.Machine

/-- Neither battery is present (R500). -/
def noBattery (s : State) : Bool := !s.pwr.battA && !s.pwr.battB

/-- Whether a command writes the delta record in progress. -/
def NvCmd.isDelta (c : NvCmd) : Bool := match c.work with | .deltaRec _ => true | _ => false

/-- The delta record in progress is abandoned; its sequence is given again (R337). -/
def abandonDelta (s : State) : State :=
  match s.toll.writing with
  | some r =>
    if r.group then s
    else (s.mToll fun k => { k with writing := none, logSeq := r.seq - 1 }).mNv fun n =>
      { n with queue := n.queue.filter (!NvCmd.isDelta ·), stopped := n.stopped.filter (!NvCmd.isDelta ·) }
  | none => s

/-- The store stops its command at a word boundary, to restart it first, and holds what is queued; a power-fail command still
running goes on (R362, R364). -/
def holdStore (s : State) : State :=
  s.mNv fun n =>
    let stops := n.current.any (·.cls ≠ 1)
    { n with held := true, pfDone := false, current := if stops then none else n.current,
             stopped := if stops then n.current else n.stopped }

/-- PFWARN_ASSERT: admission stops, the clusters are clock-gated, the store stops; without a battery no commit point
follows, and outside journal mode the FINAL record is written (R154, R290, R337, R362, R505). -/
def execPfwarnAssert (s : State) : Res :=
  .next (if !onMain s || s.pwr.pfwarn then s
  else
    let s1 := holdStore (replaceSeed ((newClock s.gov.surge s).mPwr fun p => { p with pfwarn := true, pfGated := true }))
    if !noBattery s then s1
    else
      let s2 := s1.mClap fun c => { c with stopped := true }
      if s.toll.journal then s2 else startDelta true true (abandonDelta s2))

/-- Sealed peals that waited while commit points were stopped, in admission order (R154). -/
def waitedSealed (s : State) : List PealSlot :=
  let l := s.peals.filter fun e => sealedReady s (BitVec.ofNat 12 e.1)
  (l.mergeSort fun a b => a.2.seq ≤ b.2.seq).map fun e => BitVec.ofNat 12 e.1

/-- A record with FINAL is still being written; commit points wait for it (R337). -/
def finalOpen (s : State) : Bool := match s.toll.writing with | some r => r.final | none => false

/-- PFWARN_DEASSERT: the warning has been high for 100 µs; clusters, commit points and held commands go on (R154, R337,
R364, R504, R505). -/
def execPfwarnDeassert (s : State) : Res :=
  .next (if !onMain s || !s.pwr.pfwarn then s
  else
    let resume := if s.clap.stopped then waitedSealed s else s.clap.resume
    let s1 := ((if s.pwr.pfGated then resumeCourses s else s).mPwr fun p => { p with pfwarn := false, pfGated := false }).mClap fun c =>
      { c with stopped := c.stopped && finalOpen s, resume := resume }
    s1.mNv fun n => NvStore.kick s.clk.now { n with held := false })

/-! Main power, R497, Table 1-7. -/

/-- MAIN_POWER_GOOD: every main rail has been in range for 2 ms; GONG_N follows the always-on latch (R497, R503). -/
def execMainPowerGood (s : State) : Res :=
  .next (if s.pwr.mainGood then s
  else
    (s.mPwr fun p => { p with mainGood := true, gongN := !s.tmp.zeroised, gongDegraded := false }).mBoot fun b =>
      { b with stage := 0 })

/-- A mode that ends with main power, Lockdown alone being kept, and with it the Off of a device that has it latched (R22,
R23). -/
def leaveMain (m : Mode) (s : State) : State :=
  if s.mode = .lockdown || (s.mode = .off && s.tmp.lock.isSome) then s else s.enter m

/-- What the use ledger owes when main power fails with no battery: committed uses and outstanding reservations (R178). -/
def owedUses (s : State) : SMap LedgerEntry :=
  s.ks.ledger.map fun (i, e) =>
    (i, { e with uses := e.uses + BitVec.ofNat 32 (match s.krec e.key with | some r => r.usesReserved | none => 0) })

/-- MAIN_POWER_LOST: Vault with a battery present, Off otherwise; Lockdown stays, with a supply of the always-on domain or
without one (R23, R497, Table 1-7). -/
def execMainPowerLost (s : State) : Res :=
  .next (if !s.pwr.mainGood then s
  else
    let up := onMain s
    let torn := fun (b : Boot) => if b.fwBusy && !b.activating then b.mSlot (!b.slotB) (fun _ => FwSlot.empty) else b
    let s1 := if up then (clearVolatile (interrupted (s.mBoot torn))).mToll fun k => { k with owed := owedUses s } else s
    let s2 := (s1.mPwr fun p => { p with mainGood := false, aoHeld := s.pwr.aoHeld && !noBattery s }).mRoot fun r =>
      { r with lastReshare := s.clk.vtime.toNat }
    if noBattery s then leaveMain .off (loseAo s2) else leaveMain .vault s2)

/-- VAULT_ENTRY: with a battery present, VAO_CAP at 2.4 V and the reservoir charged, the device leaves Off for Vault; in a
Lockdown the always-on domain runs again and the mode stays (R22, R23, R502). -/
def execVaultEntry (s : State) : Res :=
  .next (if (s.mode ≠ .off && s.mode ≠ .lockdown) || s.pwr.mainGood || noBattery s then s
  else
    let s1 := s.mPwr fun p => { p with capReady := true, reservoir := true, gongN := !s.tmp.zeroised }
    if s.mode = .off && s.tmp.lock.isNone then s1.enter .vault else s1)

/-- BATTERY_PRESENT: an input has been at or above 2.4 V for 1 ms; false for VBATA, true for VBATB (R338, R500). -/
def execBatteryPresent (b : Bool) (s : State) : Res :=
  .next (s.mPwr fun p => { p with
    battA := p.battA || !b, battB := p.battB || b,
    battASince := if b then p.battASince else some (p.battASince.getD s.clk.now),
    battBSince := if b then some (p.battBSince.getD s.clk.now) else p.battBSince })

/-- BATTERY_ABSENT: an input has fallen below 2.2 V; the last one lost without main power enters Off, and on main power
AUTO enters journal mode (R338, R500). -/
def execBatteryAbsent (b : Bool) (s : State) : Res :=
  let s1 := s.mPwr fun p => { p with
    battA := p.battA && b, battB := p.battB && !b, battASince := if b then p.battASince else none,
    battBSince := if b then none else p.battBSince }
  .next (if !noBattery s1 then s1
  else if s.pwr.mainGood then (if onMain s then journalJudge s1 else s1)
  else leaveMain .off (loseAo s1))

/-- VAULT_TIME_CHECKPOINT: every 2^21 periods on main power vault time is written (R507). -/
def execVaultTimeCheckpoint (s : State) : Res :=
  .next (if onMain s && s.clk.vtime.toNat % 2 ^ 21 = 0 then nvQueue 3 (.vtimeCheckpoint s.clk.vtime) s else s)

end Sys2Proof.Machine
end

