-- ==== Sys2Proof/Machine/Smbus.lean ====
section
/-! DEFINITION. The SMBus management interface (R515, R516). -/
namespace Sys2Proof.Machine

/-- The interface answers: main power, the boot sequence past step 5, and no Steward command in progress (R360, R515). -/
def smbusOn (s : State) : Bool :=
  onMain s && s.boot.stage ≠ 0 && (match s.nv.current with | some c => c.cls ≠ 5 | none => true)

/-- A command of the interface, where it answers. -/
def atSmbus (f : State → State) (s : State) : Res := .next (if smbusOn s then f s else s)

/-- SMB_ALERT_N is asserted or released. -/
def smbAlert (on : Bool) (s : State) : State := s.mPwr fun p => { p with smbAlertN := !on }

/-- What the last read returned. -/
def smbReturn (bs : Bytes) (s : State) : State := s.mSmb fun x => { x with lastRead := bs }

/-- IDENT: 32 bytes (Table 19-8). -/
def execIdent (s : State) : Res :=
  atSmbus (fun s => smbReturn (natLe 4 (fnReg32 s 0 0x00) ++ natLe 4 (fnReg32 s 0 0x04) ++ fit 16 s.fuses.serial ++
    natLe 4 (lcState s) ++ natLe 4 (hlthBoot s)) s) s

/-- HEALTH: 16 bytes (Table 19-8). -/
def execHealth (s : State) : Res :=
  atSmbus (fun s => smbReturn (natLe 4 (hlthSummary s) ++ natLe 4 (hlthCapacity s) ++ natLe 4 (tmpStatus s) ++
    natLe 4 (funcStatus s 0)) s) s

/-- The input of a request fits its object (Table 19-9). -/
def requestFits (data : Bytes) : Bool :=
  let o := (data.getD 0 0).toNat
  if o = 1 || o = 2 || o = 3 then data.length == 1
  else if o = 4 then data.length == 34
  else if o = 5 || o = 6 then data.length == 33
  else false

/-- REQUEST: an object is asked for and replaces any earlier one; object 0 stands for a malformed request (R516). A write
whose PEC fails is discarded (R515). -/
def execRequest (data : Bytes) (pecOk : Bool) (s : State) : Res :=
  atSmbus (fun s =>
    if !pecOk then s
    else
      let o := data.getD 0 0
      let good := requestFits data
      s.mSmb fun x => { x with
        status := 1, reason := 0, object := if good then o else 0, data := [], offset := 0, stmt := none, waitSeq := 0,
        tenant := if good && o = 4 then data.getD 1 0 else 0,
        nonce := if good then (if o = 4 then data.drop 2 else data.drop 1) else [] }) s

/-- The object is ready. -/
def objectReady (bs : Bytes) (s : State) : State :=
  smbAlert true (s.mSmb fun x => { x with status := 2, reason := 0, data := bs })
/-- The request is refused with a reason (R516). -/
def objectRefused (reason : BitVec 8) (s : State) : State :=
  smbAlert true (s.mSmb fun x => { x with status := 3, reason := reason, data := [], stmt := none })

/-- A statement object: its sequence below the persisted mark, its nonce from I3, and the record that holds what
was not recorded at its snapshot; it is used as it becomes ready (R342, R343, R516). -/
def statementObject (t : Option Fn) (s : State) : State :=
  match s.smb.stmt with
  | some n =>
    if allRecorded s || s.smb.waitSeq.toNat ≤ lastRecord s then
      useStatement n ((objectReady s.smb.data s).mSmb fun x => { x with stmt := none })
    else if s.toll.journal then s else startDelta false false s
  | none =>
    if !s.toll.hasKey then objectRefused 2 s
    else if tollBusy s none then s
    else
      let n := stmtSeq s
      match markReady n s with
      | (false, s1) => s1
      | (true, s1) =>
        match drawFor .object (instI 3) signDraw s1 with
        | (.failed _, s2) => objectRefused 4 s2
        | (.held, s2) => s2
        | (.served bs, s2) =>
          let body := stmtBody s2 (if t.isSome then 1 else 2) t n s.smb.nonce
          let sig := deviceSign s2.root.regs.toll body bs
          let s3 := if allRecorded s2 || s2.toll.journal then s2 else startDelta false false s2
          let wait := if s2.toll.journal || s2.toll.writing.isSome then coveringRecord s2 else s3.toll.logSeq
          s3.mSmb fun x => { x with stmt := some n, waitSeq := wait, data := body ++ sig }

/-- The Lockdown report as an object, served as LC_CMD code 3 (R418, R516). -/
def reportObject (s : State) : State :=
  if !reportAllowed s then objectRefused 1 s
  else match drawFor .object (instI 3) signDraw s with
    | (.served bs, s1) => objectReady (signedReport s s.smb.nonce bs) s1
    | (.held, s1) => s1
    | (.failed _, s1) => objectRefused 4 s1

/-- SMBUS_OBJECT_READY: production of the requested object goes on, and it becomes ready or is refused (R516, Table 19-9).
Below the core minimum the health report alone is there (R445). -/
def execSmbusObjectReady (s : State) : Res :=
  .next (if s.smb.status ≠ 1 || !onMain s then s
  else if !s.boot.coreMin && s.smb.object ≠ 1 && s.smb.object ≠ 0 then objectRefused 1 s
  else match s.smb.object.toNat with
    | 1 => objectReady (healthBytes s) s
    | 2 => objectReady (tollStatus s) s
    | 3 => match s.toll.closing with | some c => objectReady c s | none => objectRefused 3 s
    | 4 => statementObject (some s.smb.tenant) s
    | 5 => statementObject none s
    | 6 => reportObject s
    | _ => objectRefused 5 s)

/-- STATUS: 8 bytes; it releases SMB_ALERT_N (Table 19-8, R516). -/
def execStatus (s : State) : Res :=
  atSmbus (fun s =>
    let n := if s.smb.status = 2 then s.smb.data.length else 0
    smbAlert false (smbReturn ([s.smb.status, s.smb.reason] ++ natLe 4 n ++ zeros 2) s)) s

/-- OFFSET: the read offset into the object (Table 19-8). -/
def execOffset (data : BitVec 32) (pecOk : Bool) (s : State) : Res :=
  atSmbus (fun s => if pecOk then s.mSmb fun x => { x with offset := data.toNat } else s) s

/-- READ: up to 240 bytes from the offset, no more than the host takes; the offset advances by the bytes returned, and at
or beyond the object's end the block is empty (Table 19-8, R516). -/
def execRead (n : BitVec 8) (s : State) : Res :=
  atSmbus (fun s =>
    let bs := if s.smb.status = 2 then (s.smb.data.drop s.smb.offset).take (min 240 n.toNat) else []
    (smbReturn bs s).mSmb fun x => { x with offset := x.offset + bs.length }) s

/-- ALERT_RESPONSE: a read of the Alert Response Address releases SMB_ALERT_N (R516). -/
def execAlertResponse (s : State) : Res := atSmbus (smbAlert false) s

end Sys2Proof.Machine
end

