-- ==== Sys2Proof/Machine/Steps.lean ====
section
/-! DEFINITION. Steps of peals on their engines: issue, end, tie-breaks, Rimshot, preemption, abandonment and
self-tests (R125 to R128, R138 to R140, R233 to R247, R263 to R269, R292, R377 to R380). -/
namespace Sys2Proof.Machine

/-! Issue. -/

/-- A step starts on its engines with the bytes it has drawn. -/
def seatStep (p : PealSlot) (i : Nat) (c : ClusterNo) (l : List Engine) (drawn : Bytes) (s : State) : State :=
  unholdDraw p i (seat p i c l (s.mRun p i fun r =>
    let r := { r with started := s.clk.now, progress := 0, reshared := 0, ownOnly := false }
    if r.phase = .verifyWait then { r with phase := .running, second := l.head? }
    else { r with phase := .running, engine := l.head?, second := (l.drop 1).head?, drawn := drawn }))

/-- The step draws what its operation needs and starts; a held draw lets it wait (R284, R292, R293). -/
def drawAndSeat (p : PealSlot) (i : Nat) (q : Peal) (st : StepDef) (l : List Engine) (s : State) : State :=
  match drawSome p i q.fn.toNat (drawLen q st) s with
  | (.served bs, s1) => seatStep p i q.cluster l bs s1
  | (.held, s1) => holdDraw q.fn.toNat p i (s1.mRun p i fun r => { r with phase := .drawWait })
  | (.failed sub, s1) => failStep p i st (St.entropyUnavailable, sub) s1

/-- A generating step reserves its counter value as it starts, waits for its cell, or finds the space exhausted
(R144, R240 to R242). -/
def reserveAndSeat (p : PealSlot) (i : Nat) (q : Peal) (st : StepDef) (l : List Engine) (s : State) : State :=
  match boundKey q st with
  | none => failStep p i st (St.keyUnusable, 2) s
  | some k =>
    match smFind k s.ks.spaces with
    | none => failStep p i st (St.keyUnusable, 2) s
    | some sp =>
      match reserveOutcome (cellExhausted s k) st sp with
      | .exhausted => failStep p i st (St.nonceExhausted, exhaustSub st) s
      | .wait => startCellWrite k (s.mRun p i fun r => { r with phase := .cellWait })
      | .value v fresh =>
        drawAndSeat p i q st l ((forwardDual p (natLe 8 v) (takeCounter k v fresh s)).mRun p i fun r =>
          { r with reserved := some (k, v), nonce := nonceOf s q st v })

/-- A core runs the spare's known-answer test before it takes further work (R269). -/
def testCore (e : Option Engine) (s : State) : State :=
  match e with
  | some (.pk c n) => s.mEng c true n fun x => { x with selfTest := some s.clk.now }
  | _ => s

/-- A verification before release has failed: both cores are tested, and the event counts (R269). -/
def releaseFailed (signer verifier : Option Engine) (s : State) : State :=
  (testCore verifier (testCore signer s)).mHealth fun h =>
    { h with releaseFails := if h.releaseFails = 0xFFFFFFFF then h.releaseFails else h.releaseFails + 1 }

/-- Issue step `i` to engines it has been given (R126): the run-time checks of its inputs first, which a step with a
shadow input passes over (R221, R254, R525). -/
def startStep (p : PealSlot) (i : Nat) (l : List Engine) (s : State) : State :=
  match s.peal p with
  | none => s
  | some q =>
    match q.stepDef i with
    | none => s
    | some st =>
      if (q.run i).phase = .verifyWait then seatStep p i q.cluster l (q.run i).drawn s
      else
        let fault := inputFault s (q.live s p) st
        match (if stepShadow (q.live s p) st then none else fault) with
        | some .beyond => failStep p i st (St.inputInvalid, 8) s
        | some (.input sub) => failStep p i st (St.inputInvalid, sub) s
        | some .malformed =>
          let s1 := endStep p i (fun r => { r with fail := some (guardStat st true), guardFail := true, shadow := true }) s
          if isReleaseVerify st then releaseFailed (signerOf q i st) l.head? s1 else s1
        | none =>
          if generates st && fault.isNone then reserveAndSeat p i q st l s else drawAndSeat p i q st l s

/-- STEP_ISSUE: the sequencer issues a ready step to the engines of its kind, when they are free (R125, R126, R244,
R268). -/
def execStepIssue (slot : PealSlot) (step : BitVec 5) (s : State) : Res :=
  let i := step.toNat
  .next (match s.peal slot with
  | none => s
  | some q =>
    match q.stepDef i with
    | none => s
    | some st =>
      match engKind st.op.toNat with
      | none => s
      | some k =>
        if !canIssue s q.cluster || !q.stepReady i || q.lowerReady i k then s
        else match pickEngines s q i st with
          | none => (s.mRun slot i fun r => { r with ownOnly := r.ownOnly || (signerOf q i st).isSome }).mGov fun g =>
              { g with waited := true }
          | some l => startStep slot i l s)

/-- COUNTER_CELL_WRITE_COMPLETE: the write of H + 2^20 has ended, and in synchronous pair mode the partner holds
it: H advances to the cell's, and the waiting reservations can be made (R239 to R241, R243). -/
def execCounterCellWriteComplete (fn : Fn) (handle : BitVec 24) (s : State) : Res :=
  let k := keyNo fn handle.toNat
  let held := s.pair.sync && s.pair.inService && s.pair.hwmPending.any (·.2 == k)
  .next (match smFind k s.ks.spaces with
  | none => s
  | some sp =>
    match sp.writing with
    | none => s
    | some h =>
      if !sp.stored || held then s
      else
        let top := max h (max sp.h (match cellOf s k with | some c => c.h.toNat | none => 0))
        let s1 := s.mSpace k fun sp => { sp with h := top, writing := none, stored := false, fresh := false }
        let s2 := s1.mRec k fun r => { r with ivHwm := BitVec.ofNat 64 top }
        startCellWrite k s2)

/-! End. -/

/-- Run a FORMAT step on its inputs, with digits in place of a PIN that fails to open (R120, R139). -/
def formatRun (q : Peal) (st : StepDef) (fill digits : Bytes) : FmtRun :=
  match q.fmts.find? (·.id.toNat == st.param.toNat) with
  | none => { out := [], failed := false, pinFailed := false, beyond := false, pin := [] }
  | some f => runFmtStep f q.fields (stepInputs q st).1 (stepInputs q st).2 fill digits

/-- A step's run with its output: a sensitive one is kept as two shares (R113, R227). -/
def StepRun.give (q : Peal) (st : StepDef) (bs mask : Bytes) (r : StepRun) : StepRun :=
  let out := bs.take (outBound q st)
  if sensitive q.fmts st then { r with out := [], masked := Shares.of out mask } else { r with out := out }

/-- The end of a FORMAT step: its output, or a failed guard with its shadow output, or a range beyond its source. An entry
that assembles more than STEP.OUT_LEN has its output cut there: the model's choice, the spec being silent
(notes/assumptions/140.md). -/
def endFormatWith (p : PealSlot) (i : Nat) (q : Peal) (st : StepDef) (r : FmtRun) (s : State) : State :=
  let (m, s1) := clusterBytes q.cluster r.out.length s
  if r.beyond then failStep p i st (St.inputInvalid, 8) s1
  else if r.failed && st.guard then
    endStep p i (fun x => { x.give q st r.out m with shadow := true, guardFail := true,
                                                     fail := some (guardStat st false) }) s1
  else endStep p i (fun x => { x.give q st r.out m with shadow := stepShadow q st }) s1

/-- A FORMAT step ends once I2 has served the digits of a PIN that failed to open: an I2 not instantiated holds the draw, as the
tenant's instance would (R139, R292, R526). -/
def endFormat (p : PealSlot) (i : Nat) (q : Peal) (st : StepDef) (s : State) : State :=
  let fill := (q.run i).drawn
  let r := formatRun q st fill []
  if !r.pinFailed then endFormatWith p i q st r s
  else if (s.drbg (instI 2)).instantiated then
    let (ds, s1) := drawShadow (unholdDraw p i s)
    endFormatWith p i q st (formatRun q st fill ds) s1
  else if sourcesGone s then failStep p i st (St.entropyUnavailable, 3) s
  else holdDraw (instI 2) p i s

/-- The verification half of a combined signing step ends: the signature stands, or no signature exists (R112). -/
def endVerify (p : PealSlot) (i : Nat) (q : Peal) (st : StepDef) (ok : Bool) (s : State) : State :=
  if ok then endStep p i id s
  else
    let r := q.run i
    releaseFailed r.engine r.second (failStep p i st (St.engineFault, 2) s)

/-- The signature of a combined step verifies for the digest that was signed (R112, R268). -/
def halfOk (s : State) (q : Peal) (i : Nat) (st : StepDef) : Bool :=
  let r := q.run i
  pkVerify q.curves (stepKey s q st).2 st (stepPub s q st) r.handed r.out

/-- A guard fails on its engine: its status and its shadow output (R139, Table 5-4, R255). -/
def endGuardFail (p : PealSlot) (i : Nat) (q : Peal) (st : StepDef) (malformed : Bool) (sh : Bytes) (s : State) : State :=
  let s1 := endStep p i (fun r =>
    { r with out := sh.take (outBound q st), shadow := true, guardFail := true, fail := some (guardStat st malformed) }) s
  if isReleaseVerify st then releaseFailed (signerOf q i st) (q.run i).engine s1 else s1

/-- The end of a step with what its operation gives: a failed guard; a key or sensitive output, kept as two shares; a
signature, whose combined step first waits for its verification (R112, R268); or a data output. -/
def endResult (p : PealSlot) (i : Nat) (q : Peal) (st : StepDef) (x : StepResult) (s : State) : State :=
  let r := q.run i
  let verdict : SigVerdict := match r.agreedOk with | some true => .valid | some false => .notVerified | none => x.verdict
  let out := patchSegments x.out r.agreed
  let key := patchSegments x.key r.agreed
  if verifies st.op.toNat && verdict ≠ .valid then endGuardFail p i q st (verdict == .malformed) out s
  else if combined st.op.toNat then
    freeEngines q.cluster p i r ((noteCourse p i s).mRun p i fun r =>
      { r with phase := .verifyWait, out := out.take (outBound q st), shadow := stepShadow q st
               handed := stepDigest s q st })
  else
    let hand := if (releaseOp st.op.toNat).isSome then stepDigest s q st else []
    let (m, s1) := clusterBytes q.cluster out.length (keepKey p i q st key s)
    endStep p i (fun r => { r.give q st out m with shadow := stepShadow q st, handed := hand }) s1

/-- A step draws again and goes on: an ECDSA nonce that gave r = 0 or s = 0 is discarded (R253). -/
def redraw (p : PealSlot) (i : Nat) (q : Peal) (st : StepDef) (s : State) : State :=
  match drawSome p i q.fn.toNat (drawLen q st) s with
  | (.served bs, s1) => s1.mRun p i fun r => { r with drawn := bs, started := s.clk.now, progress := 0 }
  | (.held, s1) =>
    holdDraw q.fn.toNat p i (freeEngines q.cluster p i (q.run i) (s1.mRun p i fun r => { r with phase := .drawWait }))
  | (.failed sub, s1) => failStep p i st (St.entropyUnavailable, sub) s1

/-- A running step's operation is complete (R128, R138 to R140, R525). -/
def endDone (p : PealSlot) (i : Nat) (q : Peal) (st : StepDef) (s : State) : State :=
  if combined st.op.toNat && (q.run i).second.isSome then endVerify p i q st (halfOk s q i st) s
  else if dryRun s q st then endZero p i q st s
  else if st.op = 0x60 then endFormat p i q st s
  else if st.op = 0x68 then endStep p i (fun r => { r with out := r.drawn, shadow := stepShadow q st }) s
  else if zeroSignature q st (workKey s q i) (stepInputs q st).1 (q.run i).drawn then redraw p i q st s
  else match computed s q i st with
    | .inl fl => failStep p i st fl s
    | .inr x => endResult p i q st x s

/-- An engine shows itself faulty: where a verification before release or the check of an RSA decryption finds it
(R112, R259, R268). -/
def endFaulty (p : PealSlot) (i : Nat) (q : Peal) (st : StepDef) (s : State) : State :=
  if combined st.op.toNat then if (q.run i).second.isSome then endVerify p i q st false s else s
  else if isReleaseVerify st then endGuardFail p i q st false [] s
  else if st.op = 0x4D then failStep p i st (St.engineFault, 2) s
  else s

/-- Segments of a step's output: what follows the last whole one is compared with the tag, MAC or verdict (R245). -/
def segments (s : State) (q : Peal) (i : Nat) (st : StepDef) : Nat :=
  match computed s q i st with
  | .inr x => max 1 ((x.out.length + 4095) / 4096)
  | .inl _ => 1

/-- The spare of a cluster stops its self-test for a tie-break (R247). -/
def pauseTest (c : ClusterNo) (s : State) : State :=
  s.mCluster c (Cluster.mEng false (List.map fun e =>
    if e.role == .spare && e.selfTest.isSome then { e with selfTest := none, testPaused := true } else e))

/-- The input byte at which a segment's output begins: a generated CBC IV stands before the output of the input (R237,
R245). -/
def segmentStart (st : StepDef) (seg : Nat) : Nat := 4096 * seg - if generatesCbc st then 16 else 0
/-- The input of a segment: where the output is one tag, MAC, digest or verdict, or of an operation of one stretch, the whole
(R245). -/
def segmentInput (st : StepDef) (a : Bytes) (seg : Nat) : Bytes :=
  if [0x01, 0x02, 0x03, 0x04].contains st.op.toNat then
    (a.take (segmentStart st (seg + 1))).drop (segmentStart st seg)
  else a

/-- A checked pair differs in a segment: it stops there with the context saved at its boundary, and the spare is asked; the
step ends where the cluster has none (R16, R245 to R247). -/
def miscompare (p : PealSlot) (i : Nat) (q : Peal) (st : StepDef) (seg : Nat) (s : State) : State :=
  let up (c : BitVec 32) : BitVec 32 := if c = 0xFFFFFFFF then c else c + 1
  let s1 := s.mHealth fun h => { h with miscompares := up h.miscompares }
  if (s.cluster q.cluster).se.any (·.role == .spare) then
    let x := stepInputs q st
    let n := segmentStart st seg
    let aad := (blockCount s p q st) - (x.1.length - (if st.op = 0x04 then tagLen st else 0) + 15) / 16
    let ctx := contextAt s p q i st ((if st.op = 0x03 || st.op = 0x04 then aad else 0) + n / blkLen (isTdes (stepKey s q st).1))
    let (m, s2) := clusterBytes q.cluster ctx.length (noteCourse p i s1)
    pauseTest q.cluster (s2.mRun p i fun r => { r with
      phase := .tieBreak
      tie := some { at_ := s.clk.now, segment := seg, context := Shares.of ctx m, input := segmentInput st x.1 seg } })
  else
    failStep p i st (St.engineFault, 3)
      (raiseDev .noMajority (s1.mHealth fun h => { h with noMajority := up h.noMajority }))

/-- The end of a running step, as its engine tells it. -/
def endRunning (p : PealSlot) (i : Nat) (q : Peal) (st : StepDef) (res : EngineResult) (s : State) : State :=
  let r := q.run i
  let se := match r.second with | some (.se _) => true | _ => false
  match res with
  | .done => endDone p i q st s
  | .faulty => endFaulty p i q st s
  | .miscompare seg =>
    if se && seg.toNat < segments s q i st && r.agreed.all (·.1 < seg.toNat) then miscompare p i q st seg.toNat s else s

/-- STEP_END: a running step ends on its engine, one that runs in step with the output it reads not before that ends (R114,
R128, R138 to R140). -/
def execStepEnd (slot : PealSlot) (step : BitVec 5) (res : EngineResult) (s : State) : Res :=
  let i := step.toNat
  .next (match s.peal slot with
  | none => s
  | some q =>
    match q.stepDef i with
    | none => s
    | some st =>
      if q.phase ≠ .running || (q.run i).phase ≠ .running || frozen s || q.doomed i ||
          !(dataPreds st).all (fun d => (q.run d).phase == .ended) then s
      else endRunning slot i q st res s)

/-! Tie-breaks, R246, R247. -/

/-- The miscompares of a cluster that wait for its spare, with their instants (R247). -/
def tieBreaks (s : State) (c : ClusterNo) : List (Nat × Nat × Nat) :=
  (s.peals.filter fun p => p.2.cluster == c).flatMap fun p =>
    (List.range p.2.steps.length).filterMap fun i =>
      match (p.2.run i).phase, (p.2.run i).tie with
      | .tieBreak, some t => some (t.at_, p.1, i)
      | _, _ => none

/-- No earlier miscompare of the cluster waits for the spare. -/
def firstTie (s : State) (c : ClusterNo) (p : PealSlot) (i : Nat) (t : Nat) : Bool :=
  !(tieBreaks s c).any fun x => lexLt [(x.1 : Int), (x.2.1 : Int), (x.2.2 : Int)] [(t : Int), (p.toNat : Int), (i : Int)]

/-- Count a miscompare against an engine (Table 14-3). -/
def attribute_ (c : ClusterNo) (n : Nat) (s : State) : State :=
  s.mHealth fun h => { h with attributed := smMod 0 (16 * c.toNat + n) satInc16 h.attributed }

/-- The spare of a cluster for which no miscompare waits takes its self-test up again (R247). -/
def resumeTest (c : ClusterNo) (s : State) : State :=
  if (tieBreaks s c).isEmpty then
    s.mCluster c (Cluster.mEng false (List.map fun e =>
      if e.role == .spare && e.testPaused then { e with selfTest := some s.clk.now, testPaused := false } else e))
  else s

/-- Tie-breaks that waited for a spare that is gone end as in a cluster without one (R16, R246, R378). -/
def endTies (c : ClusterNo) (s : State) : State :=
  (tieBreaks s c).foldl (fun s x =>
    let p : PealSlot := BitVec.ofNat 12 x.2.1
    match (s.peal p).bind (·.stepDef x.2.2) with
    | none => s
    | some st =>
      failStep p x.2.2 st (St.engineFault, 3) (raiseDev .noMajority (s.mHealth fun h =>
        { h with noMajority := if h.noMajority = 0xFFFFFFFF then h.noMajority else h.noMajority + 1 }))) s

/-- A step whose segment a majority has decided goes on after it. -/
def StepRun.decided (now : Nat) (t : TieRec) (verdict : Option Bool) (out : Bytes) (r : StepRun) : StepRun :=
  { r with phase := .running, tie := none, started := now, agreed := r.agreed ++ [(t.segment, out)]
           agreedOk := match verdict with | some ok => some ok | none => r.agreedOk }

/-- The spare agrees with one engine: that output stands, the other engine is retired, the spare promoted, and the step goes
on with the two that agree; miscompares that wait find no spare now (R246, R247). -/
def tieWon (p : PealSlot) (i : Nat) (q : Peal) (st : StepDef) (t : TieRec) (loser : Nat) (out : Bytes) (ok : Bool)
    (s : State) : State :=
  let c := q.cluster
  let verdict := if verifies st.op.toNat && t.segment + 1 = segments s q i st then some ok else none
  match (s.cluster c).se.findIdx? (·.role == .spare) with
  | none => s
  | some m =>
    let s1 := retireEngine c false loser .tieBreak (attribute_ c loser s)
    let s2 := occupy c false m p i (s1.mRun p i (StepRun.decided s.clk.now t verdict out))
    if (s2.cluster c).se.any (·.role == .spare) then s2 else endTies c s2

/-- TIE_BREAK_COMPLETE: the spare has run the segment that differed (R246). A tie-break, or a miscompare, of a step whose
peal has ended meanwhile is dropped: the model's choice (notes/assumptions/198.md). -/
def execTieBreakComplete (slot : PealSlot) (step : BitVec 5) (res : TieResult) (s : State) : Res :=
  let i := step.toNat
  .next (match s.peal slot with
  | none => s
  | some q =>
    match q.stepDef i, (q.run i).engine, (q.run i).second, (q.run i).tie with
    | some st, some (.se a), some (.se b), some t =>
      if (q.run i).phase ≠ .tieBreak || frozen s || !firstTie s q.cluster slot i t.at_ ||
          !(s.cluster q.cluster).se.any (·.role == .spare) then s
      else if q.doomed i then s
      else match res with
        | .first out ok => tieWon slot i q st t b out ok s
        | .second out ok => tieWon slot i q st t a out ok s
        | .neither =>
          resumeTest q.cluster (failStep slot i st (St.engineFault, 1) (raiseDev .noMajority (s.mHealth fun h =>
            { h with noMajority := if h.noMajority = 0xFFFFFFFF then h.noMajority else h.noMajority + 1 })))
    | _, _, _, _ => s)

/-! Rimshot, R233 to R236. -/

/-- Set a running job aside in an engine's contexts; what the engine itself holds is zeroised (R228, R234, R264). -/
def setAside (c : ClusterNo) (isPk : Bool) (n : Nat) (h : HeldJob) (s : State) : State :=
  whenDo isPk (State.mCluster c (Cluster.nttLeave n))
    (s.mEng c isPk n fun e => { e.cleared with idleSince := s.clk.now, held := e.held ++ [h] })

/-- Blocks the step on an SE of a peal's cluster has still to run, where it is eligible for suspension by that peal (R233). -/
def eligibleBlocks (s : State) (q : Peal) (n : Nat) : Option Nat :=
  match (s.eng q.cluster false n).job with
  | none => none
  | some (vp, vi) =>
    match s.peal vp with
    | none => none
    | some v =>
      match v.stepDef vi with
      | none => none
      | some vst =>
        let left := blocksLeft s vp v vi vst
        if v.cls ≠ 0 && (v.run vi).phase == .running && suspendable vst.op.toNat && 64 ≤ left && !v.doomed vi &&
            (seOf (v.run vi)).all (fun x => (s.eng q.cluster false x).held.length < 8) then some left else none

/-- The engine whose step is suspended: the most blocks still to run, the lower number on equal counts (R233). -/
def rimshotVictim (s : State) (q : Peal) : Option Nat :=
  ((List.range 5).foldl (fun (acc : Option (Nat × Nat)) n =>
    match eligibleBlocks s q n, acc with
    | some b, some (b', m) => if b' < b then some (b, n) else some (b', m)
    | some b, none => some (b, n)
    | none, acc => acc) none).map (·.2)

/-- Save the context a running step has now on one of its engines, re-shared (R234). -/
def saveContext (now : State) (v : Peal) (vp : PealSlot) (vi : Nat) (vst : StepDef) (n : Nat) (s : State) : State :=
  let done := blocksDone now vp v vi vst
  let ctx := contextAt now vp v vi vst done
  let (m, s1) := clusterBytes v.cluster ctx.length s
  setAside v.cluster false n { slot := vp, step := vi, at_ := s.clk.now, context := Shares.of ctx m, blocks := done,
                               key := boundKey v vst, work := Shares.none, blind := [] } s1

/-- RIMSHOT_SUSPEND: for a ready Critical step that finds no free SE, the running step with the most blocks still to run
among the eligible ones is suspended, a checked pair as a whole (R233, R234). -/
def execRimshotSuspend (slot : PealSlot) (step : BitVec 5) (se : BitVec 3) (_blocksLeft : Computed) (s : State) : Res :=
  .next (match s.peal slot with
  | none => s
  | some q =>
    match q.stepDef step.toNat, (s.eng q.cluster false se.toNat).job with
    | some st, some (vp, vi) =>
      match s.peal vp with
      | none => s
      | some v =>
        match v.stepDef vi with
        | none => s
        | some vst =>
          if q.cls ≠ 0 || !canIssue s q.cluster || !q.stepReady step.toNat || engKind st.op.toNat ≠ some .se ||
              (pickSe s q st).isSome || rimshotVictim s q ≠ some se.toNat then s
          else
            (seOf (v.run vi)).foldl (fun s1 n => saveContext s v vp vi vst n s1)
              ((noteCourse vp vi s).mRun vp vi fun r => { r with phase := .suspended })
    | _, _ => s)

/-- A Critical SE step of a cluster is ready. -/
def criticalReady (s : State) (c : ClusterNo) : Bool :=
  s.peals.any fun p => p.2.cluster == c && p.2.cls == 0 && (List.range p.2.steps.length).any fun i =>
    match p.2.stepDef i with
    | some st => engKind st.op.toNat == some .se && p.2.stepReady i
    | none => false

/-- A symmetric engine takes up its oldest context again, its key and its context re-shared (R227). -/
def takeUp (c : ClusterNo) (n : Nat) (s : State) : State :=
  match (s.eng c false n).held with
  | [] => s
  | h :: l =>
    let s1 := occupy c false n h.slot h.step s
    let (m, s2) := clusterBytes c h.context.a.length s1
    s2.mEng c false n fun e =>
      { e with held := l, lanes := if h.context.a.isEmpty then e.lanes else h.context.refresh m }

/-- A PK core takes up its parked job again, which its half of operand memory has kept, with its key re-shared (R259,
R264). -/
def takeUpParked (c : ClusterNo) (n : Nat) (s : State) : State :=
  match (s.eng c true n).held with
  | [] => s
  | h :: l =>
    let (m, s1) := clusterBytes c h.work.a.length s
    let ntt := match (s.peal h.slot).bind (·.stepDef h.step) with | some st => usesNtt st.op.toNat | none => false
    whenDo ntt (State.mCluster c (Cluster.nttAsk n s.clk.now)) (s1.mEng c true n fun e =>
      { e with held := l, job := some (h.slot, h.step), work := h.work.refresh m, lanes := h.context, blind := h.blind })

/-- A step resumes: the time it was set aside is none of its course, nor are the nanoseconds the resume takes: 40 for a
symmetric step, 500 for a public-key job (R235, R264). -/
def StepRun.resumed (now lag : Nat) (r : StepRun) : StepRun := { r with phase := .running, started := now + lag }

/-- RIMSHOT_RESUME: a freed engine resumes its oldest context, a checked pair together, when no Critical step is
ready for it (R235). -/
def execRimshotResume (cluster : ClusterNo) (se : BitVec 3) (s : State) : Res :=
  .next (match (s.eng cluster false se.toNat).held with
  | [] => s
  | h :: _ =>
    match s.peal h.slot with
    | none => s
    | some v =>
      let es := seOf (v.run h.step)
      let ok := es.all fun n =>
        (s.eng cluster false n).job.isNone && (match (s.eng cluster false n).held.head? with
          | some x => x.slot == h.slot && x.step == h.step
          | none => false)
      if !canIssue s cluster || criticalReady s cluster || !ok then s
      else es.foldl (fun s n => takeUp cluster n s) (s.mRun h.slot h.step (StepRun.resumed s.clk.now 40)))

/-! Preemption, R263, R264. -/

/-- Size class of a curve: 0 for fields of at most 256 bits, 1 for 384, 2 above. -/
def curveClass (curves : List Curve) (id : Nat) : Nat :=
  if id = 1 then 0 else if id = 2 then 1 else if id = 3 then 2
  else match curves.find? (·.id.toNat == id) with
    | some c => if c.bits.toNat ≤ 256 then 0 else if c.bits.toNat ≤ 384 then 1 else 2
    | none => 0

/-- Size class of an RSA modulus of `4 * param` bytes: the row of Table 9-6 for its length, or the next longer. -/
def rsaClass (param : Nat) : Nat :=
  if param ≤ 32 then 0 else if param ≤ 64 then 1 else if param ≤ 96 then 2 else 3

/-- The verification a combined signing operation makes (Table 4-8). -/
def verifyHalf (op : Nat) : Nat := if op = 0x42 then 0x41 else if op = 0x45 then 0x44 else if op = 0x4C then 0x4B else 0x51

/-- Time in ns and footprint in half KiB of a public-key operation, at the nominal clock (Table 9-6); the mean where the
table gives one, and a public exponent's own share of an RSA public time (R270). -/
def pkBase (curves : List Curve) (param : Nat) (pub : Bytes) (op : Nat) (st : StepDef) : Nat × Nat :=
  let p := st.param.toNat
  let id := fieldNat p 0 8
  let ec (l : List Nat) : Nat × Nat :=
    let k := curveClass curves id
    let t := 1000 * l.getD k 0
    (if 0x10 ≤ id then t * 5 / 4 else t, [2, 3, 4].getD k 2)
  let rsaPriv : Nat × Nat := ([520000, 520000, 1650000, 3950000].getD (rsaClass param) 0, [8, 8, 12, 16].getD (rsaClass param) 8)
  let e := (rsaPublic (4 * param) pub).2
  let rsaPub : Nat × Nat :=
    ([4000, 12000, 26000, 45000].getD (rsaClass param) 0 * (bitLen e + bitWeight e - 2) / 17, [2, 4, 6, 8].getD (rsaClass param) 2)
  let m := p - 1
  if op = 0x40 || op = 0x42 then ec [36, 78, 170]
  else if op = 0x41 then ec [44, 96, 210]
  else if op = 0x43 || op = 0x45 then (30000, 2)
  else if op = 0x44 then (40000, 2)
  else if op = 0x48 then if id = 4 then (28000, 2) else ec [33, 72, 160]
  else if op = 0x4A || op = 0x4C then rsaPriv
  else if op = 0x4D then (rsaPriv.1 + rsaPub.1, rsaPriv.2)
  else if op = 0x4B || op = 0x4E then rsaPub
  else if op = 0x50 || op = 0x52 then ([190000, 300000, 420000].getD m 0, [16, 20, 24].getD m 16)
  else if op = 0x51 then ([65000, 100000, 150000].getD m 0, [12, 16, 20].getD m 12)
  else if op = 0x54 then ([32000, 47000, 66000].getD m 0, [8, 12, 16].getD m 8)
  else ([36000, 53000, 74000].getD m 0, [8, 12, 16].getD m 8)

/-- The time of the hash of a message beyond its first 1,024 bytes, its share of the block time of Table 8-3 for each byte:
SHA-512 for Ed25519, SHAKE256 for ML-DSA (R251; notes/assumptions/178.md). -/
def hashShare (op : Nat) (st : StepDef) (n : Nat) : Nat :=
  let h := if op = 0x43 || op = 0x44 || op = 0x45 then 2 else if [0x50, 0x51, 0x52].contains op then 4
    else fieldNat st.param.toNat 8 4
  if h = 15 || !((releaseOp op).isSome || combined op || verifies op) then 0
  else (n - 1024) * (if h = 0 then 60 else if h ≤ 2 then 80 else 20) / (if h = 4 then 136 else hashRate h)

/-- Time and footprint of an operation on a message of some bytes, 0 where its digest is handed over (R251, R270). -/
def pkCost (curves : List Curve) (param : Nat) (pub : Bytes) (op : Nat) (st : StepDef) (msg : Nat) : Nat × Nat :=
  let x := pkBase curves param pub op st
  (x.1 + hashShare op st msg, x.2)

/-- Time and footprint of what a step of a peal runs, or waits to run: of a combined step's halves each its own. -/
def stepCost (s : State) (q : Peal) (i : Nat) (st : StepDef) : Nat × Nat :=
  let r := q.run i
  let op := st.op.toNat
  let half := combined op && (r.phase == .verifyWait || r.second.isSome)
  pkCost q.curves (stepKey s q st).2 (stepPub s q st) (if half then verifyHalf op else op) st
    (if half || isReleaseVerify st then 0 else (stepInputs q st).1.length)

/-- The nominal time a running job has still to run: its time less what it has run (R263, R271). -/
def pkRemaining (s : State) (v : Peal) (vi : Nat) (vst : StepDef) : Nat := (stepCost s v vi vst).1 - nsRun s (v.run vi)

/-- The time left of the job on a PK core of its cluster that a ready step may preempt, where it may (R263). -/
def preemptable (s : State) (q : Peal) (i : Nat) (pk : Nat) : Option Nat :=
  match q.stepDef i with
  | none => none
  | some st =>
    let e := s.eng q.cluster true pk
    if engKind st.op.toNat ≠ some .pk || !q.stepReady i || e.role ≠ .active || !e.held.isEmpty || e.selfTest.isSome ||
        signerOf q i st = some (.pk q.cluster pk) || (pickPk s q i st).isSome then none
    else match e.job with
      | none => none
      | some (vp, vi) =>
        match s.peal vp with
        | none => none
        | some v =>
          match v.stepDef vi with
          | none => none
          | some vst =>
            let c := stepCost s q i st
            let left := pkRemaining s v vi vst
            if v.cluster == q.cluster && q.cls.toNat < v.cls.toNat && !v.doomed vi && (v.run vi).phase == .running && c.1 < left &&
                c.2 + (stepCost s v vi vst).2 ≤ 32 then some left else none

/-- The core whose job a ready step preempts: the one with the most time left, the lower core number on equal times
(R264). -/
def preemptVictim (s : State) (q : Peal) (i : Nat) : Option Nat :=
  ((List.range 6).foldl (fun (acc : Option (Nat × Nat)) n =>
    match preemptable s q i n, acc with
    | some b, some (b', m) => if b' < b then some (b, n) else some (b', m)
    | some b, none => some (b, n)
    | none, acc => acc) none).map (·.2)

/-- Another ready step of the cluster comes first: of a higher class, then of a lower admission sequence, then of a
lower index (R264). -/
def preemptedBy (s : State) (q : Peal) (i : Nat) : Bool :=
  s.peals.any fun p => p.2.cluster == q.cluster && (List.range p.2.steps.length).any fun j =>
    (preemptVictim s p.2 j).isSome &&
      lexLt [(p.2.cls.toNat : Int), (p.2.seq : Int), (j : Int)] [(q.cls.toNat : Int), (q.seq : Int), (i : Int)]

/-- PK_PREEMPT_PARK: at its yield point the running job is parked, its shares re-shared, and the preempting step issues
(R264). -/
def execPkPreemptPark (slot : PealSlot) (step : BitVec 5) (pk : BitVec 3) (_remaining : Computed) (s : State) : Res :=
  let i := step.toNat
  .next (match s.peal slot with
  | none => s
  | some q =>
    match (s.eng q.cluster true pk.toNat).job with
    | none => s
    | some (vp, vi) =>
      if !canIssue s q.cluster || preemptVictim s q i ≠ some pk.toNat || preemptedBy s q i then s
      else
        let e := s.eng q.cluster true pk.toNat
        let (m, s0) := clusterBytes q.cluster e.lanes.a.length (noteCourse vp vi s)
        let (k, s1) := clusterBytes q.cluster e.work.a.length s0
        let s1 := setAside q.cluster true pk.toNat
          { slot := vp, step := vi, at_ := s.clk.now, context := e.lanes.refresh m, blocks := 0, key := none
            work := e.work.refresh k, blind := e.blind }
          (s1.mRun vp vi fun r => { r with phase := .parked })
        startStep slot i [.pk q.cluster pk.toNat] s1)

/-- PK_JOB_RESUME: the preempting step has ended, and the parked job resumes before any other work (R264). -/
def execPkJobResume (cluster : ClusterNo) (pk : BitVec 3) (s : State) : Res :=
  let e := s.eng cluster true pk.toNat
  .next (match e.held with
  | [] => s
  | h :: _ =>
    if e.job.isSome || e.selfTest.isSome || !canIssue s cluster then s
    else takeUpParked cluster pk.toNat (s.mRun h.slot h.step (StepRun.resumed s.clk.now 500)))

/-- JOB_ABANDON: an abandoned job stops at its next yield point or block boundary and is zeroised (R140, R236,
R266). -/
def execJobAbandon (cluster : ClusterNo) (isPk : Bool) (n : BitVec 3) (s : State) : Res :=
  .next (match (s.eng cluster isPk n.toNat).job with
  | none => s
  | some (p, i) =>
    match s.peal p with
    | none => s
    | some q =>
      if q.phase ≠ .running || !q.doomed i || frozen s then s
      else resumeTest cluster (endStep p i (fun r => { r with out := [], masked := Shares.none, tie := none }) s))

/-! Self-tests, R269, R377, R378. -/

/-- RELEASE_VERIFY_SELF_TEST_COMPLETE: a core's known-answer test after a failed release verification ends; a core
that fails is retired at once and the spare promoted (R269). -/
def execReleaseVerifySelfTestComplete (cluster : ClusterNo) (pk : BitVec 3) (pass : Bool) (s : State) : Res :=
  let e := s.eng cluster true pk.toNat
  .next (if e.selfTest.isNone || e.role ≠ .active || e.job.isSome then s
  else if pass then
    s.mEng cluster true pk.toNat fun e => { e with selfTest := none, idleSince := s.clk.now }
  else retireEngine cluster true pk.toNat .releaseVerify (attribute_ cluster (5 + pk.toNat) s))

/-- The number of a cluster's spare of a kind. -/
def spareOf (s : State) (c : ClusterNo) (isPk : Bool) : Option Nat :=
  ((s.cluster c).eng isPk).findIdx? (·.role == .spare)

/-- SPARE_SELF_TEST: a spare starts its test while its cluster is active or clock-gated, and no miscompare waits for it
(R247, R377). -/
def execSpareSelfTest (cluster : ClusterNo) (isPk : Bool) (s : State) : Res :=
  let cl := s.cluster cluster
  .next (match spareOf s cluster isPk with
  | none => s
  | some n =>
    if !cl.inService || cl.gating || !(cl.state == .active || cl.state == .clockGated) || !onMain s ||
        (!isPk && !(tieBreaks s cluster).isEmpty) then s
    else s.mEng cluster isPk n fun e => { e with selfTest := some s.clk.now, testPaused := false })

/-- SPARE_SELF_TEST_COMPLETE: a spare that fails its test is retired (R378). -/
def execSpareSelfTestComplete (cluster : ClusterNo) (isPk : Bool) (pass : Bool) (s : State) : Res :=
  .next (match spareOf s cluster isPk with
  | none => s
  | some n =>
    if (s.eng cluster isPk n).selfTest.isNone then s
    else if pass then s.mEng cluster isPk n fun e => { e with selfTest := none }
    else
      let key := 16 * cluster.toNat + (if isPk then 5 + n else n)
      let dead := fun (e : EngineRec) => { e.cleared with role := .retired, cause := .selfTest, selfTest := none, testPaused := false }
      let s1 := (s.mEng cluster isPk n dead).mHealth fun h =>
        { h with spareFails := if h.spareFails = 0xFFFFFFFF then h.spareFails else h.spareFails + 1,
                 lifetime := smMod 0 key (· + 1) h.lifetime }
      let s2 := whenDo isPk (attribute_ cluster (5 + n)) (nvQueue 5 (.retirement key) (raiseDev .spareFail s1))
      if isPk then s2 else endTies cluster s2)

/-! Held draws, R292. -/

/-- DRBG_HOLD_EXPIRE: a draw held for 50 ms for an instance that is still not instantiated ends its step (R292). -/
def execDrbgHoldExpire (slot : PealSlot) (step : BitVec 5) (s : State) : Res :=
  let i := step.toNat
  .next (match s.rng.held.find? fun h => h.who == .step slot i with
  | none => s
  | some h =>
    if !holdOver s h then s
    else
      let s1 := expireHold h s
      match s.peal slot with
      | none => s1
      | some q =>
        match q.stepDef i with
        | none => s1
        | some st =>
          if q.isAdmin then opFail slot (St.entropyUnavailable, 3) i s1
          else failStep slot i st (St.entropyUnavailable, 3) s1)

end Sys2Proof.Machine
end

