-- ==== Sys2Proof/Machine/Dispatch.lean ====
section
/-! DEFINITION. One arm for each command: its meaning. -/
namespace Sys2Proof.Machine

def exec (i : Instr) (s : State) : Host.Outcome State Fault Refusal :=
  match i with
  | .submissionDoorbellWrite fn off acc data => Sys2Proof.Machine.execSubmissionDoorbellWrite fn off acc data s
  | .completionHeadWrite fn cq acc data => Sys2Proof.Machine.execCompletionHeadWrite fn cq acc data s
  | .descriptorFetch ring desc => Sys2Proof.Machine.execDescriptorFetch ring desc s
  | .descriptorFetchError ring => Sys2Proof.Machine.execDescriptorFetchError ring s
  | .admissionDecision order => Sys2Proof.Machine.execAdmissionDecision order s
  | .tier3FetchComplete fn handle rd => Sys2Proof.Machine.execTier3FetchComplete fn handle rd s
  | .sglListRead slot out entries => Sys2Proof.Machine.execSglListRead slot out entries s
  | .inputReadError slot => Sys2Proof.Machine.execInputReadError slot s
  | .requestParse slot input => Sys2Proof.Machine.execRequestParse slot input s
  | .stepIssue slot step => Sys2Proof.Machine.execStepIssue slot step s
  | .counterCellWriteComplete fn handle => Sys2Proof.Machine.execCounterCellWriteComplete fn handle s
  | .stepEnd slot step res => Sys2Proof.Machine.execStepEnd slot step res s
  | .tieBreakComplete slot step res => Sys2Proof.Machine.execTieBreakComplete slot step res s
  | .rimshotSuspend slot step se blocksLeft => Sys2Proof.Machine.execRimshotSuspend slot step se blocksLeft s
  | .rimshotResume cluster se => Sys2Proof.Machine.execRimshotResume cluster se s
  | .pkPreemptPark slot step pk remaining => Sys2Proof.Machine.execPkPreemptPark slot step pk remaining s
  | .pkJobResume cluster pk => Sys2Proof.Machine.execPkJobResume cluster pk s
  | .jobAbandon cluster isPk n => Sys2Proof.Machine.execJobAbandon cluster isPk n s
  | .releaseVerifySelfTestComplete cluster pk pass => Sys2Proof.Machine.execReleaseVerifySelfTestComplete cluster pk pass s
  | .commitPoint slot => Sys2Proof.Machine.execCommitPoint slot s
  | .completionPost slot spend => Sys2Proof.Machine.execCompletionPost slot spend s
  | .journalPostedSet seq => Sys2Proof.Machine.execJournalPostedSet seq s
  | .outputWriteRefused slot => Sys2Proof.Machine.execOutputWriteRefused slot s
  | .completionWriteRefused cq => Sys2Proof.Machine.execCompletionWriteRefused cq s
  | .chimeTimerExpire cq => Sys2Proof.Machine.execChimeTimerExpire cq s
  | .cqIrqEnableWrite fn data => Sys2Proof.Machine.execCqIrqEnableWrite fn data s
  | .journalGroupClose => Sys2Proof.Machine.execJournalGroupClose s
  | .groupRecordComplete => Sys2Proof.Machine.execGroupRecordComplete s
  | .stewardRecordWriteComplete slot => Sys2Proof.Machine.execStewardRecordWriteComplete slot s
  | .ringEnable fn => Sys2Proof.Machine.execRingEnable fn s
  | .ringDisable fn => Sys2Proof.Machine.execRingDisable fn s
  | .ringReset fn => Sys2Proof.Machine.execRingReset fn s
  | .ringResetAbort fn => Sys2Proof.Machine.execRingResetAbort fn s
  | .ringSelectWrite fn data => Sys2Proof.Machine.execRingSelectWrite fn data s
  | .ringParameterWrite fn param data => Sys2Proof.Machine.execRingParameterWrite fn param data s
  | .functionLevelReset fn => Sys2Proof.Machine.execFunctionLevelReset fn s
  | .flrComplete fn => Sys2Proof.Machine.execFlrComplete fn s
  | .recoveryListClear fn => Sys2Proof.Machine.execRecoveryListClear fn s
  | .sriOfferWrite fn data => Sys2Proof.Machine.execSriOfferWrite fn data s
  | .creditSnapshot fn data => Sys2Proof.Machine.execCreditSnapshot fn data s
  | .blockAssignWrite cq block data => Sys2Proof.Machine.execBlockAssignWrite cq block data s
  | .setupLockSet fn => Sys2Proof.Machine.execSetupLockSet fn s
  | .vfVectorsWrite data => Sys2Proof.Machine.execVfVectorsWrite data s
  | .hktRegisterWrite fn entries data => Sys2Proof.Machine.execHktRegisterWrite fn entries data s
  | .eventFlagClear fn device data => Sys2Proof.Machine.execEventFlagClear fn device data s
  | .eventEnableWrite fn device data => Sys2Proof.Machine.execEventEnableWrite fn device data s
  | .eventMessageInterval fn => Sys2Proof.Machine.execEventMessageInterval fn s
  | .registerWrite fn off size data => Sys2Proof.Machine.execRegisterWrite fn off size data s
  | .registerLowHalfRead fn off => Sys2Proof.Machine.execRegisterLowHalfRead fn off s
  | .busMasterEnableWrite fn on => Sys2Proof.Machine.execBusMasterEnableWrite fn on s
  | .powerStateWrite fn d3hot => Sys2Proof.Machine.execPowerStateWrite fn d3hot s
  | .vfEnableWrite on numVfs => Sys2Proof.Machine.execVfEnableWrite on numVfs s
  | .linkEntersL0 => Sys2Proof.Machine.execLinkEntersL0 s
  | .linkLeavesL0 => Sys2Proof.Machine.execLinkLeavesL0 s
  | .perstAssert => Sys2Proof.Machine.execPerstAssert s
  | .perstRelease => Sys2Proof.Machine.execPerstRelease s
  | .functionReady => Sys2Proof.Machine.execFunctionReady s
  | .refillBoundary base package temps waited => Sys2Proof.Machine.execRefillBoundary base package temps waited s
  | .govCapWrite data => Sys2Proof.Machine.execGovCapWrite data s
  | .govWeightWrite data => Sys2Proof.Machine.execGovWeightWrite data s
  | .govTenantShareWrite data => Sys2Proof.Machine.execGovTenantShareWrite data s
  | .clusterWakeComplete cluster => Sys2Proof.Machine.execClusterWakeComplete cluster s
  | .clockGateTimer cluster => Sys2Proof.Machine.execClockGateTimer cluster s
  | .powerGateTimer cluster => Sys2Proof.Machine.execPowerGateTimer cluster s
  | .clusterGatingComplete cluster => Sys2Proof.Machine.execClusterGatingComplete cluster s
  | .keyCacheReshare => Sys2Proof.Machine.execKeyCacheReshare s
  | .rootSecretReshare => Sys2Proof.Machine.execRootSecretReshare s
  | .barrierDrainComplete fn handle => Sys2Proof.Machine.execBarrierDrainComplete fn handle s
  | .noiseWindowComplete src samples => Sys2Proof.Machine.execNoiseWindowComplete src samples s
  | .startupTestRetry src => Sys2Proof.Machine.execStartupTestRetry src s
  | .drbgScheduledReseed inst => Sys2Proof.Machine.execDrbgScheduledReseed inst s
  | .drbgReseedLimitReached inst => Sys2Proof.Machine.execDrbgReseedLimitReached inst s
  | .drbgHoldExpire slot step => Sys2Proof.Machine.execDrbgHoldExpire slot step s
  | .maskingGeneratorRekey => Sys2Proof.Machine.execMaskingGeneratorRekey s
  | .carriedSeedReplace => Sys2Proof.Machine.execCarriedSeedReplace s
  | .tollDeltaRecordTimer => Sys2Proof.Machine.execTollDeltaRecordTimer s
  | .journalModeBatteryTimer => Sys2Proof.Machine.execJournalModeBatteryTimer s
  | .nvCommandComplete res => Sys2Proof.Machine.execNvCommandComplete res s
  | .stewardCommandGapExpire => Sys2Proof.Machine.execStewardCommandGapExpire s
  | .vaultTimeCheckpoint => Sys2Proof.Machine.execVaultTimeCheckpoint s
  | .pfwarnAssert => Sys2Proof.Machine.execPfwarnAssert s
  | .pfwarnDeassert => Sys2Proof.Machine.execPfwarnDeassert s
  | .mainPowerGood => Sys2Proof.Machine.execMainPowerGood s
  | .powerOnReset report => Sys2Proof.Machine.execPowerOnReset report s
  | .mainPowerLost => Sys2Proof.Machine.execMainPowerLost s
  | .vaultEntry => Sys2Proof.Machine.execVaultEntry s
  | .batteryPresent b => Sys2Proof.Machine.execBatteryPresent b s
  | .batteryAbsent b => Sys2Proof.Machine.execBatteryAbsent b s
  | .warmReset report => Sys2Proof.Machine.execWarmReset report s
  | .stewardWatchdogExpire => Sys2Proof.Machine.execStewardWatchdogExpire s
  | .stewardRestartComplete bodyA bodyB => Sys2Proof.Machine.execStewardRestartComplete bodyA bodyB s
  | .spareSelfTest cluster isPk => Sys2Proof.Machine.execSpareSelfTest cluster isPk s
  | .spareSelfTestComplete cluster isPk pass => Sys2Proof.Machine.execSpareSelfTestComplete cluster isPk pass s
  | .xeolinkTrainingComplete lane0 lane1 => Sys2Proof.Machine.execXeolinkTrainingComplete lane0 lane1 s
  | .xeolinkBlockLockLoss lane => Sys2Proof.Machine.execXeolinkBlockLockLoss lane s
  | .xeolinkLaneRetrain lane ok => Sys2Proof.Machine.execXeolinkLaneRetrain lane ok s
  | .hello map => Sys2Proof.Machine.execHello map s
  | .xeolinkHandshakeComplete ok peerHasRoot peer peerSecondary => Sys2Proof.Machine.execXeolinkHandshakeComplete ok peerHasRoot peer peerSecondary s
  | .xeolinkHandshakeRetry => Sys2Proof.Machine.execXeolinkHandshakeRetry s
  | .xeolinkRekey => Sys2Proof.Machine.execXeolinkRekey s
  | .heartbeatSend => Sys2Proof.Machine.execHeartbeatSend s
  | .heartbeat fr failN roles lastSeq => Sys2Proof.Machine.execHeartbeat fr failN roles lastSeq s
  | .commit fr payload => Sys2Proof.Machine.execCommit fr payload s
  | .hwm fr tenant handle gen h => Sys2Proof.Machine.execHwm fr tenant handle gen h s
  | .revoke fr entry => Sys2Proof.Machine.execRevoke fr entry s
  | .role fr map accept => Sys2Proof.Machine.execRole fr map accept s
  | .dualReq fr fn desc status sub digest => Sys2Proof.Machine.execDualReq fr fn desc status sub digest s
  | .dualResult fr slot status sub digest => Sys2Proof.Machine.execDualResult fr slot status sub digest s
  | .resync fr payloads done => Sys2Proof.Machine.execResync fr payloads done s
  | .partnerSilenceTimeout => Sys2Proof.Machine.execPartnerSilenceTimeout s
  | .peerFailNLow => Sys2Proof.Machine.execPeerFailNLow s
  | .peerFailRoleTimer => Sys2Proof.Machine.execPeerFailRoleTimer s
  | .snareSensorOutOfRange ids => Sys2Proof.Machine.execSnareSensorOutOfRange ids s
  | .snareSelfCheck fails => Sys2Proof.Machine.execSnareSelfCheck fails s
  | .tamperLogCopy => Sys2Proof.Machine.execTamperLogCopy s
  | .throttleExpire => Sys2Proof.Machine.execThrottleExpire s
  | .fuseGroupProgramComplete => Sys2Proof.Machine.execFuseGroupProgramComplete s
  | .wipeVerificationComplete ok => Sys2Proof.Machine.execWipeVerificationComplete ok s
  | .recoveryReset report => Sys2Proof.Machine.execRecoveryReset report s
  | .intakeSessionExpire id => Sys2Proof.Machine.execIntakeSessionExpire id s
  | .recoverToken sig => Sys2Proof.Machine.execRecoverToken sig s
  | .eolAnalysisToken sig => Sys2Proof.Machine.execEolAnalysisToken sig s
  | .eolScrapToken sig => Sys2Proof.Machine.execEolScrapToken sig s
  | .replaceRecoveryKeyToken sig => Sys2Proof.Machine.execReplaceRecoveryKeyToken sig s
  | .scrapOnlyPolicyToken sig => Sys2Proof.Machine.execScrapOnlyPolicyToken sig s
  | .registerRecoveryKey pointOk => Sys2Proof.Machine.execRegisterRecoveryKey pointOk s
  | .lockdownReport => Sys2Proof.Machine.execLockdownReport s
  | .debugChallenge => Sys2Proof.Machine.execDebugChallenge s
  | .debugToken sig => Sys2Proof.Machine.execDebugToken sig s
  | .tmpCommitGo => Sys2Proof.Machine.execTmpCommitGo s
  | .fwStage => Sys2Proof.Machine.execFwStage s
  | .fwStageComplete image key sig flash => Sys2Proof.Machine.execFwStageComplete image key sig flash s
  | .fwActivate => Sys2Proof.Machine.execFwActivate s
  | .fwAbandon => Sys2Proof.Machine.execFwAbandon s
  | .patrolScrub found => Sys2Proof.Machine.execPatrolScrub found s
  | .impedanceCalibration => Sys2Proof.Machine.execImpedanceCalibration s
  | .channelDegradedClear chan => Sys2Proof.Machine.execChannelDegradedClear chan s
  | .ident => Sys2Proof.Machine.execIdent s
  | .health => Sys2Proof.Machine.execHealth s
  | .request data pecOk => Sys2Proof.Machine.execRequest data pecOk s
  | .status => Sys2Proof.Machine.execStatus s
  | .offset data pecOk => Sys2Proof.Machine.execOffset data pecOk s
  | .read n => Sys2Proof.Machine.execRead n s
  | .alertResponse => Sys2Proof.Machine.execAlertResponse s
  | .maintenanceEnter slot => Sys2Proof.Machine.execMaintenanceEnter slot s
  | .maintenanceExit slot => Sys2Proof.Machine.execMaintenanceExit slot s
  | .generateSymmetricKey slot kcv => Sys2Proof.Machine.execGenerateSymmetricKey slot kcv s
  | .generateEcKeyPair slot kcv pub => Sys2Proof.Machine.execGenerateEcKeyPair slot kcv pub s
  | .generateRsaKeyPair slot kcv pub => Sys2Proof.Machine.execGenerateRsaKeyPair slot kcv pub s
  | .generateMldsaKeyPair slot kcv pub => Sys2Proof.Machine.execGenerateMldsaKeyPair slot kcv pub s
  | .generateMlkemKeyPair slot kcv pub => Sys2Proof.Machine.execGenerateMlkemKeyPair slot kcv pub s
  | .deriveAndStore slot kcv => Sys2Proof.Machine.execDeriveAndStore slot kcv s
  | .changeState slot => Sys2Proof.Machine.execChangeState slot s
  | .revokeKey slot => Sys2Proof.Machine.execRevokeKey slot s
  | .pinOrUnpin slot => Sys2Proof.Machine.execPinOrUnpin slot s
  | .drop slot => Sys2Proof.Machine.execDrop slot s
  | .keyReport slot rd => Sys2Proof.Machine.execKeyReport slot rd s
  | .setAllowances slot => Sys2Proof.Machine.execSetAllowances slot s
  | .loadKeyStatePolicy slot => Sys2Proof.Machine.execLoadKeyStatePolicy slot s
  | .importX9143Block slot blk => Sys2Proof.Machine.execImportX9143Block slot blk s
  | .exportX9143Block slot => Sys2Proof.Machine.execExportX9143Block slot s
  | .createTenant slot => Sys2Proof.Machine.execCreateTenant slot s
  | .openIntakeSession slot pub => Sys2Proof.Machine.execOpenIntakeSession slot pub s
  | .enterComponent slot sig tagOk keyNonzero kcvOk => Sys2Proof.Machine.execEnterComponent slot sig tagOk keyNonzero kcvOk s
  | .closeIntakeSession slot kcv => Sys2Proof.Machine.execCloseIntakeSession slot kcv s
  | .importKek slot blk => Sys2Proof.Machine.execImportKek slot blk s
  | .rotateTableSigningKey slot sig => Sys2Proof.Machine.execRotateTableSigningKey slot sig s
  | .rewrapBlock slot => Sys2Proof.Machine.execRewrapBlock slot s
  | .finishKekRotation slot => Sys2Proof.Machine.execFinishKekRotation slot s
  | .abandonPendingKek slot => Sys2Proof.Machine.execAbandonPendingKek slot s
  | .destroyTenant slot => Sys2Proof.Machine.execDestroyTenant slot s
  | .deriveInitialDukptKey slot => Sys2Proof.Machine.execDeriveInitialDukptKey slot s
  | .tenantReport slot => Sys2Proof.Machine.execTenantReport slot s
  | .healthReport slot => Sys2Proof.Machine.execHealthReport slot s
  | .registerPartner slot => Sys2Proof.Machine.execRegisterPartner slot s
  | .setReplicationMode slot => Sys2Proof.Machine.execSetReplicationMode slot s
  | .transferRoles slot => Sys2Proof.Machine.execTransferRoles slot s
  | .takeRoles slot => Sys2Proof.Machine.execTakeRoles slot s
  | .loadOwnTable slot sig curvesOk => Sys2Proof.Machine.execLoadOwnTable slot sig curvesOk s
  | .loadTableForTenant slot sig curvesOk => Sys2Proof.Machine.execLoadTableForTenant slot sig curvesOk s
  | .userRegionRead slot => Sys2Proof.Machine.execUserRegionRead slot s
  | .userRegionWrite slot => Sys2Proof.Machine.execUserRegionWrite slot s
  | .setUserWindow slot => Sys2Proof.Machine.execSetUserWindow slot s
  | .userRegionStatus slot => Sys2Proof.Machine.execUserRegionStatus slot s
  | .readBuiltinPealTable slot => Sys2Proof.Machine.execReadBuiltinPealTable slot s
  | .clearOwnTable slot => Sys2Proof.Machine.execClearOwnTable slot s
  | .setAlgorithmPolicy slot => Sys2Proof.Machine.execSetAlgorithmPolicy slot s
  | .readAlgorithmPolicy slot => Sys2Proof.Machine.execReadAlgorithmPolicy slot s
  | .setPermissionMap slot => Sys2Proof.Machine.execSetPermissionMap slot s
  | .setTollBindingMap slot => Sys2Proof.Machine.execSetTollBindingMap slot s
  | .keyAttestation slot => Sys2Proof.Machine.execKeyAttestation slot s
  | .certificateChain slot => Sys2Proof.Machine.execCertificateChain slot s
  | .lookupByTag slot => Sys2Proof.Machine.execLookupByTag slot s
  | .readBySequence slot => Sys2Proof.Machine.execReadBySequence slot s
  | .emptyCarriedJournal slot => Sys2Proof.Machine.execEmptyCarriedJournal slot s
  | .readCostTable slot => Sys2Proof.Machine.execReadCostTable slot s
  | .loadCostTable slot sig => Sys2Proof.Machine.execLoadCostTable slot sig s
  | .tenantStatement slot => Sys2Proof.Machine.execTenantStatement slot s
  | .fullStatement slot => Sys2Proof.Machine.execFullStatement slot s
  | .tollStatusBlock slot => Sys2Proof.Machine.execTollStatusBlock slot s
  | .unseal slot sig => Sys2Proof.Machine.execUnseal slot sig s
  | .forcedUnseal slot => Sys2Proof.Machine.execForcedUnseal slot s
  | .setAuthorityKey slot => Sys2Proof.Machine.execSetAuthorityKey slot s
  | .replaceStoreImage slot sig version digest => Sys2Proof.Machine.execReplaceStoreImage slot sig version digest s
  | .setJournalMode slot => Sys2Proof.Machine.execSetJournalMode slot s
  | .tollSeal slot sig => Sys2Proof.Machine.execTollSeal slot sig s
  | .msixVectorUnmask fn vector => Sys2Proof.Machine.execMsixVectorUnmask fn vector s
  | .smbusObjectReady => Sys2Proof.Machine.execSmbusObjectReady s
  | .lockdownReportReady => Sys2Proof.Machine.execLockdownReportReady s
  | .tier2PageInComplete slot handle => Sys2Proof.Machine.execTier2PageInComplete slot handle s
  | .pealEntryFetchComplete slot ok => Sys2Proof.Machine.execPealEntryFetchComplete slot ok s
  | .manufacturingTransition => Sys2Proof.Machine.execManufacturingTransition s
  | .sensorsClearTimer => Sys2Proof.Machine.execSensorsClearTimer s
  | .vaoCapChargeTimeout => Sys2Proof.Machine.execVaoCapChargeTimeout s
  | .gongNHoldExpire => Sys2Proof.Machine.execGongNHoldExpire s
  | .configSpaceReady => Sys2Proof.Machine.execConfigSpaceReady s

end Sys2Proof.Machine
end

