-- ==== Sys2Proof/Safety.lean ====
section
/-! DEFINITION. The terms claims are stated in: what an operation leaves alone, the order of the fuses, the canonical form
of the persistent store's array, and when a device is in Lockdown. -/
namespace Sys2Proof.Machine

/-- `t` keeps of `s` the queue, the clock, the fuses, the mode, the Lockdown latch and the store's array: what all but a
few operations leave alone. -/
abbrev Keeps (s t : State) : Prop :=
  t.pending = s.pending ∧ t.clk = s.clk ∧ t.fuses = s.fuses ∧ t.mode = s.mode ∧ t.tmp.lock = s.tmp.lock ∧
    t.nv.array = s.nv.array

/-- Fuse bits program from 0 to 1 and never return (R198, R424, R426): no bit of LC_FUSE returns, so the
life-cycle state's group never falls and a complete group of the same state stays complete; the Scrap-only policy and the
root epoch stay, and what is fused at manufacture never changes. -/
def Fuses.Le (a b : Fuses) : Prop :=
  b.grade = a.grade ∧ b.stepping = a.stepping ∧ b.serial = a.serial ∧ a.lcFuse ||| b.lcFuse = b.lcFuse ∧
    a.lc.rank ≤ b.lc.rank ∧ (a.lc = b.lc → a.lcIncomplete = false → b.lcIncomplete = false) ∧
    (a.scrapOnly = true → b.scrapOnly = true) ∧ (b.fuseKey = a.fuseKey ∨ b.fuseKey = none) ∧ a.epoch ≤ b.epoch

/-- ROOT_EPOCH has 32 bits (R198). -/
def Fuses.ok (f : Fuses) : Bool := decide (f.epoch ≤ 32)

/-- An array's canonical form: addresses strictly rising and no zero byte listed (R354). -/
def arrayWf (m : List Host.Cell) : Bool := smWf 0 m
/-- The store's array is in its canonical form. -/
def NvStore.wf (n : NvStore) : Bool := arrayWf n.array

/-- A byte of the store, by its store address (R354: a word not written since Test reads as zero bytes). -/
def State.storeByte (s : State) (a : Nat) : Byte := smGet 0 s.nv.array a

/-- A byte of the user region, by its offset (Table 13-1). -/
def State.userByte (s : State) (a : Nat) : Byte := s.storeByte (userBase + a)

/-- The Lockdown latch is set. -/
def State.locked (s : State) : Bool := s.tmp.lock.isSome

/-- Lockdown is the mode of the latch: in Lockdown it is set, and where it is set the mode is Lockdown or, unpowered,
Off (Table 1-7, R23). -/
def State.lockdownInv (s : State) : Bool :=
  if s.mode = .lockdown then s.locked else !s.locked || s.mode == .off

end Sys2Proof.Machine
end

