-- ==== Sys2Proof/Certificates/Slice0/Obligations.lean ====
section
/-! DEFINITION. The statements for the provers: what each command does, what it leaves alone, and what holds of every
step, by the rules of the spec. -/
open Sys2Proof Sys2Proof.Machine

/-- For every command c and every state s, a step of s with c at the front of its queue is exec of c on s with the
queue's rest. -/
def Obligations.StepRunsTheFrontCommand : Prop :=
  ∀ (c : Instr) (rest : List Instr) (s : State),
    step { s with pending := c :: rest } = exec c { s with pending := rest }

/-- With an empty queue a step answers the next state in which one nanosecond has passed: the Metronome's phase gains
32,768 periods per second, and vault time counts a period when one is whole, while the always-on domain runs. Then what
is due by itself happens: a transition between Ready and Serve that the last Metronome period held back (R24), and the
rings' end 1 ms after a Lockdown (Table 2-9). In a mode other than Ready and Serve with no such end due nothing else
changes. That an idle step is one front-end cycle of 1 ns is the model's choice (log entry 6). -/
def Obligations.EmptyQueuePassesOneCycle : Prop :=
  ∀ s : State, s.pending = [] → s.clk.phase < 1000000000 →
    ∃ c : Clock, step s = .next (lockdownForce (modeSettle { s with clk := c })) ∧
      (s.mode ≠ .ready → s.mode ≠ .serve → s.fe.lockdownAt = none → step s = .next { s with clk := c }) ∧
      c.now = s.clk.now + 1 ∧ c.phase < 1000000000 ∧
      ((s.clk.phase + 32768 < 1000000000 ∧ c.phase = s.clk.phase + 32768 ∧ c.vtime = s.clk.vtime) ∨
       (1000000000 ≤ s.clk.phase + 32768 ∧ c.phase + 1000000000 = s.clk.phase + 32768 ∧
        c.vtime = if aoRuns s then s.clk.vtime + 1 else s.clk.vtime))

/-- Every command answers a next state in every state, for the spec gives each an effect or says that it is ignored; and
that state has the queue it was given: commands enter the queue from outside only, and step takes them first in, first
out (the queue is the model's own field, log entry 11). -/
def Obligations.EveryCommandIsCarriedOut : Prop :=
  ∀ (c : Instr) (s : State), ∃ t, exec c s = .next t ∧ t.pending = s.pending

/-- SUBMISSION_DOORBELL_WRITE completes: a doorbell write, full or to the low half, at the start of the slot of an
ENABLED ring that the function holds, by a function whose BARs answer and that has reported ready, with a tail below 2N,
zero reserved bits and n no more than the free credits: the tail moves, CONSUMED and OUTSTANDING rise by n, the n
descriptors are accepted at this instant, and nothing else in the machine changes; with n = 0 nothing changes at all
(R44, R45, R54). -/
def Obligations.DoorbellAcceptsDescriptors : Prop :=
  ∀ (fn : Fn) (off : BitVec 17) (acc : Acc) (data : BitVec 64) (s : State) (r : SqNo) (tail n : Nat),
    barsOn s fn = true → s.fe.reported = true → off.toNat < 0x10000 → off.toNat % 0x1000 < 0x200 → off.toNat % 8 = 0 →
    sqOf s fn (64 * (off.toNat / 0x1000) + off.toNat % 0x1000 / 8) = some r →
    (acc = .full ∨ acc = .low) → data.toNat % 2 ^ 32 = tail → tail < 2 * (s.sq r).size → tail < 2 ^ 17 →
    (s.sq r).state = .enabled → n = (tail + 2 * (s.sq r).size - (s.sq r).tail.toNat) % (2 * (s.sq r).size) →
    n + (s.sq r).outstanding.toNat ≤ (s.sq r).size →
    exec (.submissionDoorbellWrite fn off acc data) s = .next (if n = 0 then s else s.mSq r fun q => { q with
      tail := BitVec.ofNat 17 tail, consumed := q.consumed + BitVec.ofNat 64 n,
      outstanding := q.outstanding + BitVec.ofNat 17 n, accepts := q.accepts ++ [(s.clk.now, n)] })

/-- A doorbell write to the slot of a ring the function holds raises DB_EARLY before the function reports ready,
DB_DISABLED on a ring that is not ENABLED, DB_MALFORMED for a tail of 2N or more, a reserved bit, a write of the high
half alone or one that is not naturally aligned, and DB_OVERCREDIT for more descriptors than free credits; a write to a
reserved offset or to a slot of no ring of the function raises DB_MALFORMED; none has another effect (R42, R44, R51,
R70). That the ring's state is judged before the tail is the model's reading (log entry 18). -/
def Obligations.DoorbellIgnoredByName : Prop :=
  ∀ (fn : Fn) (off : BitVec 17) (acc : Acc) (data : BitVec 64) (s : State) (r : SqNo) (v : Nat),
    barsOn s fn = true →
    (s.fe.reported = true → (0x11000 ≤ off.toNat ∨ (off.toNat < 0x10000 ∧ (0x200 ≤ off.toNat % 0x1000 ∨
        sqOf s fn (64 * (off.toNat / 0x1000) + off.toNat % 0x1000 / 8) = none))) →
      exec (.submissionDoorbellWrite fn off acc data) s = .next (raiseFn fn .dbMalformed s)) ∧
    (off.toNat < 0x10000 → off.toNat % 0x1000 < 0x200 →
    sqOf s fn (64 * (off.toNat / 0x1000) + off.toNat % 0x1000 / 8) = some r → data.toNat % 2 ^ 32 = v →
    (s.fe.reported = false →
      exec (.submissionDoorbellWrite fn off acc data) s = .next (raiseFn fn .dbEarly s)) ∧
    (s.fe.reported = true → (acc = .high ∨ acc = .other ∨ off.toNat % 8 ≠ 0) →
      exec (.submissionDoorbellWrite fn off acc data) s = .next (raiseFn fn .dbMalformed s)) ∧
    (off.toNat % 8 = 0 →
    (s.fe.reported = true → (acc = .full ∨ acc = .low) → (s.sq r).state ≠ .enabled →
      exec (.submissionDoorbellWrite fn off acc data) s = .next (raiseFn fn .dbDisabled s)) ∧
    (s.fe.reported = true → (acc = .full ∨ acc = .low) → (s.sq r).state = .enabled →
      (2 * (s.sq r).size ≤ v ∨ 2 ^ 17 ≤ v) →
      exec (.submissionDoorbellWrite fn off acc data) s = .next (raiseFn fn .dbMalformed s)) ∧
    (s.fe.reported = true → (acc = .full ∨ acc = .low) → (s.sq r).state = .enabled →
      v < 2 * (s.sq r).size → v < 2 ^ 17 →
      (s.sq r).size < (s.sq r).outstanding.toNat +
        (v + 2 * (s.sq r).size - (s.sq r).tail.toNat) % (2 * (s.sq r).size) →
      (v + 2 * (s.sq r).size - (s.sq r).tail.toNat) % (2 * (s.sq r).size) ≠ 0 →
      exec (.submissionDoorbellWrite fn off acc data) s = .next (raiseFn fn .dbOvercredit s))))

/-- Raising a function event sets its flag, leaves every other flag, every enable and the counters of other events, and
advances its counter unless that is 0xFFFF; raising a device event does the same in PF0's device registers (R12, R485,
R486). Every other function's flags and every other part of the machine are unchanged. -/
def Obligations.RaisedEventIsFlaggedAndCounted : Prop :=
  ∀ (s : State),
    (∀ (fn : Fn) (e : FnEvent),
      ((raiseFn fn e s).func fn).evtFlags = (s.func fn).evtFlags ||| (1 <<< e.num) ∧
      ((raiseFn fn e s).func fn).evtEnable = (s.func fn).evtEnable ∧
      smGet 0 ((raiseFn fn e s).func fn).evtCount e.num = satInc16 (smGet 0 (s.func fn).evtCount e.num) ∧
      (∀ g : Fn, g ≠ fn → (raiseFn fn e s).func g = s.func g) ∧
      raiseFn fn e s = { s with fe := (raiseFn fn e s).fe }) ∧
    (∀ e : DevEvent,
      (raiseDev e s).fe.devFlags = s.fe.devFlags ||| (1 <<< e.num) ∧
      (raiseDev e s).fe.devEnable = s.fe.devEnable ∧
      smGet 0 (raiseDev e s).fe.devCount e.num = satInc16 (smGet 0 s.fe.devCount e.num) ∧
      raiseDev e s = { s with fe := (raiseDev e s).fe })

/-- COMPLETION_HEAD_WRITE completes: at the slot of a completion ring the function holds, within the posted completions,
HEAD moves, the Chime forgets the completions it passes, and completions that waited for room are posted; past POSTED or
backwards it is ignored and raises CQ_HEAD_INVALID (R48, R50, R60). -/
def Obligations.HeadWriteFreesEntries : Prop :=
  ∀ (fn : Fn) (cq : BitVec 9) (acc : Acc) (data : BitVec 64) (s : State) (c : CqNo) (head n : Nat),
    barsOn s fn = true → s.fe.reported = true → cqOf s fn cq.toNat = some c → (acc = .full ∨ acc = .low) →
    data.toNat % 2 ^ 32 = head → head < 2 * (s.cq c).size → head < 2 ^ 17 →
    n = (head + 2 * (s.cq c).size - (s.cq c).head.toNat) % (2 * (s.cq c).size) →
    (n ≤ (s.cq c).used → exec (.completionHeadWrite fn cq acc data) s = .next (drainReady (s.mCq c fun q =>
      { q with head := BitVec.ofNat 17 head, pending := q.pending.drop (q.pending.length - ((s.cq c).used - n)) }))) ∧
    ((s.cq c).used < n → exec (.completionHeadWrite fn cq acc data) s = .next (raiseFn fn .cqHeadInvalid s))

/-- DESCRIPTOR_FETCH and DESCRIPTOR_FETCH_ERROR complete. Rings are served in turn: where another ring that can be
fetched from comes first after the one served last, nothing happens. On an ENABLED ring whose turn it is, a descriptor
that passes checks 1 and 2 joins the waiting in fetch order, its checks 3 to 6 to be made at the decision, and the
ring's head passes its slot; one that fails them completes at once with that status; one that was outstanding as the
active role was lost completes FLUSHED; and a read that is refused puts the ring into ERROR, raises RING_FETCH_ERROR and
is reported by AER. On a RESETTING ring a fetched descriptor completes at once FLUSHED (R46, R62, R66, R71, R82, R99,
R300, R475). At a fetch the causes that withhold the waiting descriptors are noted (the model's choice of instant, log
entry 181). -/
def Obligations.FetchedDescriptorWaits : Prop :=
  ∀ (ring : SqNo) (desc : BitVec 512) (s : State) (fn : Fn), sqOwner s ring = some fn →
    (fetchTurn s ring = false → exec (.descriptorFetch ring desc) s = .next s) ∧
    (∀ u, u = s.mFe (fun e => { e with lastFetch := ring.toNat }) → fetchTurn s ring = true →
      (s.sq ring).unfetched ≠ 0 ∧ canDma s fn = true ∧
      ((s.sq ring).state = .enabled → (s.sq ring).roleLost = 0 →
        waitingOf s ring < 16 ∧ s.fe.waiting.length < 32768 ∧
        (checks12 (sriOf s fn) (parseDesc (sriOf s fn) desc) = none →
          exec (.descriptorFetch ring desc) s =
            .next (noteCauses ((readSlot fn (s.sq ring) (u.mSq ring SubRing.fetched)).mFe fun e => { e with
              nextOrder := e.nextOrder + 1,
              waiting := e.waiting ++
                [{ fn := fn, ring := ring, raw := desc, accepted := (s.sq ring).oldest s.clk.now,
                   order := e.nextOrder, withheld := [], cause := none }] }))) ∧
        (∀ st, checks12 (sriOf s fn) (parseDesc (sriOf s fn) desc) = some st →
          exec (.descriptorFetch ring desc) s = .next (completeFetched fn ring ((s.sq ring).oldest s.clk.now)
            (parseDesc (sriOf s fn) desc) st (readSlot fn (s.sq ring) (u.mSq ring SubRing.fetched))))) ∧
      ((s.sq ring).state = .enabled → (s.sq ring).roleLost ≠ 0 →
        exec (.descriptorFetch ring desc) s = .next (completeFetched fn ring ((s.sq ring).oldest s.clk.now)
          (parseDesc (sriOf s fn) desc) (St.flushed, 2) (readSlot fn (s.sq ring) (u.mSq ring SubRing.fetched)))) ∧
      ((s.sq ring).state = .resetting →
        exec (.descriptorFetch ring desc) s = .next (completeFetched fn ring ((s.sq ring).oldest s.clk.now)
          (parseDesc (sriOf s fn) desc) (St.flushed, if s.mode = .lockdown then 3 else 1)
          (readSlot fn (s.sq ring) (u.mSq ring SubRing.fetched))))) ∧
    ((s.sq ring).state = .enabled → (s.sq ring).unfetched ≠ 0 → canDma s fn = true →
      exec (.descriptorFetchError ring) s = .next (raiseFn fn .ringFetchError (reportAer fn .descriptor
        (readSlot fn (s.sq ring) (s.mSq ring fun q => { q with state := .error })))))

/-- RING_SELECT_WRITE and RING_PARAMETER_WRITE complete. Where a function's setup registers answer: FE_RING_SEL takes
its fields; the base of a selected DISABLED ring takes the 8 bytes written (a 4-byte write of it has no effect),
FE_RING_CFG of an unlocked submission ring its 20 bits with the reserved ones zero, under the lock its RWL fields
[19:16] kept with LOCKED_WRITE when the write differs in them, FE_RING_CFG and FE_RING_CHIME of a completion ring their
fields; on a ring that is not DISABLED nothing changes; a selection that names no ring of the function raises
RING_CONFIG_INVALID (R39, R40, R480, R483). -/
def Obligations.RingWindowWrites : Prop :=
  ∀ (fn : Fn) (d32 : BitVec 32) (d : BitVec 64) (p : RingParam) (s : State), setupOn s fn = true →
    exec (.ringSelectWrite fn d32) s =
      .next (s.mFunc fn fun f => { f with ringSel := d32.extractLsb' 0 10, ringKind := d32.getLsbD 16 }) ∧
    (selected s fn = .none → exec (.ringParameterWrite fn p d) s = .next (raiseFn fn .ringConfigInvalid s)) ∧
    (∀ r, selected s fn = .sub r →
      ((s.sq r).state ≠ .disabled → exec (.ringParameterWrite fn p d) s = .next s) ∧
      ((s.sq r).state = .disabled →
        exec (.ringParameterWrite fn .base d) s = .next (s.mSq r fun q => { q with base := d }) ∧
        exec (.ringParameterWrite fn .baseHalf d) s = .next s ∧ exec (.ringParameterWrite fn .chime d) s = .next s ∧
        ((s.func fn).locked = true → exec (.ringParameterWrite fn .cfg d) s = .next
          (let u := s.mSq r fun q => { q with cfg := (d.setWidth 20 &&& 0x3FFF) ||| (q.cfg &&& 0xF0000) }
           if d.extractLsb' 16 4 = (s.sq r).cfg.extractLsb' 16 4 then u else raiseFn fn .lockedWrite u)) ∧
        ((s.func fn).locked = false → exec (.ringParameterWrite fn .cfg d) s =
          .next (s.mSq r fun q => { q with cfg := d.setWidth 20 &&& 0xF3FFF })))) ∧
    (∀ c, selected s fn = .cpl c →
      ((s.cq c).state ≠ .disabled → exec (.ringParameterWrite fn p d) s = .next s) ∧
      ((s.cq c).state = .disabled →
        exec (.ringParameterWrite fn .base d) s = .next (s.mCq c fun q => { q with base := d }) ∧
        exec (.ringParameterWrite fn .baseHalf d) s = .next s ∧
        exec (.ringParameterWrite fn .cfg d) s = .next (s.mCq c fun q => { q with log2 := d.extractLsb' 0 5 }) ∧
        exec (.ringParameterWrite fn .chime d) s = .next (s.mCq c fun q => { q with chime := d.extractLsb' 0 31 })))

/-- RING_ENABLE and RING_DISABLE complete. ENABLE of a selected DISABLED ring that meets every condition of R40 and R483
makes it ENABLED with positions 0, and of one that does not raises RING_CONFIG_INVALID; DISABLE of an ENABLED submission
ring with nothing outstanding, or of an ENABLED completion ring to which no running ring is bound, makes it DISABLED,
and otherwise raises RING_CONFIG_INVALID (R40, R52, Table 18-8). A completion ring so cleared has its positions and
reservations at 0, and the peals bound to it hold no entry of it (the model's choice, log entry 133). -/
def Obligations.RingCommandsChangeState : Prop :=
  ∀ (fn : Fn) (s : State), setupOn s fn = true →
    (∀ r, selected s fn = .sub r →
      exec (.ringEnable fn) s = .next (if subEnableOk s fn r then
        s.mSq r fun q => { q with state := .enabled, head := 0, tail := 0, accepts := [], abort := false, roleLost := 0 }
        else raiseFn fn .ringConfigInvalid s) ∧
      exec (.ringDisable fn) s = .next (if (s.sq r).state = .enabled ∧ (s.sq r).outstanding = 0 then
        s.mSq r fun q => { q with state := .disabled, head := 0, tail := 0, accepts := [], abort := false, roleLost := 0 }
        else raiseFn fn .ringConfigInvalid s)) ∧
    (∀ c, selected s fn = .cpl c →
      exec (.ringEnable fn) s = .next (if cplEnableOk s fn c then
        clearCq c .enabled s
        else raiseFn fn .ringConfigInvalid s) ∧
      exec (.ringDisable fn) s = .next (if (s.cq c).state = .enabled ∧ boundCount s c = 0 then
        clearCq c .disabled s
        else raiseFn fn .ringConfigInvalid s) ∧
      ∀ st, clearCq c st s = { s.mCq c fun q => { q with state := st, head := 0, posted := 0, reserved := 0, pending := [] } with
        peals := s.peals.map fun e => (e.1, if boundCq s e.2.ring == some c then { e.2 with cplHeld := false } else e.2) })

/-- With an ENABLED or RESETTING submission ring bound to the selected completion ring, its disable and both its resets
are ignored and raise RING_CONFIG_INVALID; with none, an ENABLED ring becomes DISABLED (R52). -/
def Obligations.CompletionRingNeedsNoBoundRing : Prop :=
  ∀ (fn : Fn) (s : State) (c : CqNo), setupOn s fn = true → selected s fn = .cpl c →
    ∀ op : Instr, (op = .ringDisable fn ∨ op = .ringReset fn ∨ op = .ringResetAbort fn) →
      ((∃ e ∈ s.fe.sqs, (e.2.state = .enabled ∨ e.2.state = .resetting) ∧ boundCq s (BitVec.ofNat 16 e.1) = some c) →
        exec op s = .next (raiseFn fn .ringConfigInvalid s)) ∧
      ((∀ e ∈ s.fe.sqs, (e.2.state = .enabled ∨ e.2.state = .resetting) → boundCq s (BitVec.ofNat 16 e.1) ≠ some c) →
        (s.cq c).state = .enabled →
        exec op s = .next (clearCq c .disabled s))

/-- RING_RESET and RING_RESET_ABORT complete. A queue reset, with ABORT or without, of a selected ENABLED submission
ring with nothing outstanding, nothing waiting for admission and no peal in flight leaves it DISABLED with its positions
at 0 and its conservation counters kept; of one with descriptors outstanding, none of them waiting or admitted, it
leaves the ring RESETTING with the option noted, its fetched positions kept; a completion ring that is ENABLED or in
ERROR with no running ring bound to it becomes DISABLED (R52, R62, Table 18-8). -/
def Obligations.RingResetStartsDraining : Prop :=
  ∀ (fn : Fn) (s : State), setupOn s fn = true →
    (∀ r, selected s fn = .sub r → (s.sq r).state = .enabled → (∀ w ∈ s.fe.waiting, w.ring ≠ r) →
      (∀ e ∈ s.peals, e.2.ring ≠ r) →
      ((s.sq r).outstanding = 0 →
        exec (.ringReset fn) s = .next ((s.mSq r fun q => { q with state := .resetting, abort := false }).mSq r fun q =>
          { q with state := .disabled, head := 0, tail := 0, accepts := [], abort := false, roleLost := 0 }) ∧
        exec (.ringResetAbort fn) s = .next ((s.mSq r fun q => { q with state := .resetting, abort := true }).mSq r fun q =>
          { q with state := .disabled, head := 0, tail := 0, accepts := [], abort := false, roleLost := 0 })) ∧
      ((s.sq r).outstanding ≠ 0 →
        ∃ t u, exec (.ringReset fn) s = .next t ∧ exec (.ringResetAbort fn) s = .next u ∧
          t.sq r = { s.sq r with state := .resetting, abort := false } ∧
          u.sq r = { s.sq r with state := .resetting, abort := true } ∧
          t = { s with fe := { s.fe with sqs := t.fe.sqs } } ∧ u = { s with fe := { s.fe with sqs := u.fe.sqs } })) ∧
    (∀ c, selected s fn = .cpl c → ((s.cq c).state = .enabled ∨ (s.cq c).state = .error) → boundCount s c = 0 →
      exec (.ringReset fn) s =
        .next (clearCq c .disabled s) ∧
      exec (.ringResetAbort fn) s =
        .next (clearCq c .disabled s))

/-- SRI_OFFER_WRITE, HKT_REGISTER_WRITE, SETUP_LOCK_SET, RECOVERY_LIST_CLEAR, CREDIT_SNAPSHOT and CQ_IRQ_ENABLE_WRITE
complete. Where a function's setup registers answer: FE_SRI_OFFER sets the active version to the highest offered and
supported (0x21, 0x20, 0x12) while every ring of the function is DISABLED, sets 0x00 and raises SRI_NO_COMMON when none
is common, and raises SRI_OFFER_IGNORED and changes nothing else when a ring is not DISABLED (R57); KS_HKT_BASE and
KS_HKT_ENTRIES are written while every ring is DISABLED and raise HKT_BUSY otherwise (R158); FE_SETUP_LOCK sets the lock
(R480); writing 1 to FE_RECOVERY_HDR.VALID empties the list and clears OVERFLOW, but for what the same front-end cycle
added (R12, R64). FE_CREDIT_SNAP_SEL with SCOPE 0 on a ring the function holds latches that ring's four counters with
VALID 1, and on any other ring all zeros with VALID 0; with SCOPE 1 the sums over the function's rings, or zeros with
VALID 0 where it holds no block (R55). FE_CQ_IRQ of a selected completion ring sets its enable, and one message is sent
at once exactly when it is enabled and a trigger of R60 holds; with no ring selected it raises RING_CONFIG_INVALID, and
on a submission ring it does nothing. -/
def Obligations.FunctionSetupWrites : Prop :=
  (∀ (fn : Fn) (d32 : BitVec 32) (d : BitVec 64) (s : State), setupOn s fn = true →
    (ringsDisabled s fn = true → d32.extractLsb' 0 3 ≠ 0#3 → exec (.sriOfferWrite fn d32) s = .next (s.mFunc fn fun f =>
      { f with sriOffer := d32.extractLsb' 0 3,
               sriActive := if d32.getLsbD 2 then 0x21 else if d32.getLsbD 1 then 0x20 else 0x12 })) ∧
    (ringsDisabled s fn = true → d32.extractLsb' 0 3 = 0#3 → exec (.sriOfferWrite fn d32) s =
      .next (raiseFn fn .sriNoCommon (s.mFunc fn fun f => { f with sriOffer := 0, sriActive := 0 }))) ∧
    (ringsDisabled s fn = false → exec (.sriOfferWrite fn d32) s = .next (raiseFn fn .sriOfferIgnored s)) ∧
    (ringsDisabled s fn = true →
      exec (.hktRegisterWrite fn false d) s = .next (s.mFunc fn fun f => { f with hktBase := d }) ∧
      exec (.hktRegisterWrite fn true d) s = .next (s.mFunc fn fun f => { f with hktEntries := d.extractLsb' 0 25 })) ∧
    (ringsDisabled s fn = false → ∀ b, exec (.hktRegisterWrite fn b d) s = .next (raiseFn fn .hktBusy s)) ∧
    exec (.setupLockSet fn) s = .next (s.mFunc fn fun f => { f with locked := true }) ∧
    exec (.recoveryListClear fn) s = .next (s.mFunc fn fun f =>
      if f.recAt = s.clk.now then { f with recovery := lastN f.recFresh f.recovery, recOverflow := f.recFreshOver }
      else { f with recovery := [], recOverflow := false })) ∧
  (∀ (fn : Fn) (d : BitVec 32) (s : State), setupOn s fn = true →
    (d.getLsbD 16 = false → ∀ r, sqOf s fn (d.extractLsb' 0 10).toNat = some r →
      exec (.creditSnapshot fn d) s = .next (s.mFunc fn fun f => { f with
        snapRing := d.extractLsb' 0 10, snapScope := false, snapConsumed := (s.sq r).consumed,
        snapPosted := (s.sq r).posted, snapSuppressed := (s.sq r).suppressed,
        snapOutstanding := (s.sq r).outstanding, snapValid := true })) ∧
    (d.getLsbD 16 = false → sqOf s fn (d.extractLsb' 0 10).toNat = none →
      exec (.creditSnapshot fn d) s = .next (s.mFunc fn fun f => { f with
        snapRing := d.extractLsb' 0 10, snapScope := false, snapConsumed := 0, snapPosted := 0, snapSuppressed := 0,
        snapOutstanding := 0, snapValid := false })) ∧
    (d.getLsbD 16 = true → (∃ e ∈ s.fe.sqAssign, e.2.valid = true ∧ e.2.fn = fn) →
      exec (.creditSnapshot fn d) s = .next (s.mFunc fn fun f => { f with
        snapRing := d.extractLsb' 0 10, snapScope := true,
        snapConsumed := (ringsOf s fn).foldl (fun a q => a + q.consumed) 0,
        snapPosted := (ringsOf s fn).foldl (fun a q => a + q.posted) 0,
        snapSuppressed := (ringsOf s fn).foldl (fun a q => a + q.suppressed) 0,
        snapOutstanding := BitVec.ofNat 17 (min 0x1FFFF ((ringsOf s fn).map (·.outstanding.toNat)).sum),
        snapValid := true })) ∧
    (d.getLsbD 16 = true → (∀ e ∈ s.fe.sqAssign, e.2.valid = true → e.2.fn ≠ fn) →
      exec (.creditSnapshot fn d) s = .next (s.mFunc fn fun f => { f with
        snapRing := d.extractLsb' 0 10, snapScope := true, snapConsumed := 0, snapPosted := 0, snapSuppressed := 0,
        snapOutstanding := 0, snapValid := false })) ∧
    (∀ r, selected s fn = .sub r → exec (.cqIrqEnableWrite fn d) s = .next s) ∧
    (selected s fn = .none → exec (.cqIrqEnableWrite fn d) s = .next (raiseFn fn .ringConfigInvalid s)) ∧
    (∀ c, selected s fn = .cpl c → exec (.cqIrqEnableWrite fn d) s = .next
      (let u := s.mCq c fun q => { q with irqEnable := d.getLsbD 0 }
       if (u.cq c).irqEnable && (u.cq c).chimeDue s.clk.now then chimeSend fn c u else u)))

/-- BLOCK_ASSIGN_WRITE completes. A block assignment change by PF0: with a ring of the block not DISABLED, or with
another block of the kind at that local page of the new owner, it has no effect but BLOCK_ASSIGN_REFUSED; otherwise the
entry takes the word, and every conservation counter of a submission block's rings reads zero, nothing else changing
(R38). Under the setup lock a change has no effect but LOCKED_WRITE (R480), and a write of the entry as it stands none
at all. -/
def Obligations.BlockAssignmentTakesEffectWhenIdle : Prop :=
  ∀ (b : BitVec 10) (d : BitVec 32) (s : State), setupOn s 0 = true →
    (∀ cq, smGet Assign.none (if cq then s.fe.cqAssign else s.fe.sqAssign) b.toNat ≠ Assign.ofWord cq d →
      ((s.func 0).locked = true → exec (.blockAssignWrite cq b d) s = .next (raiseFn 0 .lockedWrite s)) ∧
      ((s.func 0).locked = false →
        ((if cq then cqBlockIdle s b.toNat else sqBlockIdle s b.toNat) = false ∨
          pageTaken (if cq then s.fe.cqAssign else s.fe.sqAssign) b.toNat (Assign.ofWord cq d) = true) →
        exec (.blockAssignWrite cq b d) s = .next (raiseFn 0 .blockAssignRefused s))) ∧
    (∀ cq, smGet Assign.none (if cq then s.fe.cqAssign else s.fe.sqAssign) b.toNat = Assign.ofWord cq d →
      exec (.blockAssignWrite cq b d) s = .next s) ∧
    (smGet Assign.none s.fe.cqAssign b.toNat ≠ Assign.ofWord true d → (s.func 0).locked = false →
      cqBlockIdle s b.toNat = true → pageTaken s.fe.cqAssign b.toNat (Assign.ofWord true d) = false →
      exec (.blockAssignWrite true b d) s =
        .next (s.mFe fun e => { e with cqAssign := smSet Assign.none b.toNat (Assign.ofWord true d) e.cqAssign })) ∧
    (smGet Assign.none s.fe.sqAssign b.toNat ≠ Assign.ofWord false d → (s.func 0).locked = false →
      sqBlockIdle s b.toNat = true → pageTaken s.fe.sqAssign b.toNat (Assign.ofWord false d) = false →
      ∃ t, exec (.blockAssignWrite false b d) s = .next t ∧ t = { s with fe := { s.fe with
          sqAssign := smSet Assign.none b.toNat (Assign.ofWord false d) s.fe.sqAssign, sqs := t.fe.sqs } } ∧
        t.fe.sqs = smMap SubRing.init (fun k q => if k / 64 = b.toNat then
          { q with consumed := 0, posted := 0, suppressed := 0 } else q) s.fe.sqs ∧
        ∀ r : SqNo, r.toNat / 64 = b.toNat → (t.sq r).consumed = 0 ∧ (t.sq r).posted = 0 ∧ (t.sq r).suppressed = 0)

/-- EVENT_FLAG_CLEAR, EVENT_ENABLE_WRITE, EVENT_MESSAGE_INTERVAL, MSIX_VECTOR_UNMASK, REGISTER_WRITE and
REGISTER_LOW_HALF_READ complete. Where event registers answer: writing 1 clears the flag, but one set in the same
front-end cycle, and nothing else (R12, R488); an enable takes the value written, and one message is sent exactly when a
flag that is set becomes enabled (R487), bit 10 reading 0 on a VF; one microsecond after the last event message one more
covers the enabled events since (R487); unmasking a vector the function has makes it unmasked and sends what the Pending
Bit Array holds for it (R61; that the array holds it is PRESUMED, log entry 14). A naturally aligned 4-byte write sets
each selector, staging or idle-time register (Tables 18-4 and 11-9, 12-7, 15-17), an 8-byte write FE_FW_ADDR and, where
the Snare takes writes, TMP_RESPONSE's staged table; 4 or 8 bytes of LC_DATA are stored where they are written; a
low-half read of a 64-bit register latches its high half (R476); nothing else changes. -/
def Obligations.RegisterWritesSetTheirFields : Prop :=
  (∀ (fn : Fn) (d : BitVec 64) (v : BitVec 11) (s : State),
    (eventOn s fn false = true →
      exec (.eventFlagClear fn false d) s =
        .next (s.mFunc fn fun f => { f with evtFlags := f.evtFlags &&& (~~~(d.extractLsb' 0 17) |||
          if f.evtSetAt = s.clk.now then f.evtSet else 0) }) ∧
      exec (.eventEnableWrite fn false d) s = .next
        (let new : BitVec 17 := if fn = 0 then d.extractLsb' 0 17 else d.extractLsb' 0 17 &&& ~~~(1#17 <<< 10)
         let u := s.mFunc fn fun f => { f with evtEnable := new }
         if (new &&& ~~~(s.func fn).evtEnable &&& (s.func fn).evtFlags) ≠ 0 then eventMessage fn u else u)) ∧
    (eventOn s 0 true = true →
      exec (.eventFlagClear 0 true d) s =
        .next (s.mFe fun e => { e with devFlags := e.devFlags &&& (~~~(d.extractLsb' 0 39) |||
          if e.devSetAt = s.clk.now then e.devSet else 0) }) ∧
      exec (.eventEnableWrite 0 true d) s = .next
        (let u := s.mFe fun e => { e with devEnable := d.extractLsb' 0 39 }
         if (d.extractLsb' 0 39 &&& ~~~s.fe.devEnable &&& s.fe.devFlags) ≠ 0 then eventMessage 0 u else u)) ∧
    (∀ t0, (s.func fn).evtSentAt = some t0 → (s.func fn).evtDue = true → t0 + 1000 ≤ s.clk.now →
      exec (.eventMessageInterval fn) s =
        .next (sendMsix fn 0 (s.mFunc fn fun f => { f with evtDue := false, evtSentAt := some s.clk.now }))) ∧
    (busOn s fn = true → v.toNat < vectors s fn → exec (.msixVectorUnmask fn v) s =
      .next (releaseMsix fn (s.mFunc fn fun f => { f with msixUnmasked := insNat v.toNat f.msixUnmasked })))) ∧
  (∀ (fn : Fn) (d : BitVec 64) (s : State),
    (busOn s fn = true → s.mode ≠ .lockdown → exec (.registerWrite fn 0xAC 4 d) s = .next (s.mFunc fn fun f =>
      { f with tollCtrSel := d.extractLsb' 0 4, tollTenantSel := if fn = 0 then d.extractLsb' 8 8 else f.tollTenantSel })) ∧
    (busOn s 0 = true → s.mode ≠ .lockdown →
      exec (.registerWrite 0 0x22010 4 d) s = .next (s.mBoot fun b => { b with fwLen := d.extractLsb' 0 23 }) ∧
      exec (.registerWrite 0 0x22008 8 d) s = .next (s.mBoot fun b => { b with fwAddr := d }) ∧
      exec (.registerWrite 0 0x23008 4 d) s =
        .next (s.mGov fun g => { g with cgUs := d.extractLsb' 0 10, pgUs := d.extractLsb' 10 16 }) ∧
      exec (.registerWrite 0 0x2300C 4 d) s = .next (s.mGov fun g => { g with tenantSel := d.extractLsb' 0 8 }) ∧
      exec (.registerWrite 0 0x23030 4 d) s = .next (s.mGov fun g => { g with tempSel := d.extractLsb' 0 5 }) ∧
      exec (.registerWrite 0 0x25008 4 d) s = .next (s.mNv fun n => { n with wearSel := d.extractLsb' 0 3 })) ∧
    (busOn s 0 = true →
      exec (.registerWrite 0 0x27000 4 d) s = .next (s.mHealth fun h => { h with clusterSel := d.extractLsb' 0 4 }) ∧
      exec (.registerWrite 0 0x27024 4 d) s = .next (s.mMem fun m => { m with chanSel := d.extractLsb' 0 2 }) ∧
      exec (.registerWrite 0 0x29004 4 d) s = .next (s.mTmp fun t => { t with sensorSel := d.extractLsb' 0 5 }) ∧
      (snareWritable s = true → exec (.registerWrite 0 0x29010 8 d) s =
        .next (s.mTmp fun t => { t with stagedResponse := d.extractLsb' 0 44 })) ∧
      (snareWritable s = false → exec (.registerWrite 0 0x29010 8 d) s = .next (raiseDev .tmpConfigRefused s))) ∧
    (busOn s 0 = true → snareWritable s = true → exec (.registerWrite 0 0x29018 4 d) s =
      .next (s.mTmp fun t => { t with stagedPolarity := d.extractLsb' 0 4 })) ∧
    (∀ (o : Nat) (n : BitVec 4), busOn s 0 = true → (n = 4 ∨ n = 8) → o % n.toNat = 0 → o < 512 →
      exec (.registerWrite 0 (0x28200 + BitVec.ofNat 18 o) n d) s = .next (s.mLc fun l => { l with
        data := l.data.take o ++ natLe n.toNat d.toNat ++ l.data.drop (o + n.toNat) })) ∧
    (∀ (off : BitVec 18) (x : BitVec 64), busOn s fn = true → offsetOn s fn off.toNat = true →
      reg64 s fn off.toNat = some x →
      exec (.registerLowHalfRead fn off) s =
        .next (s.mFunc fn fun f => { f with hiLatch := some (off, x.extractLsb' 32 32) })))

/-- BUS_MASTER_ENABLE_WRITE, POWER_STATE_WRITE, VF_ENABLE_WRITE, VF_VECTORS_WRITE, FUNCTION_LEVEL_RESET and FLR_COMPLETE
complete. Where configuration space answers: Bus Master Enable and the D-state take the value written and what the
function held back goes out; VF Enable and NumVFs are written while VF Enable is 0, and FE_VF_VECTORS takes 1 to 64
while VF Enable is 0, or raises LOCKED_WRITE under the setup lock, and has no effect otherwise (R480, R481); clearing VF
Enable leaves PF0 alone and resets every VF's interface state as an FLR does. An FLR of a VF leaves that function in
reset with bus mastering off, no SRI version, no event flag, nothing of it waiting and its rings DISABLED, VF Enable and
PF0 as they were; one of PF0 does so for every function and clears VF Enable; FLR_COMPLETE ends it (R34, R63, R475,
R481). -/
def Obligations.ConfigurationWrites : Prop :=
  ∀ (fn : Fn) (on : Bool) (n : BitVec 8) (s : State),
    (configOn s fn = true →
      exec (.busMasterEnableWrite fn on) s =
        .next (drainReady (releaseMsix fn (s.mFunc fn fun f => { f with bme := on }))) ∧
      exec (.powerStateWrite fn on) s =
        .next (drainReady (releaseMsix fn (s.mFunc fn fun f => { f with d3hot := on })))) ∧
    (configOn s 0 = true → s.fe.vfEnable = false → exec (.vfEnableWrite on n) s = .next (s.mFe fun e => { e with
      vfEnable := on, numVfs := n, vfVectorsInForce := if on then e.vfVectors else e.vfVectorsInForce })) ∧
    (configOn s 0 = true → s.fe.vfEnable = true → exec (.vfEnableWrite true n) s = .next s ∧
      exec (.vfEnableWrite false n) s = .next ((flrOn (· ≠ 0) s).mFe fun e => { e with vfEnable := false })) ∧
    (setupOn s 0 = true →
      (s.fe.vfEnable = false → 1 ≤ n.toNat → n.toNat ≤ 64 → s.fe.vfVectors ≠ n.setWidth 7 →
        exec (.vfVectorsWrite (n.setWidth 32)) s = .next (if (s.func 0).locked then raiseFn 0 .lockedWrite s
          else s.mFe fun e => { e with vfVectors := n.setWidth 7 })) ∧
      ((s.fe.vfEnable = true ∨ n = 0 ∨ (64 < n.toNat ∧ n.toNat < 128)) →
        exec (.vfVectorsWrite (n.setWidth 32)) s = .next s)) ∧
    (configOn s fn = true →
      (fn ≠ 0 → exec (.functionLevelReset fn) s =
        .next ((flrOn (· == fn) s).mFunc fn fun f => { f with flr := true })) ∧
      (fn = 0 → exec (.functionLevelReset fn) s = .next (((flrOn (fun _ => true) s).mFe fun e =>
        { e with vfEnable := false }).mFunc 0 fun f => { f with flr := true })) ∧
      ∃ t, exec (.functionLevelReset fn) s = .next t ∧ (t.func fn).flr = true ∧ (t.func fn).bme = false ∧
        (t.func fn).sriActive = 0 ∧ (t.func fn).evtFlags = 0 ∧ (∀ w ∈ t.fe.waiting, w.fn ≠ fn) ∧
        t.fe.vfEnable = (if fn = 0 then false else s.fe.vfEnable)) ∧
    ((s.func fn).flr = true → exec (.flrComplete fn) s = .next (s.mFunc fn fun f => { f with flr := false }))

/-- LINK_ENTERS_L0, LINK_LEAVES_L0, PERST_ASSERT, PERST_RELEASE, CONFIG_SPACE_READY and FUNCTION_READY complete. On main
power with PERST_N released and PCIe not held down the link reaches L0, and a device in Rest whose function has reported
becomes Ready; when the link leaves L0 every ring is DISABLED, no descriptor waits and a working mode falls back to
Rest; PERST_N asserted resets the PCIe side; released, it starts the time of R440; 20 ms later configuration space
answers, and the function reports ready, from which Rest becomes Ready (Table 1-7, Table 2-9, R437, R438, R440). -/
def Obligations.LinkAndPcieReset : Prop :=
  ∀ s : State,
    (s.fe.linkL0 = false → onMain s = true → s.fe.perstAsserted = false → pcieHeld s = false →
      ∃ t, exec .linkEntersL0 s = .next t ∧ t.fe.linkL0 = true ∧
        t.mode = (if s.mode = .rest ∧ s.fe.reported = true then .ready else s.mode)) ∧
    (s.fe.linkL0 = true → ∃ t, exec .linkLeavesL0 s = .next t ∧ t.fe.linkL0 = false ∧ t.fe.waiting = [] ∧
      (∀ r : SqNo, (t.sq r).state = .disabled) ∧ (∀ c : CqNo, (t.cq c).state = .disabled) ∧
      t.mode = (if s.mode.working then .rest else s.mode)) ∧
    (s.fe.perstAsserted = false → s.pwr.resetN = true → onMain s = true → ∃ t, exec .perstAssert s = .next t ∧
      t.fe.perstAsserted = true ∧ t.fe.linkL0 = false ∧ t.fe.cfgReady = false ∧ t.fe.reported = false ∧
      t.fe.vfEnable = false ∧ t.mode = (if s.mode.working then .rest else s.mode)) ∧
    (s.fe.perstAsserted = true → exec .perstRelease s =
      .next (s.mFe fun e => { e with perstAsserted := false, perstReleasedAt := some s.clk.now })) ∧
    (∀ t0, s.fe.perstAsserted = false → s.fe.perstReleasedAt = some t0 → t0 + 20000000 ≤ s.clk.now →
      onMain s = true → s.boot.stage = 7 →
      (pcieHeld s = false → exec .configSpaceReady s = .next (s.mFe fun e => { e with cfgReady := true })) ∧
      (∃ t, exec .functionReady s = .next t ∧ t.fe.reported = true ∧ t.fe.cfgReady = true ∧
        t.mode = (if s.mode = .rest ∧ s.fe.linkL0 = true then .ready else s.mode)))

/-- ADMISSION_DECISION completes. In a working mode of a Production device with no power failure warned of, on a tenant
this device serves, when no condition of Table 11-2 fails for a waiting descriptor that passes checks 3 to 6, it is the
one whose turn it is, nothing refuses it and a slot of the peal table is free, the governor admits it onto the chosen
cluster: a peal-table entry with the next admission number is made, its reservations are taken, and the descriptor no
longer waits (R26, R99, R299 to R307, R321). One that fails a check is refused with that status before Maintenance is
looked at; in Maintenance a tenant's is REFUSED; of a tenant whose role the device does not have it is FLUSHED (R66,
R82, R99). A descriptor without NO_WAIT that asks for no dual run and whose deadline can be met is not refused. One that
a measure withholds stays waiting with the cause noted, unless it says NO_WAIT, which completes it REFUSED at once (R86,
R91). After the decision the causes that withhold the others are noted (the model's choice of instant, log entry 181).
-/
def Obligations.AdmissionGivesAnEntry : Prop :=
  ∀ (order : Nat) (s : State) (w : Waiting), deciding s = true → s.fe.waiting.find? (·.order == order) = some w →
    (w.fn ≠ 0 → s.pair.roles.getLsbD w.fn.toNat = false →
      exec (.admissionDecision order) s = .next (noteCauses (refuseWaiting w (St.flushed, 2) s))) ∧
    ((w.fn = 0 ∨ s.pair.roles.getLsbD w.fn.toNat = true) →
      (∀ st, candOf s w = .inl st → exec (.admissionDecision order) s = .next (noteCauses (refuseWaiting w st s))) ∧
      (∀ c, candOf s w = .inr c →
        (w.fn ≠ 0 → s.mode = .maintenance →
          exec (.admissionDecision order) s = .next (noteCauses (refuseWaiting w (St.refused, 5) s))) ∧
        ((w.fn = 0 ∨ s.mode ≠ .maintenance) → ∀ u, u = noteDecision (candidates s) s →
          (∀ (x : Cand) (n : Nat) (p : PealSlot), c.cause u = none →
            turn u (candidates s) = some x → x.w.order = c.w.order → refusal u c none = none → c.cluster = some n →
            freeSlot u = some p → exec (.admissionDecision order) s =
              .next (noteCauses (admitPeal { c with w := w.note u.clk.now none } n p u))) ∧
          (∀ held, c.d.noWait = false → c.d.dual = false → deadlineMissed u c = false → refusal u c held = none) ∧
          (∀ k, c.cause u = some k → refusal u c (some k) = none →
            exec (.admissionDecision order) s = .next (noteCauses (setWaiting (w.note u.clk.now (some k))
              (if c.cls.toNat ≤ 1 ∧ (k = 3 ∨ k = 4) then u.mGov fun g => { g with waited := true } else u)))) ∧
          (c.thermalFails u = true → c.d.noWait = true →
            exec (.admissionDecision order) s = .next (noteCauses (refuseWaiting w (St.refused, 3) u))))))

/-- What an admission takes before anything else: one more reserved entry of the bound completion ring, the peal's
tokens off the level, which saturates as a signed 32-bit value (log entry 180), its granules of its class's hold store
and its units of staging space; nothing but those parts and, when the level falls below zero, the event GOV_CAP_OVERRUN
changes (R50, R133, R134, R307). -/
def Obligations.AdmittedPealTakesItsReservations : Prop :=
  ∀ (c : Cand) (s : State) (q : CqNo), boundCq s c.w.ring = some q →
    ((reserveFor c s).gov.level = max (s.gov.level - c.tokens) (-(2 ^ 31))) ∧
    ((reserveFor c s).clap.staging = s.clap.staging + stagingFor c.maxOut) ∧
    ((reserveFor c s).clap.granulesCrit + (reserveFor c s).clap.granulesOther =
      s.clap.granulesCrit + s.clap.granulesOther + granulesFor c.maxOut) ∧
    (c.cls ≠ 0 → (reserveFor c s).clap.granulesCrit = s.clap.granulesCrit) ∧
    ((reserveFor c s).cq q).reserved = (s.cq q).reserved + 1 ∧ ((reserveFor c s).cq q).posted = (s.cq q).posted ∧
    reserveFor c s = { s with fe := (reserveFor c s).fe, clap := (reserveFor c s).clap, gov := (reserveFor c s).gov }

/-- SGL_LIST_READ, INPUT_READ_ERROR, REQUEST_PARSE, PEAL_ENTRY_FETCH_COMPLETE, TIER2_PAGE_IN_COMPLETE and
TIER3_FETCH_COMPLETE complete. For a running peal: a scatter-gather list of the length its descriptor states is read and
check 8 judges it once every list is there, and with it the keys (R77, R82); the whole input is read through its
buffer's ranges, and the request format's parse defines the fields or fails the peal after check 9 (R76, R118); a
refused read is reported by AER and stops the peal before its commit (R82, R140); its entries arrive in the peal cache
(R98), and one on a failed line ends the peal (R469); a resident key is judged when it has been paged in, and the end of
a tier-3 fetch installs the record and lets every waiter judge it, or fails every waiter (R159, R160, R166, R167, R182).
-/
def Obligations.WhatArrivesForAPeal : Prop :=
  ∀ (slot : PealSlot) (s : State) (q : Peal), s.peal slot = some q → q.phase = .running → q.abort = none →
    (∀ (out : Bool) (l : List (BitVec 128)), (if out then q.desc.outMode else q.desc.inMode) = 2 →
      (if out then q.outSgl else q.inSgl) = none → l.length = (if out then q.desc.outCnt else q.desc.inCnt) →
      canDma s q.fn = true → exec (.sglListRead slot out l) s = .next (keysSettle slot (judgeBuffers slot
        (hostRead q.fn (if out then q.desc.outAddr else q.desc.inAddr).toNat (16 * l.length) (s.mPeal slot fun q =>
          if out then { q with outSgl := some l } else { q with inSgl := some l }))))) ∧
    (canDma s q.fn = true → (q.listsRead = false ∨ q.input = none) →
      exec (.inputReadError slot) s = .next (abortPeal .inputRead slot (reportAer q.fn .input s))) ∧
    (∀ (bytes given : Bytes) (u : State), q.listsRead = true → q.entryReady = true →
      ((q.input = some given ∧ q.parsed = false ∧ u = s) ∨
       (q.input = none ∧ canDma s q.fn = true ∧ given = fit q.desc.inLen bytes ∧
        u = forwardDual slot given ((bufRanges q.desc.inMode q.desc.inAddr (q.inSgl.getD []) q.desc.inLen).foldl
          (fun s r => hostRead q.fn r.1 r.2 s) s))) →
      (q.parsed = true → exec (.requestParse slot bytes) s =
        .next (u.mPeal slot fun q => { q with input := some given })) ∧
      (q.parsed = false → q.fmts.find? (·.id == q.entry.reqFmt) = none → exec (.requestParse slot bytes) s =
        .next (u.mPeal slot fun q => { q with input := some given, parsed := true })) ∧
      (∀ f fs, q.parsed = false → q.fmts.find? (·.id == q.entry.reqFmt) = some f →
        runParse f.consts given [] f.instrs = some fs →
        exec (.requestParse slot bytes) s = .next (u.mPeal slot fun q =>
          { q with input := some given, parsed := true, fields := fs })) ∧
      (∀ f, q.parsed = false → q.fmts.find? (·.id == q.entry.reqFmt) = some f →
        runParse f.consts given [] f.instrs = none →
        exec (.requestParse slot bytes) s = .next (keysSettle slot (u.mPeal slot fun q =>
          { q with input := some given, parseFail := true })))) ∧
    (q.entryReady = false → exec (.pealEntryFetchComplete slot true) s = .next
      (touchCache q (s.mPeal slot fun q => { q with entryReady := true })) ∧
      exec (.pealEntryFetchComplete slot false) s = .next (failPeal slot (St.engineFault, 1) none s)) ∧
    (∀ handle : BitVec 24, exec (.tier2PageInComplete slot handle) s =
      .next (arriveKeys (keyNo q.fn handle.toNat) .paging false s slot)) ∧
    (∀ (fn : Fn) (handle : BitVec 24) (rd : HostRead) (f : Fetch) (mask : Bytes) (u : State),
      s.ks.fetches.find? (·.key == keyNo fn handle.toNat) = some f → canDma s fn = true →
      freshBytes 512 (fetchReads fn handle.toNat rd (s.mKs fun k =>
        { k with fetches := k.fetches.filter (·.key ≠ keyNo fn handle.toNat) })) = (mask, u) →
      (∀ st, fetchOutcome s fn handle.toNat rd mask = .inl st → exec (.tier3FetchComplete fn handle rd) s =
        .next (f.waiters.foldl (faultKeys (keyNo fn handle.toNat) st)
          (if st.2 = 4 then reportAer fn .keyTable (raiseFn fn .fetchError u) else u))) ∧
      (∀ r, fetchOutcome s fn handle.toNat rd mask = .inr r →
        ∃ v, v = f.waiters.foldl (arriveKeys (keyNo fn handle.toNat) .fetching true) (startCellWrite (keyNo fn handle.toNat)
            (installRec (keyNo fn handle.toNat) { underSet s (keyNo fn handle.toNat) r with
              pinned := s.ks.repin.contains (keyNo fn handle.toNat) }
              (u.mKs fun k => { k with repin := k.repin.filter (· ≠ keyNo fn handle.toNat) }))) ∧
          exec (.tier3FetchComplete fn handle rd) s =
            .next (if indicesMatch v (keyNo fn handle.toNat) r then v else dropRec (keyNo fn handle.toNat) v)))

/-- STEP_ISSUE completes. On a cluster that may issue, a ready step with no ready step of lower index for the same kind
of engine goes to the engines chosen for it; when it generates no nonce, draws nothing and passes its run-time input
checks, it is running on them from this instant (R125, R126, R221, R254). Where no engine is free it waits, a
verification before release from then on for a core of its own cluster (R268). -/
def Obligations.IssuedStepRunsOnItsEngines : Prop :=
  ∀ (slot : PealSlot) (step : BitVec 5) (s : State) (q : Peal) (st : StepDef) (k : EngKind),
    s.peal slot = some q → q.stepDef step.toNat = some st → engKind st.op.toNat = some k →
    canIssue s q.cluster = true → q.stepReady step.toNat = true → q.lowerReady step.toNat k = false →
    (∀ l : List Engine, pickEngines s q step.toNat st = some l →
      exec (.stepIssue slot step) s = .next (startStep slot step.toNat l s) ∧
      ((q.run step.toNat).phase = .waiting → inputFault s (q.live s slot) st = none → generates st = false →
        drawLen q st = 0 → exec (.stepIssue slot step) s = .next (unholdDraw slot step.toNat (seat slot step.toNat q.cluster l
          (s.mRun slot step.toNat fun r => { r with
            phase := .running, engine := l.head?, second := (l.drop 1).head?, drawn := [], started := s.clk.now,
            progress := 0, reshared := 0, ownOnly := false }))))) ∧
    (pickEngines s q step.toNat st = none →
      exec (.stepIssue slot step) s = .next ((s.mRun slot step.toNat fun r =>
        { r with ownOnly := r.ownOnly || (signerOf q step.toNat st).isSome }).mGov fun g => { g with waited := true }))

/-- STEP_END and JOB_ABANDON complete. For a running step of a running peal that nothing has doomed, on a device whose
clusters are not stopped, the producers of its data ended: the operation's failure ends it with that status; a data
output of a plain step is the one its operation computes, cut to its bound, a sensitive one kept as two shares (R227), a
key output in its slot of the cluster's cache (R110); a failed guard gives its shadow output and guard status; a FORMAT
step runs its entry, and a RANDOM step gives the bytes it drew; a step with a shadow input whose inputs fail their
checks gives zeros (R128, R138 to R140, R525). A combined signing step first waits for its verification, to which it
hands its digest, and then stands where that verifies, or no signature exists (R112, R268). Where a checked pair differs
in a segment the miscompare is counted, and the step waits for the spare with the segment noted, or where the cluster
has none fails ENGINE_FAULT, NO_SPARE with the event NO_MAJORITY (R245, R246). A running step that is doomed ends
abandoned at its next yield point (R140, R266). -/
def Obligations.RunningStepEnds : Prop :=
  ∀ (slot : PealSlot) (step : BitVec 5) (s : State) (q : Peal) (st : StepDef),
    s.peal slot = some q → q.stepDef step.toNat = some st → q.phase = .running →
    (q.run step.toNat).phase = .running → frozen s = false →
    (q.doomed step.toNat = false → (∀ d ∈ dataPreds st, (q.run d).phase = .ended) →
      ((combined st.op.toNat = false ∨ (q.run step.toNat).second = none) →
        (dryRun s q st = true → exec (.stepEnd slot step .done) s = .next (endStep slot step.toNat (zeroRun q st)
          (keepKey slot step.toNat q st (if givesKey st.op.toNat then zeros 32 else []) s))) ∧
        (dryRun s q st = false →
          (st.op = 0x60 → exec (.stepEnd slot step .done) s = .next (endFormat slot step.toNat q st s)) ∧
          (st.op = 0x68 → exec (.stepEnd slot step .done) s =
            .next (endStep slot step.toNat (fun r => { r with out := r.drawn, shadow := stepShadow q st }) s)) ∧
          (st.op ≠ 0x60 → st.op ≠ 0x68 →
            zeroSignature q st (workKey s q step.toNat) (stepInputs q st).1 (q.run step.toNat).drawn = false →
            (∀ fl, computed s q step.toNat st = .inl fl →
              exec (.stepEnd slot step .done) s = .next (failStep slot step.toNat st fl s)) ∧
            (∀ x, computed s q step.toNat st = .inr x → (q.run step.toNat).agreed = [] → (q.run step.toNat).agreedOk = none →
              (verifies st.op.toNat = true → x.verdict ≠ .valid → exec (.stepEnd slot step .done) s =
                .next (endGuardFail slot step.toNat q st (x.verdict == .malformed) x.out s)) ∧
              ((verifies st.op.toNat = false ∨ x.verdict = .valid) → combined st.op.toNat = true →
                exec (.stepEnd slot step .done) s = .next (freeEngines q.cluster slot step.toNat (q.run step.toNat)
                  ((noteCourse slot step.toNat s).mRun slot step.toNat fun r =>
                    { r with phase := .verifyWait, out := x.out.take (outBound q st), shadow := stepShadow q st,
                             handed := stepDigest s q st }))) ∧
              ((verifies st.op.toNat = false ∨ x.verdict = .valid) → combined st.op.toNat = false →
                ∀ hand mask u, hand = (if (releaseOp st.op.toNat).isSome then stepDigest s q st else []) →
                clusterBytes q.cluster x.out.length (keepKey slot step.toNat q st x.key s) = (mask, u) →
                (sensitive q.fmts st = false → exec (.stepEnd slot step .done) s =
                  .next (endStep slot step.toNat (fun r =>
                    { r with out := x.out.take (outBound q st), shadow := stepShadow q st, handed := hand }) u)) ∧
                (sensitive q.fmts st = true → exec (.stepEnd slot step .done) s =
                  .next (endStep slot step.toNat (fun r =>
                    { r with out := [], shadow := stepShadow q st, handed := hand,
                             masked := Shares.of (x.out.take (outBound q st)) mask }) u))))))) ∧
      (combined st.op.toNat = true → (q.run step.toNat).second.isSome = true →
        (halfOk s q step.toNat st = true → exec (.stepEnd slot step .done) s = .next (endStep slot step.toNat id s)) ∧
        (∀ u, u = releaseFailed (q.run step.toNat).engine (q.run step.toNat).second
            (failStep slot step.toNat st (St.engineFault, 2) s) →
          (halfOk s q step.toNat st = false → exec (.stepEnd slot step .done) s = .next u) ∧
          exec (.stepEnd slot step .faulty) s = .next u)) ∧
      (∀ (n : Nat) (seg : BitVec 12), (q.run step.toNat).second = some (.se n) → seg.toNat < segments s q step.toNat st →
        (∀ x ∈ (q.run step.toNat).agreed, x.1 < seg.toNat) →
        ((s.cluster q.cluster).se.any (·.role == .spare) = true → ∃ t q' x,
          exec (.stepEnd slot step (.miscompare seg)) s = .next t ∧ t.peal slot = some q' ∧
          (q'.run step.toNat).phase = .tieBreak ∧ (q'.run step.toNat).tie = some x ∧ x.segment = seg.toNat ∧
          x.at_ = s.clk.now ∧ x.input = segmentInput st (stepInputs q st).1 seg.toNat ∧ t.health = { s.health with
            miscompares := if s.health.miscompares = 0xFFFFFFFF then 0xFFFFFFFF else s.health.miscompares + 1 }) ∧
        ((s.cluster q.cluster).se.any (·.role == .spare) = false → exec (.stepEnd slot step (.miscompare seg)) s =
          .next (failStep slot step.toNat st (St.engineFault, 3) (raiseDev .noMajority (s.mHealth fun h => { h with
            miscompares := if h.miscompares = 0xFFFFFFFF then 0xFFFFFFFF else h.miscompares + 1,
            noMajority := if h.noMajority = 0xFFFFFFFF then 0xFFFFFFFF else h.noMajority + 1 })))))) ∧
    (q.doomed step.toNat = true → ∀ (isPk : Bool) (n : BitVec 3) (c : ClusterNo),
      (s.eng c isPk n.toNat).job = some (slot, step.toNat) →
      exec (.jobAbandon c isPk n) s = .next (resumeTest c (endStep slot step.toNat (fun r =>
        { r with out := [], masked := { a := [], b := [] }, tie := none }) s)))

/-- TIE_BREAK_COMPLETE completes. For the first miscompare that waits for its cluster's spare: where the spare agrees
with one engine of the pair, that output stands for its segment, the other engine is counted and retired, the spare
takes its place and the step runs on, and miscompares that waited end where no spare is left; where it agrees with
neither, the step fails ENGINE_FAULT, NO_MAJORITY with the event and the count, and no engine is retired (R246, R247,
R379). Retiring an active symmetric engine of a cluster with a spare: it stands retired with its cause, the spare is
active, its lifetime count rises by one, and ENGINE_RETIRED is flagged (R15, R246). -/
def Obligations.MiscomparesRetireAnEngine : Prop :=
  (∀ (slot : PealSlot) (step : BitVec 5) (s : State) (q : Peal) (st : StepDef) (a b m : Nat) (out : Bytes) (ok : Bool)
    (x : TieRec), s.peal slot = some q → q.stepDef step.toNat = some st → (q.run step.toNat).engine = some (.se a) →
    (q.run step.toNat).second = some (.se b) → (q.run step.toNat).phase = .tieBreak → (q.run step.toNat).tie = some x →
    frozen s = false → firstTie s q.cluster slot step.toNat x.at_ = true →
    (s.cluster q.cluster).se.findIdx? (·.role == .spare) = some m → q.doomed step.toNat = false →
    (∀ res loser, (res = .first out ok ∧ loser = b) ∨ (res = .second out ok ∧ loser = a) →
      ∃ u, u = occupy q.cluster false m slot step.toNat
        ((retireEngine q.cluster false loser .tieBreak (attribute_ q.cluster loser s)).mRun slot step.toNat fun r =>
          { r with phase := .running, tie := none, started := s.clk.now,
                   agreed := r.agreed ++ [(x.segment, out)],
                   agreedOk := if verifies st.op.toNat && x.segment + 1 = segments s q step.toNat st then some ok
                     else r.agreedOk }) ∧
        exec (.tieBreakComplete slot step res) s =
          .next (if (u.cluster q.cluster).se.any (·.role == .spare) then u else endTies q.cluster u)) ∧
    exec (.tieBreakComplete slot step .neither) s = .next (resumeTest q.cluster (failStep slot step.toNat st
      (St.engineFault, 1) (raiseDev .noMajority (s.mHealth fun h =>
        { h with noMajority := if h.noMajority = 0xFFFFFFFF then h.noMajority else h.noMajority + 1 }))))) ∧
  (∀ (c : ClusterNo) (n m : Nat) (cause : RetireCause) (s : State), s.clusters.length = 16 →
    ((s.cluster c).se.getD n EngineRec.init).role = .active → n < (s.cluster c).se.length →
    (s.cluster c).se.findIdx? (·.role == .spare) = some m →
    let t := retireEngine c false n cause s
    ((t.cluster c).se.getD n EngineRec.init).role = .retired ∧ ((t.cluster c).se.getD n EngineRec.init).cause = cause ∧
    ((t.cluster c).se.getD m EngineRec.init).role = .active ∧ t.fe.devFlags.getLsbD 19 = true ∧
    smGet 0 t.health.lifetime (16 * c.toNat + n) = smGet 0 s.health.lifetime (16 * c.toNat + n) + 1)

/-- RIMSHOT_SUSPEND, RIMSHOT_RESUME, PK_PREEMPT_PARK and PK_JOB_RESUME complete. A ready Critical step that finds no
free SE suspends the running step chosen, a checked pair as a whole, its context saved (R234); the one chosen is of a
lower class with at least 64 blocks left, and no eligible one has more, or as many on a lower engine (R233). When no
Critical step is ready the freed engines resume their oldest context 40 ns later (R235). A ready public-key step that
preempts the job of a core parks it at its yield point, its key and its inputs re-shared and kept, and issues there, no
other step coming first (R263, R264); once the core is free the parked job runs again 500 ns later (R264). -/
def Obligations.RimshotAndPreemption : Prop :=
  ∀ (s : State) (slot vp : PealSlot) (step : BitVec 5) (q v : Peal) (st vst : StepDef) (vi : Nat),
    s.peal slot = some q → s.peal vp = some v → q.stepDef step.toNat = some st → v.stepDef vi = some vst →
    canIssue s q.cluster = true →
    (∀ se : BitVec 3, (s.eng q.cluster false se.toNat).job = some (vp, vi) → q.cls = 0 →
      q.stepReady step.toNat = true → engKind st.op.toNat = some .se → pickSe s q st = none →
      rimshotVictim s q = some se.toNat → exec (.rimshotSuspend slot step se ()) s =
        .next ((seOf (v.run vi)).foldl (fun u n => saveContext s v vp vi vst n u)
          ((noteCourse vp vi s).mRun vp vi fun r => { r with phase := .suspended }))) ∧
    (∀ m, rimshotVictim s q = some m → ∃ b, eligibleBlocks s q m = some b ∧ 64 ≤ b ∧
      ∀ n b', n < 5 → eligibleBlocks s q n = some b' → b' ≤ b ∧ (b' = b → m ≤ n)) ∧
    (∀ (se : BitVec 3) (h : HeldJob) (l : List HeldJob), (s.eng q.cluster false se.toNat).held = h :: l → h.slot = vp →
      h.step = vi → criticalReady s q.cluster = false →
      (∀ n ∈ seOf (v.run vi), (s.eng q.cluster false n).job = none ∧
        ∃ x y, (s.eng q.cluster false n).held = x :: y ∧ x.slot = vp ∧ x.step = vi) →
      exec (.rimshotResume q.cluster se) s = .next ((seOf (v.run vi)).foldl (fun u n => takeUp q.cluster n u)
        (s.mRun vp vi fun r => { r with phase := .running, started := s.clk.now + 40 }))) ∧
    (∀ (pk : BitVec 3) (lmask kmask : Bytes) (u u2 : State), (s.eng q.cluster true pk.toNat).job = some (vp, vi) →
      preemptVictim s q step.toNat = some pk.toNat → preemptedBy s q step.toNat = false →
      clusterBytes q.cluster (s.eng q.cluster true pk.toNat).lanes.a.length (noteCourse vp vi s) = (lmask, u) →
      clusterBytes q.cluster (s.eng q.cluster true pk.toNat).work.a.length u = (kmask, u2) →
      exec (.pkPreemptPark slot step pk ()) s = .next (startStep slot step.toNat [.pk q.cluster pk.toNat]
        (setAside q.cluster true pk.toNat {
            slot := vp, step := vi, at_ := s.clk.now,
            context := (s.eng q.cluster true pk.toNat).lanes.refresh lmask, blocks := 0, key := none,
            work := (s.eng q.cluster true pk.toNat).work.refresh kmask, blind := (s.eng q.cluster true pk.toNat).blind }
          (u2.mRun vp vi fun r => { r with phase := .parked })))) ∧
    (∀ (pk : BitVec 3) (h : HeldJob) (l : List HeldJob), (s.eng q.cluster true pk.toNat).held = h :: l →
      (s.eng q.cluster true pk.toNat).job = none → (s.eng q.cluster true pk.toNat).selfTest = none →
      exec (.pkJobResume q.cluster pk) s = .next (takeUpParked q.cluster pk.toNat (s.mRun h.slot h.step fun r =>
        { r with phase := .running, started := s.clk.now + 500 })))

/-- RELEASE_VERIFY_SELF_TEST_COMPLETE, SPARE_SELF_TEST, SPARE_SELF_TEST_COMPLETE and COUNTER_CELL_WRITE_COMPLETE
complete. A core tested after a failed release verification goes back to work when it passes, and is counted, retired
and replaced when it fails (R269). A spare in a cluster in service starts its test, passes back to its place, and when
it fails is retired at once with its count and SPARE_FAIL; a symmetric spare's end lets the tie-breaks that waited for
it end (R377, R378). Once the persistent store has ended a key's cell write, and in synchronous mode the partner has
acknowledged it, the persisted H is the value written, or the higher one the cell has taken from the partner, the key's
record shows it, and a next write starts where it is needed (R239 to R241, R243). -/
def Obligations.SelfTestsAndCounterCells : Prop :=
  (∀ (c : ClusterNo) (pk : BitVec 3) (isPk : Bool) (n : Nat) (s : State),
    ((s.eng c true pk.toNat).selfTest.isSome = true → (s.eng c true pk.toNat).role = .active →
      (s.eng c true pk.toNat).job = none →
      exec (.releaseVerifySelfTestComplete c pk true) s =
        .next (s.mEng c true pk.toNat fun e => { e with selfTest := none, idleSince := s.clk.now }) ∧
      exec (.releaseVerifySelfTestComplete c pk false) s =
        .next (retireEngine c true pk.toNat .releaseVerify (attribute_ c (5 + pk.toNat) s))) ∧
    (spareOf s c isPk = some n →
      ((s.cluster c).inService = true → (s.cluster c).gating = false →
        ((s.cluster c).state = .active ∨ (s.cluster c).state = .clockGated) → onMain s = true →
        (isPk = true ∨ tieBreaks s c = []) → exec (.spareSelfTest c isPk) s =
          .next (s.mEng c isPk n fun e => { e with selfTest := some s.clk.now, testPaused := false })) ∧
      ((s.eng c isPk n).selfTest.isSome = true →
        exec (.spareSelfTestComplete c isPk true) s = .next (s.mEng c isPk n fun e => { e with selfTest := none }) ∧
        exec (.spareSelfTestComplete c isPk false) s = .next
          (let u := (s.mEng c isPk n fun e =>
             { e.cleared with role := .retired, cause := .selfTest, selfTest := none, testPaused := false }).mHealth
             fun h => { h with
               spareFails := if h.spareFails = 0xFFFFFFFF then h.spareFails else h.spareFails + 1,
               lifetime := smMod 0 (16 * c.toNat + (if isPk then 5 + n else n)) (· + 1) h.lifetime }
           let v := nvQueue 5 (.retirement (16 * c.toNat + (if isPk then 5 + n else n))) (raiseDev .spareFail u)
           if isPk then attribute_ c (5 + n) v else endTies c v)))) ∧
  (∀ (fn : Fn) (handle : BitVec 24) (s : State) (sp : CounterSpace) (h top : Nat),
    smFind (keyNo fn handle.toNat) s.ks.spaces = some sp → sp.writing = some h → sp.stored = true →
    (s.pair.sync = false ∨ s.pair.inService = false ∨ s.pair.hwmPending.any (·.2 == keyNo fn handle.toNat) = false) →
    top = max h (max sp.h (match cellOf s (keyNo fn handle.toNat) with | some c => c.h.toNat | none => 0)) →
    exec (.counterCellWriteComplete fn handle) s = .next (startCellWrite (keyNo fn handle.toNat)
      ((s.mSpace (keyNo fn handle.toNat) fun sp => { sp with h := top, writing := none, stored := false, fresh := false }).mRec
        (keyNo fn handle.toNat) fun r => { r with ivHwm := BitVec.ofNat 64 top })))

/-- COMMIT_POINT completes. For a peal sealed under R129, with fewer than 255 committed peals not completed (R135),
whose operation has not lapsed and that is not read-only: with a Steward-held record to write it begins that write (R18,
R130); in journal mode it joins the open group, whose 2 ms count from its first commit (the model's choice, log entry
197), or where the record would be too long marks the group as full and waits (R155); where the Toll's dirty limit of
255 would be passed it holds with TOLL_DIRTY_WAIT and a delta record starts (R335); otherwise it takes its commit point
in this cycle. A read-only peal takes it in this cycle in every case (R132, R155), and one whose operation has lapsed
meanwhile ends with that status instead (R219). -/
def Obligations.CommitPointTakesOneCommit : Prop :=
  ∀ (slot : PealSlot) (s : State) (q : Peal), s.peal slot = some q → commitReady s slot = true →
    (∀ st, effectLapse s q.effect = some st → exec (.commitPoint slot) s = .next (failPeal slot st none s)) ∧
    (effectLapse s q.effect = none → q.readOnly = true →
      exec (.commitPoint slot) s = .next (commitPeal slot none (leaveResume slot s))) ∧
    (effectLapse s q.effect = none → q.readOnly = false →
    (0 < stewardWrites s q → s.boot.stewardUp = true →
      exec (.commitPoint slot) s = .next (beginRecord slot (stewardWrites s q) (leaveResume slot s))) ∧
    (stewardWrites s q = 0 → s.toll.journal = true → s.toll.journalNext = none →
      groupWords s (s.clap.group ++ [slot]) ≤ 255 → exec (.commitPoint slot) s = .next
        (((leaveResume slot s).mClap fun c => { c with
          group := c.group ++ [slot],
          groupSince := if s.clap.group = [] ∧ s.clap.late = [] then s.clk.now else c.groupSince }).mPeal slot
          fun q => { q with phase := .grouped })) ∧
    (stewardWrites s q = 0 → s.toll.journal = true → s.toll.journalNext = none →
      255 < groupWords s (s.clap.group ++ [slot]) →
      exec (.commitPoint slot) s = .next (s.mClap fun c => { c with groupFull := true })) ∧
    (stewardWrites s q = 0 → s.toll.journal = false → 255 < dirtyCount s + newDirty s q → q.tollWait = false →
      exec (.commitPoint slot) s = .next (startDelta false false (raiseDev .tollDirtyWait
        (s.mPeal slot fun q => { q with tollWait := true })))) ∧
    (stewardWrites s q = 0 → s.toll.journal = false → dirtyCount s + newDirty s q ≤ 255 →
      exec (.commitPoint slot) s = .next (commitPeal slot none (leaveResume slot s))))

/-- While 255 peals have committed and their completions are not written, a sealed peal's commit point does nothing: it
waits, whatever its operation; so does the end of a Steward-held record's write, which then changes no peal and nothing
of the Clapper, and nothing at all where no closing statement waits; and the close and the end of a journal group wait
where the commits of the group would pass 255 (R135). -/
def Obligations.CommitWaitsBehind255 : Prop :=
  ∀ (slot : PealSlot) (s : State) (n : Nat), n = (s.peals.filter fun e => e.2.phase == .committed).length →
    (255 ≤ n → exec (.commitPoint slot) s = .next s ∧
      ∃ t, exec (.stewardRecordWriteComplete slot) s = .next t ∧ t.peals = s.peals ∧ t.clap = s.clap ∧
        (s.lc.closing = none → t = s)) ∧
    (255 < n + s.clap.group.length → exec .journalGroupClose s = .next s) ∧
    (255 < n + s.clap.writing.length → exec .groupRecordComplete s = .next s)

/-- The commit of a peal that is not read-only and whose operation has no effect of its own, at a count that does not
wrap: its journal entry, with the next sequence, its tag, tenant, peal and Toll class, is in the bank; the count has
advanced by one and the epoch is the same; the counter of its tenant and class, when it is charged to one of the classes
0 to 15, has risen by one and saturates; and the peal stands committed under that sequence (Table 5-1, R130, R146, R147,
R331, R332). -/
def Obligations.CommitIsOneTransaction : Prop :=
  ∀ (slot : PealSlot) (s : State) (q : Peal), s.peal slot = some q → q.readOnly = false → q.effect = .none →
    s.clap.count.toNat + 1 < 2 ^ 32 →
    let t := commitPeal slot none s
    (∃ e ∈ t.clap.journal, e.seq = s.clap.epoch ++ s.clap.count ∧ e.tag = q.desc.tag ∧ e.tenant = q.fn ∧
      e.pealId = q.entry.id ∧ e.toll = q.toll) ∧
    t.clap.count = s.clap.count + 1 ∧ t.clap.epoch = s.clap.epoch ∧
    (q.toll.toNat < 16 → smGet 0 t.toll.counters (16 * q.fn.toNat + q.toll.toNat) =
      satInc64 (smGet 0 s.toll.counters (16 * q.fn.toNat + q.toll.toNat))) ∧
    (∃ q', t.peal slot = some q' ∧ q'.phase = .committed ∧
      q'.journalSeq = some ((s.clap.epoch ++ s.clap.count).toNat) ∧ q'.committedAt = s.clk.now)

/-- The commit of a peal whose operation has no effect of its own changes no other peal in flight, no tenant record, no
tenant table, no byte of the persistent store, no fuse and no mode (R99, R130, R354). -/
def Obligations.CommitChangesNoOtherPeal : Prop :=
  ∀ (slot p : PealSlot) (s : State) (q : Peal), s.peal slot = some q → q.effect = .none → p ≠ slot →
    let t := commitPeal slot none s
    t.peal p = s.peal p ∧ t.tenants = s.tenants ∧ t.tables = s.tables ∧
      (∀ a, t.storeByte a = s.storeByte a) ∧ t.fuses = s.fuses ∧ t.mode = s.mode

/-- STEWARD_RECORD_WRITE_COMPLETE, JOURNAL_GROUP_CLOSE and GROUP_RECORD_COMPLETE complete. A peal whose Steward-held
record has been written takes its commit point (R18), unless what its operation needs has lapsed meanwhile, with which
it fails (R219), or the Toll's dirty limit would be passed, where it holds (R335). An open group of journal mode closes
2 ms after its first peal, when its record would be too long with the next, or when journal mode ends, and every peal of
it has begun its commit (R155, R338); the end of its record's write is the commit point of each of its peals, in order,
under consecutive sequences of one epoch (log entry 138), and the ledger entries it holds are clean. Each of them needs
room under the 255 of R135. A closing statement that waited for these commits is taken after them (R349). -/
def Obligations.RecordsAndGroupsCommit : Prop :=
  ∀ (slot : PealSlot) (s : State) (q : Peal) (n : Nat),
    n = (s.peals.filter fun e => e.2.phase == .committed).length →
    (s.peal slot = some q → q.phase = .writing → q.storeWait = 0 → s.clap.writing.contains slot = false → n < 255 →
      s.gov.thermal ≠ 3 →
      (∀ st, effectLapse s q.effect = some st →
        exec (.stewardRecordWriteComplete slot) s = .next (closeGoesOn (failPeal slot st none s))) ∧
      (effectLapse s q.effect = none → s.toll.journal = true ∨ dirtyCount s + newDirty s q ≤ 255 →
        exec (.stewardRecordWriteComplete slot) s = .next (closeGoesOn (tollClear (commitPeal slot none s)))) ∧
      (effectLapse s q.effect = none → s.toll.journal = false → 255 < dirtyCount s + newDirty s q →
        exec (.stewardRecordWriteComplete slot) s = .next (closeGoesOn (if q.tollWait then s
          else startDelta false false (raiseDev .tollDirtyWait (s.mPeal slot fun q => { q with tollWait := true })))))) ∧
    ((s.clap.group ≠ [] ∨ s.clap.late ≠ []) → s.toll.writing = none → s.pwr.pfwarn = false →
      n + s.clap.group.length ≤ 255 →
      (s.clap.groupSince + 2000000 ≤ s.clk.now ∨ s.clap.groupFull = true ∨ s.toll.journalNext = some false) →
      exec .journalGroupClose s = .next (closeGroup s) ∧ (closeGroup s).clap.group = [] ∧
        (closeGroup s).clap.writing = s.clap.group ∧
        ∀ p ∈ s.clap.group, ∀ q', (closeGroup s).peal p = some q' → q'.phase = .writing) ∧
    (∀ (r r1 : LogRec) (seq : BitVec 64) (u : State), s.clap.groupDone = true → s.toll.writing = some r →
      n + s.clap.writing.length ≤ 255 → takeSeqs s.clap.writing.length s = (seq, u) →
      r1 = { r with words := groupRecord s s.clap.lateIn s.clap.writing seq } →
      exec .groupRecordComplete s = .next (closeGoesOn (tollClear (journalSwitch (serveStatements r.seq (baseIfDue
        (clearTollWait (cleanLedger r1.words (commitGroup s.clap.writing seq
          (((u.mClap fun c => { c with writing := [], groupDone := false, late := c.late.drop c.lateIn, lateIn := 0 }).mToll
            fun k => { k with writing := none, log := k.log ++ [r1], logPage := r1.page + r1.size }).mNv fun v =>
            { v with array := storePut (tollAddr (661 + r1.page)) r1.bytes v.array,
                     lost := (v.put (tollAddr (661 + r1.page)) r1.bytes).lost })))))))))) ∧
    (∀ (p : PealSlot) (g : List PealSlot) (seq : BitVec 64), commitGroup [] seq s = s ∧
      commitGroup [p] seq s = commitPeal p (some seq.toNat) s ∧
      commitGroup (g ++ [p]) seq s = commitPeal p (some (seq.toNat + g.length)) (commitGroup g seq s))

/-- COMPLETION_POST and JOURNAL_POSTED_SET complete. A peal that failed, or that committed and may be released, on a
device that thermal trip does not stop, with its entry of an ENABLED completion ring or a free one and whose function
may write host memory: its output is written before its completion, its ring's credit returns as posted, its reserved
entry and its peal-table entry return (R49, R53, R131, R133); it waits for an entry of a ring that was disabled
meanwhile (log entry 133). A suppressed peal only frees its entry (R63); on a ring in ERROR the credit returns as
suppressed (R65). The output is written through the ranges of its buffer in order (R76, R81). One microsecond after the
write POSTED is set in its journal entry (Table 5-2). -/
def Obligations.CompletionIsPostedOnce : Prop :=
  ∀ (slot : PealSlot) (spend : BitVec 32) (s : State) (q : Peal) (c : CqNo) (seq : BitVec 64), s.peal slot = some q →
    ((q.phase = .failed ∧ q.dualPending = false) ∨ (q.phase = .committed ∧ mayRelease s q = true)) → s.gov.thermal ≠ 3 →
    (q.suppressed = true → exec (.completionPost slot spend) s = .next (freePeal slot q spend.toNat s)) ∧
    (q.suppressed = false → boundCq s q.ring = none →
      exec (.completionPost slot spend) s = .next (freePeal slot q spend.toNat (returnCredit true q.ring s))) ∧
    (∀ free : State → State, (∀ u, free u = if q.cplHeld then u.mCq c fun x => { x with reserved := x.reserved - 1 } else u) →
      q.suppressed = false → boundCq s q.ring = some c →
      ((s.cq c).state = .error → exec (.completionPost slot spend) s = .next (freePeal slot q spend.toNat
        (returnCredit true q.ring (free s)))) ∧
      ((s.cq c).state = .enabled → (q.cplHeld = true ∨ 0 < (s.cq c).free) → canDma s q.fn = true →
        exec (.completionPost slot spend) s = .next (lockdownCqs (freePeal slot q spend.toNat (returnCredit false q.ring
          (duePosted q (postCpl q.fn c q.cpl (free (writeOutput q s)))))))) ∧
      (((s.cq c).state = .disabled ∨ ((s.cq c).state = .enabled ∧ q.cplHeld = false ∧ (s.cq c).free = 0)) →
        exec (.completionPost slot spend) s = .next s) ∧
      (q.phase = .committed → q.outFault = false → writeOutput q s = s.mFe fun e => { e with
        bus := e.bus ++ (spread q.outString
          (bufRanges q.desc.outMode q.desc.outAddr (q.outSgl.getD []) q.outString.length)).map fun w =>
          .output q.fn q.desc.tag (BitVec.ofNat 64 w.1) w.2 })) ∧
    ((s.clap.postedDue.any fun x => x.1 == seq && decide (x.2 + 1000 ≤ s.clk.now)) = true →
      exec (.journalPostedSet seq) s = .next (s.mClap fun k => { k with
        postedDue := k.postedDue.filter (·.1 ≠ seq),
        journal := k.journal.map fun j => if j.seq.toNat = seq.toNat then { j with flags := j.flags ||| 1 } else j }))

/-- The credit of one outstanding descriptor returns as posted or as suppressed: OUTSTANDING falls by one, the one
counter rises by one, CONSUMED stays, and so CONSUMED less POSTED, SUPPRESSED and OUTSTANDING stays as it was; with
nothing outstanding the ring is unchanged. The doorbell consumes one credit for each descriptor it accepts (R53, R54).
-/
def Obligations.ReturnedCreditIsCountedOnce : Prop :=
  ∀ (q : SubRing) (supp : Bool) (now tail n : Nat),
    (q.outstanding ≠ 0 → (q.credit supp).outstanding = q.outstanding - 1 ∧ (q.credit supp).consumed = q.consumed ∧
      (q.credit supp).posted = q.posted + (if supp then 0 else 1) ∧
      (q.credit supp).suppressed = q.suppressed + (if supp then 1 else 0) ∧
      (q.credit supp).consumed - (q.credit supp).posted - (q.credit supp).suppressed -
        (q.credit supp).outstanding.setWidth 64 =
        q.consumed - q.posted - q.suppressed - q.outstanding.setWidth 64) ∧
    (q.outstanding = 0 → q.credit supp = q) ∧
    (n + q.outstanding.toNat < 2 ^ 17 →
      (q.accept now tail n).consumed - (q.accept now tail n).posted - (q.accept now tail n).suppressed -
        (q.accept now tail n).outstanding.setWidth 64 =
        q.consumed - q.posted - q.suppressed - q.outstanding.setWidth 64)

/-- OUTPUT_WRITE_REFUSED, COMPLETION_WRITE_REFUSED and CHIME_TIMER_EXPIRE complete. A refused write of a committed
peal's output leaves the commit as it is, is reported by AER and sets OUT_FAULT in its completion and its journal entry
(R83, R137). A refused write of a completion that was due on an ENABLED ring puts the ring into ERROR, is reported by
AER, raises CQ_WRITE_ERROR and suppresses what is reserved on it (R65). When the timer of a ring's oldest pending
completion has run out, the Chime sends its interrupt where it is enabled (R60). -/
def Obligations.RefusedWritesOfTheHost : Prop :=
  ∀ (slot : PealSlot) (s : State) (cq : CqNo) (fn : Fn),
    (∀ (q : Peal) (n : Nat), s.peal slot = some q → q.phase = .committed → q.suppressed = false → mayRelease s q = true →
      canDma s q.fn = true → q.outString ≠ [] → q.journalSeq = some n → exec (.outputWriteRefused slot) s =
        .next (setJournalFlag n 0x04 (reportAer q.fn .output (s.mPeal slot fun q => { q with outFault := true })))) ∧
    (cqOwner s cq = some fn → (s.cq cq).state = .enabled → canDma s fn = true →
      (s.peals.any fun e => (e.2.phase == .committed || e.2.phase == .failed) && !e.2.suppressed &&
        boundCq s e.2.ring == some cq) = true →
      ∃ u, u = raiseFn fn .cqWriteError (reportAer fn .completion (s.mCq cq fun q => { q with state := .error })) ∧
        exec (.completionWriteRefused cq) s =
          .next (drainReady ((committedOn u cq).foldl (fun s p => suppressBroken p s) u))) ∧
    (∀ p l, cqOwner s cq = some fn → (s.cq cq).pending = p :: l → p.at_ + 1000 * (s.cq cq).timer ≤ s.clk.now →
      (s.cq cq).irqEnable = true → exec (.chimeTimerExpire cq) s = .next (chimeSend fn cq s))

/-- NV_COMMAND_COMPLETE, STEWARD_COMMAND_GAP_EXPIRE, TOLL_DELTA_RECORD_TIMER, JOURNAL_MODE_BATTERY_TIMER and
VAULT_TIME_CHECKPOINT complete. With main power good and no hold, the command in progress ends: a program cycle counts
for each of its pages, the array takes its words, pages at their endurance or with a word that failed twice are remapped
to spares, its requester's work is done, and the next command in priority order starts, after 200 us where the command
was the Steward's; a transition or a power-up sequence that waited for it goes on (R200, R358 to R360, R369, R429); each
remapping takes one spare and counts one page (R369); with too few left the requester's failure is handled, the array
keeps what it held, and NV_WRITE_FAIL counts it (R370): a cell is exhausted; of a revocation, a vault time checkpoint or
a response table the words that were not written read as written until the next device reset, which finds the old. Where
the power-up sequence does not wait for it, a command of any work but a life-cycle or root record write changes no byte
of the store outside its words, no fuse and no mode. When the 200 us are over the next command starts (R360). One second
of vault time after the last record started, with a counter or a ledger entry dirty and journal mode off, the Toll
starts a delta record (R178, R335). When a battery has been present for 1 s, journal mode ends at the next group
boundary (R338). Every 2^21 periods on main power a checkpoint of vault time is queued (R507). -/
def Obligations.StoreCommandsAndTimers : Prop :=
  (∀ (s : State) (c : NvCmd) (res : NvResult), s.nv.current = some c → s.nv.held = false → s.pwr.mainGood = true →
    ((res = .done ∨ c.cls ≠ 1) ∧ (res = .remapped → s.nv.spares ≠ 0) ∧ (res = .noSpare → s.nv.spares = 0)) →
    ∀ addr bs u, c.data.writes s.nv.array = (addr, bs) →
      u = (s.mNv fun n => { n with
        current := none, gapUntil := if c.cls = 5 then s.clk.now + 200000 else n.gapUntil,
        wear := (c.data.pages s.nv.array).foldl (fun m p => smMod 0 p (· + 1) m) n.wear }) →
    (res ≠ .noSpare → (remapPages c res s).length ≤ s.nv.spares.toNat → exec (.nvCommandComplete res) s =
      .next (afterStore c.work (nextCommand (workDone c.work
        ((remapPages c res s).foldl (fun s p => remap p s) (u.mNv (·.put addr bs))))))) ∧
    ((res = .noSpare ∨ s.nv.spares.toNat < (remapPages c res s).length) → exec (.nvCommandComplete res) s =
      .next (afterStore c.work (nextCommand (workFailed c.work (loseWrite c (raiseDev .nvWriteFail (u.mNv fun n => { n with
        writeFails := if n.writeFails = 0xFFFFFFFF then n.writeFails else n.writeFails + 1 }))))))) ∧
    (∀ t, exec (.nvCommandComplete res) s = .next t → (∀ e, c.work ≠ .lifeCycle e) → (∀ b, c.work ≠ .rootCopy b) →
      s.boot.awaitNoise = none → t.fuses = s.fuses ∧ t.mode = s.mode ∧
        ∀ a, (a < addr ∨ addr + bs.length ≤ a) → t.storeByte a = s.storeByte a)) ∧
  (∀ (u : State) (p : Nat) (addr : Nat) (bs : Bytes), (u.nv.put addr bs).array = storePut addr bs u.nv.array ∧
    (remap p u).nv.spares = u.nv.spares - 1 ∧ (remap p u).nv.remapped = u.nv.remapped + 1 ∧
    (remap p u).nv.array = u.nv.array ∧
    (u.nv.wf = true → ∀ i, i < bs.length → smGet 0 (storePut addr bs u.nv.array) (addr + i) = bs.getD i 0)) ∧
  (∀ (u : State) (c : NvCmd) (k h : Nat) (v : BitVec 64) (x : BitVec 44) (y : BitVec 4),
    (∀ i e, (i, e) ∈ (workFailed (.cell k h) u).ks.cells → e.key = k → e.exhausted = true) ∧
    (loseWrite c u).nv.array = u.nv.array ∧ u.nv.afterReset.array = u.nv.array ∧ u.nv.afterReset.lost = [] ∧
    (workFailed (.revocation k none) u).ks = u.ks ∧ workFailed (.vtimeCheckpoint v) u = u ∧
    ((workFailed (.response x y) u).tmp.response = x ∧ (workFailed (.response x y) u).tmp.polarity = y) ∧
    (u.nv.unstored = [] → (restoreUnstored (workFailed (.response x y) u)).tmp.response = u.tmp.response ∧
      (restoreUnstored (workFailed (.response x y) u)).tmp.polarity = u.tmp.polarity)) ∧
  (∀ s : State,
    (s.nv.gapUntil ≤ s.clk.now →
      exec .stewardCommandGapExpire s = .next (s.mNv fun n => NvStore.kick s.clk.now n)) ∧
    ((s.toll.dirty ≠ [] ∨ ∃ e ∈ s.ks.ledger, e.2.dirty = true) → s.toll.journal = false →
      s.toll.lastRecordAt + 32768 ≤ s.clk.vtime.toNat → s.pwr.pfwarn = false → onMain s = true →
      exec .tollDeltaRecordTimer s = .next (startDelta false false s)) ∧
    (onMain s = true → journalWanted s = false → s.toll.journal = true → exec .journalModeBatteryTimer s =
      .next (journalSwitch (s.mToll fun k => { k with journalNext := some false }))) ∧
    (onMain s = true → s.clk.vtime.toNat % 2 ^ 21 = 0 →
      exec .vaultTimeCheckpoint s = .next (nvQueue 3 (.vtimeCheckpoint s.clk.vtime) s)))

/-- REFILL_BOUNDARY completes. Ten microseconds after the last boundary on main power: the level gains the cap's energy
and the settlement less the base energy, in whole microjoules, limited to the depth of 1,000 uJ per watt, kept in 32
signed bits (log entry 180), with GOV_CAP_OVERRUN when it falls below zero; then the measures, the sensors, the thermal
level and Surge are judged in that order, and the waiting descriptors that have a deadline, and the causes of those that
still wait are noted (R91, R303, R306, R308; log entry 181). Measure i is in force below its threshold, and stays until
its lift value (R314, Table 11-6); thermal levels 1, 2 and 3 are entered at 95, 105 and 115 degrees and left below 90,
100 and 110 (R317, Table 11-7). -/
def Obligations.RefillBoundaryAndItsTables : Prop :=
  (∀ (base package : BitVec 16) (temps : List (BitVec 9)) (waited : Bool) (s : State), onMain s = true →
    s.gov.boundaryAt + 10000 ≤ s.clk.now →
    waited = (s.gov.waited || stepWaits s || descWaits s) →
    ∃ u v, u = (refill base s).mGov (fun g =>
        { g with boundaryAt := s.clk.now, packagePower := package, basePower := base }) ∧
      u.gov.level = max (min (s.gov.level + (s.gov.settle + 100 * (s.gov.watts.toNat : Int) - (base.toNat : Int)) / 10)
        (1000 * (s.gov.watts.toNat : Int))) (-(2 ^ 31)) ∧
      u.gov.depth = 1000 * s.gov.watts.toNat ∧
      (0 ≤ s.gov.level → u.gov.level < 0 → u.fe.devFlags.getLsbD 7 = true) ∧
      v = (judgeSurge waited (judgeThermal (readSensors temps
        (u.mGov fun g => { g with measures := measuresAt (headroom u) g.measures })))).mGov
          (fun g => { g with waited := false }) ∧
      exec (.refillBoundary base package temps ()) s = .next (noteCauses (v.fe.waiting.foldl judgeDeadline v))) ∧
  (∀ (h i : Nat) (old : BitVec 7), i < 7 → (measuresAt h old).getLsbD i =
    decide (h < [75, 60, 50, 40, 30, 20, 10].getD i 0 ∨
      (old.getLsbD i = true ∧ h < [80, 65, 55, 45, 35, 25, 15].getD i 0))) ∧
  (∀ (tj : Int) (old : Nat), old ≤ 3 → thermalAt tj old ≤ 3 ∧
    (115 ≤ tj → thermalAt tj old = 3) ∧ (tj < 90 → thermalAt tj old = 0) ∧
    (105 ≤ tj → 2 ≤ thermalAt tj old) ∧ (95 ≤ tj → 1 ≤ thermalAt tj old) ∧
    (old = 3 → 110 ≤ tj → thermalAt tj old = 3) ∧ (old < 3 → tj < 115 → thermalAt tj old < 3) ∧
    (old < 2 → tj < 105 → thermalAt tj old < 2) ∧ (old < 1 → tj < 95 → thermalAt tj old = 0))

/-- GOV_CAP_WRITE, GOV_WEIGHT_WRITE, GOV_TENANT_SHARE_WRITE, CLUSTER_WAKE_COMPLETE, CLOCK_GATE_TIMER, POWER_GATE_TIMER,
CLUSTER_GATING_COMPLETE, KEY_CACHE_RESHARE, ROOT_SECRET_RESHARE and BARRIER_DRAIN_COMPLETE complete. A cap of 25 to 110
W takes effect, and a grant of Surge whose conditions it ends starts anew (R320), and any other raises GOV_CAP_INVALID;
weights and a share in range take effect, others raise GOV_SHARE_INVALID (R305, Table 11-9; SPEC_EN is written on grade
X only). A cluster whose wake time is over is active; an idle one is clock-gated after its idle time and starts to be
power-gated after the next, its contents zeroised (R20, R322); power-gated, it serves the wake that waited (R21). Every
960 ns each cluster's next key slot and two extension units take fresh randomness into both shares, and every 64 s, on
battery every 1,024 s, so do the root secret, the branch keys' registers and the memory key; the values they hold stay
(R188, R197, R202). A barrier whose peals have ended drains (R189). -/
def Obligations.GovernorRegistersAndGating : Prop :=
  ∀ (d : BitVec 32) (x : BitVec 64) (c : ClusterNo) (s : State),
    (setupOn s 0 = true →
      (25 ≤ (d.extractLsb' 0 7).toNat → (d.extractLsb' 0 7).toNat ≤ 110 → exec (.govCapWrite d) s =
        .next (lapseSurge (s.mGov fun g => { g with
          watts := d.extractLsb' 0 7, surgeEn := d.getLsbD 8,
          specEn := if s.fuses.grade = 2 then d.getLsbD 9 else g.specEn }))) ∧
      (((d.extractLsb' 0 7).toNat < 25 ∨ 110 < (d.extractLsb' 0 7).toNat) →
        exec (.govCapWrite d) s = .next (raiseDev .govCapInvalid s)) ∧
      exec (.govWeightWrite d) s = .next (if d.extractLsb' 0 8 = 0#8 ∨ d.extractLsb' 8 8 = 0#8 then
        raiseDev .govShareInvalid s
        else s.mGov fun g => { g with weightI := d.extractLsb' 0 8, weightB := d.extractLsb' 8 8 }) ∧
      exec (.govTenantShareWrite x) s = .next (if shareOk s s.gov.tenantSel (Share.ofWord x) then
        s.mGov fun g => { g with
          shares := smSet (shareDefault s.gov.tenantSel) s.gov.tenantSel.toNat (Share.ofWord x) g.shares }
        else raiseDev .govShareInvalid s)) ∧
    (∀ t0, s.clusters.length = 16 → (s.cluster c).waking = some t0 → t0 + wakeTime (s.cluster c) ≤ s.clk.now →
      ∃ t, exec (.clusterWakeComplete c) s = .next t ∧ (t.cluster c).state = .active ∧ (t.cluster c).waking = none ∧
        (∀ n, n ∉ groupOf c → t.cluster n = s.cluster n) ∧ t = { s with clusters := t.clusters }) ∧
    (idleFor s c .active (idleCg s) = true → exec (.clockGateTimer c) s = .next (serveToReady
      (s.mCluster c fun k => { k with state := .clockGated, idleSince := some s.clk.now }))) ∧
    (idleFor s c .clockGated (idlePg s) = true → s.clusters.length = 16 → ∃ t, exec (.powerGateTimer c) s = .next t ∧
      (t.cluster c).gating = true ∧ (t.cluster c).cache = [] ∧ (∀ e ∈ (t.cluster c).se, e.held = [] ∧ e.job = none) ∧
      (∀ n, n ≠ c → t.cluster n = s.cluster n) ∧ t = { s with clusters := t.clusters }) ∧
    ((s.cluster c).gating = true → s.clusters.length = 16 → ∃ t, exec (.clusterGatingComplete c) s = .next t ∧
      (t.cluster c).gating = false ∧
      (t.cluster c).waking = (if (s.cluster c).wakeAfterGating then some s.clk.now else none) ∧
      ((t.cluster c).state = .powerGated ∨ ((t.cluster c).state = .pllOff ∧ (s.cluster c).wakeAfterGating = false)) ∧
      t = { s with clusters := t.clusters }) ∧
    (onMain s = true → s.mode ≠ .lockdown → s.ks.reshareAt + 960 ≤ s.clk.now → s.clusters.length = 16 →
      ∃ t, exec .keyCacheReshare s = .next t ∧ t.ks.reshareAt = s.clk.now ∧ t.peals = s.peals ∧ t.ks.recs = s.ks.recs ∧
        ∀ n : ClusterNo,
          (((s.cluster n).enabled = true ∧ (s.cluster n).inService = true ∧
              ((s.cluster n).state = .active ∨ (s.cluster n).state = .clockGated)) →
            (t.cluster n).reshareSlot = (s.cluster n).reshareSlot + 1 ∧
            (t.cluster n).reshareUnit = (s.cluster n).reshareUnit + 2 ∧
            ∃ m, (t.cluster n).cache = (reshareCluster m (s.cluster n)).cache) ∧
          (((s.cluster n).enabled = false ∨ (s.cluster n).inService = false) → t.cluster n = s.cluster n)) ∧
    ((s.root.vault ≠ none ∨ s.root.regs.ident.a ≠ []) → aoRuns s = true →
      s.root.lastReshare + (if s.pwr.mainGood then 2097152 else 33554432) ≤ s.clk.vtime.toNat →
      (s.pwr.mainGood = true ∨ cellFails s = false) →
      ∃ t m n, exec .rootSecretReshare s = .next t ∧ t.root.lastReshare = s.clk.vtime.toNat ∧
        t.root.vault = s.root.vault.map (fun v => { v with secret := v.secret.refresh m }) ∧
        t.root.regs = s.root.regs.refresh n ∧ t.mem.key = s.mem.key.map (·.refresh (n.drop 192)) ∧
        t = { s with rng := t.rng, root := t.root, mem := { s.mem with key := t.mem.key } }) ∧
    (∀ (v m : Bytes) (x : Shares), x.a.length = x.b.length → x.a.length = m.length →
      (x.refresh m).value = x.value ∧ (v.length ≤ m.length → (Shares.of v m).value = v)) ∧
    (∀ (fn : Fn) (handle : BitVec 24) (b : Barrier), s.ks.barriers.find? (·.key == keyNo fn handle.toNat) = some b →
      undrained s b = false → exec (.barrierDrainComplete fn handle) s = .next (drainBarrier b s))

/-- NOISE_WINDOW_COMPLETE, STARTUP_TEST_RETRY, DRBG_SCHEDULED_RESEED, DRBG_RESEED_LIMIT_REACHED, DRBG_HOLD_EXPIRE,
MASKING_GENERATOR_REKEY and CARRIED_SEED_REPLACE complete. On main power: a window of a healthy source that passes both
tests adds its two conditioned blocks to the pool, up to 1,024, and lets waiting instances be instantiated and a held
debug challenge and closing statement be drawn; the third failing one within a second fails the source; one that passes
its fourth start-up window is healthy, and a failed attempt is retried once, after 1 ms (R275 to R281). A due reseed
takes an entropy input when the pool has one, which updates the instance's state (R282, R285); an instance at its limit
reseeds, or raises RNG_RESEED_LIMIT once (R293); a draw held for 50 ms ends its step ENTROPY_UNAVAILABLE (R292); the
masking generators every 10 ms and the carried seed every second take new values from the pool (R289, R290). -/
def Obligations.NoiseAndGenerators : Prop :=
  ∀ (k : BitVec 2) (w : BitVec 1024) (inst : BitVec 9) (s u : State), onMain s = true →
    u = s.mSource k (fun _ => (windowTest (s.source k) w).2) →
    ((s.source k).state = .healthy → (windowTest (s.source k) w).1 = true → s.rng.outage = false →
      exec (.noiseWindowComplete k w) s = .next (serveClosing (serveChallenge (bootGoesOn (startRekey
        (instantiateWaiting (u.mRng fun g => { g with pool := (g.pool ++ conditioned w).take 1024 }))))))) ∧
    ((s.source k).state = .healthy → (windowTest (s.source k) w).1 = false → exec (.noiseWindowComplete k w) s = .next
      (let fs := (s.source k).recent s.clk.vtime.toNat ++ [s.clk.vtime.toNat]
       let x := raiseDev .rngWindowDiscard (u.mSource k fun m => { m with fails := fs })
       if 3 ≤ fs.length then sourceLost k .failed x else x)) ∧
    ((s.source k).state = .starting → (s.source k).startFailed ≠ 1 → (s.source k).startPassed = 3 →
      (windowTest (s.source k) w).1 = true → exec (.noiseWindowComplete k w) s =
        .next (bootGoesOn (u.mSource k fun m => { m with state := .healthy, startPassed := 4 }))) ∧
    ((s.source k).state = .starting → (s.source k).startFailed = 1 → (s.source k).failedAt + 1000000 ≤ s.clk.now →
      exec (.startupTestRetry k) s = .next (s.mSource k fun n => { n with startPassed := 0, startFailed := 2 })) ∧
    (3 ≤ s.rng.pool.length → s.rng.katFailed = false → (reseedDue s inst.toNat = true ∨ atLimit s inst.toNat = true) →
      ∃ t, t = seedDrbg inst.toNat s ∧ exec (.drbgScheduledReseed inst) s = .next t ∧
        (atLimit s inst.toNat = true → exec (.drbgReseedLimitReached inst) s = .next t) ∧
        t.rng.pool = s.rng.pool.drop 3 ∧ (t.drbg inst.toNat).instantiated = true ∧
        (t.drbg inst.toNat).sinceReseed = 0 ∧ (t.drbg inst.toNat).reseedAt = s.clk.vtime.toNat ∧
        (t.drbg inst.toNat).state.value =
          drbgUpdate (s.drbg inst.toNat).state.value (blockBytes (s.rng.pool.take 3))) ∧
    (atLimit s inst.toNat = true → s.rng.pool.length < 3 →
      exec (.drbgReseedLimitReached inst) s = .next (raiseLimit inst.toNat s)) ∧
    (∀ (slot : PealSlot) (step : BitVec 5) (h : HeldDraw) (q : Peal) (st : StepDef),
      s.rng.held.find? (fun h => h.who == .step slot step.toNat) = some h → h.at_ + 50000000 ≤ s.clk.now →
      (s.drbg h.inst).instantiated = false → s.peal slot = some q → q.stepDef step.toNat = some st → ∀ u,
      u = raiseDev .rngHoldExpired (s.mRng fun g => { g with held := g.held.filter (·.who ≠ .step slot step.toNat) }) →
      ∀ v, v = (if h.inst < 256 then raiseFn (BitVec.ofNat 8 h.inst) .holdExpired u else u) →
      exec (.drbgHoldExpire slot step) s = .next (if q.isAdmin then opFail slot (St.entropyUnavailable, 3) step.toNat v
        else failStep slot step.toNat st (St.entropyUnavailable, 3) v)) ∧
    (s.rng.outage = false → s.rng.maskAt + 10000000 ≤ s.clk.now → s.clusters.length = 16 →
      1 + (masked s).length ≤ s.rng.pool.length →
      ∃ t, exec .maskingGeneratorRekey s = .next t ∧ t.rng.maskKey.isSome = true ∧ t.rng.maskPos = 0 ∧
        t.rng.maskRekeys = s.rng.maskRekeys + 1 ∧ t.rng.maskAt = s.clk.now ∧
        t.rng.pool = s.rng.pool.drop (1 + (masked s).length) ∧
        (∀ n : ClusterNo, s.mode ≠ .lockdown → (s.cluster n).enabled = true → (s.cluster n).inService = true →
          (t.cluster n).maskRekeys = (s.cluster n).maskRekeys + 1 ∧ (t.cluster n).maskKey.isSome = true) ∧
        t = { s with rng := t.rng, clusters := t.clusters }) ∧
    (s.rng.outage = false → s.rng.seedAt + 1000000000 ≤ s.clk.now → 2 ≤ s.rng.pool.length →
      exec .carriedSeedReplace s = .next (s.mRng fun g => { g with
        pool := g.pool.drop 2, carriedSeed := some (blockBytes (s.rng.pool.take 2)),
        seedReplaced := g.seedReplaced + 1, seedAt := s.clk.now }))

/-- The operation of an admin peal that passes, no step of it having failed and no dual run: every step has ended, the
peal is sealed at this instant with the operation's output and effect, and nothing else in the machine has changed
(R129, R527). One that fails ends the peal with the operation's status and no effect. -/
def Obligations.AdminOperationSealsItsPeal : Prop :=
  ∀ (slot : PealSlot) (s : State) (q : Peal) (out : Bytes) (e : Effect) (st : Stat), s.peal slot = some q →
    q.phase = .running → q.abort = none → q.dualRun = false → q.steps ≠ [] → (∀ r ∈ q.steps, r.fail = none) →
    (∃ q', (opPass slot out e s).peal slot = some q' ∧ q'.sealedAt = some (q.sealedAt.getD s.clk.now) ∧
      q'.opOut = out ∧ q'.effect = e ∧ q'.opDone = true ∧ q'.phase = .running ∧ (∀ r ∈ q'.steps, r.phase = .ended) ∧
      opPass slot out e s = { s with peals := (opPass slot out e s).peals }) ∧
    (∃ q', (opFail slot st 0 s).peal slot = some q' ∧ q'.phase = .failed ∧ q'.status = st.1 ∧ q'.sub = st.2 ∧
      q'.effect = .none ∧ q'.opOut = [] ∧ q'.failStep = some 0)

/-- GENERATE_SYMMETRIC_KEY, GENERATE_EC_KEY_PAIR, GENERATE_RSA_KEY_PAIR, GENERATE_MLDSA_KEY_PAIR,
GENERATE_MLKEM_KEY_PAIR, DERIVE_AND_STORE and IMPORT_X9143_BLOCK complete. A key peal that can run, with a template R183
accepts for its algorithms, a tenant with a KEK and an identity R185 admits: generation draws, one request after another
in its turn, prediction-resistant from the tenant's instance first and for a key pair's tests from its cluster's own,
keeps what it has drawn while a request is held, forms the key from the draws, then makes the record that will be
installed at the commit point, and returns its host block and public part (R184, R283 to R287); a derived child takes
its parent's handle and generation; an import unwraps its X9.143 block under its transport key and takes its key data
(R164, R185). The curves are those of the admission (R99). The record holds the key as two shares, its public part and
its check value (R171, R173). -/
def Obligations.KeysAreCreated : Prop :=
  ∀ (slot : PealSlot) (s : State) (q : Peal), s.peal slot = some q →
    (∀ (op : Instr) (id : Nat) (algs : List Nat) (tp : Template) (need : List Bytes → Option (Nat × Nat × Bool))
      (mk : List Bytes → State → State),
      (op = .generateSymmetricKey slot () ∧ id = 0xD0 ∧ algs = [1, 2, 3, 8, 9, 0x10]) ∨
      (op = .generateEcKeyPair slot () () ∧ id = 0xD1 ∧ algs = [0x20, 0x24, 0x26]) ∨
      (op = .generateRsaKeyPair slot () () ∧ id = 0xD2 ∧ algs = [0x30]) ∨
      (op = .generateMldsaKeyPair slot () () ∧ id = 0xD3 ∧ algs = [0x38]) ∨
      (op = .generateMlkemKeyPair slot () () ∧ id = 0xD4 ∧ algs = [0x3C]) →
      adminReady s q [id] = true → genCheck q algs s = .inr tp →
      need = genNeed q.curves q.fn.toNat (instI (4 + q.cluster.toNat)) tp.alg tp.param →
      mk = (fun draws v => match keyDefect q.curves tp.alg tp.param (keyFromDraws q.curves tp.alg tp.param draws) with
        | some sub => opFail slot (St.inputInvalid, sub) 0 v
        | none => makeKey slot q tp (keyFromDraws q.curves tp.alg tp.param draws)
            (publicTail q.curves tp.alg tp.param (keyFromDraws q.curves tp.alg tp.param draws)) 0xFFFFFFFF 0 v) →
      exec op s = .next (drawOn slot need mk genFuel s) ∧
      (need q.opDraws = none → exec op s = .next (mk q.opDraws s)) ∧
      need [] = some (q.fn.toNat, genDraw q.curves tp.alg tp.param, true) ∧
      (∀ d : Bytes, id ≠ 0xD2 → need [d] = if pairDraw q.curves tp.alg tp.param = 0 then none
        else some (instI (4 + q.cluster.toNat), pairDraw q.curves tp.alg tp.param, false)) ∧
      (∀ d e : Bytes, id ≠ 0xD2 → need [d, e] = none)) ∧
    (∀ (need : List Bytes → Option (Nat × Nat × Bool)) (k : List Bytes → State → State) (fuel : Nat) (u v : State),
      (need (drawnSo slot u) = none → drawOn slot need k (fuel + 1) u = k (drawnSo slot u) u) ∧
      (∀ (inst n : Nat) (pr : Bool) (bs : Bytes), need (drawnSo slot u) = some (inst, n, pr) →
        (drawInTurn slot 0 inst n pr u = (.served bs, v) → drawOn slot need k (fuel + 1) u =
          drawOn slot need k fuel ((unholdDraw slot 0 v).mPeal slot fun x =>
            { x with opDraws := x.opDraws ++ [bs] })) ∧
        (drawInTurn slot 0 inst n pr u = (.held, v) →
          drawOn slot need k (fuel + 1) u = holdFor (.step slot 0) inst pr v) ∧
        (∀ sub, drawInTurn slot 0 inst n pr u = (.failed sub, v) →
          drawOn slot need k (fuel + 1) u = opFail slot (St.entropyUnavailable, sub) 0 v))) ∧
    (∀ (tp : Template) (k : Nat) (r : KeyRec), adminReady s q [0xD6] = true →
      parseTemplate false q.inputBytes = some tp → slotRec s q 0 = some (k, r) →
      derivable tp.alg = true → r.parent = 0xFFFFFFFF →
      exec (.deriveAndStore slot ()) s = .next (makeKey slot q tp (derivedKey q.curves r.alg.toNat r.key.value
        tp.alg tp.param (q.inputBytes.drop 32)) [] (BitVec.ofNat 32 (keyHandle k)) r.gen s)) ∧
    (∀ (b : X9Block) (tp : Template) (k u : Nat) (tr : KeyRec) (key : Bytes),
      adminReady s q [0xE0] = true → parseTemplate false q.inputBytes = some tp → slotRec s q 0 = some (k, tr) →
      readX9 (q.inputBytes.drop 32) = some b → b.alg = algLetter tp.alg →
      importUsage (beNat b.usage) b.mode.toNat tp.alg = some u → versionFits b.version tr.alg.toNat = true →
      x9Unwrap (b.version == 0x44) tr.key.value b.head b.body = some key →
      tp.usage &&& u = tp.usage → keyDefect q.curves tp.alg tp.param key = none → exec (.importX9143Block slot ()) s =
        .next (makeKey slot q { tp with flags := if b.exp = 0x4E ∨ b.exp = 0x53 then
          tp.flags ||| 2 else tp.flags } key [] 0xFFFFFFFF 0 s)) ∧
    (∀ (tp : Template) (key tail mask pub : Bytes) (parent gen : BitVec 32) (r r1 : KeyRec) (g : Kek) (u : State),
      newRecord s q.fn tp parent gen = some r → (s.tenant q.fn).kek = some g → freshBytes key.length s = (mask, u) →
      pub = publicOf q.curves tp.alg tp.param key →
      r1 = { r with key := Shares.of key mask, pub := pub, kcv := keyKcv tp.alg key pub } →
      r1.key.value = key ∧ makeKey slot q tp key tail parent gen s =
        pass slot q ((hostBlock (keyNo q.fn tp.handle) r1 g u).1 ++ tail) (.newKey (keyNo q.fn tp.handle) r1)
          (hostBlock (keyNo q.fn tp.handle) r1 g u).2)

/-- CHANGE_STATE, REVOKE_KEY, PIN_OR_UNPIN, DROP, KEY_REPORT, EXPORT_X9143_BLOCK, SET_ALLOWANCES and
LOAD_KEY_STATE_POLICY complete. A key peal that can run passes, with the output and the effect its row of Table 4-3
gives it: a permitted change of state under the policy of its admission, with the next generation and its host block
(R176, R177); a revocation with its set entry (R191); a pin of a Critical key within the allowance, or an unpin (R170);
a drop (R184); a report of a key, fetched from its host table where it is not resident, and then kept unless the set
refuses it (R186); an export of an exportable key under a key at least as strong (R185); allowances within use and
totals (R187); a state policy (R176). -/
def Obligations.KeyPealsDoTheirOperation : Prop :=
  ∀ (slot : PealSlot) (s : State) (q : Peal), s.peal slot = some q →
    (∀ (k : Nat) (r : KeyRec) (g : Kek), adminReady s q [0xD8] = true → slotRec s q 0 = some (k, r) →
      (s.tenant q.fn).kek = some g → (q.inputBytes.headD 0).toNat ≤ 4 →
      (bitAt (kst q.pol.keyTable r.state.toNat).2 (q.inputBytes.headD 0).toNat = true ∨
        ((q.inputBytes.headD 0).toNat = 4 ∧ r.state ≠ 4)) → r.gen.toNat < 0x7FFFFFFF →
      rsetRoom s k false = true → ∃ b u,
        (b, u) = hostBlock k { r with gen := r.gen + 1, state := BitVec.ofNat 3 (q.inputBytes.headD 0).toNat } g s ∧
        exec (.changeState slot) s =
          .next (pass slot q b (.changeState k (BitVec.ofNat 3 (q.inputBytes.headD 0).toNat)) u)) ∧
    (∀ (k : Nat) (r : KeyRec), slotRec s q 0 = some (k, r) →
      (adminReady s q [0xD9] = true → r.gen.toNat < 0x7FFFFFFF → rsetRoom s k true = true →
        ∃ e : RsEntry, e.minGen = (r.gen + 1).setWidth 31 ∧ e.revoked = true ∧
          exec (.revokeKey slot) s = .next (pass slot q (natLe 8 (e.word k).toNat) (.revoke k) s)) ∧
      (adminReady s q [0xDA] = true →
        (q.inputBytes.headD 0 = 0 → exec (.pinOrUnpin slot) s = .next (pass slot q [] (.pin k false) s)) ∧
        (q.inputBytes.headD 0 = 1 → r.critical = true →
          (r.pinned = true ∨ pinnedBy s q.fn + r.size ≤ (allowance s q.fn).pins.toNat) →
          exec (.pinOrUnpin slot) s = .next (pass slot q [] (.pin k true) s))) ∧
      (∀ (tk : Nat) (tr : KeyRec), adminReady s q [0xE1] = true → slotRec s q 1 = some (tk, tr) →
        (q.inputBytes.headD 0 = 0x45 ∨ q.inputBytes.headD 0 = 0x4E) → r.nonExport = false →
        strength r.alg.toNat ≤ strength tr.alg.toNat → ∃ b u,
          (b, u) = keyBlock (isAes tr.alg.toNat) tr.key.value (q.inputBytes.headD 0) [] r s ∧
          exec (.exportX9143Block slot) s = .next (pass slot q b .none u))) ∧
    (∀ h : Nat, inputHandle q = some h →
      (adminReady s q [0xDB] = true → exec (.drop slot) s = .next (pass slot q [] (.drop (keyNo q.fn h)) s)) ∧
      (∀ (rd : HostRead) (r : KeyRec), adminReady s q [0xDC] = true → s.krec (keyNo q.fn h) = some r →
        exec (.keyReport slot rd) s = .next (pass slot q (keyReport s (keyNo q.fn h) r
          (if s.clusters.any (fun c => c.enabled && c.cache.any (·.key == keyNo q.fn h)) then 1 else 2)) .none s)) ∧
      (∀ (rd : HostRead) (r : KeyRec) (mask : Bytes) (v : State), adminReady s q [0xDC] = true →
        s.krec (keyNo q.fn h) = none → s.ks.fetches.any (·.key == keyNo q.fn h) = false → canDma s q.fn = true →
        freshBytes 512 (fetchReads q.fn h rd s) = (mask, v) → fetchOutcome s q.fn h rd mask = .inr r →
        (setRefuses s (keyNo q.fn h) q.seq r = true → exec (.keyReport slot rd) s =
          .next (pass slot q (keyReport v (keyNo q.fn h) (underSet s (keyNo q.fn h) r) 3) .none v)) ∧
        (setRefuses s (keyNo q.fn h) q.seq r = false → indicesMatch s (keyNo q.fn h) r = true →
          ∃ u, u = startCellWrite (keyNo q.fn h) (installRec (keyNo q.fn h) (underSet s (keyNo q.fn h) r) v) ∧
            exec (.keyReport slot rd) s =
              .next (pass slot q (keyReport u (keyNo q.fn h) (underSet s (keyNo q.fn h) r) 3) .none u)))) ∧
    (adminReady s q [0xDD] = true → q.inputBytes.getD 1 0 = 0 →
      allowanceOk s (q.inputBytes.getD 0 0) (inputAllowance q.inputBytes) = true → exec (.setAllowances slot) s =
        .next (pass slot q [] (.allowances (q.inputBytes.getD 0 0) (inputAllowance q.inputBytes)) s)) ∧
    (adminReady s q [0xDE] = true → (∀ i < 5, le q.inputBytes (4 * i) 4 < 2 ^ 24) →
      (∀ i, 5 ≤ i → i < 8 → le q.inputBytes (4 * i) 4 = 0) → exec (.loadKeyStatePolicy slot) s =
        .next (pass slot q [] (.keyPolicy q.fn
          ((List.range 8).map fun i => BitVec.ofNat 32 (le q.inputBytes (4 * i) 4))) s))

/-- CREATE_TENANT, OPEN_INTAKE_SESSION, ENTER_COMPONENT, CLOSE_INTAKE_SESSION, IMPORT_KEK, ROTATE_TABLE_SIGNING_KEY,
REWRAP_BLOCK, FINISH_KEK_ROTATION, ABANDON_PENDING_KEK, DESTROY_TENANT and INTAKE_SESSION_EXPIRE complete. A tenant peal
that can run passes, with its output and effect: T0 creates an ABSENT tenant with a table-signing key of the right
length (R208); a session opens on a free number for a caller that may, with a drawn and attested key pair (R209); a
component that is signed by its tenant and opens under the session's secret, not zero and with its check value, is
entered (R210); a complete session, or T0's import of a block that unwraps under a key strong enough, installs a KEK
(R211); what only T0 may ask is denied to another (R207); a rotation signed by the old key, or by T0 for a CREATING
tenant unsigned, replaces the table-signing key (R212); a rotation of the KEK rewraps, finishes on the pending key's
check value, or is abandoned (R213, R219); in Maintenance a tenant with every ring DISABLED is destroyed (R214). -/
def Obligations.TenantsAreAdministered : Prop :=
  ∀ (slot : PealSlot) (s : State) (q : Peal), s.peal slot = some q →
    (adminReady s q [0xE2] = true → tskBytes (q.inputBytes.getD 1 0) = some (q.inputBytes.length - 8) →
      zeroAt q.inputBytes 2 6 = true →
      q.fn = 0 → ((q.inputBytes.getD 0 0 ≠ 0 ∧ (s.tenant (q.inputBytes.getD 0 0)).state = .absent) ∨
       (q.inputBytes.getD 0 0 = 0 ∧ (s.tenant 0).state = .creating ∧ (s.tenant 0).tsk = [])) →
      exec (.createTenant slot) s = .next (pass slot q []
        (.createTenant (q.inputBytes.getD 0 0) (q.inputBytes.getD 1 0) (q.inputBytes.drop 8)) s)) ∧
    (∀ (t : Fn) (method alg : BitVec 8) (id : Nat) (d n secret mask body pub : Bytes) (u v w : State),
      adminReady s q [0xE3] = true → t = q.inputBytes.getD 0 0 → method = q.inputBytes.getD 1 0 →
      alg = q.inputBytes.getD 2 0 → 1 ≤ method.toNat → method.toNat ≤ 4 → (alg = 1 ∨ alg = 3) →
      zeroAt q.inputBytes 3 5 = true → mayIntake s q.fn t = true →
      (openSessions s ++ opening s).any (·.tenant == t) = false →
      freeIndex 4 ((openSessions s ++ opening s).map (·.id)) = some id →
      q.opDraws = [] → drawInTurn slot 0 (instI 0) (sessionDraw method) true s = (.served d, u) →
      secret = sessionKey method d → freshBytes secret.length
        ((unholdDraw slot 0 u).mPeal slot fun x => { x with opDraws := x.opDraws ++ [d] }) = (mask, v) →
      pub = publicOf [] (sessionAlg method) 2 secret →
      body = attestBody v 1 t (sessionRec method) id (sha384 pub) (q.inputBytes.drop 8) →
      drawInTurn slot 0 (instI 3) 56 false v = (.served n, w) → ∀ z,
      z = (unholdDraw slot 0 w).mPeal slot (fun x => { x with opDraws := x.opDraws ++ [n] }) →
      exec (.openIntakeSession slot ()) s = .next (pass slot q ([BitVec.ofNat 8 id] ++ zeros 7 ++ pub ++ body ++
          deviceSign z.root.regs.attest body n)
        (.openSession {
          id := id, tenant := t, method := method, kekAlg := alg, opened := s.clk.vtime.toNat,
          secret := Shares.of secret mask, parts := [] })
        z)) ∧
    (∀ x : Session, callerSession s q.fn (q.inputBytes.headD 0).toNat = some x →
      (∀ (i : Nat) (key : Bytes), adminReady s q [0xE4] = true → i = (q.inputBytes.getD 1 0).toNat →
        q.inputBytes.length = intakeLen x (s.tenant x.tenant).tskAlg → zeroAt q.inputBytes 2 6 = true →
        (intakeIndices x.method).contains i = true → x.parts.any (·.1 == i) = false →
        (x.method.toNat < 3 ∨ sigFault (intakeVerdict s x q.inputBytes) = none) → key.length = kekLen x.kekAlg →
        intakeOpen s x i q.inputBytes = (key ++ kcvBytes (keyKcv x.kekAlg.toNat key []), true) →
        key.all (· == 0) = false →
        exec (.enterComponent slot () () () ()) s = .next (pass slot q [] (.enterComponent x.id i key) s)) ∧
      (adminReady s q [0xE5] = true → (intakeIndices x.method).all (fun i => x.parts.any (·.1 == i)) = true →
        (s.tenant x.tenant).pendingKek = none → exec (.closeIntakeSession slot ()) s =
          .next (pass slot q (kcvBytes (keyKcv x.kekAlg.toNat (sessionKek x) []))
            (.installKek x.tenant x.kekAlg (sessionKek x) (some x.id)) s))) ∧
    (∀ (b : X9Block) (k : Nat) (tr : KeyRec) (key : Bytes), adminReady s q [0xE6] = true → q.fn = 0 →
      slotRec s q 0 = some (k, tr) → readX9 (q.inputBytes.drop 8) = some b → zeroAt q.inputBytes 1 7 = true →
      versionFits b.version tr.alg.toNat = true → beNat b.usage = 0x4B30 → b.alg = 0x41 →
      (s.tenant (q.inputBytes.getD 0 0)).pendingKek = none →
      x9Unwrap (b.version == 0x44) tr.key.value b.head b.body = some key → (key.length = 16 ∨ key.length = 32) →
      strength (kekAlgOf key).toNat ≤ strength tr.alg.toNat →
      exec (.importKek slot ()) s = .next (pass slot q (kcvBytes (keyKcv (kekAlgOf key).toNat key []))
        (.installKek (q.inputBytes.getD 0 0) (kekAlgOf key) key none) s)) ∧
    (∀ (op : Instr) (id : Nat), (op = .createTenant slot ∧ id = 0xE2) ∨
      (op = .importKek slot () ∧ id = 0xE6) ∨ (op = .destroyTenant slot ∧ id = 0xEB) → adminReady s q [id] = true →
      q.fn ≠ 0 → exec op s = .next (opFail slot (St.policyDenied, 2) 0 s)) ∧
    (∀ (n : Nat) (t : Fn) (free : Bool), adminReady s q [0xE7] = true →
      tskBytes (q.inputBytes.getD 0 0) = some n →
      rotateTarget s q.fn (q.inputBytes.length == 8 + n) (le q.inputBytes 1 4) = (t, free) →
      (s.tenant t).state ≠ .absent → (s.tenant t).tsk ≠ [] → zeroAt q.inputBytes 5 3 = true →
      le q.inputBytes 1 4 = (s.tenant t).tskGen.toNat + 1 →
      q.inputBytes.length = 8 + n + (if free then 0 else (sigBytes (s.tenant t).tskAlg).getD 0) →
      (free = true ∨ sigFault (ownerVerdict (s.tenant t).tskAlg (s.tenant t).tsk (q.inputBytes.take (8 + n))
        (q.inputBytes.drop (8 + n))) = none) → exec (.rotateTableSigningKey slot ()) s =
        .next (pass slot q [] (.rotateTsk t (BitVec.ofNat 32 (le q.inputBytes 1 4)) (q.inputBytes.getD 0 0)
          (slice q.inputBytes 8 n)) s)) ∧
    (∀ (k : Nat) (r : KeyRec) (g : Kek), adminReady s q [0xE8] = true → slotRec s q 0 = some (k, r) →
      rewrapKek s q = some g →
      exec (.rewrapBlock slot) s = .next (pass slot q (hostBlock k r g s).1 .none (hostBlock k r g s).2)) ∧
    (∀ g : Kek, (s.tenant q.fn).pendingKek = some g → adminReady s q [0xE9] = true → q.inputBytes.getD 3 0 = 0 →
      q.inputBytes.take 3 = kcvBytes g.kcv →
      exec (.finishKekRotation slot) s = .next (pass slot q [] (.finishRotation q.fn g.kcv) s)) ∧
    (adminReady s q [0xEA] = true →
      exec (.abandonPendingKek slot) s = .next (pass slot q [] (.abandonKek q.fn) s)) ∧
    (adminReady s q [0xEB] = true → q.fn = 0 → s.mode = .maintenance → (s.tenant (q.inputBytes.headD 0)).state ≠ .absent →
      ringsDisabled s (q.inputBytes.headD 0) = true → exec (.destroyTenant slot) s =
        .next (pass slot q [] (.destroyTenant (q.inputBytes.headD 0)) s)) ∧
    (∀ id : BitVec 2, exec (.intakeSessionExpire id) s = .next { s with
      sessions := s.sessions.filter fun x => x.id ≠ id.toNat || decide (s.clk.vtime.toNat < x.opened + 19660800) })

/-- TENANT_REPORT, HEALTH_REPORT, KEY_ATTESTATION, CERTIFICATE_CHAIN, LOOKUP_BY_TAG, READ_BY_SEQUENCE,
READ_BUILTIN_PEAL_TABLE, READ_COST_TABLE, READ_ALGORITHM_POLICY, DERIVE_INITIAL_DUKPT_KEY, USER_REGION_READ and
USER_REGION_STATUS complete. A read peal that can run passes with the bytes of what it reads and no effect: a tenant's
report to T0 or to itself (R215), the health report (R382), a key's attestation signed with the attestation key over a
nonce from I3 (R217, R218), the certificate chain (R205), journal entries by tag and by sequence (R150; the count as the
width of a range of sequences is the model's choice, log entry 144), the built-in peal table (R123), the cost table in
force (R309), an algorithm policy (R226), the initial DUKPT key's block of usage B1 (R216), bytes of the window the
caller had at admission, as the store shows them (R370, R373), and its status with the most cycles of a page of each
region (R369). -/
def Obligations.DeviceAnswersForItself : Prop :=
  ∀ (slot : PealSlot) (s : State) (q : Peal), s.peal slot = some q →
    (adminReady s q [0xED] = true → (q.fn = 0 ∨ q.inputBytes.headD 0 = q.fn) →
      exec (.tenantReport slot) s = .next (pass slot q (tenantReport s (q.inputBytes.headD 0)) .none s)) ∧
    (adminReady s q [0xEE] = true → exec (.healthReport slot) s = .next (pass slot q (healthBytes s) .none s)) ∧
    (∀ (k : Nat) (r : KeyRec) (bs body : Bytes) (u : State), adminReady s q [0xF8] = true →
      slotRec s q 0 = some (k, r) →
      body = attestBody s 0 (keyTenant k) r (keyHandle k) (pubDigest r) q.inputBytes →
      q.opDraws = [] → drawInTurn slot 0 (instI 3) 56 false s = (.served bs, u) → ∀ z,
      z = (unholdDraw slot 0 u).mPeal slot (fun x => { x with opDraws := x.opDraws ++ [bs] }) →
      exec (.keyAttestation slot) s = .next (pass slot q (body ++ deviceSign z.root.regs.attest body bs) .none z)) ∧
    (adminReady s q [0xF9] = true →
      exec (.certificateChain slot) s = .next (pass slot q (certificateChain s) .none s)) ∧
    (adminReady s q [0xFA] = true → (q.fn = 0 ∨ q.inputBytes.length ≠ 9 ∨ q.inputBytes.getD 8 0 = q.fn) →
      exec (.lookupByTag slot) s = .next (pass slot q (lookupOut s fun j =>
        j.tenant == (if q.inputBytes.length = 9 then q.inputBytes.getD 8 0 else q.fn) &&
          j.tag.toNat == le q.inputBytes 0 8) .none s)) ∧
    (adminReady s q [0xFB] = true → 1 ≤ le q.inputBytes 8 4 → le q.inputBytes 8 4 ≤ 256 →
      exec (.readBySequence slot) s = .next (pass slot q (lookupOut s fun j => j.tenant == q.fn &&
        decide (le q.inputBytes 0 8 ≤ j.seq.toNat) &&
        decide (j.seq.toNat < le q.inputBytes 0 8 + le q.inputBytes 8 4)) .none s)) ∧
    (adminReady s q [0xF3] = true →
      exec (.readBuiltinPealTable slot) s = .next (pass slot q builtinImage .none s)) ∧
    (adminReady s q [0xFD] = true →
      exec (.readCostTable slot) s = .next (pass slot q (s.gov.costImage.getD builtinCostImage) .none s)) ∧
    (adminReady s q [0xF5] = true → q.inputBytes.length = 1 → exec (.readAlgorithmPolicy slot) s =
      .next (pass slot q ([q.inputBytes.headD 0] ++ natLe 5 (algPolicy s (q.inputBytes.headD 0)).toNat ++ zeros 2) .none s)) ∧
    (∀ (k tk alg : Nat) (r tr : KeyRec) (ik : Bytes), adminReady s q [0xEC] = true → slotRec s q 0 = some (k, r) →
      slotRec s q 1 = some (tk, tr) → zeroAt q.inputBytes 1 7 = true →
      ((q.inputBytes.headD 0 = 1 ∧ isAes r.alg.toNat = true ∧ alg = r.alg.toNat) ∨
       (q.inputBytes.headD 0 = 2 ∧ isAes r.alg.toNat = false ∧ (q.inputBytes.getD 15 0).toNat % 32 = 0 ∧ alg = 8)) →
      strength alg ≤ strength tr.alg.toNat →
      ik = dukptInitial (q.inputBytes.headD 0 == 2) r.key.value (q.inputBytes.drop 8) →
      exec (.deriveInitialDukptKey slot) s = .next (pass slot q (x9Block (isAes tr.alg.toNat) tr.key.value [0x42, 0x31]
          (algLetter alg) 0x58 0x45 [] ik s.rng.calls) .none (s.mRng fun x => { x with calls := x.calls + 1 }))) ∧
    (∀ w n : Nat, adminReady s q [0xF2] = true → q.inputBytes.length = 8 → q.inputBytes.headD 0 = 1 →
      zeroAt q.inputBytes 1 1 = true → le q.inputBytes 2 2 = n → 1 ≤ n → n ≤ 256 →
      le q.inputBytes 4 4 + n ≤ 16 * q.window.2.toNat → w = 16 * q.window.1.toNat + le q.inputBytes 4 4 →
      userBusy s q (16 * w) (16 * n) = false →
      exec (.userRegionRead slot) s = .next (pass slot q (storeGet s.nv.seen (userBase + 16 * w) (16 * n)) .none s) ∧
      (s.nv.lost = [] → storeGet s.nv.seen (userBase + 16 * w) (16 * n) =
        (List.range (16 * n)).map fun i => s.userByte (16 * w + i))) ∧
    (adminReady s q [0xF2] = true → q.inputBytes.length = 1 → q.inputBytes.headD 0 = 4 →
      exec (.userRegionStatus slot) s = .next (pass slot q (natLe 2 s.nv.spares.toNat ++ natLe 2 s.nv.remapped.toNat ++
        (List.range 6).flatMap (fun r => natLe 4 (regionWear s r)) ++
        natLe 4 s.nv.writeFails.toNat ++ natLe 4 s.nv.damaged.toNat ++ natLe 2 q.window.1.toNat ++
        natLe 2 q.window.2.toNat ++ zeros 24) .none s)) ∧
    (∀ (r p n : Nat), smFind p s.nv.wear = some n → smSorted s.nv.wear = true → (regionPages r).1 ≤ p →
      p < (regionPages r).2 → n ≤ regionWear s r)

/-- USER_REGION_WRITE and SET_USER_WINDOW complete. A user region write that can run, of 1 to 256 words within the
caller's window and at most 16 pages, passes; the store command its record waits for writes the bytes of its input at 16
times its first word. A window set by T0 on pages no other tenant holds has its new pages zeroed by commands of at most
16 pages each, the newly given and no others. When such a command, or one of a life-cycle wipe, ends as done, the bytes
it writes stand in the store and every other byte of the store reads as before, and no fuse and no mode has changed
(R354, R358, R359, R372, R373). -/
def Obligations.UserWriteChangesItsWordsOnly : Prop :=
  (∀ (slot : PealSlot) (s : State) (q : Peal), s.peal slot = some q → adminReady s q [0xF2] = true →
    (∀ w n : Nat, q.inputBytes.length = 8 + 16 * n → q.inputBytes.headD 0 = 2 → zeroAt q.inputBytes 1 1 = true →
      le q.inputBytes 2 2 = n → 1 ≤ n → n ≤ 256 → le q.inputBytes 4 4 + n ≤ 16 * q.window.2.toNat →
      w = 16 * q.window.1.toNat + le q.inputBytes 4 4 → (w + n - 1) / 16 < w / 16 + 16 →
      exec (.userRegionWrite slot) s = .next (pass slot q [] (.userWrite (16 * w) (q.inputBytes.drop 8)) s) ∧
      effectData s (.userWrite (16 * w) (q.inputBytes.drop 8)) 0 = .words (userBase + 16 * w) (q.inputBytes.drop 8)) ∧
    (q.fn = 0 → q.inputBytes.length = 16 → q.inputBytes.headD 0 = 3 → q.inputBytes.getD 1 0 ≠ 0 →
      zeroAt q.inputBytes 2 2 = true → zeroAt q.inputBytes 8 8 = true → le q.inputBytes 4 2 ≤ 2047 →
      le q.inputBytes 4 2 + le q.inputBytes 6 2 ≤ 2048 →
      windowClash s (q.inputBytes.getD 1 0).toNat (le q.inputBytes 4 2) (le q.inputBytes 6 2) = false →
      exec (.setUserWindow slot) s = .next (pass slot q [] (.userWindow (q.inputBytes.getD 1 0)
        (BitVec.ofNat 16 (le q.inputBytes 4 2)) (BitVec.ofNat 16 (le q.inputBytes 6 2))) s))) ∧
  (∀ (t : Fn) (page count : BitVec 16) (s : State) (i p n : Nat) (ps : List Nat),
    ((pageRuns (newPages s t page.toNat count.toNat))[i]? = some (p, n) →
      effectData s (.userWindow t page count) i = .words (userBase + 256 * p) (zeros (256 * n))) ∧
    (∀ x, x ∈ ps ↔ ∃ r ∈ pageRuns ps, r.1 ≤ x ∧ x < r.1 + r.2) ∧ (∀ r ∈ pageRuns ps, 1 ≤ r.2 ∧ r.2 ≤ 16)) ∧
  (∀ (s : State) (addr : Nat) (bs : Bytes) (c : NvCmd), s.nv.wf = true → s.nv.current = some c →
    c.cls ≠ 1 → ((∃ slot i, c.work = .stewardRecord slot i) ∨ ∃ p n, c.work = .wipe p n) →
    c.data = .words addr bs → s.nv.held = false → s.pwr.mainGood = true →
    s.boot.awaitNoise = none → (wornPages s (c.data.pages s.nv.array)).length ≤ s.nv.spares.toNat →
    ∃ t, exec (.nvCommandComplete .done) s = .next t ∧ t.fuses = s.fuses ∧ t.mode = s.mode ∧ t.nv.wf = true ∧
      ∀ a, t.storeByte a = if addr ≤ a ∧ a < addr + bs.length then bs.getD (a - addr) 0 else s.storeByte a)

/-- LOAD_OWN_TABLE, LOAD_TABLE_FOR_TENANT, LOAD_COST_TABLE, CLEAR_OWN_TABLE, SET_ALGORITHM_POLICY, SET_PERMISSION_MAP,
SET_TOLL_BINDING_MAP, EMPTY_CARRIED_JOURNAL, MAINTENANCE_ENTER and MAINTENANCE_EXIT complete. A peal of these that can
run passes: an image whose header, signature (of a tenant's image under the tenant's table-signing key) and body pass
their steps, once it is its turn among the loads and the admitted peals of its tenant (R103), is put in force at the
commit point, for its own tenant, in Maintenance for another, or as the cost table (R100 to R102, R309); an own peal
table is cleared, and a format or curve table when what refers to it stays whole (R104); an algorithm policy, a
permission map or a Toll binding map with its reserved bits zero is set (R108, R124, R226); the carried journal is
emptied (R149); Maintenance is entered from Ready, Serve or Surge, and left to Ready, at the commit point (R27, Table
1-7). -/
def Obligations.TablesAndPoliciesChange : Prop :=
  ∀ (slot : PealSlot) (s : State) (q : Peal) (sig : SigVerdict) (h : TblHeader) (bs : Bytes),
    s.peal slot = some q → q.inputBytes = bs → parseTblHeader bs = h →
    (headerCheck s q h bs = none →
      (∀ b : TableBody, sigFault (imageVerdict s h bs) = none → tableWaits s q h.kind.toNat = false →
        bodyCheck s h (imageBody h bs) = some b →
        (adminReady s q [0xF0] = true → exec (.loadOwnTable slot () ()) s =
          .next (pass slot q (imageDigest h bs) (.loadTable h.tenant h.version h.seq (imageDigest h bs) b) s)) ∧
        (adminReady s q [0xF1] = true → s.mode = .maintenance → exec (.loadTableForTenant slot () ()) s =
          .next (pass slot q (imageDigest h bs) (.loadTable h.tenant h.version h.seq (imageDigest h bs) b) s))) ∧
      (∀ t : CostTable, sigFault sig = none → adminReady s q [0xFE] = true → parseCosts h.count (imageBody h bs) = some t →
        exec (.loadCostTable slot sig) s =
          .next (pass slot q (imageDigest h bs) (.loadCosts h.seq (imageDigest h bs) bs t) s))) ∧
    (adminReady s q [0xF4] = true → tableWaits s q 0 = false →
      (bs.headD 0 = 1 → exec (.clearOwnTable slot) s = .next (pass slot q [] (.clearTable q.fn 1) s)) ∧
      (bs.headD 0 = 2 → crossOk (tabPeals s q.fn) [] (curvesOf s q.fn) = true →
        exec (.clearOwnTable slot) s = .next (pass slot q [] (.clearTable q.fn 2) s)) ∧
      (bs.headD 0 = 3 → crossOk (tabPeals s q.fn) (tabFmts s q.fn) [] = true →
        exec (.clearOwnTable slot) s = .next (pass slot q [] (.clearTable q.fn 3) s))) ∧
    (adminReady s q [0xF5] = true → bs.length = 8 → (bs.getD 1 0).toNat < 16 →
      (bs.getD 5 0).getLsbD 0 = false → zeroAt bs 6 2 = true → exec (.setAlgorithmPolicy slot) s =
        .next (pass slot q [] (.algPolicy (bs.getD 0 0) (BitVec.ofNat 40 (le bs 1 5))) s)) ∧
    (adminReady s q [0xF6] = true → zeroAt bs 1 7 = true → exec (.setPermissionMap slot) s =
      .next (pass slot q [] (.permissionMap (bs.getD 0 0) (BitVec.ofNat 256 (le bs 8 32))) s)) ∧
    (adminReady s q [0xF7] = true → zeroAt bs 1 7 = true → (∀ i < 512, tollEntryOk i (bs.getD (8 + i) 0) = true) →
      exec (.setTollBindingMap slot) s = .next (pass slot q [] (.tollMap (bs.getD 0 0) (tollEntries (bs.drop 8))
        (sha384 ((bs.drop 8).take 512))) s)) ∧
    (adminReady s q [0xFC] = true → exec (.emptyCarriedJournal slot) s = .next (pass slot q [] .emptyCarried s)) ∧
    (adminReady s q [0xDF] = true →
      (bs.headD 0 = 1 → (s.mode = .ready ∨ s.mode = .serve ∨ s.mode = .surge) →
        exec (.maintenanceEnter slot) s = .next (pass slot q [] (.maintenance true) s) ∧
        (applyEffect slot (.maintenance true) s).mode = .maintenance) ∧
      (bs.headD 0 = 2 → s.mode = .maintenance → s.boot.fwBusy = false → s.lc.busy = false →
        exec (.maintenanceExit slot) s = .next (pass slot q [] (.maintenance false) s) ∧
        (applyEffect slot (.maintenance false) s).mode = .ready))

/-- TENANT_STATEMENT, FULL_STATEMENT, TOLL_STATUS_BLOCK, TOLL_SEAL, UNSEAL, FORCED_UNSEAL, SET_AUTHORITY_KEY,
REPLACE_STORE_IMAGE and SET_JOURNAL_MODE complete. A request of peal 0x00FF whose turn it is, the first admitted of
those that can run, in a working mode (R353): a tenant's statement to itself or to T0, and the full statement to T0, are
signed over the counters with the next sequence, when its mark is in the store (R342, R343); the status block is
returned (R351); a seal token in order, signed with the authority key, seals an unsealed Toll, and unseals a sealed one
(R345, R346); in Maintenance T0 forces the unseal with the seal count, sets an authority key, or replaces the store
image by no older one (R347, R348, R330); a mode setting of 0 to 2 takes effect at its commit point (R338). -/
def Obligations.TollPealDoesItsOperation : Prop :=
  ∀ (slot : PealSlot) (s : State) (q : Peal) (bs : Bytes), s.peal slot = some q → tollReady s q = true →
    tollBusy s (some slot) = false → tollAhead s q = false → q.inputBytes = bs →
    (∀ (ds body : Bytes) (kind : BitVec 8) (t : Option Fn) (u : State), s.toll.hasKey = true →
      stmtSeq s < s.toll.stmtHwm.toNat → body = stmtBody s kind t (stmtSeq s) (slice bs 8 32) →
      q.opDraws = [] → drawInTurn slot 0 (instI 3) 56 false s = (.served ds, u) → ∀ z,
      z = (unholdDraw slot 0 u).mPeal slot (fun x => { x with opDraws := x.opDraws ++ [ds] }) →
      (bs.length = 40 → bs.headD 0 = 1 → (q.fn = 0 ∨ bs.getD 1 0 = q.fn) → zeroAt bs 2 6 = true → kind = 1 →
        t = some (bs.getD 1 0) → exec (.tenantStatement slot) s = .next (pass slot q
          (body ++ deviceSign z.root.regs.toll body ds) (.tollStatement (stmtSeq s)) (awaitDelta slot z))) ∧
      (bs.length = 48 → bs.headD 0 = 2 → q.fn = 0 → zeroAt bs 1 7 = true → zeroAt bs 40 8 = true → kind = 2 →
        t = none → exec (.fullStatement slot) s = .next (pass slot q
          (body ++ deviceSign z.root.regs.toll body ds) (.tollStatement (stmtSeq s)) (awaitDelta slot z)))) ∧
    (bs.length = 1 → bs.headD 0 = 3 →
      exec (.tollStatusBlock slot) s = .next (pass slot q (tollStatus s) .none s)) ∧
    (q.fn = 0 →
      (bs.length = 168 → zeroAt bs 1 7 = true →
        sigFault (ownerVerdict 1 (s.toll.authority.getD []) (slice bs 8 64) (slice bs 0x48 96)) = none →
        (bs.headD 0 = 0x10 → tokenFields s 0x10 (bs.drop 8) = true → s.toll.sealed_ = false →
          s.toll.authority.isSome = true →
          exec (.tollSeal slot ()) s = .next (pass slot q [] (.tollSeal (slice bs 0x28 32)) s)) ∧
        (bs.headD 0 = 0x11 → tokenFields s 0x11 (bs.drop 8) = true → s.toll.sealed_ = true →
          exec (.unseal slot ()) s = .next (pass slot q [] (.tollUnseal false) s))) ∧
      (s.mode = .maintenance →
        (bs.length = 8 → bs.headD 0 = 0x12 → s.toll.sealed_ = true → zeroAt bs 1 3 = true →
          le bs 4 4 = s.toll.sealEvents.toNat →
          exec (.forcedUnseal slot) s = .next (pass slot q [] (.tollUnseal true) s)) ∧
        (bs.length = 105 → bs.headD 0 = 0x13 → s.toll.sealed_ = false → zeroAt bs 1 7 = true → bs.getD 8 0 = 4 →
          exec (.setAuthorityKey slot) s = .next (pass slot q [] (.tollAuthority (slice bs 8 97)) s)) ∧
        (∀ (sig : SigVerdict) (version : BitVec 32), sigFault sig = none → 8 ≤ bs.length →
          bs.headD 0 = 0x14 → s.toll.sealed_ = false → s.toll.imageVersion.toNat ≤ version.toNat →
          exec (.replaceStoreImage slot sig version ()) s =
            .next (pass slot q [] (.tollImage (bs.drop 8) version) s))) ∧
      (bs.length = 8 → bs.headD 0 = 0x15 → (bs.getD 1 0).toNat ≤ 2 → zeroAt bs 2 6 = true →
        exec (.setJournalMode slot) s = .next (pass slot q [] (.tollMode ((bs.getD 1 0).setWidth 2)) s)))

/-- At its commit point a seal sets the seal with its identifier, and an unseal, forced or not, clears both; each queues
the state record, the increment of the seal event counter and the next entry of the seal log, with the count, the time
and the seal; no counter, no byte of the store, no fuse and no mode changes yet (R345 to R347). When the counter's word
is written the count is what the spread counter then reads, one more than before, and TOLL_SEAL_CHANGE is flagged; when
the log's entry is, it is the newest of the 48 kept (R347, R367). -/
def Obligations.TollEffectsAtTheCommitPoint : Prop :=
  (∀ (slot : PealSlot) (s : State) (id : Bytes) (forced : Bool) (e : Effect) (t : State) (x : SealEntry),
    (e = .tollSeal id ∨ e = .tollUnseal forced) → t = applyEffect slot e s →
    x = { kind := if e = .tollSeal id then 1 else if forced then 3 else 2, events := s.toll.sealEvents + 1,
          vtime := s.clk.vtime, sealId := t.toll.sealId, extra := zeros 16 } →
    (e = .tollSeal id → t.toll.sealed_ = true ∧ t.toll.sealId = id) ∧
    (e = .tollUnseal forced → t.toll.sealed_ = false ∧ t.toll.sealId = zeros 32) ∧
    (∀ w, (w = .tollState (some slot) ∨ w = .sealCount (some slot) ∨ w = .sealEntry (some slot) s.toll.sealAt x) →
      ∃ c ∈ t.nv.queue ++ t.nv.current.toList, c.cls = 3 ∧ c.work = w) ∧
    t.toll.sealEvents = s.toll.sealEvents ∧ t.toll.sealLog = s.toll.sealLog ∧ t.toll.counters = s.toll.counters ∧
    (∀ a, t.storeByte a = s.storeByte a) ∧ t.fuses = s.fuses ∧ t.mode = s.mode) ∧
  (∀ (p : Option PealSlot) (i : Nat) (x : SealEntry) (s : State),
    (workDone (.sealCount p) s).toll.sealEvents = BitVec.ofNat 32 (spreadValue s.nv.array sealCells) ∧
    (workDone (.sealCount p) s).fe.devFlags.getLsbD 12 = true ∧
    (workDone (.sealEntry p i x) s).toll.sealLog = lastN 48 (s.toll.sealLog ++ [x]) ∧
    (NvWork.sealCount p).data s = .spread sealCells.1 sealCells.2) ∧
  (∀ (m : List Host.Cell) (c : Nat × Nat), arrayWf m = true → c ∈ [bootCells, epochCells, arbCells, sealCells] →
    spreadValue m c + 1 < 2 ^ 64 → spreadValue (spreadInc c m) c = spreadValue m c + 1 ∧
      spreadInc c m = storePut (spreadWrite m c).1 (spreadWrite m c).2 m)

/-- XEOLINK_TRAINING_COMPLETE, XEOLINK_BLOCK_LOCK_LOSS, XEOLINK_LANE_RETRAIN, HELLO, XEOLINK_HANDSHAKE_COMPLETE,
XEOLINK_HANDSHAKE_RETRY, XEOLINK_REKEY, HEARTBEAT_SEND, PARTNER_SILENCE_TIMEOUT, PEER_FAIL_N_LOW, PEER_FAIL_ROLE_TIMER,
REGISTER_PARTNER, SET_REPLICATION_MODE, TRANSFER_ROLES and TAKE_ROLES complete. On main power, training gives the lanes
that trained and passed their BIST; a lane that lost lock is dropped and retrains after 100 ms (R384). A hello with a
common XP version starts the handshake with the highest, with none it raises XL_VERSION_NONE (R385). A handshake with
the registered partner of the other role keys the session, brings the link up and starts the resynchronisation; another
raises XL_AUTH_FAIL and is retried 100 ms later (R386, R395). A quiet session is keyed anew (R387). A partner silent for
1 ms, or whose FAIL_N is low, fails over (R396); registered roles are taken after 2 s with the link down (R389). The
pair's control peal passes with its operation's effect (R390). -/
def Obligations.XeolinkComesUpAndFails : Prop :=
  ∀ (s : State) (lane ok b0 b1 : Bool) (map : BitVec 8) (serial : BitVec 128) (peer : Bytes),
    (onMain s = true → s.pair.link = .training → s.pair.lane0 = false → s.pair.lane1 = false →
      exec (.xeolinkTrainingComplete b0 b1) s = .next (linkDownIfBare (s.mPair fun x => { x with
        lane0 := b0 && s.pair.lanes.getLsbD 0, lane1 := b1 && s.pair.lanes.getLsbD 1,
        laneAt := (s.clk.now, s.clk.now) }))) ∧
    ((if lane then s.pair.lane1 else s.pair.lane0) = true → exec (.xeolinkBlockLockLoss lane) s =
      .next (linkDownIfBare (s.mPair fun x => if lane then { x with lane1 := false, laneAt := (x.laneAt.1, s.clk.now) }
        else { x with lane0 := false, laneAt := (s.clk.now, x.laneAt.2) }))) ∧
    (onMain s = true → (if lane then s.pair.lane1 else s.pair.lane0) = false → laneFit s lane = true →
      s.pair.laneTime lane + 100000000 ≤ s.clk.now →
      exec (.xeolinkLaneRetrain lane true) s = .next (s.mPair fun x =>
        let y := if lane then { x with lane1 := true } else { x with lane0 := true }
        if x.link = .down then { y with link := .training } else y)) ∧
    (s.pair.link = .training → (s.pair.lane0 = true ∨ s.pair.lane1 = true) →
      (commonVersion s.pair.versions map ≠ 0 → exec (.hello map) s = .next (s.mPair fun x => { x with
        version := commonVersion s.pair.versions map, link := .authenticating, handshakeAt := none })) ∧
      (commonVersion s.pair.versions map = 0 → s.pair.inService = false →
        exec (.hello map) s = .next (raiseDev .xlVersionNone (s.mPair fun x => { x with version := 0 })))) ∧
    (s.pair.link = .authenticating → s.pair.handshakeAt = none → s.boot.stewardUp = true →
      (∀ ds u, s.pair.partner = some (natLe 16 serial.toNat) → keyDefect [] 0x21 2 peer = none →
        shakeHands peer s = (.served ds, u) → ∃ v, v = u.mPair (fun x => { x with
          link := .up, rxSeq := 0, txSeq := 0, rxHold := [], dropped := [], lastFrameAt := s.clk.now }) ∧
        exec (.xeolinkHandshakeComplete true ok ⟨serial, peer⟩ (!s.pair.secondary)) s =
          .next (if ok && s.root.present then startResync v else v)) ∧
      (s.pair.inService = false → exec (.xeolinkHandshakeComplete false ok ⟨serial, peer⟩ b0) s =
        .next (raiseDev .xlAuthFail (s.mPair fun x => { x with handshakeAt := some s.clk.now })))) ∧
    (∀ t0, s.pair.handshakeAt = some t0 → t0 + 100000000 ≤ s.clk.now →
      exec .xeolinkHandshakeRetry s = .next (s.mPair fun x => { x with handshakeAt := none })) ∧
    (∀ ds u v, s.pair.link = .up → s.pair.unacked = [] → (∀ r ∈ s.pair.revokeUnacked, r.1 = 0) →
      (∀ r ∈ s.pair.hwmPending, r.1 = 0) → s.pair.syncNext = none → s.pair.rxHold = [] →
      partnerKey s = (peer, v) → shakeHands peer v = (.served ds, u) →
      exec .xeolinkRekey s = .next (u.mPair fun x => { x with rxSeq := 0, txSeq := 0, dropped := [] })) ∧
    exec .heartbeatSend s = .next (xlSend 0x01 ([if failNHigh s then 1 else 0] ++ natLe 32 s.pair.roles.toNat ++
      natLe 8 s.toll.lastOwn.toNat) s) ∧
    ((s.pair.inService = true ∨ s.pair.resync = true) → s.pair.lastFrameAt + 1000000 ≤ s.clk.now →
      exec .partnerSilenceTimeout s = .next (failOver s)) ∧
    (onMain s = true → exec .peerFailNLow s = .next (let u := s.mPair fun x => { x with
      peerFail := true, peerFailSince := some (x.peerFailSince.getD s.clk.vtime.toNat) }
      if s.pair.inService then failOver u else u)) ∧
    (∀ t0, s.pair.peerFailSince = some t0 → s.pair.link = .down → s.pair.peerFail = true →
      t0 + 65536 ≤ s.clk.vtime.toNat → onMain s = true →
      exec .peerFailRoleTimer s = .next (s.mPair fun x => { x with roles := x.roles ||| x.stored })) ∧
    (∀ (slot : PealSlot) (q : Peal), s.peal slot = some q → adminReady s q [0xEF] = true →
      (q.inputBytes.length = 24 → q.inputBytes.headD 0 = 1 → zeroAt q.inputBytes 1 7 = true → s.mode = .maintenance →
        exec (.registerPartner slot) s = .next (pass slot q [] (.registerPartner (slice q.inputBytes 8 16)) s)) ∧
      (q.inputBytes.length = 8 → q.inputBytes.headD 0 = 2 → (q.inputBytes.getD 1 0).toNat ≤ 1 →
        zeroAt q.inputBytes 2 6 = true → s.pair.partner.isSome = true → exec (.setReplicationMode slot) s =
          .next (pass slot q [] (.replicationMode (q.inputBytes.getD 1 0 == 1)) s)) ∧
      (q.inputBytes.length = 40 → zeroAt q.inputBytes 1 7 = true →
        (q.inputBytes.headD 0 = 3 → s.pair.inService = true → exec (.transferRoles slot) s =
          .next (pass slot q [] (.transferRoles (BitVec.ofNat 256 (le q.inputBytes 8 32))) s)) ∧
        (q.inputBytes.headD 0 = 4 → s.pair.inService = false → exec (.takeRoles slot) s =
          .next (pass slot q [] (.takeRoles (BitVec.ofNat 256 (le q.inputBytes 8 32))) s))))

/-- HEARTBEAT, COMMIT, RESYNC, HWM, REVOKE, ROLE, DUAL_REQ and DUAL_RESULT complete. On a link that is up, a frame whose
tag passes and whose sequence rises is noted, its acknowledgement is taken, and its message acts: HEARTBEAT gives the
partner's roles and takes those registered for this device (R389, R396); COMMIT and RESYNC record the partner's commits
(R394, R395); HWM raises a lower cell of its generation once it persists, REVOKE applies its entry as a barrier (R394);
ROLE hands roles over (R391); DUAL_REQ returns a result under XP v2, and DUAL_RESULT is compared (R399, R400). A frame
that fails its tag or goes back is dropped and acts on nothing (R387). -/
def Obligations.PartnerFramesAreActedOn : Prop :=
  ∀ (fr : Frame) (s u : State), s.pair.link = .up →
    u = ackTo fr.ack (s.mPair fun x => { x with rxSeq := fr.seq, lastFrameAt := s.clk.now }) →
    (fr.tagOk = true → s.pair.rxSeq.toNat < fr.seq.toNat →
      (∀ failN roles lastSeq, exec (.heartbeat fr failN roles lastSeq) s = .next (u.mPair fun x => { x with
        partnerRoles := roles, roles := x.roles ||| (x.stored &&& ~~~roles),
        peerFail := x.peerFail && !failN, peerFailSince := if failN then none else x.peerFailSince })) ∧
      (∀ p, exec (.commit fr p) s = .next (recordCommit u p)) ∧
      (∀ l, exec (.resync fr l false) s = .next ((l.take 64).foldl recordCommit u) ∧
        exec (.resync fr l true) s = .next
          (resyncEnd (((l.take 64).foldl recordCommit u).mPair fun x => { x with rxDone := true }))) ∧
      (∀ (t : Fn) (h : BitVec 24) (g : BitVec 32) (v : BitVec 64),
        ((u.ks.cells.any fun e => e.2.key == keyNo t h.toNat && e.2.gen == g && decide (e.2.h.toNat < v.toNat)) = true →
          exec (.hwm fr t h g v) s = .next (nvQueue 2 (.partnerCell (keyNo t h.toNat) v.toNat fr.seq)
            (u.mPair fun x => { x with rxHold := x.rxHold ++ [(fr.seq, false, keyNo t h.toNat)] })))) ∧
      (∀ entry : BitVec 64, ∃ (k : Nat) (t : State), k = keyNo (entry.extractLsb' 0 8) (entry.extractLsb' 8 24).toNat ∧
        exec (.revoke fr entry) s = .next t ∧
        (∃ e, smFind k t.ks.rset = some e ∧ e.minGen = entry.extractLsb' 32 31 ∧ e.revoked = entry.getLsbD 63 ∧
          e.barrier = some u.gov.admissions) ∧
        t.ks.barriers = u.ks.barriers ++ [{ slot := none, key := k, b := u.gov.admissions, revoke := entry.getLsbD 63,
                                            destroyed := entry.getLsbD 63, drained := false }] ∧
        t.pair.rxHold = u.pair.rxHold ++ [(fr.seq, true, k)]) ∧
      (∀ map, exec (.role fr map true) s = .next (u.mPair fun x => { x with transferring := none }) ∧
        exec (.role fr map false) s = .next (xlSend 0x05 (natLe 32 map.toNat ++ [1]) (gainRoles map u))) ∧
      (∀ fn d st sub dig, u.pair.version = 2 →
        exec (.dualReq fr fn d st sub dig) s = .next (xlSend 0x07 ([st, sub] ++ fit 48 dig) u)) ∧
      (∀ slot st sub dig, exec (.dualResult fr slot st sub dig) s = .next (dualJudge slot (u.mPeal slot fun q =>
        if q.dualPending && q.dualResult.isNone then { q with dualResult := some (st, sub, fit 48 dig) } else q)))) ∧
    ((fr.tagOk = false ∨ fr.seq.toNat ≤ s.pair.rxSeq.toNat) →
      ∀ p, exec (.commit fr p) s = .next (dropFrame s) ∧ (dropFrame s).clap = s.clap ∧
        (dropFrame s).pair.rxSeq = s.pair.rxSeq)

/-- SNARE_SENSOR_OUT_OF_RANGE, SNARE_SELF_CHECK, TAMPER_LOG_COPY, THROTTLE_EXPIRE, SENSORS_CLEAR_TIMER and TMP_COMMIT_GO
complete. While the Snare runs, monitored sensors out of range are each noted (event, log entry, SENSORS clear) and then
their strongest response is applied once (R404, R407, R411): LOG does nothing more, THROTTLE starts its second, LOCKDOWN
latches Lockdown with the sensor as its cause, and ZEROISE does so after the Gong; a response no stronger than that of a
Lockdown in force is logged only. On main power a sensor has the response of its two table bits; on battery IDs 11 to 17
have ZEROISE and THROTTLE acts as LOG (R410). The Gong pulls GONG_N low, clears the root secret, keys, tables, sessions,
journal and memory key, and programs the next root epoch, up to 32, where main power or the reservoir gives the energy
(R413, R414, Table 15-4). A self-check first puts the sensors that pass it back in range (R408). The latch is copied to
the log by a store write (R412), a THROTTLE ends after 1 s (R409), TMP_STATUS.CLEAR is set with every sensor in range
(Table 15-17), and a response table is committed in Maintenance at its floors, else refused (R410, R434). -/
def Obligations.SnareEventsAndResponses : Prop :=
  ∀ (s : State),
    (∀ (ids : BitVec 22) (ns : List Nat), snareOn s = true → ns = (sensorList ids).filter (monitored s) → ns ≠ [] →
      exec (.snareSensorOutOfRange ids) s = .next (respond ns (ns.foldl (noteSensor 1) s))) ∧
    (∀ (st : BitVec 2) (n : Nat), (noteSensor st s n).fe.devFlags.getLsbD DevEvent.tmpEvent.num = true ∧
      (noteSensor st s n).tmp.clear = false ∧ (noteSensor st s n).tmp.sensors.length = s.tmp.sensors.length) ∧
    (∀ ns : List Nat, (∀ n ∈ ns, responseNow s n = 0) → respond ns s = s) ∧
    (∀ (ns : List Nat) (l : LockLatch), s.tmp.lock = some l → (∀ n ∈ ns, responseNow s n ≤ l.response.toNat) →
      respond ns s = s) ∧
    (∀ n : Nat, n < 22 → s.tmp.lock = none →
      (responseNow s n = 1 →
        respond [n] s = s.mTmp fun t => { t with throttle := true, throttleAt := s.clk.now }) ∧
      (responseNow s n = 2 → respond [n] s = latchLockdown (BitVec.ofNat 5 n) 2 s) ∧
      (responseNow s n = 3 → respond [n] s = latchLockdown (BitVec.ofNat 5 n) 3 (gong s))) ∧
    (∀ n : Nat, n < 22 → responseNow s n =
      (if s.pwr.mainGood then (s.tmp.response.extractLsb' (2 * n) 2).toNat
       else if 11 ≤ n ∧ n ≤ 17 then 3
       else if (s.tmp.response.extractLsb' (2 * n) 2).toNat = 1 then 0
       else (s.tmp.response.extractLsb' (2 * n) 2).toNat)) ∧
    (∀ (cause : BitVec 5) (resp : BitVec 2), s.tmp.lock = none →
      ∃ l, (latchLockdown cause resp s).tmp.lock = some l ∧ l.cause = cause ∧ l.response = resp ∧
        l.onBattery = !s.pwr.mainGood ∧ l.vtime = s.clk.vtime ∧
        (s.mode ≠ .off → (latchLockdown cause resp s).mode = .lockdown)) ∧
    ((gong s).pwr.gongN = false ∧ (gong s).tmp.zeroised = true ∧ (gong s).root.vault = none ∧
      (gong s).root.present = false ∧ (gong s).ks.recs = [] ∧ (gong s).ks.ledger = [] ∧ (gong s).tables = [] ∧
      (gong s).sessions = [] ∧ (gong s).clap.journal = [] ∧ (gong s).mem.key = none ∧ (gong s).rng.pool = [] ∧
      (gong s).toll.bankValid = false ∧ (gong s).fuses =
        (if s.pwr.mainGood = true ∨ s.pwr.reservoir = true then
          { s.fuses with epoch := min 32 (s.fuses.epoch + 1) } else s.fuses) ∧
      (∀ a, (gong s).storeByte a = s.storeByte a)) ∧
    (∀ fails : BitVec 22, onMain s = true →
      exec (.snareSelfCheck fails) s = .next (snareEvent 2 fails (passCheck fails s)) ∧
      (∀ (i : Nat) (x : SnareSensor), s.tmp.sensors[i]? = some x → (passCheck fails s).tmp.sensors[i]? =
        some (if fails.getLsbD i = false ∧ x.state = 2#2 then { x with state := 0#2 } else x))) ∧
    (onMain s = true → s.tmp.latch ≠ [] → nvHas .tamperLog s = false →
      exec .tamperLogCopy s = .next (nvQueue 4 .tamperLog s)) ∧
    ((workDone .tamperLog s).tmp.latch = [] ∧
      (workDone .tamperLog s).tmp.log = (s.tmp.latch.reverse ++ s.tmp.log).take 1024) ∧
    (s.tmp.throttle = true → s.tmp.throttleAt + 1000000000 ≤ s.clk.now →
      exec .throttleExpire s = .next (s.mTmp fun t => { t with throttle := false })) ∧
    (snareOn s = true → (∀ x ∈ s.tmp.sensors, x.state ≠ 2#2) → exec .sensorsClearTimer s =
      .next (s.mTmp fun t => { t with clear := true, sensors := t.sensors.map fun x => { x with state := 0 } })) ∧
    (busOn s 0 = true → s.mode = .maintenance →
      ((∀ n, n < 22 → snareFloor n ≤ (s.tmp.stagedResponse.extractLsb' (2 * n) 2).toNat) → s.tmp.commitBusy = false →
        exec .tmpCommitGo s = .next (nvQueue 4 (.response s.tmp.stagedResponse s.tmp.stagedPolarity)
          (s.mTmp fun t => { t with commitBusy := true }))) ∧
      (s.fuses.lc = .production → (∃ n, n < 22 ∧ (s.tmp.stagedResponse.extractLsb' (2 * n) 2).toNat < snareFloor n) →
        exec .tmpCommitGo s = .next (raiseDev .tmpConfigRefused s)))

/-- VAO_CAP_CHARGE_TIMEOUT, GONG_N_HOLD_EXPIRE, PATROL_SCRUB, IMPEDANCE_CALIBRATION and CHANNEL_DEGRADED_CLEAR complete.
VAO_CAP late after main power good degrades the Gong's hold-up (R502), and with every supply gone GONG_N is released
when its hold stage runs out (R503). On main power with a trained memory: a scrub pass is counted, a corrected error is
counted and degrades a channel at 256 within 60 s, and a confirmed failure of a checked line is counted, with Lockdown
latched when a counter line fails (R467 to R469); calibration runs on every channel (R458). A degraded channel with
fewer than 16 errors in 60 s is in service again (R468). -/
def Obligations.HoldStageAndMemory : Prop :=
  ∀ (s : State) (c : BitVec 2),
    (s.pwr.mainGood = true → exec .vaoCapChargeTimeout s = .next (s.mPwr fun p => { p with gongDegraded := true })) ∧
    (s.pwr.mainGood = false → s.pwr.battA = false → s.pwr.battB = false →
      exec .gongNHoldExpire s = .next (s.mPwr fun p => { p with gongN := true })) ∧
    (onMain s = true → s.mem.trained = true →
      exec (.patrolScrub .passEnd) s = .next (s.mMem fun m => { m with scrubPasses := m.scrubPasses + 1 }) ∧
      exec .impedanceCalibration s = .next (s.mMem fun m =>
        { m with chans := m.chans.map fun (c : MemChan) => { c with calibrations := c.calibrations + 1 } }) ∧
      (∃ t, exec (.patrolScrub (.corrected c)) s = .next t ∧
        t.fe.devFlags.getLsbD DevEvent.memCorrected.num = true ∧
        (c.toNat < s.mem.chans.length → (t.chan c).corrected = satInc16 (s.chan c).corrected ∧
          ((s.chan c).state = 0 → 255 ≤ errorCount ((s.chan c).within60 s.clk.now) →
            (t.chan c).state = 1 ∧ t.fe.devFlags.getLsbD DevEvent.memDegraded.num = true)) ∧
        t = { s with mem := t.mem, fe := t.fe }) ∧
      (∀ (line : BitVec 24) (owner : LineOwner),
        (s.mem.key ≠ none → checkedLine s line.toNat = true → exec (.patrolScrub (.integrity line owner)) s =
          .next (integrityFault line.toNat owner s)) ∧
        ((integrityFault line.toNat owner s).fe.devFlags.getLsbD DevEvent.memIntegrity.num = true) ∧
        ((lineRegion s.mem.two line.toNat).counters = true → (integrityFault line.toNat owner s).locked = true) ∧
        (s.mem.key = none → exec (.patrolScrub (.integrity line owner)) s = .next s))) ∧
    ((s.chan c).state = 1 → s.mem.mismatch = false → errorCount ((s.chan c).within60 s.clk.now) < 16 →
      exec (.channelDegradedClear c) s = .next (s.mChan c fun x =>
        { x with state := 0, recent := (s.chan c).within60 s.clk.now }))

/-- FW_STAGE, FW_STAGE_COMPLETE, FW_ACTIVATE, FW_ABANDON, STEWARD_WATCHDOG_EXPIRE and STEWARD_RESTART_COMPLETE complete.
A firmware command outside Maintenance ends with RESULT 2, and while another is in progress with 11 (R452). Staging an
image of 0x2000 to 0x40_0000 bytes is in progress until it ends: an image that passes every check, with a security
version from the anti-rollback counter to 64 above it, is the unconfirmed image of the slot that does not run, and any
other RESULT raises FE_FW_REFUSED (R449, R453); which check names the RESULT is log entry 157. Activating makes the
staged slot preferred and restarts the Steward; abandoning empties it. The watchdog restarts a Steward of a device that
is up (R439); a restart ends with the slot that the boot ROM chooses, and an activation then ends with RESULT 1, in
Ready (R450, R451). -/
def Obligations.FirmwareIsReplacedInMaintenance : Prop :=
  ∀ (s : State),
    (busOn s 0 = true → s.mode ≠ .lockdown → s.mode ≠ .maintenance → ∀ c, (c = .fwStage ∨ c = .fwActivate ∨ c = .fwAbandon) →
      exec c s = .next (raiseDev .fwRefused (s.mBoot fun b => { b with fwResult := 2 }))) ∧
    (busOn s 0 = true → s.mode = .maintenance → s.boot.fwBusy = true →
      ∀ c, (c = .fwStage ∨ c = .fwActivate ∨ c = .fwAbandon) →
      exec c s = .next (raiseDev .fwRefused (s.mBoot fun b => { b with fwResult := 11 }))) ∧
    (busOn s 0 = true → s.mode = .maintenance → s.boot.fwBusy = false →
      (0x2000 ≤ s.boot.fwLen.toNat → s.boot.fwLen.toNat ≤ 0x400000 →
        exec .fwStage s = .next (s.mBoot fun b => { b with fwBusy := true, fwResult := 0 })) ∧
      (s.boot.fwStaged = true →
        exec .fwActivate s = .next (restartSteward (s.mBoot fun b =>
          { b.mSlot (!b.slotB) (fun x => { x with confirmed := false, trials := 0 }) with
            preferB := !b.slotB, slotB := !b.slotB, fwStaged := false, fwBusy := true, fwResult := 0,
            activating := true })) ∧
        exec .fwAbandon s = .next (s.mBoot fun b =>
          { b.mSlot (!b.slotB) (fun _ => FwSlot.empty) with fwStaged := false, fwResult := 1 })) ∧
      (s.boot.fwStaged = false → ∀ c, (c = .fwActivate ∨ c = .fwAbandon) →
        exec c s = .next (raiseDev .fwRefused (s.mBoot fun b => { b with fwResult := 10 })))) ∧
    (∀ (image : Option Bytes) (key sig flash : Bool) (img : Bytes) (u : State), s.boot.fwBusy = true →
      s.boot.activating = false → img = fit s.boot.fwLen.toNat (image.getD []) →
      u = hostRead 0 s.boot.fwAddr.toNat s.boot.fwLen.toNat s →
      (canDma s 0 = true → image ≠ none →
        (stageFault s img key sig flash = 1 →
          exec (.fwStageComplete image key sig flash) s = .next (u.mBoot fun b =>
            { b.mSlot (!b.slotB) (fun _ => FwSlot.ofImage img) with fwBusy := false, fwStaged := true, fwResult := 1 }) ∧
          fwHeaderOk img = true ∧ key = true ∧ sig = true ∧ flash = true ∧ sha384 (fwBody img) = slice img 0x18 48 ∧
          s.boot.antiRollback.toNat ≤ fwSvn img ∧ fwSvn img ≤ s.boot.antiRollback.toNat + 64) ∧
        (∀ r, stageFault s img key sig flash = r → r ≠ 1 → r ≠ 8 →
          exec (.fwStageComplete image key sig flash) s = .next (raiseDev .fwRefused (u.mBoot fun b =>
            { b with fwBusy := false, fwResult := r }))) ∧
        (stageFault s img key sig flash = 8 →
          exec (.fwStageComplete image key sig flash) s = .next (raiseDev .fwRefused (u.mBoot fun b =>
            { b.mSlot (!b.slotB) (fun _ => FwSlot.empty) with fwBusy := false, fwStaged := false, fwResult := 8 })))) ∧
      (canDma s 0 = true → exec (.fwStageComplete none key sig flash) s = .next (raiseDev .fwRefused (u.mBoot fun b =>
        { b with fwBusy := false, fwResult := 9 }))) ∧
      (canDma s 0 = false → exec (.fwStageComplete image key sig flash) s = .next (raiseDev .fwRefused (s.mBoot fun b =>
        { b with fwBusy := false, fwResult := 9 })))) ∧
    (onMain s = true → s.boot.stage = 7 → s.boot.stewardUp = true → exec .stewardWatchdogExpire s = .next (restartSteward s)) ∧
    (restartSteward s).boot.stewardUp = false ∧ (restartSteward s).boot.cause = 4 ∧
    (∀ (bodyA bodyB isB : Bool), s.boot.stewardUp = false → onMain s = true → s.boot.stage = 7 →
      stewardStoreIdle s = true → chooseSlot s.boot s.boot.slotB bodyA bodyB = some isB →
      ∃ t, exec (.stewardRestartComplete bodyA bodyB) s = .next t ∧ t.boot.stewardUp = true ∧ t.boot.slotB = isB ∧
        (s.boot.activating = false → t.mode = s.mode) ∧
        (s.boot.activating = true → t.boot.fwBusy = false ∧ t.boot.fwResult = 1 ∧
          (s.mode = .maintenance → t.mode = .ready)))

/-- IDENT, HEALTH, REQUEST, OFFSET, READ, STATUS, ALERT_RESPONSE and SMBUS_OBJECT_READY complete. Where the interface
answers: IDENT returns 32 bytes and HEALTH 16; a well-formed REQUEST replaces any earlier object, and one whose PEC
fails is discarded; OFFSET moves the read offset; READ returns up to 240 bytes of a ready object and moves on by as
many; STATUS returns 8 bytes and, like an alert response, releases SMB_ALERT_N (R515, R516, Table 19-8). A requested
health report, status block, closing statement or Lockdown report becomes ready and asserts SMB_ALERT_N, or is refused
with its reason (Table 19-9); a statement is signed with the Toll's key over a nonce from I3, and once all it counts is
in the store it is used as it becomes ready (R343). -/
def Obligations.SmbusInterface : Prop :=
  ∀ (s : State),
    (smbusOn s = true →
      (∃ bs : Bytes, bs.length = 32 ∧ slice bs 8 16 = fit 16 s.fuses.serial ∧
        exec .ident s = .next (s.mSmb fun x => { x with lastRead := bs })) ∧
      (∃ bs : Bytes, bs.length = 16 ∧ bs.take 4 = natLe 4 (hlthSummary s) ∧
        exec .health s = .next (s.mSmb fun x => { x with lastRead := bs })) ∧
      (∀ (data : Bytes), exec (.request data false) s = .next s ∧
        (requestFits data = true → exec (.request data true) s = .next (s.mSmb fun x => { x with
          status := 1, reason := 0, object := data.getD 0 0, data := [], offset := 0, stmt := none, waitSeq := 0,
          tenant := if data.getD 0 0 = 4 then data.getD 1 0 else 0,
          nonce := if data.getD 0 0 = 4 then data.drop 2 else data.drop 1 }))) ∧
      (∀ (data : BitVec 32), exec (.offset data true) s = .next (s.mSmb fun x => { x with offset := data.toNat }) ∧
        exec (.offset data false) s = .next s) ∧
      (∀ (n : BitVec 8) (bs : Bytes),
        bs = (if s.smb.status = 2#8 then (s.smb.data.drop s.smb.offset).take (min 240 n.toNat) else []) →
        exec (.read n) s = .next (s.mSmb fun x => { x with lastRead := bs, offset := x.offset + bs.length }) ∧
          bs.length ≤ 240) ∧
      (∃ bs : Bytes, bs.length = 8 ∧ bs.take 2 = [s.smb.status, s.smb.reason] ∧ exec .status s =
        .next ((s.mSmb fun x => { x with lastRead := bs }).mPwr fun p => { p with smbAlertN := true })) ∧
      exec .alertResponse s = .next (s.mPwr fun p => { p with smbAlertN := true })) ∧
    (s.smb.status = 1 → onMain s = true → s.boot.coreMin = true →
      (s.smb.object = 1 → exec .smbusObjectReady s = .next (objectReady (healthBytes s) s)) ∧
      (s.smb.object = 2 → exec .smbusObjectReady s = .next (objectReady (tollStatus s) s)) ∧
      (s.smb.object = 3 → exec .smbusObjectReady s = .next (match s.toll.closing with
        | some c => objectReady c s | none => objectRefused 3 s)) ∧
      (∀ n, s.smb.object = 4 ∨ s.smb.object = 5 → s.smb.stmt = some n →
        (allRecorded s = true ∨ s.smb.waitSeq.toNat ≤ lastRecord s) →
        exec .smbusObjectReady s = .next (useStatement n ((objectReady s.smb.data s).mSmb fun x => { x with stmt := none }))) ∧
      (∀ (t : Option Fn) (kind : BitVec 8) (bs body : Bytes) (u : State),
        ((s.smb.object = 4 ∧ t = some s.smb.tenant ∧ kind = 1) ∨ (s.smb.object = 5 ∧ t = none ∧ kind = 2)) →
        s.smb.stmt = none → s.toll.hasKey = true → tollBusy s none = false → stmtSeq s < s.toll.stmtHwm.toNat →
        drawFor .object (instI 3) 56 s = (.served bs, u) → body = stmtBody u kind t (stmtSeq s) s.smb.nonce →
        ∃ v, exec .smbusObjectReady s = .next v ∧ v.smb.stmt = some (stmtSeq s) ∧ v.smb.status = s.smb.status ∧
          v.smb.data = body ++ deviceSign u.root.regs.toll body bs) ∧
      (s.smb.object = 6 → reportAllowed s = false → exec .smbusObjectReady s = .next (objectRefused 1 s)) ∧
      (∀ (bs : Bytes) (u : State), s.smb.object = 6 → reportAllowed s = true →
        drawFor .object (instI 3) 56 s = (.served bs, u) →
        exec .smbusObjectReady s = .next (objectReady (signedReport s s.smb.nonce bs) u)) ∧
      (s.smb.object = 0 → exec .smbusObjectReady s = .next (objectRefused 5 s))) ∧
    (∀ bs : Bytes, (objectReady bs s).smb.status = 2 ∧ (objectReady bs s).smb.data = bs ∧
      (objectReady bs s).pwr.smbAlertN = false) ∧
    (∀ r : BitVec 8, (objectRefused r s).smb.status = 3 ∧ (objectRefused r s).smb.reason = r ∧
      (objectRefused r s).pwr.smbAlertN = false)

/-- RECOVER_TOKEN, EOL_ANALYSIS_TOKEN, EOL_SCRAP_TOKEN, REPLACE_RECOVERY_KEY_TOKEN, SCRAP_ONLY_POLICY_TOKEN,
REGISTER_RECOVERY_KEY, LOCKDOWN_REPORT, LOCKDOWN_REPORT_READY, DEBUG_CHALLENGE and DEBUG_TOKEN complete. A command of
the window is refused with RESULT 7 while another is in progress, and a refused token raises LC_TOKEN_REFUSED (R421,
Table 15-17). A token that passes each check in order (permitted, fields, signature, sensors clear) takes effect: LC_SEQ
rises, and it starts a recovery, an End-of-Life transition, a write of the recovery key, or the Scrap-only policy (R420
to R426, R429); one that fails ends with the RESULT of its first failing check. The first recovery key is registered in
Maintenance, being a point of P-384 (R420). A Lockdown report is signed and in LC_DATA once its nonce is drawn (R418).
In a state that takes debug tokens a challenge is drawn, and a token that answers it is in force (R432). -/
def Obligations.LifeCycleTokensAndReports : Prop :=
  ∀ (s : State) (sig : Bool), busOn s 0 = true →
    let refused (r : BitVec 4) : State := raiseDev .lcTokenRefused (s.mLc fun l => { l with result := r })
    (s.lc.busy = true →
      (ltKind s = 1 → exec (.recoverToken sig) s = .next (refused 7)) ∧
      exec .lockdownReport s = .next (s.mLc fun l => { l with result := 7 })) ∧
    (tokenFault s sig = none ↔ tokenPermitted s = true ∧ tokenFieldsOk s = true ∧ tokenSigned s sig = true ∧
      (ltKind s = 1 → s.tmp.clear = true)) ∧
    (s.lc.busy = false →
      (∀ r, tokenFault s sig = some r →
        (ltKind s = 1 → exec (.recoverToken sig) s = .next (refused r)) ∧
        (ltKind s = 2 → exec (.eolAnalysisToken sig) s = .next (refused r)) ∧
        (ltKind s = 3 → exec (.eolScrapToken sig) s = .next (refused r)) ∧
        (ltKind s = 4 → exec (.replaceRecoveryKeyToken sig) s = .next (refused r)) ∧
        (ltKind s = 5 → exec (.scrapOnlyPolicyToken sig) s = .next (refused r))) ∧
      (tokenFault s sig = none →
        (ltKind s = 1 → exec (.recoverToken sig) s = .next (s.mLc fun l =>
          { l with lcSeq := l.lcSeq + 1, busy := true, result := 0, recovering := some s.clk.now })) ∧
        (ltKind s = 2 → exec (.eolAnalysisToken sig) s =
          .next (beginTransition (newEntry s .eolAnalysis 2 (ltSigner s)) s)) ∧
        (ltKind s = 3 → exec (.eolScrapToken sig) s =
          .next (beginTransition (newEntry s .eolScrap 3 (ltSigner s)) s)) ∧
        (ltKind s = 4 → exec (.replaceRecoveryKeyToken sig) s =
          .next (nvQueue 4 (.recoveryKey (slice (lcBytes s) 0x20 97))
            (s.mLc fun l => { l with lcSeq := l.lcSeq + 1, busy := true, result := 0 }))) ∧
        (ltKind s = 5 → exec (.scrapOnlyPolicyToken sig) s = .next ((s.mFuses fun f => { f with scrapOnly := true }).mLc
          fun l => { l with lcSeq := l.lcSeq + 1, result := 1, busy := false }))) ∧
      (s.mode = .maintenance → s.lc.recoveryKey = none → keyDefect [] 0x21 2 (slice (lcBytes s) 0 97) = none →
        exec (.registerRecoveryKey ()) s = .next (nvQueue 4 (.recoveryKey (slice (lcBytes s) 0 97))
          (s.mLc fun l => { l with busy := true, result := 0 }))) ∧
      (reportAllowed s = true → (s.rng.outage = false ∨ (s.drbg (instI 3)).instantiated = true) →
        exec .lockdownReport s = .next (s.mLc fun l =>
        { l with busy := true, result := 0, report := some (slice (lcBytes s) 0 32) })) ∧
      (∀ (c : Bytes) (u : State), debugState s = true → drawFor .challenge (instI 1) 32 s = (.served c, u) →
        exec .debugChallenge s = .next (u.mLc fun l => { l with
          challenge := some c, data := c ++ (fit 512 l.data).drop 32, result := 1, busy := false })) ∧
      (debugState s = true → debugFieldsOk s = true →
        ∃ t, exec (.debugToken true) s = .next t ∧
          t.lc.debug = some (BitVec.ofNat 16 (le (lcBytes s) 6 2)) ∧ t.lc.challenge = none ∧ t.lc.result = 1 ∧
          t.lc.busy = false ∧ t.fuses = s.fuses ∧ t.mode = s.mode)) ∧
    (∀ (nonce bs : Bytes) (u : State), s.lc.report = some nonce →
      drawFor .report (instI 3) 56 s = (.served bs, u) →
      exec .lockdownReportReady s = .next (u.mLc fun l => { l with
        report := none, data := signedReport s nonce bs ++ (fit 512 l.data).drop 352, result := 1, busy := false }))

/-- MANUFACTURING_TRANSITION, WIPE_VERIFICATION_COMPLETE and FUSE_GROUP_PROGRAM_COMPLETE complete. A manufacturing
transition runs from Blank, and from Test under a debug token with MFG (Table 15-13). A transition that begins is
pending and queues its BEGUN entry; once that is in the store LC_SEQ rises by one, and one to End-of-Life latches
Lockdown with cause 23 and takes its closing statement, or waits for the commits begun, before it wipes, while one to
Production wipes (R349, R429); the closing record being in the store, CLOSED is written. A wipe removes the root secret,
keys, tables, tenants and their records, and queues commands of at most 16 pages that write zero words to every page of
its scope, the user region's among them; an End-of-Life wipe programs every root epoch bit (R355, R358, Table 15-14). A
wipe whose commands have ended and whose pages read zero sets CLEARED and writes VERIFIED; a wipe that fails its check
is repeated, and a second failure raises LC_WIPE_FAIL (R430). Then the fuse groups are programmed, the highest one
deciding the state (R424), and COMPLETE is written, or for Scrap nothing more; with it the Lockdown of the transition
ends, and the command ends with RESULT 1. That the steps between commands go on as the store ends each entry is
NV_COMMAND_COMPLETE's effect. -/
def Obligations.LifeCycleTransitionsRun : Prop :=
  ∀ (s : State) (e : LcEntry),
    (onMain s = true → s.lc.busy = false → s.lc.pending = false →
      (s.fuses.lc = .blank → exec .manufacturingTransition s = .next (beginTransition (newEntry s .test 0 0) s)) ∧
      (∀ p, s.fuses.lc = .test → s.lc.debug = some p → p.getLsbD 4 = true →
        exec .manufacturingTransition s = .next (beginTransition (newEntry s .production 0 0) s))) ∧
    ((beginTransition e s).lc.lcSeq = s.lc.lcSeq ∧ (beginTransition e s).lc.pending = true ∧
      (beginTransition e s).lc.entry = some e ∧ (beginTransition e s).lc.busy = true ∧
      (∃ w : LcEntry, w.step = 1 ∧ w.to_ = e.to_ ∧ w.scope = e.scope ∧ nvHas (.lifeCycle w) (beginTransition e s) = true)) ∧
    (s.lc.pending = true → s.lc.entry ≠ none →
      (e.step = 1 → (lcWritten e s).lc.lcSeq = s.lc.lcSeq + 1 ∧
        ((e.target = .eolAnalysis ∨ e.target = .eolScrap) → (lcWritten e s).locked = true ∧
          lcWritten e s = closeGoesOn ((latchLockdown 23 2 (s.mLc fun l => { l with lcSeq := l.lcSeq + 1 })).mLc fun l =>
            { l with closing := some e }) ∧
          ((lcWritten e s).lc.closing = some e ∨ ∃ w ∈ nvAll (lcWritten e s), w.isClosing = true)) ∧
        (e.target = .production → (lcWritten e s).lc.wiped = true ∧ (lcWritten e s).tenants = [])) ∧
      (e.step = 2 → lcWritten e s = wipeFor e s) ∧
      (e.step = 4 → lcWritten e s = completeTransition e.target s)) ∧
    (∀ scope : BitVec 8,
      (wipeScope scope s).root.vault = none ∧ (wipeScope scope s).root.present = false ∧
      (wipeScope scope s).ks.recs = [] ∧ (wipeScope scope s).tables = [] ∧ (wipeScope scope s).tenants = [] ∧
      (wipeScope scope s).sessions = [] ∧ (wipeScope scope s).toll.counters = [] ∧
      (∀ r ∈ wipePages scope, ∀ pg, r.1 ≤ pg → pg ≤ r.2 → ∃ w ∈ nvAll (wipeScope scope s), ∃ p n, n ≤ 16 ∧
        w.work = .wipe p n ∧ w.data = .words (pageAddr p) (zeros (256 * n)) ∧ p ≤ pg ∧ pg < p + n) ∧
      (∀ pg, 7168 ≤ pg → pg ≤ 9215 → ∃ r ∈ wipePages scope, r.1 ≤ pg ∧ pg ≤ r.2) ∧
      (∀ a, (wipeScope scope s).storeByte a = s.storeByte a) ∧ (wipeScope scope s).lc.recoveryKey = none ∧
      (wipeScope scope s).ks.boot = s.ks.boot ∧ (wipeScope scope s).mode = s.mode ∧
      (scope ≠ 0 → (wipeScope scope s).fuses = { s.fuses with epoch := 32 }) ∧
      (scope = 0 → (wipeScope scope s).fuses = s.fuses)) ∧
    (onMain s = true → s.lc.entry = some e → s.lc.pending = true →
      (s.lc.wiped = true → s.lc.wipeFails < 2 → s.lc.verified = false → (nvAll s).any NvCmd.isWipe = false →
        (zeroPages (wipePages e.scope) s.nv.array = true → exec (.wipeVerificationComplete true) s =
          .next (lcWrite 3 e (s.mLc fun l => { l with cleared := true, verified := true }))) ∧
        ∃ u, u = (wipeScope e.scope s).mLc (fun l => { l with wipeFails := l.wipeFails + 1 }) ∧
          exec (.wipeVerificationComplete false) s =
            .next (if s.lc.wipeFails = 1 then raiseDev .lcWipeFail u else u) ∧
          (zeroPages (wipePages e.scope) s.nv.array = false →
            exec (.wipeVerificationComplete true) s = exec (.wipeVerificationComplete false) s)) ∧
      (s.lc.verified = true → lcWriting s = false →
        exec .fuseGroupProgramComplete s = .next (transitionGoesOn (fusesProgrammed e s)) ∧
        (e.target ≠ .eolScrap → transitionGoesOn (fusesProgrammed e s) = fusesProgrammed e s ∧
          (fusesProgrammed e s).lc.pending = true ∧
          (∃ w : LcEntry, w.step = 4 ∧ w.to_ = e.to_ ∧ nvHas (.lifeCycle w) (fusesProgrammed e s) = true)) ∧
        (fusesProgrammed e s).fuses.lcFuse = s.fuses.lcFuse ||| e.target.fuses ∧
        (s.fuses.lc.rank ≤ e.target.rank → e.target ≠ .blank → (fusesProgrammed e s).fuses.lc = e.target ∧
          (fusesProgrammed e s).fuses.lcIncomplete = false))) ∧
    (s.lc.entry = some e → s.lc.pending = true → (e.target = .eolAnalysis ∨ e.target = .eolScrap) → s.lc.closing = none →
      s.lc.wiped = false → lcWriting s = false → s.toll.closing ≠ none → (nvAll s).any NvCmd.isClosing = false →
      (∀ x, lcLast s = some x → x.step = 1) → closed s = lcWrite 2 e s) ∧
    (∀ t : LcState, (completeTransition t s).locked = false ∧ (completeTransition t s).lc.pending = false ∧
      (completeTransition t s).lc.entry = none ∧ (completeTransition t s).lc.result = 1 ∧
      (completeTransition t s).fuses.epoch = s.fuses.epoch ∧ (completeTransition t s).fuses.lcFuse = s.fuses.lcFuse)

/-- PFWARN_ASSERT, PFWARN_DEASSERT, MAIN_POWER_GOOD, MAIN_POWER_LOST, VAULT_ENTRY, BATTERY_PRESENT, BATTERY_ABSENT,
POWER_ON_RESET, WARM_RESET and RECOVERY_RESET complete. PFWARN gates the clusters and holds the store, and when it ends
both go on (R154, R362, R364, R505). Main power good follows the always-on latch with GONG_N (R497, R503); main power
lost enters Vault with a battery present and Off without one, Lockdown staying, and without one the vault SRAM is lost
(R22, R23, R497, R500); with a battery and no main power the device leaves Off for Vault, unless Lockdown is latched
(R502; log entry 114). Each battery present starts its own 1 s of R338; the last one lost without main power enters Off
(R500). A power-on reset, a warm reset and, 8 ms after its token, a recovery reset run the boot sequence (R423, R437 to
R442): the volatile state is cleared, and the device ends it in Rest or, with Lockdown latched, in Lockdown (R23, R25).
Where main power is lost during a write of given words, the first of them are new, each bit of the next is old or new,
or all are old where the write had been stopped at a word boundary, and every other byte of the store is as it was
(R361, R362). -/
def Obligations.SuppliesAndResets : Prop :=
  ∀ (s : State) (r : BootReport),
    (onMain s = true → s.pwr.pfwarn = false → noBattery s = false →
      ∃ t, exec .pfwarnAssert s = .next t ∧ t.pwr.pfwarn = true ∧ t.pwr.pfGated = true ∧ t.nv.held = true ∧
        (∀ cmd, s.nv.current = some cmd → cmd.cls ≠ 1 → t.nv.current = none ∧ t.nv.stopped = some cmd) ∧
        ((s.nv.current = none ∨ ∃ cmd, s.nv.current = some cmd ∧ cmd.cls = 1) →
          t.nv.current = s.nv.current ∧ t.nv.stopped = s.nv.stopped) ∧ t.clap = s.clap ∧ Keeps s t) ∧
    (onMain s = true → s.pwr.pfwarn = false → noBattery s = true → s.toll.journal = false → s.toll.writing = none →
      ∃ t, exec .pfwarnAssert s = .next t ∧ t.clap.stopped = true ∧ t.nv.held = true ∧
        (∃ w, t.toll.writing = some w ∧ w.final = true) ∧ Keeps s t) ∧
    (onMain s = true → s.pwr.pfwarn = true → ∃ t, exec .pfwarnDeassert s = .next t ∧ t.pwr.pfwarn = false ∧
      t.pwr.pfGated = false ∧ t.nv.held = false ∧ (finalOpen s = false → t.clap.stopped = false) ∧ Keeps s t) ∧
    (s.pwr.mainGood = false → exec .mainPowerGood s = .next ((s.mPwr fun p => { p with
      mainGood := true, gongN := !s.tmp.zeroised, gongDegraded := false }).mBoot fun b => { b with stage := 0 })) ∧
    (s.pwr.mainGood = true → ∃ t, exec .mainPowerLost s = .next t ∧ t.pwr.mainGood = false ∧
      t.mode = (if s.mode = .lockdown ∨ (s.mode = .off ∧ s.locked = true) then s.mode
        else if noBattery s = true then .off else .vault) ∧
      (noBattery s = true → t.root.vault = none ∧ t.toll.bankValid = false ∧ t.pwr.aoHeld = false) ∧
      (noBattery s = false → (s.root.forming = none → t.root.vault = s.root.vault) ∧ t.toll.counters = s.toll.counters ∧
        t.clap.journal = s.clap.journal) ∧
      (onMain s = true → t.peals = [] ∧ t.tables = [] ∧ t.ks.recs = []) ∧
      t.fuses = s.fuses ∧ t.tmp.lock = s.tmp.lock ∧
      (((s.nv.current = none ∧ s.nv.stopped = none) ∨ onMain s = false) → ∀ a, t.storeByte a = s.storeByte a) ∧
      (∀ (cmd : NvCmd) (addr m : Nat) (bs : Bytes) (whole : Bool), onMain s = true → s.nv.wf = true →
        ((s.nv.current = some cmd ∧ s.nv.stopped = none ∧ whole = false) ∨
         (s.nv.current = none ∧ s.nv.stopped = some cmd ∧ whole = true)) →
        cmd.data = .words addr bs → bs.length = 16 * m →
        ∃ n, n ≤ m ∧ ∀ a,
          (addr ≤ a → a < addr + 16 * n → t.storeByte a = bs.getD (a - addr) 0) ∧
          (addr + 16 * n ≤ a → a < addr + 16 * n + 16 → n < m → ∀ b,
            (t.storeByte a).getLsbD b = (s.storeByte a).getLsbD b ∨
            (whole = false ∧ (t.storeByte a).getLsbD b = (bs.getD (a - addr) 0).getLsbD b)) ∧
          ((a < addr ∨ addr + 16 * n + 16 ≤ a ∨ addr + 16 * m ≤ a) → t.storeByte a = s.storeByte a))) ∧
    ((s.mode = .off ∨ s.mode = .lockdown) → s.pwr.mainGood = false → noBattery s = false →
      ∃ t, exec .vaultEntry s = .next t ∧
      t.mode = (if s.mode = .off ∧ s.locked = false then .vault else s.mode) ∧ t.pwr.gongN = !s.tmp.zeroised ∧
      t = { s with pwr := t.pwr, mode := t.mode }) ∧
    (∀ b : Bool, exec (.batteryPresent b) s = .next (s.mPwr fun p => { p with
        battA := p.battA || !b, battB := p.battB || b,
        battASince := if b then p.battASince else some (p.battASince.getD s.clk.now),
        battBSince := if b then some (p.battBSince.getD s.clk.now) else p.battBSince }) ∧
      ∃ t, exec (.batteryAbsent b) s = .next t ∧ t.pwr.battA = (s.pwr.battA && b) ∧ t.pwr.battB = (s.pwr.battB && !b) ∧
        (noBattery t = true → s.pwr.mainGood = false → t.mode = (if s.mode = .lockdown then .lockdown else .off) ∧
          t.root.vault = none ∧ t.toll.bankValid = false) ∧
        ((noBattery t = false ∨ s.pwr.mainGood = true) → t.mode = s.mode)) ∧
    (s.pwr.mainGood = true → s.pwr.resetN = true → s.boot.stage = 0 →
      exec (.powerOnReset r) s = .next (deviceReset 0 r s)) ∧
    (s.pwr.mainGood = true → s.boot.stage ≠ 0 →
      exec (.warmReset r) s = .next (deviceReset 1 r (s.mPwr fun p => { p with aoHeld := true }))) ∧
    (∀ t0, s.lc.recovering = some t0 → t0 + 8000000 ≤ s.clk.now → onMain s = true →
      exec (.recoveryReset r) s = .next (deviceReset 2 r
        ((s.mTmp fun x => { x with lock := none, lockRecord := false, zeroised := false }).mPwr fun p =>
          { p with gongN := true, aoHeld := true }))) ∧
    ((clearVolatile s).peals = [] ∧ (clearVolatile s).tables = [] ∧ (clearVolatile s).ks.recs = [] ∧
      (clearVolatile s).gov = Governor.afterReset s.fuses.grade s.clk.now ∧ (clearVolatile s).fe = s.fe.afterReset ∧
      (clearVolatile s).mem = Memory.init ∧ (clearVolatile s).smb = SmBus.init ∧ (clearVolatile s).root.present = false ∧
      Keeps s (clearVolatile s)) ∧
    (∀ cause : BitVec 4, ((deviceReset cause r s).mode = .rest ∨ (deviceReset cause r s).mode = .lockdown) ∧
      (s.locked = true → (deviceReset cause r s).mode = .lockdown) ∧ (deviceReset cause r s).pwr.aoHeld = true)

/-- In every state whose root epoch has at most 32 bits programmed, every command keeps that bound and every fuse: no
bit of LC_FUSE returns, grade, stepping and serial number stay, the life-cycle state never goes back to one of a lower
group, a complete group stays complete, the Scrap-only policy and a destroyed fuse key stay, and no bit of ROOT_EPOCH
returns (R198, R424 to R426). -/
def Obligations.FusesNeverReturn : Prop :=
  ∀ (c : Instr) (s t : State), s.fuses.ok = true → exec c s = .next t → Fuses.Le s.fuses t.fuses ∧ t.fuses.ok = true

/-- Whatever the command and the state: a latched Lockdown stays latched through every reset, loss of power and command
but the recovery reset and the completion of a life-cycle transition that is pending, by its fuses (Scrap) or by the
store write of its COMPLETE entry (R23, R423, R429). And the machine keeps, from every state that has it, that the mode
is Lockdown only where Lockdown is latched, and that where it is latched the mode is Lockdown or, without power, Off
(Table 1-7). -/
def Obligations.LockdownIsLatched : Prop :=
  ∀ (c : Instr) (s t : State), exec c s = .next t →
    (s.locked = true → (∀ r, c ≠ .recoveryReset r) →
      (s.lc.pending = true → c ≠ .fuseGroupProgramComplete ∧ ∀ r, c ≠ .nvCommandComplete r) → t.locked = true) ∧
    (s.lockdownInv = true → t.lockdownInv = true)

/-- For every command, from every state: Surge is entered from Serve, at a refill boundary; Serve from Ready or Surge;
Maintenance from Ready, Serve or Surge; Ready from Rest, Serve, Surge (by way of Serve or Maintenance) or Maintenance,
or at the end of a life-cycle transition (by way of Rest); Rest from the modes that it serves, by a reset, at the end of
a transition, or where the power-up sequence waited for noise or for the store; Vault when main power is lost or when
the device leaves Off; and Off when main power or the last battery is lost (R22, Table 1-7). -/
def Obligations.ModesAreEnteredByTheirTriggers : Prop :=
  ∀ (c : Instr) (s t : State), exec c s = .next t → t.mode ≠ s.mode →
    (t.mode = .surge → s.mode = .serve ∧ ∃ x y z, c = .refillBoundary x y z ()) ∧
    (t.mode = .serve → s.mode = .ready ∨ s.mode = .surge) ∧
    (t.mode = .maintenance → s.mode = .ready ∨ s.mode = .serve ∨ s.mode = .surge) ∧
    (t.mode = .ready → s.mode = .rest ∨ s.mode = .serve ∨ s.mode = .surge ∨ s.mode = .maintenance ∨
      c = .fuseGroupProgramComplete ∨ ∃ r, c = .nvCommandComplete r) ∧
    (t.mode = .rest → s.mode.working = true ∨ c = .fuseGroupProgramComplete ∨ (∃ r, c = .nvCommandComplete r) ∨
      (∃ k w, c = .noiseWindowComplete k w ∧ s.boot.awaitNoise ≠ none) ∨
      ∃ r, c = .powerOnReset r ∨ c = .warmReset r ∨ c = .recoveryReset r) ∧
    (t.mode = .vault → c = .mainPowerLost ∨ c = .vaultEntry) ∧
    (t.mode = .off → c = .mainPowerLost ∨ ∃ b, c = .batteryAbsent b)

/-- From every state whose store lists strictly rising addresses and no zero byte, every command answers one whose store
does: so equal contents are equal data. And a byte of the store changes only at a commit point of a peal or a group, as
a store command ends, where a loss of main power or a reset cuts a write short or a boot writes its records, and where
the boot ROM confirms an image and raises the anti-rollback counter: at the end of a boot that waited for noise or for a
transition, or as an activation ends (R354, R361, R370, R431, R450, R451); the form itself is the model's own. -/
def Obligations.StoreStaysCanonical : Prop :=
  ∀ (c : Instr) (s t : State), exec c s = .next t →
    (s.nv.wf = true → t.nv.wf = true) ∧
    (∀ a, t.storeByte a ≠ s.storeByte a →
      (∃ slot, c = .commitPoint slot ∨ c = .stewardRecordWriteComplete slot) ∨ c = .groupRecordComplete ∨
      (∃ r, c = .nvCommandComplete r) ∨ c = .mainPowerLost ∨
      (∃ r, c = .powerOnReset r ∨ c = .warmReset r ∨ c = .recoveryReset r) ∨
      (s.boot.awaitNoise ≠ none ∧ ∃ k w, c = .noiseWindowComplete k w) ∨
      (s.boot.activating = true ∧ ∃ x y, c = .stewardRestartComplete x y) ∨
      (s.boot.resume ≠ none ∧ c = .fuseGroupProgramComplete))

/-- The state after reset: no command waits, no Lockdown is latched, the mode is Off, the store is empty and in its
canonical form, no peal is in flight, no key record is held, and at most 32 root epoch bits are programmed. -/
def Obligations.ResetHoldsTheInvariants : Prop :=
  State.reset.pending = [] ∧ State.reset.locked = false ∧ State.reset.lockdownInv = true ∧ State.reset.mode = .off ∧
    State.reset.nv.wf = true ∧ (∀ a, State.reset.storeByte a = 0) ∧ State.reset.fuses.ok = true ∧
    State.reset.peals = [] ∧ State.reset.ks.recs = []
end

