-- ==== Sys2Proof/Laws/State.lean ====
section
/-! SUPPORT. What each update of one part of the state does to each field: one lemma for each field and update, true by
rfl, so that no proof unfolds a record update. -/
namespace Sys2Proof.Machine
variable (s : State)

/-! `State.mClk`. -/
@[simp] theorem State.mClk_clk (f : Clock → Clock) : (s.mClk f).clk = f s.clk := rfl
@[simp] theorem State.mClk_mode (f : Clock → Clock) : (s.mClk f).mode = s.mode := rfl
@[simp] theorem State.mClk_pwr (f : Clock → Clock) : (s.mClk f).pwr = s.pwr := rfl
@[simp] theorem State.mClk_fuses (f : Clock → Clock) : (s.mClk f).fuses = s.fuses := rfl
@[simp] theorem State.mClk_fe (f : Clock → Clock) : (s.mClk f).fe = s.fe := rfl
@[simp] theorem State.mClk_peals (f : Clock → Clock) : (s.mClk f).peals = s.peals := rfl
@[simp] theorem State.mClk_gov (f : Clock → Clock) : (s.mClk f).gov = s.gov := rfl
@[simp] theorem State.mClk_clusters (f : Clock → Clock) : (s.mClk f).clusters = s.clusters := rfl
@[simp] theorem State.mClk_ks (f : Clock → Clock) : (s.mClk f).ks = s.ks := rfl
@[simp] theorem State.mClk_tenants (f : Clock → Clock) : (s.mClk f).tenants = s.tenants := rfl
@[simp] theorem State.mClk_tables (f : Clock → Clock) : (s.mClk f).tables = s.tables := rfl
@[simp] theorem State.mClk_sessions (f : Clock → Clock) : (s.mClk f).sessions = s.sessions := rfl
@[simp] theorem State.mClk_root (f : Clock → Clock) : (s.mClk f).root = s.root := rfl
@[simp] theorem State.mClk_rng (f : Clock → Clock) : (s.mClk f).rng = s.rng := rfl
@[simp] theorem State.mClk_clap (f : Clock → Clock) : (s.mClk f).clap = s.clap := rfl
@[simp] theorem State.mClk_toll (f : Clock → Clock) : (s.mClk f).toll = s.toll := rfl
@[simp] theorem State.mClk_nv (f : Clock → Clock) : (s.mClk f).nv = s.nv := rfl
@[simp] theorem State.mClk_pair (f : Clock → Clock) : (s.mClk f).pair = s.pair := rfl
@[simp] theorem State.mClk_health (f : Clock → Clock) : (s.mClk f).health = s.health := rfl
@[simp] theorem State.mClk_tmp (f : Clock → Clock) : (s.mClk f).tmp = s.tmp := rfl
@[simp] theorem State.mClk_lc (f : Clock → Clock) : (s.mClk f).lc = s.lc := rfl
@[simp] theorem State.mClk_boot (f : Clock → Clock) : (s.mClk f).boot = s.boot := rfl
@[simp] theorem State.mClk_mem (f : Clock → Clock) : (s.mClk f).mem = s.mem := rfl
@[simp] theorem State.mClk_smb (f : Clock → Clock) : (s.mClk f).smb = s.smb := rfl
@[simp] theorem State.mClk_pending (f : Clock → Clock) : (s.mClk f).pending = s.pending := rfl
/-! `State.mPwr`. -/
@[simp] theorem State.mPwr_clk (f : Power → Power) : (s.mPwr f).clk = s.clk := rfl
@[simp] theorem State.mPwr_mode (f : Power → Power) : (s.mPwr f).mode = s.mode := rfl
@[simp] theorem State.mPwr_pwr (f : Power → Power) : (s.mPwr f).pwr = f s.pwr := rfl
@[simp] theorem State.mPwr_fuses (f : Power → Power) : (s.mPwr f).fuses = s.fuses := rfl
@[simp] theorem State.mPwr_fe (f : Power → Power) : (s.mPwr f).fe = s.fe := rfl
@[simp] theorem State.mPwr_peals (f : Power → Power) : (s.mPwr f).peals = s.peals := rfl
@[simp] theorem State.mPwr_gov (f : Power → Power) : (s.mPwr f).gov = s.gov := rfl
@[simp] theorem State.mPwr_clusters (f : Power → Power) : (s.mPwr f).clusters = s.clusters := rfl
@[simp] theorem State.mPwr_ks (f : Power → Power) : (s.mPwr f).ks = s.ks := rfl
@[simp] theorem State.mPwr_tenants (f : Power → Power) : (s.mPwr f).tenants = s.tenants := rfl
@[simp] theorem State.mPwr_tables (f : Power → Power) : (s.mPwr f).tables = s.tables := rfl
@[simp] theorem State.mPwr_sessions (f : Power → Power) : (s.mPwr f).sessions = s.sessions := rfl
@[simp] theorem State.mPwr_root (f : Power → Power) : (s.mPwr f).root = s.root := rfl
@[simp] theorem State.mPwr_rng (f : Power → Power) : (s.mPwr f).rng = s.rng := rfl
@[simp] theorem State.mPwr_clap (f : Power → Power) : (s.mPwr f).clap = s.clap := rfl
@[simp] theorem State.mPwr_toll (f : Power → Power) : (s.mPwr f).toll = s.toll := rfl
@[simp] theorem State.mPwr_nv (f : Power → Power) : (s.mPwr f).nv = s.nv := rfl
@[simp] theorem State.mPwr_pair (f : Power → Power) : (s.mPwr f).pair = s.pair := rfl
@[simp] theorem State.mPwr_health (f : Power → Power) : (s.mPwr f).health = s.health := rfl
@[simp] theorem State.mPwr_tmp (f : Power → Power) : (s.mPwr f).tmp = s.tmp := rfl
@[simp] theorem State.mPwr_lc (f : Power → Power) : (s.mPwr f).lc = s.lc := rfl
@[simp] theorem State.mPwr_boot (f : Power → Power) : (s.mPwr f).boot = s.boot := rfl
@[simp] theorem State.mPwr_mem (f : Power → Power) : (s.mPwr f).mem = s.mem := rfl
@[simp] theorem State.mPwr_smb (f : Power → Power) : (s.mPwr f).smb = s.smb := rfl
@[simp] theorem State.mPwr_pending (f : Power → Power) : (s.mPwr f).pending = s.pending := rfl
/-! `State.mFuses`. -/
@[simp] theorem State.mFuses_clk (f : Fuses → Fuses) : (s.mFuses f).clk = s.clk := rfl
@[simp] theorem State.mFuses_mode (f : Fuses → Fuses) : (s.mFuses f).mode = s.mode := rfl
@[simp] theorem State.mFuses_pwr (f : Fuses → Fuses) : (s.mFuses f).pwr = s.pwr := rfl
@[simp] theorem State.mFuses_fuses (f : Fuses → Fuses) : (s.mFuses f).fuses = f s.fuses := rfl
@[simp] theorem State.mFuses_fe (f : Fuses → Fuses) : (s.mFuses f).fe = s.fe := rfl
@[simp] theorem State.mFuses_peals (f : Fuses → Fuses) : (s.mFuses f).peals = s.peals := rfl
@[simp] theorem State.mFuses_gov (f : Fuses → Fuses) : (s.mFuses f).gov = s.gov := rfl
@[simp] theorem State.mFuses_clusters (f : Fuses → Fuses) : (s.mFuses f).clusters = s.clusters := rfl
@[simp] theorem State.mFuses_ks (f : Fuses → Fuses) : (s.mFuses f).ks = s.ks := rfl
@[simp] theorem State.mFuses_tenants (f : Fuses → Fuses) : (s.mFuses f).tenants = s.tenants := rfl
@[simp] theorem State.mFuses_tables (f : Fuses → Fuses) : (s.mFuses f).tables = s.tables := rfl
@[simp] theorem State.mFuses_sessions (f : Fuses → Fuses) : (s.mFuses f).sessions = s.sessions := rfl
@[simp] theorem State.mFuses_root (f : Fuses → Fuses) : (s.mFuses f).root = s.root := rfl
@[simp] theorem State.mFuses_rng (f : Fuses → Fuses) : (s.mFuses f).rng = s.rng := rfl
@[simp] theorem State.mFuses_clap (f : Fuses → Fuses) : (s.mFuses f).clap = s.clap := rfl
@[simp] theorem State.mFuses_toll (f : Fuses → Fuses) : (s.mFuses f).toll = s.toll := rfl
@[simp] theorem State.mFuses_nv (f : Fuses → Fuses) : (s.mFuses f).nv = s.nv := rfl
@[simp] theorem State.mFuses_pair (f : Fuses → Fuses) : (s.mFuses f).pair = s.pair := rfl
@[simp] theorem State.mFuses_health (f : Fuses → Fuses) : (s.mFuses f).health = s.health := rfl
@[simp] theorem State.mFuses_tmp (f : Fuses → Fuses) : (s.mFuses f).tmp = s.tmp := rfl
@[simp] theorem State.mFuses_lc (f : Fuses → Fuses) : (s.mFuses f).lc = s.lc := rfl
@[simp] theorem State.mFuses_boot (f : Fuses → Fuses) : (s.mFuses f).boot = s.boot := rfl
@[simp] theorem State.mFuses_mem (f : Fuses → Fuses) : (s.mFuses f).mem = s.mem := rfl
@[simp] theorem State.mFuses_smb (f : Fuses → Fuses) : (s.mFuses f).smb = s.smb := rfl
@[simp] theorem State.mFuses_pending (f : Fuses → Fuses) : (s.mFuses f).pending = s.pending := rfl
/-! `State.mFe`. -/
@[simp] theorem State.mFe_clk (f : FrontEnd → FrontEnd) : (s.mFe f).clk = s.clk := rfl
@[simp] theorem State.mFe_mode (f : FrontEnd → FrontEnd) : (s.mFe f).mode = s.mode := rfl
@[simp] theorem State.mFe_pwr (f : FrontEnd → FrontEnd) : (s.mFe f).pwr = s.pwr := rfl
@[simp] theorem State.mFe_fuses (f : FrontEnd → FrontEnd) : (s.mFe f).fuses = s.fuses := rfl
@[simp] theorem State.mFe_fe (f : FrontEnd → FrontEnd) : (s.mFe f).fe = f s.fe := rfl
@[simp] theorem State.mFe_peals (f : FrontEnd → FrontEnd) : (s.mFe f).peals = s.peals := rfl
@[simp] theorem State.mFe_gov (f : FrontEnd → FrontEnd) : (s.mFe f).gov = s.gov := rfl
@[simp] theorem State.mFe_clusters (f : FrontEnd → FrontEnd) : (s.mFe f).clusters = s.clusters := rfl
@[simp] theorem State.mFe_ks (f : FrontEnd → FrontEnd) : (s.mFe f).ks = s.ks := rfl
@[simp] theorem State.mFe_tenants (f : FrontEnd → FrontEnd) : (s.mFe f).tenants = s.tenants := rfl
@[simp] theorem State.mFe_tables (f : FrontEnd → FrontEnd) : (s.mFe f).tables = s.tables := rfl
@[simp] theorem State.mFe_sessions (f : FrontEnd → FrontEnd) : (s.mFe f).sessions = s.sessions := rfl
@[simp] theorem State.mFe_root (f : FrontEnd → FrontEnd) : (s.mFe f).root = s.root := rfl
@[simp] theorem State.mFe_rng (f : FrontEnd → FrontEnd) : (s.mFe f).rng = s.rng := rfl
@[simp] theorem State.mFe_clap (f : FrontEnd → FrontEnd) : (s.mFe f).clap = s.clap := rfl
@[simp] theorem State.mFe_toll (f : FrontEnd → FrontEnd) : (s.mFe f).toll = s.toll := rfl
@[simp] theorem State.mFe_nv (f : FrontEnd → FrontEnd) : (s.mFe f).nv = s.nv := rfl
@[simp] theorem State.mFe_pair (f : FrontEnd → FrontEnd) : (s.mFe f).pair = s.pair := rfl
@[simp] theorem State.mFe_health (f : FrontEnd → FrontEnd) : (s.mFe f).health = s.health := rfl
@[simp] theorem State.mFe_tmp (f : FrontEnd → FrontEnd) : (s.mFe f).tmp = s.tmp := rfl
@[simp] theorem State.mFe_lc (f : FrontEnd → FrontEnd) : (s.mFe f).lc = s.lc := rfl
@[simp] theorem State.mFe_boot (f : FrontEnd → FrontEnd) : (s.mFe f).boot = s.boot := rfl
@[simp] theorem State.mFe_mem (f : FrontEnd → FrontEnd) : (s.mFe f).mem = s.mem := rfl
@[simp] theorem State.mFe_smb (f : FrontEnd → FrontEnd) : (s.mFe f).smb = s.smb := rfl
@[simp] theorem State.mFe_pending (f : FrontEnd → FrontEnd) : (s.mFe f).pending = s.pending := rfl
/-! `State.mGov`. -/
@[simp] theorem State.mGov_clk (f : Governor → Governor) : (s.mGov f).clk = s.clk := rfl
@[simp] theorem State.mGov_mode (f : Governor → Governor) : (s.mGov f).mode = s.mode := rfl
@[simp] theorem State.mGov_pwr (f : Governor → Governor) : (s.mGov f).pwr = s.pwr := rfl
@[simp] theorem State.mGov_fuses (f : Governor → Governor) : (s.mGov f).fuses = s.fuses := rfl
@[simp] theorem State.mGov_fe (f : Governor → Governor) : (s.mGov f).fe = s.fe := rfl
@[simp] theorem State.mGov_peals (f : Governor → Governor) : (s.mGov f).peals = s.peals := rfl
@[simp] theorem State.mGov_gov (f : Governor → Governor) : (s.mGov f).gov = f s.gov := rfl
@[simp] theorem State.mGov_clusters (f : Governor → Governor) : (s.mGov f).clusters = s.clusters := rfl
@[simp] theorem State.mGov_ks (f : Governor → Governor) : (s.mGov f).ks = s.ks := rfl
@[simp] theorem State.mGov_tenants (f : Governor → Governor) : (s.mGov f).tenants = s.tenants := rfl
@[simp] theorem State.mGov_tables (f : Governor → Governor) : (s.mGov f).tables = s.tables := rfl
@[simp] theorem State.mGov_sessions (f : Governor → Governor) : (s.mGov f).sessions = s.sessions := rfl
@[simp] theorem State.mGov_root (f : Governor → Governor) : (s.mGov f).root = s.root := rfl
@[simp] theorem State.mGov_rng (f : Governor → Governor) : (s.mGov f).rng = s.rng := rfl
@[simp] theorem State.mGov_clap (f : Governor → Governor) : (s.mGov f).clap = s.clap := rfl
@[simp] theorem State.mGov_toll (f : Governor → Governor) : (s.mGov f).toll = s.toll := rfl
@[simp] theorem State.mGov_nv (f : Governor → Governor) : (s.mGov f).nv = s.nv := rfl
@[simp] theorem State.mGov_pair (f : Governor → Governor) : (s.mGov f).pair = s.pair := rfl
@[simp] theorem State.mGov_health (f : Governor → Governor) : (s.mGov f).health = s.health := rfl
@[simp] theorem State.mGov_tmp (f : Governor → Governor) : (s.mGov f).tmp = s.tmp := rfl
@[simp] theorem State.mGov_lc (f : Governor → Governor) : (s.mGov f).lc = s.lc := rfl
@[simp] theorem State.mGov_boot (f : Governor → Governor) : (s.mGov f).boot = s.boot := rfl
@[simp] theorem State.mGov_mem (f : Governor → Governor) : (s.mGov f).mem = s.mem := rfl
@[simp] theorem State.mGov_smb (f : Governor → Governor) : (s.mGov f).smb = s.smb := rfl
@[simp] theorem State.mGov_pending (f : Governor → Governor) : (s.mGov f).pending = s.pending := rfl
/-! `State.mKs`. -/
@[simp] theorem State.mKs_clk (f : KeyStore → KeyStore) : (s.mKs f).clk = s.clk := rfl
@[simp] theorem State.mKs_mode (f : KeyStore → KeyStore) : (s.mKs f).mode = s.mode := rfl
@[simp] theorem State.mKs_pwr (f : KeyStore → KeyStore) : (s.mKs f).pwr = s.pwr := rfl
@[simp] theorem State.mKs_fuses (f : KeyStore → KeyStore) : (s.mKs f).fuses = s.fuses := rfl
@[simp] theorem State.mKs_fe (f : KeyStore → KeyStore) : (s.mKs f).fe = s.fe := rfl
@[simp] theorem State.mKs_peals (f : KeyStore → KeyStore) : (s.mKs f).peals = s.peals := rfl
@[simp] theorem State.mKs_gov (f : KeyStore → KeyStore) : (s.mKs f).gov = s.gov := rfl
@[simp] theorem State.mKs_clusters (f : KeyStore → KeyStore) : (s.mKs f).clusters = s.clusters := rfl
@[simp] theorem State.mKs_ks (f : KeyStore → KeyStore) : (s.mKs f).ks = f s.ks := rfl
@[simp] theorem State.mKs_tenants (f : KeyStore → KeyStore) : (s.mKs f).tenants = s.tenants := rfl
@[simp] theorem State.mKs_tables (f : KeyStore → KeyStore) : (s.mKs f).tables = s.tables := rfl
@[simp] theorem State.mKs_sessions (f : KeyStore → KeyStore) : (s.mKs f).sessions = s.sessions := rfl
@[simp] theorem State.mKs_root (f : KeyStore → KeyStore) : (s.mKs f).root = s.root := rfl
@[simp] theorem State.mKs_rng (f : KeyStore → KeyStore) : (s.mKs f).rng = s.rng := rfl
@[simp] theorem State.mKs_clap (f : KeyStore → KeyStore) : (s.mKs f).clap = s.clap := rfl
@[simp] theorem State.mKs_toll (f : KeyStore → KeyStore) : (s.mKs f).toll = s.toll := rfl
@[simp] theorem State.mKs_nv (f : KeyStore → KeyStore) : (s.mKs f).nv = s.nv := rfl
@[simp] theorem State.mKs_pair (f : KeyStore → KeyStore) : (s.mKs f).pair = s.pair := rfl
@[simp] theorem State.mKs_health (f : KeyStore → KeyStore) : (s.mKs f).health = s.health := rfl
@[simp] theorem State.mKs_tmp (f : KeyStore → KeyStore) : (s.mKs f).tmp = s.tmp := rfl
@[simp] theorem State.mKs_lc (f : KeyStore → KeyStore) : (s.mKs f).lc = s.lc := rfl
@[simp] theorem State.mKs_boot (f : KeyStore → KeyStore) : (s.mKs f).boot = s.boot := rfl
@[simp] theorem State.mKs_mem (f : KeyStore → KeyStore) : (s.mKs f).mem = s.mem := rfl
@[simp] theorem State.mKs_smb (f : KeyStore → KeyStore) : (s.mKs f).smb = s.smb := rfl
@[simp] theorem State.mKs_pending (f : KeyStore → KeyStore) : (s.mKs f).pending = s.pending := rfl
/-! `State.mRoot`. -/
@[simp] theorem State.mRoot_clk (f : RootState → RootState) : (s.mRoot f).clk = s.clk := rfl
@[simp] theorem State.mRoot_mode (f : RootState → RootState) : (s.mRoot f).mode = s.mode := rfl
@[simp] theorem State.mRoot_pwr (f : RootState → RootState) : (s.mRoot f).pwr = s.pwr := rfl
@[simp] theorem State.mRoot_fuses (f : RootState → RootState) : (s.mRoot f).fuses = s.fuses := rfl
@[simp] theorem State.mRoot_fe (f : RootState → RootState) : (s.mRoot f).fe = s.fe := rfl
@[simp] theorem State.mRoot_peals (f : RootState → RootState) : (s.mRoot f).peals = s.peals := rfl
@[simp] theorem State.mRoot_gov (f : RootState → RootState) : (s.mRoot f).gov = s.gov := rfl
@[simp] theorem State.mRoot_clusters (f : RootState → RootState) : (s.mRoot f).clusters = s.clusters := rfl
@[simp] theorem State.mRoot_ks (f : RootState → RootState) : (s.mRoot f).ks = s.ks := rfl
@[simp] theorem State.mRoot_tenants (f : RootState → RootState) : (s.mRoot f).tenants = s.tenants := rfl
@[simp] theorem State.mRoot_tables (f : RootState → RootState) : (s.mRoot f).tables = s.tables := rfl
@[simp] theorem State.mRoot_sessions (f : RootState → RootState) : (s.mRoot f).sessions = s.sessions := rfl
@[simp] theorem State.mRoot_root (f : RootState → RootState) : (s.mRoot f).root = f s.root := rfl
@[simp] theorem State.mRoot_rng (f : RootState → RootState) : (s.mRoot f).rng = s.rng := rfl
@[simp] theorem State.mRoot_clap (f : RootState → RootState) : (s.mRoot f).clap = s.clap := rfl
@[simp] theorem State.mRoot_toll (f : RootState → RootState) : (s.mRoot f).toll = s.toll := rfl
@[simp] theorem State.mRoot_nv (f : RootState → RootState) : (s.mRoot f).nv = s.nv := rfl
@[simp] theorem State.mRoot_pair (f : RootState → RootState) : (s.mRoot f).pair = s.pair := rfl
@[simp] theorem State.mRoot_health (f : RootState → RootState) : (s.mRoot f).health = s.health := rfl
@[simp] theorem State.mRoot_tmp (f : RootState → RootState) : (s.mRoot f).tmp = s.tmp := rfl
@[simp] theorem State.mRoot_lc (f : RootState → RootState) : (s.mRoot f).lc = s.lc := rfl
@[simp] theorem State.mRoot_boot (f : RootState → RootState) : (s.mRoot f).boot = s.boot := rfl
@[simp] theorem State.mRoot_mem (f : RootState → RootState) : (s.mRoot f).mem = s.mem := rfl
@[simp] theorem State.mRoot_smb (f : RootState → RootState) : (s.mRoot f).smb = s.smb := rfl
@[simp] theorem State.mRoot_pending (f : RootState → RootState) : (s.mRoot f).pending = s.pending := rfl
/-! `State.mRng`. -/
@[simp] theorem State.mRng_clk (f : Rng → Rng) : (s.mRng f).clk = s.clk := rfl
@[simp] theorem State.mRng_mode (f : Rng → Rng) : (s.mRng f).mode = s.mode := rfl
@[simp] theorem State.mRng_pwr (f : Rng → Rng) : (s.mRng f).pwr = s.pwr := rfl
@[simp] theorem State.mRng_fuses (f : Rng → Rng) : (s.mRng f).fuses = s.fuses := rfl
@[simp] theorem State.mRng_fe (f : Rng → Rng) : (s.mRng f).fe = s.fe := rfl
@[simp] theorem State.mRng_peals (f : Rng → Rng) : (s.mRng f).peals = s.peals := rfl
@[simp] theorem State.mRng_gov (f : Rng → Rng) : (s.mRng f).gov = s.gov := rfl
@[simp] theorem State.mRng_clusters (f : Rng → Rng) : (s.mRng f).clusters = s.clusters := rfl
@[simp] theorem State.mRng_ks (f : Rng → Rng) : (s.mRng f).ks = s.ks := rfl
@[simp] theorem State.mRng_tenants (f : Rng → Rng) : (s.mRng f).tenants = s.tenants := rfl
@[simp] theorem State.mRng_tables (f : Rng → Rng) : (s.mRng f).tables = s.tables := rfl
@[simp] theorem State.mRng_sessions (f : Rng → Rng) : (s.mRng f).sessions = s.sessions := rfl
@[simp] theorem State.mRng_root (f : Rng → Rng) : (s.mRng f).root = s.root := rfl
@[simp] theorem State.mRng_rng (f : Rng → Rng) : (s.mRng f).rng = f s.rng := rfl
@[simp] theorem State.mRng_clap (f : Rng → Rng) : (s.mRng f).clap = s.clap := rfl
@[simp] theorem State.mRng_toll (f : Rng → Rng) : (s.mRng f).toll = s.toll := rfl
@[simp] theorem State.mRng_nv (f : Rng → Rng) : (s.mRng f).nv = s.nv := rfl
@[simp] theorem State.mRng_pair (f : Rng → Rng) : (s.mRng f).pair = s.pair := rfl
@[simp] theorem State.mRng_health (f : Rng → Rng) : (s.mRng f).health = s.health := rfl
@[simp] theorem State.mRng_tmp (f : Rng → Rng) : (s.mRng f).tmp = s.tmp := rfl
@[simp] theorem State.mRng_lc (f : Rng → Rng) : (s.mRng f).lc = s.lc := rfl
@[simp] theorem State.mRng_boot (f : Rng → Rng) : (s.mRng f).boot = s.boot := rfl
@[simp] theorem State.mRng_mem (f : Rng → Rng) : (s.mRng f).mem = s.mem := rfl
@[simp] theorem State.mRng_smb (f : Rng → Rng) : (s.mRng f).smb = s.smb := rfl
@[simp] theorem State.mRng_pending (f : Rng → Rng) : (s.mRng f).pending = s.pending := rfl
/-! `State.mClap`. -/
@[simp] theorem State.mClap_clk (f : Clapper → Clapper) : (s.mClap f).clk = s.clk := rfl
@[simp] theorem State.mClap_mode (f : Clapper → Clapper) : (s.mClap f).mode = s.mode := rfl
@[simp] theorem State.mClap_pwr (f : Clapper → Clapper) : (s.mClap f).pwr = s.pwr := rfl
@[simp] theorem State.mClap_fuses (f : Clapper → Clapper) : (s.mClap f).fuses = s.fuses := rfl
@[simp] theorem State.mClap_fe (f : Clapper → Clapper) : (s.mClap f).fe = s.fe := rfl
@[simp] theorem State.mClap_peals (f : Clapper → Clapper) : (s.mClap f).peals = s.peals := rfl
@[simp] theorem State.mClap_gov (f : Clapper → Clapper) : (s.mClap f).gov = s.gov := rfl
@[simp] theorem State.mClap_clusters (f : Clapper → Clapper) : (s.mClap f).clusters = s.clusters := rfl
@[simp] theorem State.mClap_ks (f : Clapper → Clapper) : (s.mClap f).ks = s.ks := rfl
@[simp] theorem State.mClap_tenants (f : Clapper → Clapper) : (s.mClap f).tenants = s.tenants := rfl
@[simp] theorem State.mClap_tables (f : Clapper → Clapper) : (s.mClap f).tables = s.tables := rfl
@[simp] theorem State.mClap_sessions (f : Clapper → Clapper) : (s.mClap f).sessions = s.sessions := rfl
@[simp] theorem State.mClap_root (f : Clapper → Clapper) : (s.mClap f).root = s.root := rfl
@[simp] theorem State.mClap_rng (f : Clapper → Clapper) : (s.mClap f).rng = s.rng := rfl
@[simp] theorem State.mClap_clap (f : Clapper → Clapper) : (s.mClap f).clap = f s.clap := rfl
@[simp] theorem State.mClap_toll (f : Clapper → Clapper) : (s.mClap f).toll = s.toll := rfl
@[simp] theorem State.mClap_nv (f : Clapper → Clapper) : (s.mClap f).nv = s.nv := rfl
@[simp] theorem State.mClap_pair (f : Clapper → Clapper) : (s.mClap f).pair = s.pair := rfl
@[simp] theorem State.mClap_health (f : Clapper → Clapper) : (s.mClap f).health = s.health := rfl
@[simp] theorem State.mClap_tmp (f : Clapper → Clapper) : (s.mClap f).tmp = s.tmp := rfl
@[simp] theorem State.mClap_lc (f : Clapper → Clapper) : (s.mClap f).lc = s.lc := rfl
@[simp] theorem State.mClap_boot (f : Clapper → Clapper) : (s.mClap f).boot = s.boot := rfl
@[simp] theorem State.mClap_mem (f : Clapper → Clapper) : (s.mClap f).mem = s.mem := rfl
@[simp] theorem State.mClap_smb (f : Clapper → Clapper) : (s.mClap f).smb = s.smb := rfl
@[simp] theorem State.mClap_pending (f : Clapper → Clapper) : (s.mClap f).pending = s.pending := rfl
/-! `State.mToll`. -/
@[simp] theorem State.mToll_clk (f : Toll → Toll) : (s.mToll f).clk = s.clk := rfl
@[simp] theorem State.mToll_mode (f : Toll → Toll) : (s.mToll f).mode = s.mode := rfl
@[simp] theorem State.mToll_pwr (f : Toll → Toll) : (s.mToll f).pwr = s.pwr := rfl
@[simp] theorem State.mToll_fuses (f : Toll → Toll) : (s.mToll f).fuses = s.fuses := rfl
@[simp] theorem State.mToll_fe (f : Toll → Toll) : (s.mToll f).fe = s.fe := rfl
@[simp] theorem State.mToll_peals (f : Toll → Toll) : (s.mToll f).peals = s.peals := rfl
@[simp] theorem State.mToll_gov (f : Toll → Toll) : (s.mToll f).gov = s.gov := rfl
@[simp] theorem State.mToll_clusters (f : Toll → Toll) : (s.mToll f).clusters = s.clusters := rfl
@[simp] theorem State.mToll_ks (f : Toll → Toll) : (s.mToll f).ks = s.ks := rfl
@[simp] theorem State.mToll_tenants (f : Toll → Toll) : (s.mToll f).tenants = s.tenants := rfl
@[simp] theorem State.mToll_tables (f : Toll → Toll) : (s.mToll f).tables = s.tables := rfl
@[simp] theorem State.mToll_sessions (f : Toll → Toll) : (s.mToll f).sessions = s.sessions := rfl
@[simp] theorem State.mToll_root (f : Toll → Toll) : (s.mToll f).root = s.root := rfl
@[simp] theorem State.mToll_rng (f : Toll → Toll) : (s.mToll f).rng = s.rng := rfl
@[simp] theorem State.mToll_clap (f : Toll → Toll) : (s.mToll f).clap = s.clap := rfl
@[simp] theorem State.mToll_toll (f : Toll → Toll) : (s.mToll f).toll = f s.toll := rfl
@[simp] theorem State.mToll_nv (f : Toll → Toll) : (s.mToll f).nv = s.nv := rfl
@[simp] theorem State.mToll_pair (f : Toll → Toll) : (s.mToll f).pair = s.pair := rfl
@[simp] theorem State.mToll_health (f : Toll → Toll) : (s.mToll f).health = s.health := rfl
@[simp] theorem State.mToll_tmp (f : Toll → Toll) : (s.mToll f).tmp = s.tmp := rfl
@[simp] theorem State.mToll_lc (f : Toll → Toll) : (s.mToll f).lc = s.lc := rfl
@[simp] theorem State.mToll_boot (f : Toll → Toll) : (s.mToll f).boot = s.boot := rfl
@[simp] theorem State.mToll_mem (f : Toll → Toll) : (s.mToll f).mem = s.mem := rfl
@[simp] theorem State.mToll_smb (f : Toll → Toll) : (s.mToll f).smb = s.smb := rfl
@[simp] theorem State.mToll_pending (f : Toll → Toll) : (s.mToll f).pending = s.pending := rfl
/-! `State.mNv`. -/
@[simp] theorem State.mNv_clk (f : NvStore → NvStore) : (s.mNv f).clk = s.clk := rfl
@[simp] theorem State.mNv_mode (f : NvStore → NvStore) : (s.mNv f).mode = s.mode := rfl
@[simp] theorem State.mNv_pwr (f : NvStore → NvStore) : (s.mNv f).pwr = s.pwr := rfl
@[simp] theorem State.mNv_fuses (f : NvStore → NvStore) : (s.mNv f).fuses = s.fuses := rfl
@[simp] theorem State.mNv_fe (f : NvStore → NvStore) : (s.mNv f).fe = s.fe := rfl
@[simp] theorem State.mNv_peals (f : NvStore → NvStore) : (s.mNv f).peals = s.peals := rfl
@[simp] theorem State.mNv_gov (f : NvStore → NvStore) : (s.mNv f).gov = s.gov := rfl
@[simp] theorem State.mNv_clusters (f : NvStore → NvStore) : (s.mNv f).clusters = s.clusters := rfl
@[simp] theorem State.mNv_ks (f : NvStore → NvStore) : (s.mNv f).ks = s.ks := rfl
@[simp] theorem State.mNv_tenants (f : NvStore → NvStore) : (s.mNv f).tenants = s.tenants := rfl
@[simp] theorem State.mNv_tables (f : NvStore → NvStore) : (s.mNv f).tables = s.tables := rfl
@[simp] theorem State.mNv_sessions (f : NvStore → NvStore) : (s.mNv f).sessions = s.sessions := rfl
@[simp] theorem State.mNv_root (f : NvStore → NvStore) : (s.mNv f).root = s.root := rfl
@[simp] theorem State.mNv_rng (f : NvStore → NvStore) : (s.mNv f).rng = s.rng := rfl
@[simp] theorem State.mNv_clap (f : NvStore → NvStore) : (s.mNv f).clap = s.clap := rfl
@[simp] theorem State.mNv_toll (f : NvStore → NvStore) : (s.mNv f).toll = s.toll := rfl
@[simp] theorem State.mNv_nv (f : NvStore → NvStore) : (s.mNv f).nv = f s.nv := rfl
@[simp] theorem State.mNv_pair (f : NvStore → NvStore) : (s.mNv f).pair = s.pair := rfl
@[simp] theorem State.mNv_health (f : NvStore → NvStore) : (s.mNv f).health = s.health := rfl
@[simp] theorem State.mNv_tmp (f : NvStore → NvStore) : (s.mNv f).tmp = s.tmp := rfl
@[simp] theorem State.mNv_lc (f : NvStore → NvStore) : (s.mNv f).lc = s.lc := rfl
@[simp] theorem State.mNv_boot (f : NvStore → NvStore) : (s.mNv f).boot = s.boot := rfl
@[simp] theorem State.mNv_mem (f : NvStore → NvStore) : (s.mNv f).mem = s.mem := rfl
@[simp] theorem State.mNv_smb (f : NvStore → NvStore) : (s.mNv f).smb = s.smb := rfl
@[simp] theorem State.mNv_pending (f : NvStore → NvStore) : (s.mNv f).pending = s.pending := rfl
/-! `State.mPair`. -/
@[simp] theorem State.mPair_clk (f : Pair → Pair) : (s.mPair f).clk = s.clk := rfl
@[simp] theorem State.mPair_mode (f : Pair → Pair) : (s.mPair f).mode = s.mode := rfl
@[simp] theorem State.mPair_pwr (f : Pair → Pair) : (s.mPair f).pwr = s.pwr := rfl
@[simp] theorem State.mPair_fuses (f : Pair → Pair) : (s.mPair f).fuses = s.fuses := rfl
@[simp] theorem State.mPair_fe (f : Pair → Pair) : (s.mPair f).fe = s.fe := rfl
@[simp] theorem State.mPair_peals (f : Pair → Pair) : (s.mPair f).peals = s.peals := rfl
@[simp] theorem State.mPair_gov (f : Pair → Pair) : (s.mPair f).gov = s.gov := rfl
@[simp] theorem State.mPair_clusters (f : Pair → Pair) : (s.mPair f).clusters = s.clusters := rfl
@[simp] theorem State.mPair_ks (f : Pair → Pair) : (s.mPair f).ks = s.ks := rfl
@[simp] theorem State.mPair_tenants (f : Pair → Pair) : (s.mPair f).tenants = s.tenants := rfl
@[simp] theorem State.mPair_tables (f : Pair → Pair) : (s.mPair f).tables = s.tables := rfl
@[simp] theorem State.mPair_sessions (f : Pair → Pair) : (s.mPair f).sessions = s.sessions := rfl
@[simp] theorem State.mPair_root (f : Pair → Pair) : (s.mPair f).root = s.root := rfl
@[simp] theorem State.mPair_rng (f : Pair → Pair) : (s.mPair f).rng = s.rng := rfl
@[simp] theorem State.mPair_clap (f : Pair → Pair) : (s.mPair f).clap = s.clap := rfl
@[simp] theorem State.mPair_toll (f : Pair → Pair) : (s.mPair f).toll = s.toll := rfl
@[simp] theorem State.mPair_nv (f : Pair → Pair) : (s.mPair f).nv = s.nv := rfl
@[simp] theorem State.mPair_pair (f : Pair → Pair) : (s.mPair f).pair = f s.pair := rfl
@[simp] theorem State.mPair_health (f : Pair → Pair) : (s.mPair f).health = s.health := rfl
@[simp] theorem State.mPair_tmp (f : Pair → Pair) : (s.mPair f).tmp = s.tmp := rfl
@[simp] theorem State.mPair_lc (f : Pair → Pair) : (s.mPair f).lc = s.lc := rfl
@[simp] theorem State.mPair_boot (f : Pair → Pair) : (s.mPair f).boot = s.boot := rfl
@[simp] theorem State.mPair_mem (f : Pair → Pair) : (s.mPair f).mem = s.mem := rfl
@[simp] theorem State.mPair_smb (f : Pair → Pair) : (s.mPair f).smb = s.smb := rfl
@[simp] theorem State.mPair_pending (f : Pair → Pair) : (s.mPair f).pending = s.pending := rfl
/-! `State.mHealth`. -/
@[simp] theorem State.mHealth_clk (f : Health → Health) : (s.mHealth f).clk = s.clk := rfl
@[simp] theorem State.mHealth_mode (f : Health → Health) : (s.mHealth f).mode = s.mode := rfl
@[simp] theorem State.mHealth_pwr (f : Health → Health) : (s.mHealth f).pwr = s.pwr := rfl
@[simp] theorem State.mHealth_fuses (f : Health → Health) : (s.mHealth f).fuses = s.fuses := rfl
@[simp] theorem State.mHealth_fe (f : Health → Health) : (s.mHealth f).fe = s.fe := rfl
@[simp] theorem State.mHealth_peals (f : Health → Health) : (s.mHealth f).peals = s.peals := rfl
@[simp] theorem State.mHealth_gov (f : Health → Health) : (s.mHealth f).gov = s.gov := rfl
@[simp] theorem State.mHealth_clusters (f : Health → Health) : (s.mHealth f).clusters = s.clusters := rfl
@[simp] theorem State.mHealth_ks (f : Health → Health) : (s.mHealth f).ks = s.ks := rfl
@[simp] theorem State.mHealth_tenants (f : Health → Health) : (s.mHealth f).tenants = s.tenants := rfl
@[simp] theorem State.mHealth_tables (f : Health → Health) : (s.mHealth f).tables = s.tables := rfl
@[simp] theorem State.mHealth_sessions (f : Health → Health) : (s.mHealth f).sessions = s.sessions := rfl
@[simp] theorem State.mHealth_root (f : Health → Health) : (s.mHealth f).root = s.root := rfl
@[simp] theorem State.mHealth_rng (f : Health → Health) : (s.mHealth f).rng = s.rng := rfl
@[simp] theorem State.mHealth_clap (f : Health → Health) : (s.mHealth f).clap = s.clap := rfl
@[simp] theorem State.mHealth_toll (f : Health → Health) : (s.mHealth f).toll = s.toll := rfl
@[simp] theorem State.mHealth_nv (f : Health → Health) : (s.mHealth f).nv = s.nv := rfl
@[simp] theorem State.mHealth_pair (f : Health → Health) : (s.mHealth f).pair = s.pair := rfl
@[simp] theorem State.mHealth_health (f : Health → Health) : (s.mHealth f).health = f s.health := rfl
@[simp] theorem State.mHealth_tmp (f : Health → Health) : (s.mHealth f).tmp = s.tmp := rfl
@[simp] theorem State.mHealth_lc (f : Health → Health) : (s.mHealth f).lc = s.lc := rfl
@[simp] theorem State.mHealth_boot (f : Health → Health) : (s.mHealth f).boot = s.boot := rfl
@[simp] theorem State.mHealth_mem (f : Health → Health) : (s.mHealth f).mem = s.mem := rfl
@[simp] theorem State.mHealth_smb (f : Health → Health) : (s.mHealth f).smb = s.smb := rfl
@[simp] theorem State.mHealth_pending (f : Health → Health) : (s.mHealth f).pending = s.pending := rfl
/-! `State.mTmp`. -/
@[simp] theorem State.mTmp_clk (f : Tamper → Tamper) : (s.mTmp f).clk = s.clk := rfl
@[simp] theorem State.mTmp_mode (f : Tamper → Tamper) : (s.mTmp f).mode = s.mode := rfl
@[simp] theorem State.mTmp_pwr (f : Tamper → Tamper) : (s.mTmp f).pwr = s.pwr := rfl
@[simp] theorem State.mTmp_fuses (f : Tamper → Tamper) : (s.mTmp f).fuses = s.fuses := rfl
@[simp] theorem State.mTmp_fe (f : Tamper → Tamper) : (s.mTmp f).fe = s.fe := rfl
@[simp] theorem State.mTmp_peals (f : Tamper → Tamper) : (s.mTmp f).peals = s.peals := rfl
@[simp] theorem State.mTmp_gov (f : Tamper → Tamper) : (s.mTmp f).gov = s.gov := rfl
@[simp] theorem State.mTmp_clusters (f : Tamper → Tamper) : (s.mTmp f).clusters = s.clusters := rfl
@[simp] theorem State.mTmp_ks (f : Tamper → Tamper) : (s.mTmp f).ks = s.ks := rfl
@[simp] theorem State.mTmp_tenants (f : Tamper → Tamper) : (s.mTmp f).tenants = s.tenants := rfl
@[simp] theorem State.mTmp_tables (f : Tamper → Tamper) : (s.mTmp f).tables = s.tables := rfl
@[simp] theorem State.mTmp_sessions (f : Tamper → Tamper) : (s.mTmp f).sessions = s.sessions := rfl
@[simp] theorem State.mTmp_root (f : Tamper → Tamper) : (s.mTmp f).root = s.root := rfl
@[simp] theorem State.mTmp_rng (f : Tamper → Tamper) : (s.mTmp f).rng = s.rng := rfl
@[simp] theorem State.mTmp_clap (f : Tamper → Tamper) : (s.mTmp f).clap = s.clap := rfl
@[simp] theorem State.mTmp_toll (f : Tamper → Tamper) : (s.mTmp f).toll = s.toll := rfl
@[simp] theorem State.mTmp_nv (f : Tamper → Tamper) : (s.mTmp f).nv = s.nv := rfl
@[simp] theorem State.mTmp_pair (f : Tamper → Tamper) : (s.mTmp f).pair = s.pair := rfl
@[simp] theorem State.mTmp_health (f : Tamper → Tamper) : (s.mTmp f).health = s.health := rfl
@[simp] theorem State.mTmp_tmp (f : Tamper → Tamper) : (s.mTmp f).tmp = f s.tmp := rfl
@[simp] theorem State.mTmp_lc (f : Tamper → Tamper) : (s.mTmp f).lc = s.lc := rfl
@[simp] theorem State.mTmp_boot (f : Tamper → Tamper) : (s.mTmp f).boot = s.boot := rfl
@[simp] theorem State.mTmp_mem (f : Tamper → Tamper) : (s.mTmp f).mem = s.mem := rfl
@[simp] theorem State.mTmp_smb (f : Tamper → Tamper) : (s.mTmp f).smb = s.smb := rfl
@[simp] theorem State.mTmp_pending (f : Tamper → Tamper) : (s.mTmp f).pending = s.pending := rfl
/-! `State.mLc`. -/
@[simp] theorem State.mLc_clk (f : LifeCycle → LifeCycle) : (s.mLc f).clk = s.clk := rfl
@[simp] theorem State.mLc_mode (f : LifeCycle → LifeCycle) : (s.mLc f).mode = s.mode := rfl
@[simp] theorem State.mLc_pwr (f : LifeCycle → LifeCycle) : (s.mLc f).pwr = s.pwr := rfl
@[simp] theorem State.mLc_fuses (f : LifeCycle → LifeCycle) : (s.mLc f).fuses = s.fuses := rfl
@[simp] theorem State.mLc_fe (f : LifeCycle → LifeCycle) : (s.mLc f).fe = s.fe := rfl
@[simp] theorem State.mLc_peals (f : LifeCycle → LifeCycle) : (s.mLc f).peals = s.peals := rfl
@[simp] theorem State.mLc_gov (f : LifeCycle → LifeCycle) : (s.mLc f).gov = s.gov := rfl
@[simp] theorem State.mLc_clusters (f : LifeCycle → LifeCycle) : (s.mLc f).clusters = s.clusters := rfl
@[simp] theorem State.mLc_ks (f : LifeCycle → LifeCycle) : (s.mLc f).ks = s.ks := rfl
@[simp] theorem State.mLc_tenants (f : LifeCycle → LifeCycle) : (s.mLc f).tenants = s.tenants := rfl
@[simp] theorem State.mLc_tables (f : LifeCycle → LifeCycle) : (s.mLc f).tables = s.tables := rfl
@[simp] theorem State.mLc_sessions (f : LifeCycle → LifeCycle) : (s.mLc f).sessions = s.sessions := rfl
@[simp] theorem State.mLc_root (f : LifeCycle → LifeCycle) : (s.mLc f).root = s.root := rfl
@[simp] theorem State.mLc_rng (f : LifeCycle → LifeCycle) : (s.mLc f).rng = s.rng := rfl
@[simp] theorem State.mLc_clap (f : LifeCycle → LifeCycle) : (s.mLc f).clap = s.clap := rfl
@[simp] theorem State.mLc_toll (f : LifeCycle → LifeCycle) : (s.mLc f).toll = s.toll := rfl
@[simp] theorem State.mLc_nv (f : LifeCycle → LifeCycle) : (s.mLc f).nv = s.nv := rfl
@[simp] theorem State.mLc_pair (f : LifeCycle → LifeCycle) : (s.mLc f).pair = s.pair := rfl
@[simp] theorem State.mLc_health (f : LifeCycle → LifeCycle) : (s.mLc f).health = s.health := rfl
@[simp] theorem State.mLc_tmp (f : LifeCycle → LifeCycle) : (s.mLc f).tmp = s.tmp := rfl
@[simp] theorem State.mLc_lc (f : LifeCycle → LifeCycle) : (s.mLc f).lc = f s.lc := rfl
@[simp] theorem State.mLc_boot (f : LifeCycle → LifeCycle) : (s.mLc f).boot = s.boot := rfl
@[simp] theorem State.mLc_mem (f : LifeCycle → LifeCycle) : (s.mLc f).mem = s.mem := rfl
@[simp] theorem State.mLc_smb (f : LifeCycle → LifeCycle) : (s.mLc f).smb = s.smb := rfl
@[simp] theorem State.mLc_pending (f : LifeCycle → LifeCycle) : (s.mLc f).pending = s.pending := rfl
/-! `State.mBoot`. -/
@[simp] theorem State.mBoot_clk (f : Boot → Boot) : (s.mBoot f).clk = s.clk := rfl
@[simp] theorem State.mBoot_mode (f : Boot → Boot) : (s.mBoot f).mode = s.mode := rfl
@[simp] theorem State.mBoot_pwr (f : Boot → Boot) : (s.mBoot f).pwr = s.pwr := rfl
@[simp] theorem State.mBoot_fuses (f : Boot → Boot) : (s.mBoot f).fuses = s.fuses := rfl
@[simp] theorem State.mBoot_fe (f : Boot → Boot) : (s.mBoot f).fe = s.fe := rfl
@[simp] theorem State.mBoot_peals (f : Boot → Boot) : (s.mBoot f).peals = s.peals := rfl
@[simp] theorem State.mBoot_gov (f : Boot → Boot) : (s.mBoot f).gov = s.gov := rfl
@[simp] theorem State.mBoot_clusters (f : Boot → Boot) : (s.mBoot f).clusters = s.clusters := rfl
@[simp] theorem State.mBoot_ks (f : Boot → Boot) : (s.mBoot f).ks = s.ks := rfl
@[simp] theorem State.mBoot_tenants (f : Boot → Boot) : (s.mBoot f).tenants = s.tenants := rfl
@[simp] theorem State.mBoot_tables (f : Boot → Boot) : (s.mBoot f).tables = s.tables := rfl
@[simp] theorem State.mBoot_sessions (f : Boot → Boot) : (s.mBoot f).sessions = s.sessions := rfl
@[simp] theorem State.mBoot_root (f : Boot → Boot) : (s.mBoot f).root = s.root := rfl
@[simp] theorem State.mBoot_rng (f : Boot → Boot) : (s.mBoot f).rng = s.rng := rfl
@[simp] theorem State.mBoot_clap (f : Boot → Boot) : (s.mBoot f).clap = s.clap := rfl
@[simp] theorem State.mBoot_toll (f : Boot → Boot) : (s.mBoot f).toll = s.toll := rfl
@[simp] theorem State.mBoot_nv (f : Boot → Boot) : (s.mBoot f).nv = s.nv := rfl
@[simp] theorem State.mBoot_pair (f : Boot → Boot) : (s.mBoot f).pair = s.pair := rfl
@[simp] theorem State.mBoot_health (f : Boot → Boot) : (s.mBoot f).health = s.health := rfl
@[simp] theorem State.mBoot_tmp (f : Boot → Boot) : (s.mBoot f).tmp = s.tmp := rfl
@[simp] theorem State.mBoot_lc (f : Boot → Boot) : (s.mBoot f).lc = s.lc := rfl
@[simp] theorem State.mBoot_boot (f : Boot → Boot) : (s.mBoot f).boot = f s.boot := rfl
@[simp] theorem State.mBoot_mem (f : Boot → Boot) : (s.mBoot f).mem = s.mem := rfl
@[simp] theorem State.mBoot_smb (f : Boot → Boot) : (s.mBoot f).smb = s.smb := rfl
@[simp] theorem State.mBoot_pending (f : Boot → Boot) : (s.mBoot f).pending = s.pending := rfl
/-! `State.mMem`. -/
@[simp] theorem State.mMem_clk (f : Memory → Memory) : (s.mMem f).clk = s.clk := rfl
@[simp] theorem State.mMem_mode (f : Memory → Memory) : (s.mMem f).mode = s.mode := rfl
@[simp] theorem State.mMem_pwr (f : Memory → Memory) : (s.mMem f).pwr = s.pwr := rfl
@[simp] theorem State.mMem_fuses (f : Memory → Memory) : (s.mMem f).fuses = s.fuses := rfl
@[simp] theorem State.mMem_fe (f : Memory → Memory) : (s.mMem f).fe = s.fe := rfl
@[simp] theorem State.mMem_peals (f : Memory → Memory) : (s.mMem f).peals = s.peals := rfl
@[simp] theorem State.mMem_gov (f : Memory → Memory) : (s.mMem f).gov = s.gov := rfl
@[simp] theorem State.mMem_clusters (f : Memory → Memory) : (s.mMem f).clusters = s.clusters := rfl
@[simp] theorem State.mMem_ks (f : Memory → Memory) : (s.mMem f).ks = s.ks := rfl
@[simp] theorem State.mMem_tenants (f : Memory → Memory) : (s.mMem f).tenants = s.tenants := rfl
@[simp] theorem State.mMem_tables (f : Memory → Memory) : (s.mMem f).tables = s.tables := rfl
@[simp] theorem State.mMem_sessions (f : Memory → Memory) : (s.mMem f).sessions = s.sessions := rfl
@[simp] theorem State.mMem_root (f : Memory → Memory) : (s.mMem f).root = s.root := rfl
@[simp] theorem State.mMem_rng (f : Memory → Memory) : (s.mMem f).rng = s.rng := rfl
@[simp] theorem State.mMem_clap (f : Memory → Memory) : (s.mMem f).clap = s.clap := rfl
@[simp] theorem State.mMem_toll (f : Memory → Memory) : (s.mMem f).toll = s.toll := rfl
@[simp] theorem State.mMem_nv (f : Memory → Memory) : (s.mMem f).nv = s.nv := rfl
@[simp] theorem State.mMem_pair (f : Memory → Memory) : (s.mMem f).pair = s.pair := rfl
@[simp] theorem State.mMem_health (f : Memory → Memory) : (s.mMem f).health = s.health := rfl
@[simp] theorem State.mMem_tmp (f : Memory → Memory) : (s.mMem f).tmp = s.tmp := rfl
@[simp] theorem State.mMem_lc (f : Memory → Memory) : (s.mMem f).lc = s.lc := rfl
@[simp] theorem State.mMem_boot (f : Memory → Memory) : (s.mMem f).boot = s.boot := rfl
@[simp] theorem State.mMem_mem (f : Memory → Memory) : (s.mMem f).mem = f s.mem := rfl
@[simp] theorem State.mMem_smb (f : Memory → Memory) : (s.mMem f).smb = s.smb := rfl
@[simp] theorem State.mMem_pending (f : Memory → Memory) : (s.mMem f).pending = s.pending := rfl
/-! `State.mSmb`. -/
@[simp] theorem State.mSmb_clk (f : SmBus → SmBus) : (s.mSmb f).clk = s.clk := rfl
@[simp] theorem State.mSmb_mode (f : SmBus → SmBus) : (s.mSmb f).mode = s.mode := rfl
@[simp] theorem State.mSmb_pwr (f : SmBus → SmBus) : (s.mSmb f).pwr = s.pwr := rfl
@[simp] theorem State.mSmb_fuses (f : SmBus → SmBus) : (s.mSmb f).fuses = s.fuses := rfl
@[simp] theorem State.mSmb_fe (f : SmBus → SmBus) : (s.mSmb f).fe = s.fe := rfl
@[simp] theorem State.mSmb_peals (f : SmBus → SmBus) : (s.mSmb f).peals = s.peals := rfl
@[simp] theorem State.mSmb_gov (f : SmBus → SmBus) : (s.mSmb f).gov = s.gov := rfl
@[simp] theorem State.mSmb_clusters (f : SmBus → SmBus) : (s.mSmb f).clusters = s.clusters := rfl
@[simp] theorem State.mSmb_ks (f : SmBus → SmBus) : (s.mSmb f).ks = s.ks := rfl
@[simp] theorem State.mSmb_tenants (f : SmBus → SmBus) : (s.mSmb f).tenants = s.tenants := rfl
@[simp] theorem State.mSmb_tables (f : SmBus → SmBus) : (s.mSmb f).tables = s.tables := rfl
@[simp] theorem State.mSmb_sessions (f : SmBus → SmBus) : (s.mSmb f).sessions = s.sessions := rfl
@[simp] theorem State.mSmb_root (f : SmBus → SmBus) : (s.mSmb f).root = s.root := rfl
@[simp] theorem State.mSmb_rng (f : SmBus → SmBus) : (s.mSmb f).rng = s.rng := rfl
@[simp] theorem State.mSmb_clap (f : SmBus → SmBus) : (s.mSmb f).clap = s.clap := rfl
@[simp] theorem State.mSmb_toll (f : SmBus → SmBus) : (s.mSmb f).toll = s.toll := rfl
@[simp] theorem State.mSmb_nv (f : SmBus → SmBus) : (s.mSmb f).nv = s.nv := rfl
@[simp] theorem State.mSmb_pair (f : SmBus → SmBus) : (s.mSmb f).pair = s.pair := rfl
@[simp] theorem State.mSmb_health (f : SmBus → SmBus) : (s.mSmb f).health = s.health := rfl
@[simp] theorem State.mSmb_tmp (f : SmBus → SmBus) : (s.mSmb f).tmp = s.tmp := rfl
@[simp] theorem State.mSmb_lc (f : SmBus → SmBus) : (s.mSmb f).lc = s.lc := rfl
@[simp] theorem State.mSmb_boot (f : SmBus → SmBus) : (s.mSmb f).boot = s.boot := rfl
@[simp] theorem State.mSmb_mem (f : SmBus → SmBus) : (s.mSmb f).mem = s.mem := rfl
@[simp] theorem State.mSmb_smb (f : SmBus → SmBus) : (s.mSmb f).smb = f s.smb := rfl
@[simp] theorem State.mSmb_pending (f : SmBus → SmBus) : (s.mSmb f).pending = s.pending := rfl
/-! `State.mClusters`. -/
@[simp] theorem State.mClusters_clk (f : List Cluster → List Cluster) : (s.mClusters f).clk = s.clk := rfl
@[simp] theorem State.mClusters_mode (f : List Cluster → List Cluster) : (s.mClusters f).mode = s.mode := rfl
@[simp] theorem State.mClusters_pwr (f : List Cluster → List Cluster) : (s.mClusters f).pwr = s.pwr := rfl
@[simp] theorem State.mClusters_fuses (f : List Cluster → List Cluster) : (s.mClusters f).fuses = s.fuses := rfl
@[simp] theorem State.mClusters_fe (f : List Cluster → List Cluster) : (s.mClusters f).fe = s.fe := rfl
@[simp] theorem State.mClusters_peals (f : List Cluster → List Cluster) : (s.mClusters f).peals = s.peals := rfl
@[simp] theorem State.mClusters_gov (f : List Cluster → List Cluster) : (s.mClusters f).gov = s.gov := rfl
@[simp] theorem State.mClusters_clusters (f : List Cluster → List Cluster) : (s.mClusters f).clusters = f s.clusters := rfl
@[simp] theorem State.mClusters_ks (f : List Cluster → List Cluster) : (s.mClusters f).ks = s.ks := rfl
@[simp] theorem State.mClusters_tenants (f : List Cluster → List Cluster) : (s.mClusters f).tenants = s.tenants := rfl
@[simp] theorem State.mClusters_tables (f : List Cluster → List Cluster) : (s.mClusters f).tables = s.tables := rfl
@[simp] theorem State.mClusters_sessions (f : List Cluster → List Cluster) : (s.mClusters f).sessions = s.sessions := rfl
@[simp] theorem State.mClusters_root (f : List Cluster → List Cluster) : (s.mClusters f).root = s.root := rfl
@[simp] theorem State.mClusters_rng (f : List Cluster → List Cluster) : (s.mClusters f).rng = s.rng := rfl
@[simp] theorem State.mClusters_clap (f : List Cluster → List Cluster) : (s.mClusters f).clap = s.clap := rfl
@[simp] theorem State.mClusters_toll (f : List Cluster → List Cluster) : (s.mClusters f).toll = s.toll := rfl
@[simp] theorem State.mClusters_nv (f : List Cluster → List Cluster) : (s.mClusters f).nv = s.nv := rfl
@[simp] theorem State.mClusters_pair (f : List Cluster → List Cluster) : (s.mClusters f).pair = s.pair := rfl
@[simp] theorem State.mClusters_health (f : List Cluster → List Cluster) : (s.mClusters f).health = s.health := rfl
@[simp] theorem State.mClusters_tmp (f : List Cluster → List Cluster) : (s.mClusters f).tmp = s.tmp := rfl
@[simp] theorem State.mClusters_lc (f : List Cluster → List Cluster) : (s.mClusters f).lc = s.lc := rfl
@[simp] theorem State.mClusters_boot (f : List Cluster → List Cluster) : (s.mClusters f).boot = s.boot := rfl
@[simp] theorem State.mClusters_mem (f : List Cluster → List Cluster) : (s.mClusters f).mem = s.mem := rfl
@[simp] theorem State.mClusters_smb (f : List Cluster → List Cluster) : (s.mClusters f).smb = s.smb := rfl
@[simp] theorem State.mClusters_pending (f : List Cluster → List Cluster) : (s.mClusters f).pending = s.pending := rfl
/-! `State.mCluster`. -/
@[simp] theorem State.mCluster_clk (c : ClusterNo) (f : Cluster → Cluster) : (s.mCluster c f).clk = s.clk := rfl
@[simp] theorem State.mCluster_mode (c : ClusterNo) (f : Cluster → Cluster) : (s.mCluster c f).mode = s.mode := rfl
@[simp] theorem State.mCluster_pwr (c : ClusterNo) (f : Cluster → Cluster) : (s.mCluster c f).pwr = s.pwr := rfl
@[simp] theorem State.mCluster_fuses (c : ClusterNo) (f : Cluster → Cluster) : (s.mCluster c f).fuses = s.fuses := rfl
@[simp] theorem State.mCluster_fe (c : ClusterNo) (f : Cluster → Cluster) : (s.mCluster c f).fe = s.fe := rfl
@[simp] theorem State.mCluster_peals (c : ClusterNo) (f : Cluster → Cluster) : (s.mCluster c f).peals = s.peals := rfl
@[simp] theorem State.mCluster_gov (c : ClusterNo) (f : Cluster → Cluster) : (s.mCluster c f).gov = s.gov := rfl
@[simp] theorem State.mCluster_ks (c : ClusterNo) (f : Cluster → Cluster) : (s.mCluster c f).ks = s.ks := rfl
@[simp] theorem State.mCluster_tenants (c : ClusterNo) (f : Cluster → Cluster) : (s.mCluster c f).tenants = s.tenants := rfl
@[simp] theorem State.mCluster_tables (c : ClusterNo) (f : Cluster → Cluster) : (s.mCluster c f).tables = s.tables := rfl
@[simp] theorem State.mCluster_sessions (c : ClusterNo) (f : Cluster → Cluster) : (s.mCluster c f).sessions = s.sessions := rfl
@[simp] theorem State.mCluster_root (c : ClusterNo) (f : Cluster → Cluster) : (s.mCluster c f).root = s.root := rfl
@[simp] theorem State.mCluster_rng (c : ClusterNo) (f : Cluster → Cluster) : (s.mCluster c f).rng = s.rng := rfl
@[simp] theorem State.mCluster_clap (c : ClusterNo) (f : Cluster → Cluster) : (s.mCluster c f).clap = s.clap := rfl
@[simp] theorem State.mCluster_toll (c : ClusterNo) (f : Cluster → Cluster) : (s.mCluster c f).toll = s.toll := rfl
@[simp] theorem State.mCluster_nv (c : ClusterNo) (f : Cluster → Cluster) : (s.mCluster c f).nv = s.nv := rfl
@[simp] theorem State.mCluster_pair (c : ClusterNo) (f : Cluster → Cluster) : (s.mCluster c f).pair = s.pair := rfl
@[simp] theorem State.mCluster_health (c : ClusterNo) (f : Cluster → Cluster) : (s.mCluster c f).health = s.health := rfl
@[simp] theorem State.mCluster_tmp (c : ClusterNo) (f : Cluster → Cluster) : (s.mCluster c f).tmp = s.tmp := rfl
@[simp] theorem State.mCluster_lc (c : ClusterNo) (f : Cluster → Cluster) : (s.mCluster c f).lc = s.lc := rfl
@[simp] theorem State.mCluster_boot (c : ClusterNo) (f : Cluster → Cluster) : (s.mCluster c f).boot = s.boot := rfl
@[simp] theorem State.mCluster_mem (c : ClusterNo) (f : Cluster → Cluster) : (s.mCluster c f).mem = s.mem := rfl
@[simp] theorem State.mCluster_smb (c : ClusterNo) (f : Cluster → Cluster) : (s.mCluster c f).smb = s.smb := rfl
@[simp] theorem State.mCluster_pending (c : ClusterNo) (f : Cluster → Cluster) : (s.mCluster c f).pending = s.pending := rfl
/-! `State.mTenant`. -/
@[simp] theorem State.mTenant_clk (t : Fn) (f : Tenant → Tenant) : (s.mTenant t f).clk = s.clk := rfl
@[simp] theorem State.mTenant_mode (t : Fn) (f : Tenant → Tenant) : (s.mTenant t f).mode = s.mode := rfl
@[simp] theorem State.mTenant_pwr (t : Fn) (f : Tenant → Tenant) : (s.mTenant t f).pwr = s.pwr := rfl
@[simp] theorem State.mTenant_fuses (t : Fn) (f : Tenant → Tenant) : (s.mTenant t f).fuses = s.fuses := rfl
@[simp] theorem State.mTenant_fe (t : Fn) (f : Tenant → Tenant) : (s.mTenant t f).fe = s.fe := rfl
@[simp] theorem State.mTenant_peals (t : Fn) (f : Tenant → Tenant) : (s.mTenant t f).peals = s.peals := rfl
@[simp] theorem State.mTenant_gov (t : Fn) (f : Tenant → Tenant) : (s.mTenant t f).gov = s.gov := rfl
@[simp] theorem State.mTenant_clusters (t : Fn) (f : Tenant → Tenant) : (s.mTenant t f).clusters = s.clusters := rfl
@[simp] theorem State.mTenant_ks (t : Fn) (f : Tenant → Tenant) : (s.mTenant t f).ks = s.ks := rfl
@[simp] theorem State.mTenant_tables (t : Fn) (f : Tenant → Tenant) : (s.mTenant t f).tables = s.tables := rfl
@[simp] theorem State.mTenant_sessions (t : Fn) (f : Tenant → Tenant) : (s.mTenant t f).sessions = s.sessions := rfl
@[simp] theorem State.mTenant_root (t : Fn) (f : Tenant → Tenant) : (s.mTenant t f).root = s.root := rfl
@[simp] theorem State.mTenant_rng (t : Fn) (f : Tenant → Tenant) : (s.mTenant t f).rng = s.rng := rfl
@[simp] theorem State.mTenant_clap (t : Fn) (f : Tenant → Tenant) : (s.mTenant t f).clap = s.clap := rfl
@[simp] theorem State.mTenant_toll (t : Fn) (f : Tenant → Tenant) : (s.mTenant t f).toll = s.toll := rfl
@[simp] theorem State.mTenant_nv (t : Fn) (f : Tenant → Tenant) : (s.mTenant t f).nv = s.nv := rfl
@[simp] theorem State.mTenant_pair (t : Fn) (f : Tenant → Tenant) : (s.mTenant t f).pair = s.pair := rfl
@[simp] theorem State.mTenant_health (t : Fn) (f : Tenant → Tenant) : (s.mTenant t f).health = s.health := rfl
@[simp] theorem State.mTenant_tmp (t : Fn) (f : Tenant → Tenant) : (s.mTenant t f).tmp = s.tmp := rfl
@[simp] theorem State.mTenant_lc (t : Fn) (f : Tenant → Tenant) : (s.mTenant t f).lc = s.lc := rfl
@[simp] theorem State.mTenant_boot (t : Fn) (f : Tenant → Tenant) : (s.mTenant t f).boot = s.boot := rfl
@[simp] theorem State.mTenant_mem (t : Fn) (f : Tenant → Tenant) : (s.mTenant t f).mem = s.mem := rfl
@[simp] theorem State.mTenant_smb (t : Fn) (f : Tenant → Tenant) : (s.mTenant t f).smb = s.smb := rfl
@[simp] theorem State.mTenant_pending (t : Fn) (f : Tenant → Tenant) : (s.mTenant t f).pending = s.pending := rfl
/-! `State.mTabs`. -/
@[simp] theorem State.mTabs_clk (t : Fn) (f : TenantTables → TenantTables) : (s.mTabs t f).clk = s.clk := rfl
@[simp] theorem State.mTabs_mode (t : Fn) (f : TenantTables → TenantTables) : (s.mTabs t f).mode = s.mode := rfl
@[simp] theorem State.mTabs_pwr (t : Fn) (f : TenantTables → TenantTables) : (s.mTabs t f).pwr = s.pwr := rfl
@[simp] theorem State.mTabs_fuses (t : Fn) (f : TenantTables → TenantTables) : (s.mTabs t f).fuses = s.fuses := rfl
@[simp] theorem State.mTabs_fe (t : Fn) (f : TenantTables → TenantTables) : (s.mTabs t f).fe = s.fe := rfl
@[simp] theorem State.mTabs_peals (t : Fn) (f : TenantTables → TenantTables) : (s.mTabs t f).peals = s.peals := rfl
@[simp] theorem State.mTabs_gov (t : Fn) (f : TenantTables → TenantTables) : (s.mTabs t f).gov = s.gov := rfl
@[simp] theorem State.mTabs_clusters (t : Fn) (f : TenantTables → TenantTables) : (s.mTabs t f).clusters = s.clusters := rfl
@[simp] theorem State.mTabs_ks (t : Fn) (f : TenantTables → TenantTables) : (s.mTabs t f).ks = s.ks := rfl
@[simp] theorem State.mTabs_tenants (t : Fn) (f : TenantTables → TenantTables) : (s.mTabs t f).tenants = s.tenants := rfl
@[simp] theorem State.mTabs_sessions (t : Fn) (f : TenantTables → TenantTables) : (s.mTabs t f).sessions = s.sessions := rfl
@[simp] theorem State.mTabs_root (t : Fn) (f : TenantTables → TenantTables) : (s.mTabs t f).root = s.root := rfl
@[simp] theorem State.mTabs_rng (t : Fn) (f : TenantTables → TenantTables) : (s.mTabs t f).rng = s.rng := rfl
@[simp] theorem State.mTabs_clap (t : Fn) (f : TenantTables → TenantTables) : (s.mTabs t f).clap = s.clap := rfl
@[simp] theorem State.mTabs_toll (t : Fn) (f : TenantTables → TenantTables) : (s.mTabs t f).toll = s.toll := rfl
@[simp] theorem State.mTabs_nv (t : Fn) (f : TenantTables → TenantTables) : (s.mTabs t f).nv = s.nv := rfl
@[simp] theorem State.mTabs_pair (t : Fn) (f : TenantTables → TenantTables) : (s.mTabs t f).pair = s.pair := rfl
@[simp] theorem State.mTabs_health (t : Fn) (f : TenantTables → TenantTables) : (s.mTabs t f).health = s.health := rfl
@[simp] theorem State.mTabs_tmp (t : Fn) (f : TenantTables → TenantTables) : (s.mTabs t f).tmp = s.tmp := rfl
@[simp] theorem State.mTabs_lc (t : Fn) (f : TenantTables → TenantTables) : (s.mTabs t f).lc = s.lc := rfl
@[simp] theorem State.mTabs_boot (t : Fn) (f : TenantTables → TenantTables) : (s.mTabs t f).boot = s.boot := rfl
@[simp] theorem State.mTabs_mem (t : Fn) (f : TenantTables → TenantTables) : (s.mTabs t f).mem = s.mem := rfl
@[simp] theorem State.mTabs_smb (t : Fn) (f : TenantTables → TenantTables) : (s.mTabs t f).smb = s.smb := rfl
@[simp] theorem State.mTabs_pending (t : Fn) (f : TenantTables → TenantTables) : (s.mTabs t f).pending = s.pending := rfl
/-! `State.mFunc`. -/
@[simp] theorem State.mFunc_clk (fn : Fn) (f : Func → Func) : (s.mFunc fn f).clk = s.clk := rfl
@[simp] theorem State.mFunc_mode (fn : Fn) (f : Func → Func) : (s.mFunc fn f).mode = s.mode := rfl
@[simp] theorem State.mFunc_pwr (fn : Fn) (f : Func → Func) : (s.mFunc fn f).pwr = s.pwr := rfl
@[simp] theorem State.mFunc_fuses (fn : Fn) (f : Func → Func) : (s.mFunc fn f).fuses = s.fuses := rfl
@[simp] theorem State.mFunc_peals (fn : Fn) (f : Func → Func) : (s.mFunc fn f).peals = s.peals := rfl
@[simp] theorem State.mFunc_gov (fn : Fn) (f : Func → Func) : (s.mFunc fn f).gov = s.gov := rfl
@[simp] theorem State.mFunc_clusters (fn : Fn) (f : Func → Func) : (s.mFunc fn f).clusters = s.clusters := rfl
@[simp] theorem State.mFunc_ks (fn : Fn) (f : Func → Func) : (s.mFunc fn f).ks = s.ks := rfl
@[simp] theorem State.mFunc_tenants (fn : Fn) (f : Func → Func) : (s.mFunc fn f).tenants = s.tenants := rfl
@[simp] theorem State.mFunc_tables (fn : Fn) (f : Func → Func) : (s.mFunc fn f).tables = s.tables := rfl
@[simp] theorem State.mFunc_sessions (fn : Fn) (f : Func → Func) : (s.mFunc fn f).sessions = s.sessions := rfl
@[simp] theorem State.mFunc_root (fn : Fn) (f : Func → Func) : (s.mFunc fn f).root = s.root := rfl
@[simp] theorem State.mFunc_rng (fn : Fn) (f : Func → Func) : (s.mFunc fn f).rng = s.rng := rfl
@[simp] theorem State.mFunc_clap (fn : Fn) (f : Func → Func) : (s.mFunc fn f).clap = s.clap := rfl
@[simp] theorem State.mFunc_toll (fn : Fn) (f : Func → Func) : (s.mFunc fn f).toll = s.toll := rfl
@[simp] theorem State.mFunc_nv (fn : Fn) (f : Func → Func) : (s.mFunc fn f).nv = s.nv := rfl
@[simp] theorem State.mFunc_pair (fn : Fn) (f : Func → Func) : (s.mFunc fn f).pair = s.pair := rfl
@[simp] theorem State.mFunc_health (fn : Fn) (f : Func → Func) : (s.mFunc fn f).health = s.health := rfl
@[simp] theorem State.mFunc_tmp (fn : Fn) (f : Func → Func) : (s.mFunc fn f).tmp = s.tmp := rfl
@[simp] theorem State.mFunc_lc (fn : Fn) (f : Func → Func) : (s.mFunc fn f).lc = s.lc := rfl
@[simp] theorem State.mFunc_boot (fn : Fn) (f : Func → Func) : (s.mFunc fn f).boot = s.boot := rfl
@[simp] theorem State.mFunc_mem (fn : Fn) (f : Func → Func) : (s.mFunc fn f).mem = s.mem := rfl
@[simp] theorem State.mFunc_smb (fn : Fn) (f : Func → Func) : (s.mFunc fn f).smb = s.smb := rfl
@[simp] theorem State.mFunc_pending (fn : Fn) (f : Func → Func) : (s.mFunc fn f).pending = s.pending := rfl
/-! `State.mSq`. -/
@[simp] theorem State.mSq_clk (r : SqNo) (f : SubRing → SubRing) : (s.mSq r f).clk = s.clk := rfl
@[simp] theorem State.mSq_mode (r : SqNo) (f : SubRing → SubRing) : (s.mSq r f).mode = s.mode := rfl
@[simp] theorem State.mSq_pwr (r : SqNo) (f : SubRing → SubRing) : (s.mSq r f).pwr = s.pwr := rfl
@[simp] theorem State.mSq_fuses (r : SqNo) (f : SubRing → SubRing) : (s.mSq r f).fuses = s.fuses := rfl
@[simp] theorem State.mSq_peals (r : SqNo) (f : SubRing → SubRing) : (s.mSq r f).peals = s.peals := rfl
@[simp] theorem State.mSq_gov (r : SqNo) (f : SubRing → SubRing) : (s.mSq r f).gov = s.gov := rfl
@[simp] theorem State.mSq_clusters (r : SqNo) (f : SubRing → SubRing) : (s.mSq r f).clusters = s.clusters := rfl
@[simp] theorem State.mSq_ks (r : SqNo) (f : SubRing → SubRing) : (s.mSq r f).ks = s.ks := rfl
@[simp] theorem State.mSq_tenants (r : SqNo) (f : SubRing → SubRing) : (s.mSq r f).tenants = s.tenants := rfl
@[simp] theorem State.mSq_tables (r : SqNo) (f : SubRing → SubRing) : (s.mSq r f).tables = s.tables := rfl
@[simp] theorem State.mSq_sessions (r : SqNo) (f : SubRing → SubRing) : (s.mSq r f).sessions = s.sessions := rfl
@[simp] theorem State.mSq_root (r : SqNo) (f : SubRing → SubRing) : (s.mSq r f).root = s.root := rfl
@[simp] theorem State.mSq_rng (r : SqNo) (f : SubRing → SubRing) : (s.mSq r f).rng = s.rng := rfl
@[simp] theorem State.mSq_clap (r : SqNo) (f : SubRing → SubRing) : (s.mSq r f).clap = s.clap := rfl
@[simp] theorem State.mSq_toll (r : SqNo) (f : SubRing → SubRing) : (s.mSq r f).toll = s.toll := rfl
@[simp] theorem State.mSq_nv (r : SqNo) (f : SubRing → SubRing) : (s.mSq r f).nv = s.nv := rfl
@[simp] theorem State.mSq_pair (r : SqNo) (f : SubRing → SubRing) : (s.mSq r f).pair = s.pair := rfl
@[simp] theorem State.mSq_health (r : SqNo) (f : SubRing → SubRing) : (s.mSq r f).health = s.health := rfl
@[simp] theorem State.mSq_tmp (r : SqNo) (f : SubRing → SubRing) : (s.mSq r f).tmp = s.tmp := rfl
@[simp] theorem State.mSq_lc (r : SqNo) (f : SubRing → SubRing) : (s.mSq r f).lc = s.lc := rfl
@[simp] theorem State.mSq_boot (r : SqNo) (f : SubRing → SubRing) : (s.mSq r f).boot = s.boot := rfl
@[simp] theorem State.mSq_mem (r : SqNo) (f : SubRing → SubRing) : (s.mSq r f).mem = s.mem := rfl
@[simp] theorem State.mSq_smb (r : SqNo) (f : SubRing → SubRing) : (s.mSq r f).smb = s.smb := rfl
@[simp] theorem State.mSq_pending (r : SqNo) (f : SubRing → SubRing) : (s.mSq r f).pending = s.pending := rfl
/-! `State.mCq`. -/
@[simp] theorem State.mCq_clk (c : CqNo) (f : CplRing → CplRing) : (s.mCq c f).clk = s.clk := rfl
@[simp] theorem State.mCq_mode (c : CqNo) (f : CplRing → CplRing) : (s.mCq c f).mode = s.mode := rfl
@[simp] theorem State.mCq_pwr (c : CqNo) (f : CplRing → CplRing) : (s.mCq c f).pwr = s.pwr := rfl
@[simp] theorem State.mCq_fuses (c : CqNo) (f : CplRing → CplRing) : (s.mCq c f).fuses = s.fuses := rfl
@[simp] theorem State.mCq_peals (c : CqNo) (f : CplRing → CplRing) : (s.mCq c f).peals = s.peals := rfl
@[simp] theorem State.mCq_gov (c : CqNo) (f : CplRing → CplRing) : (s.mCq c f).gov = s.gov := rfl
@[simp] theorem State.mCq_clusters (c : CqNo) (f : CplRing → CplRing) : (s.mCq c f).clusters = s.clusters := rfl
@[simp] theorem State.mCq_ks (c : CqNo) (f : CplRing → CplRing) : (s.mCq c f).ks = s.ks := rfl
@[simp] theorem State.mCq_tenants (c : CqNo) (f : CplRing → CplRing) : (s.mCq c f).tenants = s.tenants := rfl
@[simp] theorem State.mCq_tables (c : CqNo) (f : CplRing → CplRing) : (s.mCq c f).tables = s.tables := rfl
@[simp] theorem State.mCq_sessions (c : CqNo) (f : CplRing → CplRing) : (s.mCq c f).sessions = s.sessions := rfl
@[simp] theorem State.mCq_root (c : CqNo) (f : CplRing → CplRing) : (s.mCq c f).root = s.root := rfl
@[simp] theorem State.mCq_rng (c : CqNo) (f : CplRing → CplRing) : (s.mCq c f).rng = s.rng := rfl
@[simp] theorem State.mCq_clap (c : CqNo) (f : CplRing → CplRing) : (s.mCq c f).clap = s.clap := rfl
@[simp] theorem State.mCq_toll (c : CqNo) (f : CplRing → CplRing) : (s.mCq c f).toll = s.toll := rfl
@[simp] theorem State.mCq_nv (c : CqNo) (f : CplRing → CplRing) : (s.mCq c f).nv = s.nv := rfl
@[simp] theorem State.mCq_pair (c : CqNo) (f : CplRing → CplRing) : (s.mCq c f).pair = s.pair := rfl
@[simp] theorem State.mCq_health (c : CqNo) (f : CplRing → CplRing) : (s.mCq c f).health = s.health := rfl
@[simp] theorem State.mCq_tmp (c : CqNo) (f : CplRing → CplRing) : (s.mCq c f).tmp = s.tmp := rfl
@[simp] theorem State.mCq_lc (c : CqNo) (f : CplRing → CplRing) : (s.mCq c f).lc = s.lc := rfl
@[simp] theorem State.mCq_boot (c : CqNo) (f : CplRing → CplRing) : (s.mCq c f).boot = s.boot := rfl
@[simp] theorem State.mCq_mem (c : CqNo) (f : CplRing → CplRing) : (s.mCq c f).mem = s.mem := rfl
@[simp] theorem State.mCq_smb (c : CqNo) (f : CplRing → CplRing) : (s.mCq c f).smb = s.smb := rfl
@[simp] theorem State.mCq_pending (c : CqNo) (f : CplRing → CplRing) : (s.mCq c f).pending = s.pending := rfl
/-! `State.mPeal`: the peal table alone. -/
@[simp] theorem State.mPeal_clk (p : PealSlot) (f : Peal → Peal) : (s.mPeal p f).clk = s.clk := by
  unfold State.mPeal; split <;> rfl
@[simp] theorem State.mPeal_mode (p : PealSlot) (f : Peal → Peal) : (s.mPeal p f).mode = s.mode := by
  unfold State.mPeal; split <;> rfl
@[simp] theorem State.mPeal_pwr (p : PealSlot) (f : Peal → Peal) : (s.mPeal p f).pwr = s.pwr := by
  unfold State.mPeal; split <;> rfl
@[simp] theorem State.mPeal_fuses (p : PealSlot) (f : Peal → Peal) : (s.mPeal p f).fuses = s.fuses := by
  unfold State.mPeal; split <;> rfl
@[simp] theorem State.mPeal_fe (p : PealSlot) (f : Peal → Peal) : (s.mPeal p f).fe = s.fe := by
  unfold State.mPeal; split <;> rfl
@[simp] theorem State.mPeal_gov (p : PealSlot) (f : Peal → Peal) : (s.mPeal p f).gov = s.gov := by
  unfold State.mPeal; split <;> rfl
@[simp] theorem State.mPeal_clusters (p : PealSlot) (f : Peal → Peal) : (s.mPeal p f).clusters = s.clusters := by
  unfold State.mPeal; split <;> rfl
@[simp] theorem State.mPeal_ks (p : PealSlot) (f : Peal → Peal) : (s.mPeal p f).ks = s.ks := by
  unfold State.mPeal; split <;> rfl
@[simp] theorem State.mPeal_tenants (p : PealSlot) (f : Peal → Peal) : (s.mPeal p f).tenants = s.tenants := by
  unfold State.mPeal; split <;> rfl
@[simp] theorem State.mPeal_tables (p : PealSlot) (f : Peal → Peal) : (s.mPeal p f).tables = s.tables := by
  unfold State.mPeal; split <;> rfl
@[simp] theorem State.mPeal_sessions (p : PealSlot) (f : Peal → Peal) : (s.mPeal p f).sessions = s.sessions := by
  unfold State.mPeal; split <;> rfl
@[simp] theorem State.mPeal_root (p : PealSlot) (f : Peal → Peal) : (s.mPeal p f).root = s.root := by
  unfold State.mPeal; split <;> rfl
@[simp] theorem State.mPeal_rng (p : PealSlot) (f : Peal → Peal) : (s.mPeal p f).rng = s.rng := by
  unfold State.mPeal; split <;> rfl
@[simp] theorem State.mPeal_clap (p : PealSlot) (f : Peal → Peal) : (s.mPeal p f).clap = s.clap := by
  unfold State.mPeal; split <;> rfl
@[simp] theorem State.mPeal_toll (p : PealSlot) (f : Peal → Peal) : (s.mPeal p f).toll = s.toll := by
  unfold State.mPeal; split <;> rfl
@[simp] theorem State.mPeal_nv (p : PealSlot) (f : Peal → Peal) : (s.mPeal p f).nv = s.nv := by
  unfold State.mPeal; split <;> rfl
@[simp] theorem State.mPeal_pair (p : PealSlot) (f : Peal → Peal) : (s.mPeal p f).pair = s.pair := by
  unfold State.mPeal; split <;> rfl
@[simp] theorem State.mPeal_health (p : PealSlot) (f : Peal → Peal) : (s.mPeal p f).health = s.health := by
  unfold State.mPeal; split <;> rfl
@[simp] theorem State.mPeal_tmp (p : PealSlot) (f : Peal → Peal) : (s.mPeal p f).tmp = s.tmp := by
  unfold State.mPeal; split <;> rfl
@[simp] theorem State.mPeal_lc (p : PealSlot) (f : Peal → Peal) : (s.mPeal p f).lc = s.lc := by
  unfold State.mPeal; split <;> rfl
@[simp] theorem State.mPeal_boot (p : PealSlot) (f : Peal → Peal) : (s.mPeal p f).boot = s.boot := by
  unfold State.mPeal; split <;> rfl
@[simp] theorem State.mPeal_mem (p : PealSlot) (f : Peal → Peal) : (s.mPeal p f).mem = s.mem := by
  unfold State.mPeal; split <;> rfl
@[simp] theorem State.mPeal_smb (p : PealSlot) (f : Peal → Peal) : (s.mPeal p f).smb = s.smb := by
  unfold State.mPeal; split <;> rfl
@[simp] theorem State.mPeal_pending (p : PealSlot) (f : Peal → Peal) : (s.mPeal p f).pending = s.pending := by
  unfold State.mPeal; split <;> rfl

end Sys2Proof.Machine
end

