-- ==== Sys2Proof/Laws/Keeps.lean ====
section
/-! SUPPORT. What each shared operation leaves alone: one lemma each, and what it says of each part of the state is a
simplification rule, so that later proofs cite the operation and never unfold it. -/
namespace Sys2Proof.Machine

theorem Keeps.rfl' {s : State} : Keeps s s := ⟨rfl, rfl, rfl, rfl, rfl, rfl⟩
theorem Keeps.trans {s t u : State} (h : Keeps s t) (k : Keeps t u) : Keeps s u :=
  ⟨k.1.trans h.1, k.2.1.trans h.2.1, k.2.2.1.trans h.2.2.1, k.2.2.2.1.trans h.2.2.2.1, k.2.2.2.2.1.trans h.2.2.2.2.1,
    k.2.2.2.2.2.trans h.2.2.2.2.2⟩
theorem keeps_of_eq {α : Type} {x : α × State} {a : α} {s s1 : State} (h : x = (a, s1)) (k : Keeps s x.2) : Keeps s s1 := by
  rw [h] at k; exact k
theorem Keeps.ite {s a b : State} (c : Prop) [Decidable c] (h : Keeps s a) (k : Keeps s b) : Keeps s (if c then a else b) := by
  split <;> assumption
@[simp] theorem foldl_keeps {α : Type} (f : State → α → State) (h : ∀ s a, Keeps s (f s a)) (l : List α) (s : State) :
    Keeps s (l.foldl f s) := by
  induction l generalizing s with
  | nil => exact Keeps.rfl'
  | cons a l ih => exact (h s a).trans (ih _)
@[simp] theorem ite_pending (c : Prop) [Decidable c] (a b : State) : (if c then a else b).pending = if c then
    a.pending else b.pending := by split <;> rfl
@[simp] theorem ite_clk (c : Prop) [Decidable c] (a b : State) : (if c then a else b).clk = if c then a.clk else
    b.clk := by split <;> rfl
@[simp] theorem ite_fuses (c : Prop) [Decidable c] (a b : State) : (if c then a else b).fuses = if c then a.fuses
    else b.fuses := by split <;> rfl
@[simp] theorem ite_mode (c : Prop) [Decidable c] (a b : State) : (if c then a else b).mode = if c then a.mode else
    b.mode := by split <;> rfl
@[simp] theorem ite_lock (c : Prop) [Decidable c] (a b : State) : (if c then a else b).tmp.lock = if c then
    a.tmp.lock else b.tmp.lock := by split <;> rfl
@[simp] theorem ite_user (c : Prop) [Decidable c] (a b : State) : (if c then a else b).nv.array = if c then
    a.nv.array else b.nv.array := by split <;> rfl
@[simp] theorem kick_user (now : Nat) (n : NvStore) : (NvStore.kick now n).array = n.array := by
  unfold NvStore.kick; dsimp only; (repeat' split) <;> rfl
@[simp] theorem whenDo_keeps (b : Bool) (f : State → State) (s : State) (h : ∀ s, Keeps s (f s)) : Keeps s (whenDo
    b f s) := by
  unfold whenDo; split; exact h s; exact Keeps.rfl'
@[simp] theorem State.mFe_keeps (f : FrontEnd → FrontEnd) (s : State) : Keeps s (State.mFe f s) := by
  simp [Keeps, State.mFe]
@[simp] theorem State.mFunc_keeps (fn : Fn) (f : Func → Func) (s : State) : Keeps s (State.mFunc fn f s) := by
  simp [Keeps, State.mFunc]
@[simp] theorem sendMsix_keeps (fn : Fn) (v : Nat) (s : State) : Keeps s (sendMsix fn v s) := by
  simp [Keeps, sendMsix]
@[simp] theorem releaseMsix_keeps (fn : Fn) (s : State) : Keeps s (releaseMsix fn s) := by
  simp [Keeps, releaseMsix]
@[simp] theorem eventMessage_keeps (fn : Fn) (s : State) : Keeps s (eventMessage fn s) := by
  unfold eventMessage; (repeat' split) <;> simp_all [Keeps]
@[simp] theorem raiseFn_keeps (fn : Fn) (ev : FnEvent) (s : State) : Keeps s (raiseFn fn ev s) := by
  simp [Keeps, raiseFn]
@[simp] theorem raiseDev_keeps (ev : DevEvent) (s : State) : Keeps s (raiseDev ev s) := by
  simp [Keeps, raiseDev]
@[simp] theorem reportAer_keeps (fn : Fn) (e : BusError) (s : State) : Keeps s (reportAer fn e s) := by
  simp [Keeps, reportAer]
@[simp] theorem hostRead_keeps (fn : Fn) (addr len : Nat) (s : State) : Keeps s (hostRead fn addr len s) := by
  simp [Keeps, hostRead]
@[simp] theorem State.mPwr_keeps (f : Power → Power) (s : State) : Keeps s (State.mPwr f s) := by
  simp [Keeps, State.mPwr]
@[simp] theorem State.mGov_keeps (f : Governor → Governor) (s : State) : Keeps s (State.mGov f s) := by
  simp [Keeps, State.mGov]
@[simp] theorem State.mKs_keeps (f : KeyStore → KeyStore) (s : State) : Keeps s (State.mKs f s) := by
  simp [Keeps, State.mKs]
@[simp] theorem State.mRoot_keeps (f : RootState → RootState) (s : State) : Keeps s (State.mRoot f s) := by
  simp [Keeps, State.mRoot]
@[simp] theorem State.mRng_keeps (f : Rng → Rng) (s : State) : Keeps s (State.mRng f s) := by
  simp [Keeps, State.mRng]
@[simp] theorem State.mClap_keeps (f : Clapper → Clapper) (s : State) : Keeps s (State.mClap f s) := by
  simp [Keeps, State.mClap]
@[simp] theorem State.mToll_keeps (f : Toll → Toll) (s : State) : Keeps s (State.mToll f s) := by
  simp [Keeps, State.mToll]
@[simp] theorem State.mPair_keeps (f : Pair → Pair) (s : State) : Keeps s (State.mPair f s) := by
  simp [Keeps, State.mPair]
@[simp] theorem State.mHealth_keeps (f : Health → Health) (s : State) : Keeps s (State.mHealth f s) := by
  simp [Keeps, State.mHealth]
@[simp] theorem State.mLc_keeps (f : LifeCycle → LifeCycle) (s : State) : Keeps s (State.mLc f s) := by
  simp [Keeps, State.mLc]
@[simp] theorem State.mBoot_keeps (f : Boot → Boot) (s : State) : Keeps s (State.mBoot f s) := by
  simp [Keeps, State.mBoot]
@[simp] theorem State.mMem_keeps (f : Memory → Memory) (s : State) : Keeps s (State.mMem f s) := by
  simp [Keeps, State.mMem]
@[simp] theorem State.mSmb_keeps (f : SmBus → SmBus) (s : State) : Keeps s (State.mSmb f s) := by
  simp [Keeps, State.mSmb]
@[simp] theorem State.mClusters_keeps (f : List Cluster → List Cluster) (s : State) : Keeps s (State.mClusters f s) := by
  simp [Keeps, State.mClusters]
@[simp] theorem State.mCluster_keeps (c : ClusterNo) (f : Cluster → Cluster) (s : State) : Keeps s (State.mCluster c f s) := by
  simp [Keeps, State.mCluster]
@[simp] theorem State.mPeal_keeps (p : PealSlot) (f : Peal → Peal) (s : State) : Keeps s (State.mPeal p f s) := by
  unfold State.mPeal; (repeat' split) <;> simp_all [Keeps]
@[simp] theorem State.mTenant_keeps (t : Fn) (f : Tenant → Tenant) (s : State) : Keeps s (State.mTenant t f s) := by
  simp [Keeps, State.mTenant]
@[simp] theorem State.mTabs_keeps (t : Fn) (f : TenantTables → TenantTables) (s : State) : Keeps s (State.mTabs t f s) := by
  simp [Keeps, State.mTabs]
@[simp] theorem State.mSq_keeps (r : SqNo) (f : SubRing → SubRing) (s : State) : Keeps s (State.mSq r f s) := by
  simp [Keeps, State.mSq]
@[simp] theorem State.mCq_keeps (c : CqNo) (f : CplRing → CplRing) (s : State) : Keeps s (State.mCq c f s) := by
  simp [Keeps, State.mCq]
@[simp] theorem returnCredit_keeps (supp : Bool) (r : SqNo) (s : State) : Keeps s (returnCredit supp r s) := by
  simp [Keeps, returnCredit]
@[simp] theorem clearCq_keeps (c : CqNo) (st : RingState) (s : State) : Keeps s (clearCq c st s) := by
  simp [Keeps, clearCq]
@[simp] theorem lockdownCqs_keeps (s : State) : Keeps s (lockdownCqs s) := by
  simp [Keeps, lockdownCqs]
@[simp] theorem forceRings_keeps (s : State) : Keeps s (forceRings s) := by
  simp [Keeps, forceRings]
@[simp] theorem lockdownForce_keeps (s : State) : Keeps s (lockdownForce s) := by
  unfold lockdownForce; (repeat' split) <;> simp_all [Keeps]
@[simp] theorem noteChime_keeps (fn : Fn) (v : Nat) (s : State) : Keeps s (noteChime fn v s) := by
  simp [Keeps, noteChime]
@[simp] theorem chimeSend_keeps (fn : Fn) (c : CqNo) (s : State) : Keeps s (chimeSend fn c s) := by
  simp [Keeps, chimeSend]
@[simp] theorem chimeCheck_keeps (fn : Fn) (c : CqNo) (s : State) : Keeps s (chimeCheck fn c s) := by
  simp [Keeps, chimeCheck]
@[simp] theorem postCpl_keeps (fn : Fn) (c : CqNo) (cpl : Cpl) (s : State) : Keeps s (postCpl fn c cpl s) := by
  simp [Keeps, postCpl]
@[simp] theorem drainOne_keeps (s : State) (r : ReadyCpl) : Keeps s (drainOne s r) := by
  unfold drainOne; (repeat' split) <;> simp_all [Keeps]
@[simp] theorem drainReady_keeps (s : State) : Keeps s (drainReady s) := by
  simp [Keeps, drainReady]
@[simp] theorem completeNow_keeps (r : ReadyCpl) (s : State) : Keeps s (completeNow r s) := by
  simp [Keeps, completeNow]
@[simp] theorem recoveryAdd_keeps (fn : Fn) (e : RecEntry) (s : State) : Keeps s (recoveryAdd fn e s) := by
  simp [Keeps, recoveryAdd]
@[simp] theorem setJournalFlag_keeps (seq : Nat) (bits : BitVec 8) (s : State) : Keeps s (setJournalFlag seq bits s) := by
  simp [Keeps, setJournalFlag]
@[simp] theorem State.mRec_keeps (k : Nat) (f : KeyRec → KeyRec) (s : State) : Keeps s (State.mRec k f s) := by
  unfold State.mRec; (repeat' split) <;> simp_all [Keeps]
@[simp] theorem State.mSpace_keeps (k : Nat) (f : CounterSpace → CounterSpace) (s : State) : Keeps s (State.mSpace k f s) := by
  unfold State.mSpace; (repeat' split) <;> simp_all [Keeps]
@[simp] theorem noiseBytes_keeps (n : Nat) (s : State) : Keeps s (noiseBytes n s).2 := by
  simp [Keeps, noiseBytes]
@[simp] theorem freshBytes_keeps (n : Nat) (s : State) : Keeps s (freshBytes n s).2 := by
  unfold freshBytes; (repeat' split) <;> simp_all [Keeps]
@[simp] theorem clusterBytes_keeps (c : ClusterNo) (n : Nat) (s : State) : Keeps s (clusterBytes c n s).2 := by
  unfold clusterBytes; (repeat' split) <;> simp_all [Keeps]
@[simp] theorem fillTier1_keeps (c : ClusterNo) (k : Nat) (s : State) : Keeps s (fillTier1 c k s) := by
  unfold fillTier1; dsimp only; (repeat' split) <;> first
  | exact Keeps.rfl'
  | simp [Keeps]
@[simp] theorem placeOut_keeps (c : ClusterNo) (p i : Nat) (key : Nat × Nat) (x : Shares) (s : State) : Keeps s (placeOut c p i key x s) := by
  simp [Keeps, placeOut]
@[simp] theorem dropOuts_keeps (p : Nat) (s : State) : Keeps s (dropOuts p s) := by
  simp [Keeps, dropOuts]
@[simp] theorem evictTier1_keeps (k : Nat) (s : State) : Keeps s (evictTier1 k s) := by
  simp [Keeps, evictTier1]
@[simp] theorem dropRec_keeps (k : Nat) (s : State) : Keeps s (dropRec k s) := by
  simp [Keeps, dropRec]
@[simp] theorem loseRec_keeps (k : Nat) (s : State) : Keeps s (loseRec k s) := by
  simp [Keeps, loseRec]
@[simp] theorem dropLost_keeps (s : State) : Keeps s (dropLost s) := by
  simp [Keeps, dropLost]
@[simp] theorem evictUntil_keeps (only : Option Fn) (fits : State → Bool) (n : Nat) (s : State) : Keeps s (evictUntil only fits n s) := by
  induction n generalizing s with
  | zero => simp [Keeps, evictUntil]
  | succ n ih =>
    unfold evictUntil; (repeat' split)
    all_goals first | exact Keeps.rfl' | exact Keeps.trans (by simp [Keeps]) (ih _)
@[simp] theorem installRec_keeps (k : Nat) (r : KeyRec) (s : State) : Keeps s (installRec k r s) := by
  simp [Keeps, installRec]
@[simp] theorem fetchReads_keeps (fn : Fn) (handle : Nat) (rd : HostRead) (s : State) : Keeps s (fetchReads fn handle rd s) := by
  unfold fetchReads; (repeat' split) <;> simp_all [Keeps]
@[simp] theorem reserveUse_keeps (k : Nat) (s : State) : Keeps s (reserveUse k s) := by
  simp [Keeps, reserveUse]
@[simp] theorem returnUse_keeps (k : Nat) (s : State) : Keeps s (returnUse k s) := by
  simp [Keeps, returnUse]
@[simp] theorem chargeUse_keeps (k : Nat) (s : State) : Keeps s (chargeUse k s) := by
  unfold chargeUse; (repeat' split) <;> simp_all [Keeps]
@[simp] theorem State.mCell_keeps (k : Nat) (f : CounterCell → CounterCell) (s : State) : Keeps s (State.mCell k f s) := by
  simp [Keeps, State.mCell]
@[simp] theorem nvQueue_keeps (cls : Nat) (w : NvWork) (s : State) : Keeps s (nvQueue cls w s) := by
  simp [Keeps, nvQueue]
@[simp] theorem queueSet_keeps (k : Nat) (p : Option PealSlot) (s : State) : Keeps s (queueSet k p s) := by
  simp [Keeps, queueSet]
@[simp] theorem startCellWrite_keeps (k : Nat) (s : State) : Keeps s (startCellWrite k s) := by
  unfold startCellWrite; (repeat' split) <;> simp_all [Keeps]
@[simp] theorem takeCounter_keeps (k v : Nat) (fresh : Bool) (s : State) : Keeps s (takeCounter k v fresh s) := by
  simp [Keeps, takeCounter]
@[simp] theorem releaseCounter_keeps (k v : Nat) (s : State) : Keeps s (releaseCounter k v s) := by
  simp [Keeps, releaseCounter]
@[simp] theorem commitCounter_keeps (k v : Nat) (s : State) : Keeps s (commitCounter k v s) := by
  simp [Keeps, commitCounter]
@[simp] theorem State.mRun_keeps (p : PealSlot) (i : Nat) (f : StepRun → StepRun) (s : State) : Keeps s (State.mRun p i f s) := by
  simp [Keeps, State.mRun]
@[simp] theorem returnHolds_keeps (q : Peal) (s : State) : Keeps s (returnHolds q s) := by
  unfold returnHolds
  exact (foldl_keeps _ (by intro s a; split <;> simp [Keeps]) _ _).trans
    (foldl_keeps _ (by intro s a; (repeat' split) <;> simp [Keeps]) _ _)
@[simp] theorem freeHold_keeps (q : Peal) (s : State) : Keeps s (freeHold q s) := by
  simp [Keeps, freeHold]
@[simp] theorem withdrawWrite_keeps (p : PealSlot) (s : State) : Keeps s (withdrawWrite p s) := by
  simp [Keeps, withdrawWrite]
@[simp] theorem leaveQueues_keeps (p : PealSlot) (s : State) : Keeps s (leaveQueues p s) := by
  simp [Keeps, leaveQueues]
@[simp] theorem endPeal_keeps (p : PealSlot) (st : Stat) (step : Option Nat) (s : State) : Keeps s (endPeal p st step s) := by
  unfold endPeal; (repeat' split) <;> simp_all [Keeps]
@[simp] theorem dualJudge_keeps (p : PealSlot) (s : State) : Keeps s (dualJudge p s) := by
  unfold dualJudge; (repeat' split) <;> simp_all [Keeps]
@[simp] theorem failPeal_keeps (p : PealSlot) (st : Stat) (step : Option Nat) (s : State) : Keeps s (failPeal p st step s) := by
  simp [Keeps, failPeal]
@[simp] theorem dropHeld_keeps (p : PealSlot) (i : Nat) (s : State) : Keeps s (dropHeld p i s) := by
  simp [Keeps, dropHeld]
@[simp] theorem stopIdle_keeps (p : PealSlot) (q : Peal) (above : Option Nat) (s : State) : Keeps s (stopIdle p q above s) := by
  simp [Keeps, stopIdle]
@[simp] theorem settle_keeps (p : PealSlot) (s : State) : Keeps s (settle p s) := by
  unfold settle; (repeat' split) <;> simp_all [Keeps]
@[simp] theorem abortPeal_keeps (c : AbortCause) (p : PealSlot) (s : State) : Keeps s (abortPeal c p s) := by
  unfold abortPeal; (repeat' split) <;> simp_all [Keeps]
@[simp] theorem opFail_keeps (p : PealSlot) (st : Stat) (step : Nat) (s : State) : Keeps s (opFail p st step s) := by
  simp [Keeps, opFail]
@[simp] theorem opPass_keeps (p : PealSlot) (out : Bytes) (e : Effect) (s : State) : Keeps s (opPass p out e s) := by
  simp [Keeps, opPass]
@[simp] theorem keysSettle_keeps (p : PealSlot) (s : State) : Keeps s (keysSettle p s) := by
  unfold keysSettle; (repeat' split) <;> simp_all [Keeps]
@[simp] theorem judgeKey_keeps (p : PealSlot) (slot : Nat) (tier3 : Bool) (s : State) : Keeps s (judgeKey p slot tier3 s) := by
  unfold judgeKey; (repeat' split) <;> simp_all [Keeps]
@[simp] theorem tollIncrement_keeps (t : Fn) (cls : BitVec 8) (s : State) : Keeps s (tollIncrement t cls s) := by
  simp [Keeps, tollIncrement]
@[simp] theorem startDelta_keeps (final atLeastOne : Bool) (s : State) : Keeps s (startDelta final atLeastOne s) := by
  simp [Keeps, startDelta]
@[simp] theorem deltaIfDue_keeps (s : State) : Keeps s (deltaIfDue s) := by
  simp [Keeps, deltaIfDue]
@[simp] theorem writeJournal_keeps (e : BitVec 64 → JEntry) (s : State) : Keeps s (writeJournal e s) := by
  unfold writeJournal; dsimp only; split <;> simp [Keeps]
@[simp] theorem xlSend_keeps (ty : BitVec 8) (payload : Bytes) (s : State) : Keeps s (xlSend ty payload s) := by
  simp [Keeps, xlSend]
@[simp] theorem forwardDual_keeps (p : PealSlot) (bs : Bytes) (s : State) : Keeps s (forwardDual p bs s) := by
  unfold forwardDual; (repeat' split) <;> simp_all [Keeps]
@[simp] theorem xlSendAcked_keeps (ty : BitVec 8) (payload : Bytes) (s : State) : Keeps s (xlSendAcked ty payload s).2 := by
  unfold xlSendAcked; (repeat' split) <;> simp_all [Keeps]
@[simp] theorem replicate_keeps (e : JEntry) (charges : List LedgerEntry) (s : State) : Keeps s (replicate e charges s) := by
  simp [Keeps, replicate]
@[simp] theorem noteDecision_keeps (all : List Cand) (s : State) : Keeps s (noteDecision all s) := by
  simp [Keeps, noteDecision]
@[simp] theorem noteAdmission_keeps (c : Cand) (s : State) : Keeps s (noteAdmission c s) := by
  simp [Keeps, noteAdmission]
@[simp] theorem setWaiting_keeps (w : Waiting) (s : State) : Keeps s (setWaiting w s) := by
  simp [Keeps, setWaiting]
@[simp] theorem dropWaiting_keeps (order : Nat) (s : State) : Keeps s (dropWaiting order s) := by
  simp [Keeps, dropWaiting]
@[simp] theorem refuseWaiting_keeps (w : Waiting) (st : Stat) (s : State) : Keeps s (refuseWaiting w st s) := by
  simp [Keeps, refuseWaiting]
@[simp] theorem noteCauses_keeps (s : State) : Keeps s (noteCauses s) := by
  simp [Keeps, noteCauses]
@[simp] theorem newClock_keeps (surge : BitVec 2) (s : State) : Keeps s (newClock surge s) := by
  simp [Keeps, newClock]
@[simp] theorem resumeCourses_keeps (s : State) : Keeps s (resumeCourses s) := by
  simp [Keeps, resumeCourses]
@[simp] theorem lapseSurge_keeps (s : State) : Keeps s (lapseSurge s) := by
  simp [Keeps, lapseSurge]
@[simp] theorem noteIdle_keeps (n : ClusterNo) (s : State) : Keeps s (noteIdle n s) := by
  simp [Keeps, noteIdle]
@[simp] theorem requestWake_keeps (n : ClusterNo) (s : State) : Keeps s (requestWake n s) := by
  simp [Keeps, requestWake]
@[simp] theorem ignored_keeps (fn : Fn) (ev : FnEvent) (s : State) : Keeps s (ignored fn ev s) := by
  simp [Keeps, ignored]
@[simp] theorem doorbell_keeps (fn : Fn) (r : SqNo) (v : Nat) (s : State) : Keeps s (doorbell fn r v s) := by
  simp [Keeps, doorbell]
@[simp] theorem headWrite_keeps (fn : Fn) (c : CqNo) (v : Nat) (s : State) : Keeps s (headWrite fn c v s) := by
  simp [Keeps, headWrite]
@[simp] theorem headSlot_keeps (fn : Fn) (off : Nat) (acc : Acc) (data : BitVec 64) (s : State) : Keeps s (headSlot fn off acc data s) := by
  unfold headSlot; (repeat' split) <;> simp_all [Keeps]
@[simp] theorem readSlot_keeps (fn : Fn) (q : SubRing) (s : State) : Keeps s (readSlot fn q s) := by
  simp [Keeps, readSlot]
@[simp] theorem completeFetched_keeps (fn : Fn) (r : SqNo) (t : Nat) (d : Desc) (st : Stat) (s : State) : Keeps s (completeFetched fn r t d st s) := by
  simp [Keeps, completeFetched]
@[simp] theorem flushUnfetched_keeps (fn : Fn) (r : SqNo) (n : Nat) (s : State) : Keeps s (flushUnfetched fn r n s) := by
  induction n generalizing s with
  | zero => simp [Keeps, flushUnfetched]
  | succ n ih => unfold flushUnfetched; dsimp only; split; exact Keeps.rfl'; exact Keeps.trans (by simp [Keeps]) (ih _)
@[simp] theorem touchCache_keeps (q : Peal) (s : State) : Keeps s (touchCache q s) := by
  simp [Keeps, touchCache]
@[simp] theorem judgeBuffers_keeps (p : PealSlot) (s : State) : Keeps s (judgeBuffers p s) := by
  unfold judgeBuffers; (repeat' split) <;> simp_all [Keeps]
@[simp] theorem bindKey_keeps (p : PealSlot) (slot : Nat) (s : State) : Keeps s (bindKey p slot s) := by
  unfold bindKey; (repeat' split) <;> simp_all [Keeps]
@[simp] theorem bindKeys_keeps (p : PealSlot) (n : Nat) (s : State) : Keeps s (bindKeys p n s) := by
  simp [Keeps, bindKeys]
@[simp] theorem reserveFor_keeps (c : Cand) (s : State) : Keeps s (reserveFor c s) := by
  unfold reserveFor; (repeat' split) <;> simp_all [Keeps]
@[simp] theorem judgeDeadline_keeps (s : State) (w : Waiting) : Keeps s (judgeDeadline s w) := by
  unfold judgeDeadline; (repeat' split) <;> simp_all [Keeps]
@[simp] theorem faultKeys_keeps (k : Nat) (st : Stat) (s : State) (p : PealSlot) : Keeps s (faultKeys k st s p) := by
  simp [Keeps, faultKeys]
@[simp] theorem arriveKeys_keeps (k : Nat) (ph : KeyPhase) (tier3 : Bool) (s : State) (p : PealSlot) : Keeps s (arriveKeys k ph tier3 s p) := by
  unfold arriveKeys; (repeat' split) <;> simp_all [Keeps]
@[simp] theorem State.mDrbg_keeps (i : Nat) (f : Drbg → Drbg) (s : State) : Keeps s (State.mDrbg i f s) := by
  simp [Keeps, State.mDrbg]
@[simp] theorem takePool_keeps (n : Nat) (s : State) : Keeps s (takePool n s).2 := by
  simp [Keeps, takePool]
@[simp] theorem seedDrbg_keeps (i : Nat) (s : State) : Keeps s (seedDrbg i s) := by
  simp [Keeps, seedDrbg]
@[simp] theorem reseedIfDue_keeps (i : Nat) (s : State) : Keeps s (reseedIfDue i s) := by
  simp [Keeps, reseedIfDue]
@[simp] theorem generateBytes_keeps (i n : Nat) (s : State) : Keeps s (generateBytes i n s).2 := by
  simp [Keeps, generateBytes]
@[simp] theorem raiseLimit_keeps (i : Nat) (s : State) : Keeps s (raiseLimit i s) := by
  simp [Keeps, raiseLimit]
@[simp] theorem draw_keeps (i n : Nat) (pr : Bool) (s : State) : Keeps s (draw i n pr s).2 := by
  unfold draw; dsimp only; (repeat' split) <;> first
  | exact Keeps.rfl'
  | simp [Keeps]
@[simp] theorem drawAfter_keeps (u : DrawUser) (i n : Nat) (pr : Bool) (s : State) : Keeps s (drawAfter u i n pr s).2 := by
  unfold drawAfter; (repeat' split) <;> simp_all [Keeps]
@[simp] theorem drawInTurn_keeps (p : PealSlot) (step i n : Nat) (pr : Bool) (s : State) : Keeps s (drawInTurn p step i n pr s).2 := by
  unfold drawInTurn; (repeat' split) <;> first
  | exact Keeps.rfl'
  | (simp [Keeps]; done)
  | (rename_i h; refine (keeps_of_eq h (by simp [Keeps])).trans ?_; simp [Keeps])
@[simp] theorem drawSome_keeps (p : PealSlot) (step i n : Nat) (s : State) : Keeps s (drawSome p step i n s).2 := by
  unfold drawSome; (repeat' split) <;> simp_all [Keeps]
@[simp] theorem drawShadow_keeps (s : State) : Keeps s (drawShadow s).2 := by
  simp [Keeps, drawShadow]
@[simp] theorem holdFor_keeps (u : DrawUser) (i : Nat) (pr : Bool) (s : State) : Keeps s (holdFor u i pr s) := by
  simp [Keeps, holdFor]
@[simp] theorem unholdFor_keeps (u : DrawUser) (s : State) : Keeps s (unholdFor u s) := by
  simp [Keeps, unholdFor]
@[simp] theorem holdDraw_keeps (i : Nat) (p : PealSlot) (step : Nat) (s : State) : Keeps s (holdDraw i p step s) := by
  simp [Keeps, holdDraw]
@[simp] theorem unholdDraw_keeps (p : PealSlot) (step : Nat) (s : State) : Keeps s (unholdDraw p step s) := by
  simp [Keeps, unholdDraw]
@[simp] theorem expireHold_keeps (h : HeldDraw) (s : State) : Keeps s (expireHold h s) := by
  simp [Keeps, expireHold]
@[simp] theorem drawFor_keeps (u : DrawUser) (i n : Nat) (s : State) : Keeps s (drawFor u i n s).2 := by
  unfold drawFor; split <;> rename_i e <;> have h := keeps_of_eq e (drawAfter_keeps _ _ _ _ _)
  · (repeat' split) <;> first | exact h | exact h.trans (expireHold_keeps _ _)
  · exact h.trans (unholdFor_keeps _ _)
@[simp] theorem drawI3_keeps (s : State) : Keeps s (drawI3 s).2 := by
  simp [Keeps, drawI3]
@[simp] theorem reinstantiate_keeps (i : Nat) (s : State) : Keeps s (reinstantiate i s) := by
  simp [Keeps, reinstantiate]
@[simp] theorem addPool_keeps (l : List (BitVec 128)) (s : State) : Keeps s (addPool l s) := by
  simp [Keeps, addPool]
@[simp] theorem journalSwitch_keeps (s : State) : Keeps s (journalSwitch s) := by
  unfold journalSwitch; (repeat' split) <;> simp_all [Keeps]
@[simp] theorem journalJudge_keeps (s : State) : Keeps s (journalJudge s) := by
  simp [Keeps, journalJudge]
@[simp] theorem createKey_keeps (k : Nat) (r : KeyRec) (s : State) : Keeps s (createKey k r s) := by
  simp [Keeps, createKey]
@[simp] theorem takeBarrier_keeps (p : Option PealSlot) (k : Nat) (target : BitVec 3) (revoke : Bool) (s : State) : Keeps s (takeBarrier p k target revoke s) := by
  unfold takeBarrier; (repeat' split) <;> simp_all [Keeps]
@[simp] theorem pinKey_keeps (k : Nat) (on : Bool) (s : State) : Keeps s (pinKey k on s) := by
  simp [Keeps, pinKey]
@[simp] theorem installKek_keeps (t : Fn) (alg : BitVec 8) (key : Bytes) (s : State) : Keeps s (installKek t alg key s) := by
  simp [Keeps, installKek]
@[simp] theorem createTenant_keeps (t : Fn) (alg : BitVec 8) (tsk : Bytes) (s : State) : Keeps s (createTenant t alg tsk s) := by
  simp [Keeps, createTenant]
@[simp] theorem setTable_keeps (t : Fn) (version : BitVec 8) (body : TableBody) (s : State) : Keeps s (setTable t version body s) := by
  simp [Keeps, setTable]
@[simp] theorem clearTable_keeps (t : Fn) (kind : BitVec 8) (s : State) : Keeps s (clearTable t kind s) := by
  simp [Keeps, clearTable]
@[simp] theorem awaitStore_keeps (p : PealSlot) (n : Nat) (s : State) : Keeps s (awaitStore p n s) := by
  simp [Keeps, awaitStore]
@[simp] theorem tollWrite_keeps (p : Option PealSlot) (w : NvWork) (s : State) : Keeps s (tollWrite p w s) := by
  unfold tollWrite; (repeat' split) <;> simp_all [Keeps]
@[simp] theorem tollStateWrite_keeps (p : PealSlot) (s : State) : Keeps s (tollStateWrite p s) := by
  simp [Keeps, tollStateWrite]
@[simp] theorem sealLogAdd_keeps (p : Option PealSlot) (kind : BitVec 8) (count : BitVec 32) (extra : Bytes) (s : State) : Keeps s (sealLogAdd p kind count extra s) := by
  simp [Keeps, sealLogAdd]
@[simp] theorem sealEvent_keeps (p : PealSlot) (kind : BitVec 8) (extra : Bytes) (s : State) : Keeps s (sealEvent p kind extra s) := by
  simp [Keeps, sealEvent]
@[simp] theorem useStatement_keeps (n : Nat) (s : State) : Keeps s (useStatement n s) := by
  simp [Keeps, useStatement]
@[simp] theorem mapEvent_keeps (t : Fn) (digest : Bytes) (s : State) : Keeps s (mapEvent t digest s) := by
  simp [Keeps, mapEvent]
@[simp] theorem storeRoles_keeps (f : BitVec 256 → BitVec 256) (s : State) : Keeps s (storeRoles f s) := by
  simp [Keeps, storeRoles]
@[simp] theorem gainRoles_keeps (map : BitVec 256) (s : State) : Keeps s (gainRoles map s) := by
  simp [Keeps, gainRoles]
@[simp] theorem loseRoles_keeps (map : BitVec 256) (s : State) : Keeps s (loseRoles map s) := by
  simp [Keeps, loseRoles]
@[simp] theorem partnerGone_keeps (s : State) : Keeps s (partnerGone s) := by
  simp [Keeps, partnerGone]
@[simp] theorem registerPartner_keeps (serial : Bytes) (s : State) : Keeps s (registerPartner serial s) := by
  simp [Keeps, registerPartner]
@[simp] theorem State.noteLost_keeps (u : Unstored) (s : State) : Keeps s (s.noteLost u) := by simp [Keeps, State.noteLost]
@[simp] theorem State.noteWritten_keeps (u : Unstored) (s : State) : Keeps s (s.noteWritten u) := by simp [Keeps, State.noteWritten]
@[simp] theorem noteStored_keeps (lost : List Nat) (l : List (Nat × Unstored)) (s : State) : Keeps s (noteStored lost l s) := by
  unfold noteStored; exact foldl_keeps _ (fun s a => by
    split
    · exact State.noteLost_keeps _ _
    · exact State.noteWritten_keeps _ _) _ _
@[simp] theorem chargeAll_keeps (q : Peal) (s : State) : Keeps s (chargeAll q s) := by
  unfold chargeAll
  exact (foldl_keeps _ (by intro s a; split <;> simp [Keeps]) _ _).trans
    (foldl_keeps _ (by intro s a; (repeat' split) <;> simp [Keeps]) _ _)
@[simp] theorem journalInsert_keeps (e : JEntry) (s : State) : Keeps s (journalInsert e s) := by
  exact State.mClap_keeps _ s
@[simp] theorem noteSuppressed_keeps (p : PealSlot) (s : State) : Keeps s (noteSuppressed p s) := by
  unfold noteSuppressed; (repeat' split) <;> simp_all [Keeps]
@[simp] theorem unreserve_keeps (q : Peal) (c : CqNo) (s : State) : Keeps s (unreserve q c s) := by
  simp [Keeps, unreserve]
@[simp] theorem suppressBroken_keeps (p : PealSlot) (s : State) : Keeps s (suppressBroken p s) := by
  unfold suppressBroken; (repeat' split) <;> simp_all [Keeps]
@[simp] theorem noteLate_keeps (e : JEntry) (s : State) : Keeps s (noteLate e s) := by
  simp [Keeps, noteLate]
@[simp] theorem leaveResume_keeps (p : PealSlot) (s : State) : Keeps s (leaveResume p s) := by
  simp [Keeps, leaveResume]
@[simp] theorem beginRecord_keeps (p : PealSlot) (n : Nat) (s : State) : Keeps s (beginRecord p n s) := by
  simp [Keeps, beginRecord]
@[simp] theorem holdDirty_keeps (p : PealSlot) (q : Peal) (s : State) : Keeps s (holdDirty p q s) := by
  simp [Keeps, holdDirty]
@[simp] theorem takeSeqs_keeps (n : Nat) (s : State) : Keeps s (takeSeqs n s).2 := by
  simp [Keeps, takeSeqs]
@[simp] theorem closeGroup_keeps (s : State) : Keeps s (closeGroup s) := by
  simp [Keeps, closeGroup]
@[simp] theorem tollClear_keeps (s : State) : Keeps s (tollClear s) := by
  simp [Keeps, tollClear]
@[simp] theorem writeOutput_keeps (q : Peal) (s : State) : Keeps s (writeOutput q s) := by
  simp [Keeps, writeOutput]
@[simp] theorem duePosted_keeps (q : Peal) (s : State) : Keeps s (duePosted q s) := by
  unfold duePosted; (repeat' split) <;> simp_all [Keeps]
@[simp] theorem State.mEng_keeps (c : ClusterNo) (isPk : Bool) (n : Nat) (f : EngineRec → EngineRec) (s : State) : Keeps s (State.mEng c isPk n f s) := by
  simp [Keeps, State.mEng]
@[simp] theorem vacate_keeps (c : ClusterNo) (isPk : Bool) (n : Nat) (p : PealSlot) (i : Nat) (s : State) : Keeps s (vacate c isPk n p i s) := by
  simp [Keeps, vacate]
@[simp] theorem freeEngine_keeps (c : ClusterNo) (p : PealSlot) (i : Nat) (e : Option Engine) (s : State) : Keeps s (freeEngine c p i e s) := by
  unfold freeEngine; (repeat' split) <;> simp_all [Keeps]
@[simp] theorem freeEngines_keeps (c : ClusterNo) (p : PealSlot) (i : Nat) (r : StepRun) (s : State) : Keeps s (freeEngines c p i r s) := by
  simp [Keeps, freeEngines]
@[simp] theorem occupy_keeps (c : ClusterNo) (isPk : Bool) (n : Nat) (p : PealSlot) (i : Nat) (s : State) : Keeps s (occupy c isPk n p i s) := by
  unfold occupy; (repeat' split) <;> simp_all [Keeps]
@[simp] theorem noteCourse_keeps (p : PealSlot) (i : Nat) (s : State) : Keeps s (noteCourse p i s) := by
  unfold noteCourse; (repeat' split) <;> simp_all [Keeps]
@[simp] theorem seat_keeps (p : PealSlot) (i : Nat) (c : ClusterNo) (l : List Engine) (s : State) : Keeps s (seat p i c l s) := by
  unfold seat
  exact foldl_keeps _ (by intro s a; split <;> simp [Keeps]) _ _
@[simp] theorem endStep_keeps (p : PealSlot) (i : Nat) (f : StepRun → StepRun) (s : State) : Keeps s (endStep p i f s) := by
  unfold endStep; (repeat' split) <;> simp_all [Keeps]
@[simp] theorem keepKey_keeps (p : PealSlot) (i : Nat) (q : Peal) (st : StepDef) (key : Bytes) (s : State) : Keeps s (keepKey p i q st key s) := by
  simp [Keeps, keepKey]
@[simp] theorem endZero_keeps (p : PealSlot) (i : Nat) (q : Peal) (st : StepDef) (s : State) : Keeps s (endZero p i q st s) := by
  simp [Keeps, endZero]
@[simp] theorem failStep_keeps (p : PealSlot) (i : Nat) (st : StepDef) (fl : Stat) (s : State) : Keeps s (failStep p i st fl s) := by
  unfold failStep; (repeat' split) <;> simp_all [Keeps]
@[simp] theorem renameSe_keeps (c : ClusterNo) (a b : Nat) (s : State) : Keeps s (renameSe c a b s) := by
  simp [Keeps, renameSe]
@[simp] theorem restartJob_keeps (c : ClusterNo) (core : Option Nat) (h : HeldJob) (s : State) : Keeps s (restartJob c core h s) := by
  unfold restartJob; dsimp only; (repeat' split) <;> first
  | exact Keeps.rfl'
  | (simp [Keeps]; done)
  | (rename_i h; refine (keeps_of_eq h (by simp [Keeps])).trans ?_; simp [Keeps])
@[simp] theorem retireEngine_keeps (c : ClusterNo) (isPk : Bool) (n : Nat) (cause : RetireCause) (s : State) : Keeps s (retireEngine c isPk n cause s) := by
  unfold retireEngine; dsimp only; (repeat' split) <;> simp [Keeps]
@[simp] theorem pass_keeps (p : PealSlot) (q : Peal) (out : Bytes) (e : Effect) (s : State) : Keeps s (pass p q out e s) := by
  simp [Keeps, pass]
@[simp] theorem deny_keeps (p : PealSlot) (st : Stat) (s : State) : Keeps s (deny p st s) := by
  simp [Keeps, deny]
@[simp] theorem drawOn_keeps (p : PealSlot) (need : List Bytes → Option (Nat × Nat × Bool)) (k : List Bytes → State → State)
    (h : ∀ l t, Keeps t (k l t)) (n : Nat) (s : State) : Keeps s (drawOn p need k n s) := by
  induction n generalizing s with
  | zero => exact Keeps.rfl'
  | succ n ih =>
    unfold drawOn; split
    · exact h _ _
    · split <;> rename_i e <;> refine (keeps_of_eq e (drawInTurn_keeps _ _ _ _ _ _)).trans ?_
      · exact Keeps.trans (by simp [Keeps]) (ih _)
      · exact holdFor_keeps _ _ _ _
      · exact deny_keeps _ _ _
@[simp] theorem withDraw_keeps (p : PealSlot) (i inst n : Nat) (pr : Bool) (k : Bytes → State → State) (s : State)
    (h : ∀ b t, Keeps t (k b t)) : Keeps s (withDraw p i inst n pr k s) := by
  unfold withDraw; exact drawOn_keeps _ _ _ (fun _ t => h _ t) _ _
@[simp] theorem freshCall_keeps (s : State) : Keeps s (freshCall s).2 := by
  simp [Keeps, freshCall]
@[simp] theorem keyBlock_keeps (d : Bool) (kbpk : Bytes) (exp : Byte) (opts : Bytes) (r : KeyRec) (s : State) : Keeps s (keyBlock d kbpk exp opts r s).2 := by
  simp [Keeps, keyBlock]
@[simp] theorem hostBlock_keeps (k : Nat) (r : KeyRec) (g : Kek) (s : State) : Keeps s (hostBlock k r g s).2 := by
  simp [Keeps, hostBlock]
@[simp] theorem withSign_keeps (p : PealSlot) (i : Nat) (key : State → Shares) (msg : Bytes) (k : Bytes → State → State)
    (s : State) (h : ∀ b t, Keeps t (k b t)) : Keeps s (withSign p i key msg k s) := by
  unfold withSign; exact withDraw_keeps _ _ _ _ _ _ _ (fun _ t => h _ t)
@[simp] theorem State.mSource_keeps (k : BitVec 2) (f : NoiseSource → NoiseSource) (s : State) : Keeps s (State.mSource k f s) := by
  simp [Keeps, State.mSource]
@[simp] theorem instantiateWaiting_keeps (s : State) : Keeps s (instantiateWaiting s) := by
  simp [Keeps, instantiateWaiting]
@[simp] theorem endHeld_keeps (h : HeldDraw) (sub : BitVec 8) (s : State) : Keeps s (endHeld h sub s) := by
  unfold endHeld; dsimp only; (repeat' split) <;> simp [Keeps]
@[simp] theorem outageDecides_keeps (s : State) (h : HeldDraw) : Keeps s (outageDecides s h) := by
  simp [Keeps, outageDecides]
@[simp] theorem outage_keeps (s : State) : Keeps s (outage s) := by
  simp [Keeps, outage]
@[simp] theorem rekeyClusters_keeps (l : List Nat) (s : State) : Keeps s (rekeyClusters l s) := by
  induction l generalizing s with
  | nil => exact Keeps.rfl'
  | cons n l ih =>
    unfold rekeyClusters; split; rename_i h
    exact (keeps_of_eq h (by simp [Keeps])).trans ((State.mCluster_keeps _ _ _).trans (ih _))
@[simp] theorem rekeyMasks_keeps (s : State) : Keeps s (rekeyMasks s) := by
  unfold rekeyMasks; split; rename_i h
  exact (keeps_of_eq h (by simp [Keeps])).trans ((State.mRng_keeps _ _).trans (rekeyClusters_keeps _ _))
@[simp] theorem replaceSeed_keeps (s : State) : Keeps s (replaceSeed s) := by
  simp [Keeps, replaceSeed]
@[simp] theorem makeKey_keeps (p : PealSlot) (q : Peal) (tp : Template) (key : Bytes) (tail : Bytes) (parent parentGen : BitVec 32)
    (s : State) : Keeps s (makeKey p q tp key tail parent parentGen s) := by
  unfold makeKey; dsimp only; (repeat' split) <;> first
  | exact Keeps.rfl'
  | simp [Keeps]
@[simp] theorem generate_keeps (p : PealSlot) (algs : List Nat) (q : Peal) (s : State) : Keeps s (generate p algs q s) := by
  unfold generate; split
  · exact deny_keeps _ _ _
  · refine drawOn_keeps _ _ _ (fun _ t => ?_) _ _
    dsimp only; split
    · exact deny_keeps _ _ _
    · exact makeKey_keeps _ _ _ _ _ _ _ _
@[simp] theorem zeroise_keeps (b : Barrier) (s : State) : Keeps s (zeroise b s) := by
  simp [Keeps, zeroise]
@[simp] theorem drainBarrier_keeps (b : Barrier) (s : State) : Keeps s (drainBarrier b s) := by
  unfold drainBarrier; (repeat' split) <;> simp_all [Keeps]
@[simp] theorem reshareAll_keeps  (n : Nat) (s : State) : Keeps s (reshareAll n s) := by
  induction n with
  | zero => exact Keeps.rfl'
  | succ n ih =>
    unfold reshareAll; dsimp only; split
    · exact ih.trans ((clusterBytes_keeps _ _ _).trans (State.mCluster_keeps _ _ _))
    · exact ih
@[simp] theorem openIntake_keeps (p : PealSlot) (q : Peal) (t : Fn) (method alg : BitVec 8) (nonce : Bytes) (id : Nat) (s : State) : Keeps s (openIntake p q t method alg nonce id s) := by
  simp [Keeps, openIntake]
@[simp] theorem tableTurn_keeps (slot : PealSlot) (q : Peal) (kind : Nat) (f : State → State) (s : State) (h : ∀ t, Keeps t (f t)) :
    Keeps s (tableTurn slot q kind f s) := by
  unfold tableTurn; (repeat' split)
  · exact h s
  · simp [Keeps]
  · simp [Keeps]
@[simp] theorem loadTable_keeps (slot : PealSlot) (q : Peal) (s : State) : Keeps s (loadTable slot q s) := by
  unfold loadTable; dsimp only; (repeat' split) <;> simp [Keeps]
@[simp] theorem copyLatch_keeps (s : State) : Keeps s (copyLatch s) := by
  simp [Keeps, copyLatch]
@[simp] theorem storeDone_keeps (p : Option PealSlot) (s : State) : Keeps s (storeDone p s) := by
  unfold storeDone; (repeat' split) <;> simp_all [Keeps]
@[simp] theorem pruneLog_keeps (s : State) : Keeps s (pruneLog s) := by
  simp [Keeps, pruneLog]
@[simp] theorem writeBase_keeps (copyA : Bool) (c : BaseCopy) (s : State) : Keeps s (writeBase copyA c s) := by
  simp [Keeps, writeBase]
@[simp] theorem startBase_keeps (s : State) : Keeps s (startBase s) := by
  simp [Keeps, startBase]
@[simp] theorem baseIfDue_keeps (s : State) : Keeps s (baseIfDue s) := by
  simp [Keeps, baseIfDue]
@[simp] theorem cleanBy_keeps (r : LogRec) (s : State) : Keeps s (cleanBy r s) := by
  simp [Keeps, cleanBy]
@[simp] theorem raiseLedger_keeps (c : BitVec 128) (s : State) : Keeps s (raiseLedger c s) := by
  simp [Keeps, raiseLedger]
@[simp] theorem raiseOrWait_keeps (c : BitVec 128) (s : State) : Keeps s (raiseOrWait c s) := by
  simp [Keeps, raiseOrWait]
@[simp] theorem clearTollWait_keeps (s : State) : Keeps s (clearTollWait s) := by
  simp [Keeps, clearTollWait]
@[simp] theorem serveStatements_keeps (seq : BitVec 64) (s : State) : Keeps s (serveStatements seq s) := by
  simp [Keeps, serveStatements]
@[simp] theorem deltaWritten_keeps (r : LogRec) (s : State) : Keeps s (deltaWritten r s) := by
  simp [Keeps, deltaWritten]
@[simp] theorem cleanLedger_keeps (words : List LogWord) (s : State) : Keeps s (cleanLedger words s) := by
  simp [Keeps, cleanLedger]
@[simp] theorem raiseCell_keeps (k h : Nat) (s : State) : Keeps s (raiseCell k h s) := by
  simp [Keeps, raiseCell]
@[simp] theorem cellWritten_keeps (k h : Nat) (s : State) : Keeps s (cellWritten k h s) := by
  simp [Keeps, cellWritten]
@[simp] theorem partnerCellWritten_keeps (k h : Nat) (frame : BitVec 64) (s : State) : Keeps s (partnerCellWritten k h frame s) := by
  simp [Keeps, partnerCellWritten]
@[simp] theorem lockRecorded_keeps (s : State) : Keeps s (lockRecorded s) := by
  unfold lockRecorded; (repeat' split) <;> simp_all [Keeps]
@[simp] theorem latchEntry_keeps (n : TamperEntry) (s : State) : Keeps s (latchEntry n s) := by
  have h : ∀ t : Tamper, (let join := fun (e : TamperEntry) => if e.joins n then e.add n false else e
    if t.latch.any (·.joins n) then { t with latch := t.latch.map join }
    else if t.log.any (·.joins n) then { t with log := t.log.map join }
    else if t.latch.length < 16 then { t with latch := t.latch ++ [n], logSinceReset := satInc16 t.logSinceReset }
    else { t with latch := modAt 15 (·.add n true) t.latch }).lock = t.lock := by
    intro t; dsimp only; (repeat' split) <;> rfl
  exact ⟨rfl, rfl, rfl, rfl, h s.tmp, rfl⟩
@[simp] theorem responseWritten_keeps (table : BitVec 44) (polarity : BitVec 4) (s : State) : Keeps s (responseWritten table polarity s) := by
  simp [Keeps, responseWritten]
@[simp] theorem rootCopyEnds_keeps (second : Bool) (s : State) : Keeps s (rootCopyEnds second s) := by
  unfold rootCopyEnds; (repeat' split) <;> simp_all [Keeps]
@[simp] theorem revocationEnds_keeps (k : Nat) (p : Option PealSlot) (s : State) : Keeps s (revocationEnds k p s) := by
  simp [Keeps, revocationEnds]
@[simp] theorem exhaustCell_keeps (k : Nat) (s : State) : Keeps s (exhaustCell k s) := by
  simp [Keeps, exhaustCell]
@[simp] theorem dropBase_keeps (s : State) : Keeps s (dropBase s) := by
  simp [Keeps, dropBase]
@[simp] theorem baseAgain_keeps (copyA : Bool) (c : BaseCopy) (s : State) : Keeps s (baseAgain copyA c s) := by
  simp [Keeps, baseAgain]
@[simp] theorem keepWhole_keeps (s : State) (c : NvCmd) : Keeps s (keepWhole s c) := by
  unfold keepWhole; (repeat' split) <;> simp_all [Keeps]
@[simp] theorem remap_keeps (page : Nat) (s : State) : Keeps s (remap page s) := by
  simp [Keeps, remap]
@[simp] theorem countCycles_keeps (ps : List Nat) (s : State) : Keeps s (countCycles ps s) := by
  simp [Keeps, countCycles]
@[simp] theorem nextCommand_keeps (s : State) : Keeps s (nextCommand s) := by
  simp [Keeps, nextCommand]
@[simp] theorem wipeRings_keeps (hit : Fn → Bool) (s : State) : Keeps s (wipeRings hit s) := by
  simp [Keeps, wipeRings]
@[simp] theorem mapFuncs_keeps (f : Nat → Func → Func) (s : State) : Keeps s (mapFuncs f s) := by
  simp [Keeps, mapFuncs]
@[simp] theorem flrPeal_keeps (s : State) (e : Nat × Peal) : Keeps s (flrPeal s e) := by
  unfold flrPeal; (repeat' split) <;> simp_all [Keeps]
@[simp] theorem flrOn_keeps (hit : Fn → Bool) (s : State) : Keeps s (flrOn hit s) := by
  simp [Keeps, flrOn]
@[simp] theorem dropPeal_keeps (s : State) (e : Nat × Peal) : Keeps s (dropPeal s e) := by
  unfold dropPeal; (repeat' split) <;> simp_all [Keeps]
@[simp] theorem discardWork_keeps (s : State) : Keeps s (discardWork s) := by
  simp [Keeps, discardWork]
@[simp] theorem gateAll_keeps (s : State) : Keeps s (gateAll s) := by
  simp [Keeps, gateAll]
@[simp] theorem lockPeal_keeps (s : State) (e : Nat × Peal) : Keeps s (lockPeal s e) := by
  simp [Keeps, lockPeal]
@[simp] theorem lockRing_keeps (s : State) (k : Nat) : Keeps s (lockRing s k) := by
  unfold lockRing; dsimp only; (repeat' split) <;> simp [Keeps]
@[simp] theorem lockRings_keeps (s : State) : Keeps s (lockRings s) := by
  simp [Keeps, lockRings]
@[simp] theorem lockDrbgs_keeps (s : State) : Keeps s (lockDrbgs s) := by
  simp [Keeps, lockDrbgs]
@[simp] theorem lockWork_keeps (s : State) : Keeps s (lockWork s) := by
  simp [Keeps, lockWork]
@[simp] theorem newEpoch_keeps (s : State) : Keeps s (newEpoch s) := by
  simp [Keeps, newEpoch]
@[simp] theorem zeroiseVault_keeps (s : State) : Keeps s (zeroiseVault s) := by
  simp [Keeps, zeroiseVault]
@[simp] theorem tollFinal_keeps (s : State) : Keeps s (tollFinal s) := by
  simp [Keeps, tollFinal]
@[simp] theorem zeroiseRest_keeps (s : State) : Keeps s (zeroiseRest s) := by
  simp [Keeps, zeroiseRest]
@[simp] theorem refuseRing_keeps (fn : Fn) (s : State) : Keeps s (refuseRing fn s) := by
  simp [Keeps, refuseRing]
@[simp] theorem subParam_keeps (fn : Fn) (r : SqNo) (param : RingParam) (data : BitVec 64) (s : State) : Keeps s (subParam fn r param data s) := by
  unfold subParam; (repeat' split) <;> simp_all [Keeps]
@[simp] theorem cplParam_keeps (c : CqNo) (param : RingParam) (data : BitVec 64) (s : State) : Keeps s (cplParam c param data s) := by
  unfold cplParam; (repeat' split) <;> simp_all [Keeps]
@[simp] theorem enableRing_keeps (fn : Fn) (s : State) : Keeps s (enableRing fn s) := by
  unfold enableRing; (repeat' split) <;> simp_all [Keeps]
@[simp] theorem flushWaiting_keeps (r : SqNo) (s : State) : Keeps s (flushWaiting r s) := by
  simp [Keeps, flushWaiting]
@[simp] theorem abortRing_keeps (r : SqNo) (s : State) : Keeps s (abortRing r s) := by
  simp [Keeps, abortRing]
@[simp] theorem resetSub_keeps (fn : Fn) (abort : Bool) (r : SqNo) (s : State) : Keeps s (resetSub fn abort r s) := by
  unfold resetSub; dsimp only; (repeat' split) <;> simp [Keeps]
@[simp] theorem resetCpl_keeps (fn : Fn) (c : CqNo) (s : State) : Keeps s (resetCpl fn c s) := by
  simp [Keeps, resetCpl]
@[simp] theorem resetRing_keeps (fn : Fn) (abort : Bool) (s : State) : Keeps s (resetRing fn abort s) := by
  unfold resetRing; (repeat' split) <;> simp_all [Keeps]
@[simp] theorem zeroCounters_keeps (b : Nat) (s : State) : Keeps s (zeroCounters b s) := by
  simp [Keeps, zeroCounters]
@[simp] theorem lcDataPut_keeps (o : Nat) (bs : Bytes) (s : State) : Keeps s (lcDataPut o bs s) := by
  simp [Keeps, lcDataPut]
@[simp] theorem fnWrite_keeps (fn : Fn) (o : Nat) (d : BitVec 32) (s : State) : Keeps s (fnWrite fn o d s) := by
  simp [Keeps, fnWrite]
@[simp] theorem devWrite32_keeps (o : Nat) (d : BitVec 32) (s : State) : Keeps s (devWrite32 o d s) := by
  unfold devWrite32; (repeat' split) <;> simp_all [Keeps]
@[simp] theorem devWrite64_keeps (o : Nat) (d : BitVec 64) (s : State) : Keeps s (devWrite64 o d s) := by
  unfold devWrite64; (repeat' split) <;> simp_all [Keeps]
@[simp] theorem busBack_keeps (fn : Fn) (s : State) : Keeps s (busBack fn s) := by
  simp [Keeps, busBack]
@[simp] theorem passCheck_keeps (fails : BitVec 22) (s : State) : Keeps s (passCheck fails s) := by
  simp [Keeps, passCheck]
@[simp] theorem markReady_keeps (seq : Nat) (s : State) : Keeps s (markReady seq s).2 := by
  unfold markReady; (repeat' split) <;> simp_all [Keeps]
@[simp] theorem awaitDelta_keeps (p : PealSlot) (s : State) : Keeps s (awaitDelta p s) := by
  simp [Keeps, awaitDelta]
@[simp] theorem statement_keeps (p : PealSlot) (q : Peal) (kind : BitVec 8) (t : Option Fn) (nonce : Bytes) (s :
    State) : Keeps s (statement p q kind t nonce s) := by
  unfold statement; dsimp only; split <;> rename_i e <;> refine (keeps_of_eq e (markReady_keeps _ _)).trans ?_
  · exact Keeps.rfl'
  · exact withSign_keeps _ _ _ _ _ _ (fun _ t => (awaitDelta_keeps _ _).trans (pass_keeps _ _ _ _ _))
@[simp] theorem sealOp_keeps (slot : PealSlot) (q : Peal) (op : BitVec 8) (cond : Bool) (e : Effect) (s : State) : Keeps s (sealOp slot q op cond e s) := by
  simp only [sealOp]; (repeat' split) <;> simp [Keeps]
@[simp] theorem lcResult_keeps (r : BitVec 4) (s : State) : Keeps s (lcResult r s) := by
  simp [Keeps, lcResult]
@[simp] theorem lcRefuse_keeps (token : Bool) (r : BitVec 4) (s : State) : Keeps s (lcRefuse token r s) := by
  simp [Keeps, lcRefuse]
@[simp] theorem lcWrite_keeps (step : BitVec 8) (e : LcEntry) (s : State) : Keeps s (lcWrite step e s) := by
  simp [Keeps, lcWrite]
@[simp] theorem lcSeqInc_keeps (s : State) : Keeps s (lcSeqInc s) := by
  simp [Keeps, lcSeqInc]
@[simp] theorem writeClosing_keeps (seq : Nat) (sig : Option Bytes) (s : State) : Keeps s (writeClosing seq sig s) := by
  simp [Keeps, writeClosing]
@[simp] theorem closeGoesOn_keeps (s : State) : Keeps s (closeGoesOn s) := by
  unfold closeGoesOn; dsimp only; split
  · exact Keeps.rfl'
  · split <;> rename_i e <;> refine (keeps_of_eq e (markReady_keeps _ _)).trans ?_
    · exact Keeps.rfl'
    · split
      · exact writeClosing_keeps _ _ _
      · split <;> rename_i e2 <;> have h := keeps_of_eq e2 (drawFor_keeps _ _ _ _)
        · exact h.trans (writeClosing_keeps _ _ _)
        · exact h
        · exact h.trans (writeClosing_keeps _ _ _)
@[simp] theorem close_keeps (e : LcEntry) (s : State) : Keeps s (close e s) := by
  simp [Keeps, close]
@[simp] theorem serveClosing_keeps (s : State) : Keeps s (serveClosing s) := by
  simp [Keeps, serveClosing]
@[simp] theorem closed_keeps (s : State) : Keeps s (closed s) := by
  unfold closed; (repeat' split) <;> simp_all [Keeps]
@[simp] theorem wipeVolatile_keeps (s : State) : Keeps s (wipeVolatile s) := by
  simp [Keeps, wipeVolatile]
@[simp] theorem wipeStart_keeps (ps : List (Nat × Nat)) (s : State) : Keeps s (wipeStart ps s) := by
  simp [Keeps, wipeStart]
@[simp] theorem wipeToll_keeps (all : Bool) (s : State) : Keeps s (wipeToll all s) := by
  simp [Keeps, wipeToll]
@[simp] theorem wipeLcRecords_keeps (s : State) : Keeps s (wipeLcRecords s) := by
  simp [Keeps, wipeLcRecords]
@[simp] theorem writeRecoveryKey_keeps (key : Bytes) (s : State) : Keeps s (writeRecoveryKey key s) := by
  simp [Keeps, writeRecoveryKey]
@[simp] theorem drawChallenge_keeps (s : State) : Keeps s (drawChallenge s) := by
  unfold drawChallenge; split <;> rename_i e <;> refine (keeps_of_eq e (drawFor_keeps _ _ _ _)).trans ?_ <;> simp [Keeps]
@[simp] theorem serveChallenge_keeps (s : State) : Keeps s (serveChallenge s) := by
  simp [Keeps, serveChallenge]
@[simp] theorem openScan_keeps (s : State) : Keeps s (openScan s) := by
  simp [Keeps, openScan]
@[simp] theorem gradeClusters_keeps (s : State) : Keeps s (gradeClusters s) := by
  simp [Keeps, gradeClusters]
@[simp] theorem loseAo_keeps (s : State) : Keeps s (loseAo s) := by
  simp [Keeps, loseAo]
@[simp] theorem raiseTimes_keeps (ev : DevEvent) (n : Nat) (s : State) : Keeps s (raiseTimes ev n s) := by
  simp [Keeps, raiseTimes]
@[simp] theorem bistClusters_keeps (quick : Bool) (r : BootReport) (s : State) : Keeps s (bistClusters quick r s) := by
  simp [Keeps, bistClusters]
@[simp] theorem memKeyUp_keeps (s : State) : Keeps s (memKeyUp s) := by
  simp only [memKeyUp]; (repeat' split) <;> simp [Keeps]
@[simp] theorem bistMemory_keeps (r : BootReport) (s : State) : Keeps s (bistMemory r s) := by
  simp [Keeps, bistMemory]
@[simp] theorem bistLanes_keeps (quick : Bool) (r : BootReport) (s : State) : Keeps s (bistLanes quick r s) := by
  simp [Keeps, bistLanes]
@[simp] theorem noiseBlocks_keeps (n : Nat) (s : State) : Keeps s (noiseBlocks n s).2 := by
  simp [Keeps, noiseBlocks]
@[simp] theorem keyMasks_keeps (s : State) : Keeps s (keyMasks s) := by
  simp [Keeps, keyMasks]
@[simp] theorem fillPool_keeps (s : State) : Keeps s (fillPool s) := by
  simp [Keeps, fillPool]
@[simp] theorem seedLoops_keeps (s : State) : Keeps s (seedLoops s) := by
  simp [Keeps, seedLoops]
@[simp] theorem bootEntropy_keeps (lock : Bool) (r : BootReport) (s : State) : Keeps s (bootEntropy lock r s) := by
  simp [Keeps, bootEntropy]
@[simp] theorem startSteward_keeps (isB : Bool) (s : State) : Keeps s (startSteward isB s) := by
  simp [Keeps, startSteward]
@[simp] theorem newTenants_keeps (s : State) : Keeps s (newTenants s) := by
  simp [Keeps, newTenants]
@[simp] theorem issueDkc_keeps (kind : BitVec 8) (key : Shares) (s : State) : Keeps s (issueDkc kind key s) := by
  unfold issueDkc; (repeat' split) <;> first
  | exact Keeps.rfl'
  | (simp [Keeps]; done)
  | (rename_i h; refine (keeps_of_eq h (by simp [Keeps])).trans ?_; simp [Keeps])
@[simp] theorem issueDkcs_keeps (s : State) : Keeps s (issueDkcs s) := by
  simp [Keeps, issueDkcs]
@[simp] theorem identUp_keeps (s : State) : Keeps s (identUp s) := by
  simp [Keeps, identUp]
@[simp] theorem rootUp_keeps (c : Nat) (s : State) : Keeps s (rootUp c s) := by
  unfold rootUp; dsimp only; (repeat' split) <;> first
  | exact Keeps.rfl'
  | simp [Keeps]
@[simp] theorem vaultWrite_keeps (secret : Bytes) (s : State) : Keeps s (vaultWrite secret s) := by
  simp [Keeps, vaultWrite]
@[simp] theorem rootNew_keeps (s : State) : Keeps s (rootNew s) := by
  unfold rootNew; dsimp only; (repeat' split) <;> first
  | exact Keeps.rfl'
  | (simp [Keeps]; done)
  | (rename_i h; refine (keeps_of_eq h (by simp [Keeps])).trans ?_; simp [Keeps])
@[simp] theorem rootMade_keeps (s : State) : Keeps s (rootMade s) := by
  simp [Keeps, rootMade]
@[simp] theorem rootStep_keeps (held latched : Bool) (s : State) : Keeps s (rootStep held latched s) := by
  simp [Keeps, rootStep]
@[simp] theorem loadToll_keeps (s : State) : Keeps s (loadToll s) := by
  simp [Keeps, loadToll]
@[simp] theorem recordGap_keeps (s : State) : Keeps s (recordGap s) := by
  simp [Keeps, recordGap]
@[simp] theorem startRegion_keeps (s : State) : Keeps s (startRegion s) := by
  simp [Keeps, startRegion]
@[simp] theorem countOwed_keeps (s : State) : Keeps s (countOwed s) := by
  simp [Keeps, countOwed]
@[simp] theorem tollStep_keeps (held : Bool) (s : State) : Keeps s (tollStep held s) := by
  simp [Keeps, tollStep]
@[simp] theorem carry_keeps (src : BitVec 2) (l : List JEntry) (s : State) : Keeps s (carry src l s) := by
  simp [Keeps, carry]
@[simp] theorem restoreEntry_keeps (s : State) (k : Nat) (e : RsEntry) : Keeps s (restoreEntry s k e) := by
  simp [Keeps, restoreEntry]
@[simp] theorem loadRset_keeps (s : State) : Keeps s (loadRset s) := by
  simp [Keeps, loadRset]
@[simp] theorem loadCells_keeps (s : State) : Keeps s (loadCells s) := by
  simp [Keeps, loadCells]
@[simp] theorem loadWindows_keeps (s : State) : Keeps s (loadWindows s) := by
  simp [Keeps, loadWindows]
@[simp] theorem bistBlocks_keeps (r : BootReport) (s : State) : Keeps s (bistBlocks r s) := by
  simp [Keeps, bistBlocks]
@[simp] theorem bistTemps_keeps (r : BootReport) (s : State) : Keeps s (bistTemps r s) := by
  simp [Keeps, bistTemps]
@[simp] theorem startRekey_keeps (s : State) : Keeps s (startRekey s) := by
  simp [Keeps, startRekey]
@[simp] theorem loseWrite_keeps (c : NvCmd) (s : State) : Keeps s (loseWrite c s) := by
  unfold loseWrite; dsimp only; (repeat' split) <;> simp [Keeps, NvStore.lose]
@[simp] theorem fwEnd_keeps (r : BitVec 4) (s : State) : Keeps s (fwEnd r s) := by
  simp [Keeps, fwEnd]
@[simp] theorem restartSteward_keeps (s : State) : Keeps s (restartSteward s) := by
  simp [Keeps, restartSteward]
@[simp] theorem refill_keeps (base : BitVec 16) (s : State) : Keeps s (refill base s) := by
  simp [Keeps, refill]
@[simp] theorem readSensors_keeps (temps : List (BitVec 9)) (s : State) : Keeps s (readSensors temps s) := by
  simp [Keeps, readSensors]
@[simp] theorem judgeThermal_keeps (s : State) : Keeps s (judgeThermal s) := by
  simp [Keeps, judgeThermal]
@[simp] theorem State.mChan_keeps (c : BitVec 2) (f : MemChan → MemChan) (s : State) : Keeps s (State.mChan c f s) := by
  simp [Keeps, State.mChan]
@[simp] theorem writeLine_keeps (n : Nat) (s : State) : Keeps s (writeLine n s) := by
  simp [Keeps, writeLine]
@[simp] theorem correctedError_keeps (c : BitVec 2) (s : State) : Keeps s (correctedError c s) := by
  simp [Keeps, correctedError]
@[simp] theorem damageCarried_keeps (line : Nat) (s : State) : Keeps s (damageCarried line s) := by
  simp [Keeps, damageCarried]
@[simp] theorem loseKey_keeps (k : Nat) (s : State) : Keeps s (loseKey k s) := by
  simp [Keeps, loseKey]
@[simp] theorem loseSpill_keeps (slot : PealSlot) (step : Nat) (s : State) : Keeps s (loseSpill slot step s) := by
  unfold loseSpill; (repeat' split) <;> simp_all [Keeps]
@[simp] theorem loseStaged_keeps (slot : PealSlot) (s : State) : Keeps s (loseStaged slot s) := by
  unfold loseStaged; (repeat' split) <;> simp_all [Keeps]
@[simp] theorem regionFault_keeps (line : Nat) (owner : LineOwner) (s : State) : Keeps s (regionFault line owner s) := by
  unfold regionFault; (repeat' split) <;> simp [Keeps]
@[simp] theorem failOver_keeps (s : State) : Keeps s (failOver s) := by
  simp [Keeps, failOver]
@[simp] theorem linkDownIfBare_keeps (s : State) : Keeps s (linkDownIfBare s) := by
  simp [Keeps, linkDownIfBare]
@[simp] theorem sendResync_keeps (s : State) (js : List JEntry) : Keeps s (sendResync s js) := by
  simp [Keeps, sendResync]
@[simp] theorem sendHwm_keeps (s : State) (k : Nat) : Keeps s (sendHwm s k) := by
  simp [Keeps, sendHwm]
@[simp] theorem sendRevoke_keeps (s : State) (k : Nat) : Keeps s (sendRevoke s k) := by
  unfold sendRevoke; (repeat' split) <;> simp_all [Keeps]
@[simp] theorem resyncEnd_keeps (s : State) : Keeps s (resyncEnd s) := by
  simp [Keeps, resyncEnd]
@[simp] theorem startResync_keeps (s : State) : Keeps s (startResync s) := by
  simp [Keeps, startResync]
@[simp] theorem shakeFailed_keeps (s : State) : Keeps s (shakeFailed s) := by
  simp [Keeps, shakeFailed]
@[simp] theorem noteReplicated_keeps (s : State) (seq : BitVec 64) : Keeps s (noteReplicated s seq) := by
  simp [Keeps, noteReplicated]
@[simp] theorem ackTo_keeps (n : BitVec 64) (s : State) : Keeps s (ackTo n s) := by
  unfold ackTo; dsimp only; (repeat' split) <;> simp [Keeps]
@[simp] theorem dropFrame_keeps (s : State) : Keeps s (dropFrame s) := by
  simp [Keeps, dropFrame]
@[simp] theorem recordCommit_keeps (s : State) (c : CommitPayload) : Keeps s (recordCommit s c) := by
  simp [Keeps, recordCommit]
@[simp] theorem abandonDelta_keeps (s : State) : Keeps s (abandonDelta s) := by
  unfold abandonDelta; (repeat' split) <;> simp_all [Keeps]
@[simp] theorem holdStore_keeps (s : State) : Keeps s (holdStore s) := by
  simp [Keeps, holdStore]
@[simp] theorem smbAlert_keeps (on : Bool) (s : State) : Keeps s (smbAlert on s) := by
  simp [Keeps, smbAlert]
@[simp] theorem smbReturn_keeps (bs : Bytes) (s : State) : Keeps s (smbReturn bs s) := by
  simp [Keeps, smbReturn]
@[simp] theorem objectReady_keeps (bs : Bytes) (s : State) : Keeps s (objectReady bs s) := by
  simp [Keeps, objectReady]
@[simp] theorem objectRefused_keeps (reason : BitVec 8) (s : State) : Keeps s (objectRefused reason s) := by
  simp [Keeps, objectRefused]
@[simp] theorem statementObject_keeps (t : Option Fn) (s : State) : Keeps s (statementObject t s) := by
  unfold statementObject; dsimp only; split
  · (repeat' split) <;> simp [Keeps]
  · split
    · simp [Keeps]
    · split
      · exact Keeps.rfl'
      · split <;> rename_i e <;> refine (keeps_of_eq e (markReady_keeps _ _)).trans ?_
        · exact Keeps.rfl'
        · split <;> rename_i e2 <;> refine (keeps_of_eq e2 (drawFor_keeps _ _ _ _)).trans ?_
          · simp [Keeps]
          · exact Keeps.rfl'
          · refine Keeps.trans ?_ (State.mSmb_keeps _ _)
            split
            · exact Keeps.rfl'
            · exact startDelta_keeps _ _ _
@[simp] theorem reportObject_keeps (s : State) : Keeps s (reportObject s) := by
  unfold reportObject; split
  · simp [Keeps]
  · split <;> rename_i e <;> refine (keeps_of_eq e (drawFor_keeps _ _ _ _)).trans ?_ <;> simp [Keeps]
@[simp] theorem seatStep_keeps (p : PealSlot) (i : Nat) (c : ClusterNo) (l : List Engine) (drawn : Bytes) (s : State) : Keeps s (seatStep p i c l drawn s) := by
  simp [Keeps, seatStep]
@[simp] theorem drawAndSeat_keeps (p : PealSlot) (i : Nat) (q : Peal) (st : StepDef) (l : List Engine) (s : State) : Keeps s (drawAndSeat p i q st l s) := by
  unfold drawAndSeat; (repeat' split) <;> first
  | exact Keeps.rfl'
  | (simp [Keeps]; done)
  | (rename_i h; refine (keeps_of_eq h (by simp [Keeps])).trans ?_; simp [Keeps])
@[simp] theorem reserveAndSeat_keeps (p : PealSlot) (i : Nat) (q : Peal) (st : StepDef) (l : List Engine) (s : State) : Keeps s (reserveAndSeat p i q st l s) := by
  unfold reserveAndSeat; (repeat' split) <;> simp_all [Keeps]
@[simp] theorem testCore_keeps (e : Option Engine) (s : State) : Keeps s (testCore e s) := by
  unfold testCore; (repeat' split) <;> simp_all [Keeps]
@[simp] theorem releaseFailed_keeps (signer verifier : Option Engine) (s : State) : Keeps s (releaseFailed signer verifier s) := by
  simp [Keeps, releaseFailed]
@[simp] theorem startStep_keeps (p : PealSlot) (i : Nat) (l : List Engine) (s : State) : Keeps s (startStep p i l s) := by
  unfold startStep; dsimp only; (repeat' split) <;> simp [Keeps]
@[simp] theorem endFormatWith_keeps (p : PealSlot) (i : Nat) (q : Peal) (st : StepDef) (r : FmtRun) (s : State) : Keeps s (endFormatWith p i q st r s) := by
  simp [Keeps, endFormatWith]
@[simp] theorem endFormat_keeps (p : PealSlot) (i : Nat) (q : Peal) (st : StepDef) (s : State) : Keeps s (endFormat p i q st s) := by
  simp [Keeps, endFormat]
@[simp] theorem endVerify_keeps (p : PealSlot) (i : Nat) (q : Peal) (st : StepDef) (ok : Bool) (s : State) : Keeps s (endVerify p i q st ok s) := by
  simp [Keeps, endVerify]
@[simp] theorem endGuardFail_keeps (p : PealSlot) (i : Nat) (q : Peal) (st : StepDef) (malformed : Bool) (sh : Bytes) (s : State) : Keeps s (endGuardFail p i q st malformed sh s) := by
  simp [Keeps, endGuardFail]
@[simp] theorem endResult_keeps (p : PealSlot) (i : Nat) (q : Peal) (st : StepDef) (x : StepResult) (s : State) : Keeps s (endResult p i q st x s) := by
  simp [Keeps, endResult]
@[simp] theorem redraw_keeps (p : PealSlot) (i : Nat) (q : Peal) (st : StepDef) (s : State) : Keeps s (redraw p i q st s) := by
  unfold redraw; (repeat' split) <;> first
  | exact Keeps.rfl'
  | (simp [Keeps]; done)
  | (rename_i h; refine (keeps_of_eq h (by simp [Keeps])).trans ?_; simp [Keeps])
@[simp] theorem endDone_keeps (p : PealSlot) (i : Nat) (q : Peal) (st : StepDef) (s : State) : Keeps s (endDone p i q st s) := by
  unfold endDone; (repeat' split) <;> simp_all [Keeps]
@[simp] theorem endFaulty_keeps (p : PealSlot) (i : Nat) (q : Peal) (st : StepDef) (s : State) : Keeps s (endFaulty p i q st s) := by
  simp [Keeps, endFaulty]
@[simp] theorem pauseTest_keeps (c : ClusterNo) (s : State) : Keeps s (pauseTest c s) := by
  simp [Keeps, pauseTest]
@[simp] theorem miscompare_keeps (p : PealSlot) (i : Nat) (q : Peal) (st : StepDef) (seg : Nat) (s : State) : Keeps s (miscompare p i q st seg s) := by
  simp [Keeps, miscompare]
@[simp] theorem endRunning_keeps (p : PealSlot) (i : Nat) (q : Peal) (st : StepDef) (res : EngineResult) (s : State) : Keeps s (endRunning p i q st res s) := by
  unfold endRunning; (repeat' split) <;> simp_all [Keeps]
@[simp] theorem attribute__keeps (c : ClusterNo) (n : Nat) (s : State) : Keeps s (attribute_ c n s) := by
  simp [Keeps, attribute_]
@[simp] theorem resumeTest_keeps (c : ClusterNo) (s : State) : Keeps s (resumeTest c s) := by
  simp [Keeps, resumeTest]
@[simp] theorem endTies_keeps (c : ClusterNo) (s : State) : Keeps s (endTies c s) := by
  unfold endTies
  exact foldl_keeps _ (by intro s a; dsimp only; split <;> simp [Keeps]) _ _
@[simp] theorem tieWon_keeps (p : PealSlot) (i : Nat) (q : Peal) (st : StepDef) (t : TieRec) (loser : Nat) (out : Bytes)
    (ok : Bool) (s : State) : Keeps s (tieWon p i q st t loser out ok s) := by
  unfold tieWon; dsimp only; split
  · exact Keeps.rfl'
  · have h := fun m v => (((attribute__keeps q.cluster loser s).trans (retireEngine_keeps q.cluster false loser .tieBreak _)).trans
      (State.mRun_keeps p i (StepRun.decided s.clk.now t v out) _)).trans (occupy_keeps q.cluster false m p i _)
    (repeat' split) <;> first | exact h _ _ | exact (h _ _).trans (endTies_keeps _ _)
@[simp] theorem setAside_keeps (c : ClusterNo) (isPk : Bool) (n : Nat) (h : HeldJob) (s : State) : Keeps s (setAside c isPk n h s) := by
  simp [Keeps, setAside]
@[simp] theorem saveContext_keeps (now : State) (v : Peal) (vp : PealSlot) (vi : Nat) (vst : StepDef) (n : Nat) (s : State) :
    Keeps s (saveContext now v vp vi vst n s) := by
  unfold saveContext
  exact (clusterBytes_keeps _ _ _).trans (setAside_keeps _ _ _ _ _)
@[simp] theorem takeUp_keeps (c : ClusterNo) (n : Nat) (s : State) : Keeps s (takeUp c n s) := by
  unfold takeUp; (repeat' split) <;> simp_all [Keeps]
@[simp] theorem takeUpParked_keeps (c : ClusterNo) (n : Nat) (s : State) : Keeps s (takeUpParked c n s) := by
  simp only [takeUpParked]; (repeat' split) <;> simp [Keeps]

end Sys2Proof.Machine
end

