-- ==== Sys2Proof/Laws/Maps.lean ====
section
/-! SUPPORT. Laws of the sparse maps, and of the persistent store's array built on them: read after write, other places
unchanged, and the canonical form kept by every operation on the array (R354). -/
namespace Sys2Proof.Machine
variable {β : Type}

theorem smFind_insert (k : Nat) (v : β) (m : SMap β) : smFind k (smInsert k v m) = some v := by
  induction m with
  | nil => simp [smInsert, smFind]
  | cons e m ih =>
    obtain ⟨j, w⟩ := e
    simp only [smInsert]
    split
    · simp [smFind]
    · split
      · simp [smFind]
      · simp_all [smFind]

theorem smFind_insert_ne {j k : Nat} (h : j ≠ k) (v : β) (m : SMap β) : smFind j (smInsert k v m) = smFind j m := by
  induction m with
  | nil => simp [smInsert, smFind, Ne.symm h]
  | cons e m ih =>
    obtain ⟨i, w⟩ := e
    simp only [smInsert]
    split
    · simp [smFind, Ne.symm h]
    · split
      · simp_all [smFind, Ne.symm h]
      · simp [smFind, ih]

theorem smFind_above {b : Nat} {m : SMap β} (h : smAbove b m = true) {k : Nat} (hk : k ≤ b) : smFind k m = none := by
  induction m with
  | nil => rfl
  | cons e m ih =>
    obtain ⟨j, w⟩ := e
    simp only [smAbove, Bool.and_eq_true, decide_eq_true_eq] at h
    simp only [smFind]
    rw [if_neg (by omega)]; exact ih h.2

theorem smAbove_mono {a b : Nat} (hab : a ≤ b) {m : SMap β} (h : smAbove b m = true) : smAbove a m = true := by
  induction m with
  | nil => rfl
  | cons e m ih =>
    obtain ⟨j, w⟩ := e
    simp only [smAbove, Bool.and_eq_true, decide_eq_true_eq] at h ⊢
    exact ⟨by omega, ih h.2⟩

theorem smFind_erase {k : Nat} {m : SMap β} (h : smSorted m = true) : smFind k (smErase k m) = none := by
  induction m with
  | nil => rfl
  | cons e m ih =>
    obtain ⟨j, w⟩ := e
    simp only [smSorted, Bool.and_eq_true] at h
    simp only [smErase]
    split
    · exact smFind_above h.1 (by omega)
    · rename_i hj; simp [smFind, hj, ih h.2]

theorem smFind_erase_ne {j k : Nat} (h : j ≠ k) (m : SMap β) : smFind j (smErase k m) = smFind j m := by
  induction m with
  | nil => rfl
  | cons e m ih =>
    obtain ⟨i, w⟩ := e
    simp only [smErase]
    split
    · simp_all [smFind, Ne.symm h]
    · simp [smFind, ih]

theorem smAbove_insert {b k : Nat} {v : β} {m : SMap β} (h : smAbove b m = true) (hk : b < k) :
    smAbove b (smInsert k v m) = true := by
  induction m with
  | nil => simp [smInsert, smAbove, hk]
  | cons e m ih =>
    obtain ⟨j, w⟩ := e
    simp only [smAbove, Bool.and_eq_true, decide_eq_true_eq] at h
    simp only [smInsert]
    split
    · simp [smAbove, hk, h.1, h.2]
    · split
      · simp [smAbove, hk, h.2]
      · simp [smAbove, h.1, ih h.2]

theorem smSorted_insert {k : Nat} {v : β} {m : SMap β} (h : smSorted m = true) : smSorted (smInsert k v m) = true := by
  induction m with
  | nil => rfl
  | cons e m ih =>
    obtain ⟨j, w⟩ := e
    have h' := h
    simp only [smSorted, Bool.and_eq_true] at h
    simp only [smInsert]
    split
    · rename_i hk
      simp only [smSorted, Bool.and_eq_true, smAbove, decide_eq_true_eq]
      exact ⟨⟨hk, smAbove_mono (by omega) h.1⟩, h⟩
    · split
      · rename_i hj; subst hj; simp [smSorted, h.1, h.2]
      · simp only [smSorted, Bool.and_eq_true]
        exact ⟨smAbove_insert h.1 (by omega), ih h.2⟩

theorem smAbove_erase {b k : Nat} {m : SMap β} (h : smAbove b m = true) : smAbove b (smErase k m) = true := by
  induction m with
  | nil => rfl
  | cons e m ih =>
    obtain ⟨j, w⟩ := e
    simp only [smAbove, Bool.and_eq_true] at h
    simp only [smErase]
    split
    · exact h.2
    · simp only [smAbove, Bool.and_eq_true]; exact ⟨h.1, ih h.2⟩

theorem smSorted_erase {k : Nat} {m : SMap β} (h : smSorted m = true) : smSorted (smErase k m) = true := by
  induction m with
  | nil => rfl
  | cons e m ih =>
    obtain ⟨j, w⟩ := e
    simp only [smSorted, Bool.and_eq_true] at h
    simp only [smErase]
    split
    · exact h.2
    · simp only [smSorted, Bool.and_eq_true]; exact ⟨smAbove_erase h.1, ih h.2⟩

theorem smAbove_filter {b : Nat} {p : Nat × β → Bool} {m : SMap β} (h : smAbove b m = true) :
    smAbove b (m.filter p) = true := by
  induction m with
  | nil => rfl
  | cons e m ih =>
    obtain ⟨j, w⟩ := e
    simp only [smAbove, Bool.and_eq_true] at h
    simp only [List.filter_cons]
    split
    · simp only [smAbove, Bool.and_eq_true]; exact ⟨h.1, ih h.2⟩
    · exact ih h.2

theorem smSorted_filter {p : Nat × β → Bool} {m : SMap β} (h : smSorted m = true) : smSorted (m.filter p) = true := by
  induction m with
  | nil => rfl
  | cons e m ih =>
    obtain ⟨j, w⟩ := e
    simp only [smSorted, Bool.and_eq_true] at h
    simp only [List.filter_cons]
    split
    · simp only [smSorted, Bool.and_eq_true]; exact ⟨smAbove_filter h.1, ih h.2⟩
    · exact ih h.2

theorem mem_insert {k : Nat} {v : β} {m : SMap β} {e : Nat × β} (h : e ∈ smInsert k v m) : e = (k, v) ∨ e ∈ m := by
  induction m with
  | nil => simpa [smInsert] using h
  | cons x m ih =>
    obtain ⟨j, w⟩ := x
    simp only [smInsert] at h
    split at h
    · simpa using h
    · split at h
      · rcases List.mem_cons.1 h with h | h
        · exact .inl h
        · exact .inr (List.mem_cons_of_mem _ h)
      · rcases List.mem_cons.1 h with h | h
        · exact .inr (h ▸ List.mem_cons_self ..)
        · rcases ih h with h | h
          · exact .inl h
          · exact .inr (List.mem_cons_of_mem _ h)

theorem mem_erase {k : Nat} {m : SMap β} {e : Nat × β} (h : e ∈ smErase k m) : e ∈ m := by
  induction m with
  | nil => simp [smErase] at h
  | cons x m ih =>
    obtain ⟨j, w⟩ := x
    simp only [smErase] at h
    split at h
    · exact List.mem_cons_of_mem _ h
    · rcases List.mem_cons.1 h with h | h
      · exact h ▸ List.mem_cons_self ..
      · exact List.mem_cons_of_mem _ (ih h)

section
variable [DecidableEq β] (d : β)

/-- Setting a key keeps the canonical form. -/
theorem smWf_set {k : Nat} {v : β} {m : SMap β} (h : smWf d m = true) : smWf d (smSet d k v m) = true := by
  simp only [smWf, Bool.and_eq_true, List.all_eq_true, decide_eq_true_eq] at h ⊢
  unfold smSet
  split
  · exact ⟨smSorted_erase h.1, fun e he => h.2 e (mem_erase he)⟩
  · rename_i hv
    refine ⟨smSorted_insert h.1, fun e he => ?_⟩
    rcases mem_insert he with rfl | he
    · exact hv
    · exact h.2 e he

/-- Dropping entries keeps the canonical form. -/
theorem smWf_filter {p : Nat × β → Bool} {m : SMap β} (h : smWf d m = true) : smWf d (m.filter p) = true := by
  simp only [smWf, Bool.and_eq_true, List.all_eq_true, decide_eq_true_eq] at h ⊢
  exact ⟨smSorted_filter h.1, fun e he => h.2 e (List.mem_filter.1 he).1⟩

/-- A key reads as the value it was set to. -/
theorem smGet_set {k : Nat} {v : β} {m : SMap β} (h : smSorted m = true) : smGet d (smSet d k v m) k = v := by
  unfold smGet smSet
  split
  · rename_i hv; rw [smFind_erase h]; exact hv.symm
  · rw [smFind_insert]; rfl

/-- Every other key reads as before. -/
theorem smGet_set_ne {j k : Nat} (hj : j ≠ k) (v : β) (m : SMap β) : smGet d (smSet d k v m) j = smGet d m j := by
  unfold smGet smSet
  split
  · rw [smFind_erase_ne hj]
  · rw [smFind_insert_ne hj]

end

/-! The store's array. -/

/-- Putting bytes one after another keeps the canonical form. -/
theorem smWf_foldl_set {α : Type} (k : α → Nat) (v : α → Byte) (l : List α) {m : List Host.Cell} (h : arrayWf m = true) :
    arrayWf (l.foldl (fun m a => smSet 0 (k a) (v a) m) m) = true := by
  induction l generalizing m with
  | nil => exact h
  | cons a l ih => exact ih (smWf_set 0 h)

/-- Dropping entries keeps the canonical form. -/
@[simp] theorem arrayWf_filter {p : Host.Cell → Bool} {m : List Host.Cell} (h : arrayWf m = true) :
    arrayWf (m.filter p) = true :=
  smWf_filter 0 h

/-- Writing bytes keeps the canonical form. -/
@[simp] theorem storePut_wf {addr : Nat} {bs : Bytes} {m : List Host.Cell} (h : arrayWf m = true) :
    arrayWf (storePut addr bs m) = true :=
  smWf_foldl_set _ _ _ h

/-- A byte outside what is written reads as before. -/
theorem storePut_outside {addr a : Nat} {bs : Bytes} (m : List Host.Cell) (h : a < addr ∨ addr + bs.length ≤ a) :
    smGet 0 (storePut addr bs m) a = smGet 0 m a := by
  unfold storePut
  have k : ∀ l : List Nat, (∀ i ∈ l, i < bs.length) → ∀ m : List Host.Cell,
      smGet 0 (l.foldl (fun m i => smSet 0 (addr + i) (bs.getD i 0) m) m) a = smGet 0 m a := by
    intro l; induction l with
    | nil => intro _ m; rfl
    | cons i l ih =>
      intro hl m
      have hi := hl i (List.mem_cons_self ..)
      rw [List.foldl_cons, ih (fun j hj => hl j (List.mem_cons_of_mem _ hj)), smGet_set_ne 0 (by omega)]
  exact k _ (fun i hi => List.mem_range.1 hi) m

/-- A byte that is written reads as written. -/
theorem storePut_inside {addr i : Nat} {bs : Bytes} {m : List Host.Cell} (h : arrayWf m = true) (hi : i < bs.length) :
    smGet 0 (storePut addr bs m) (addr + i) = bs.getD i 0 := by
  unfold storePut
  have k : ∀ l : List Nat, l.Nodup → ∀ m : List Host.Cell, arrayWf m = true →
      smGet 0 (l.foldl (fun m j => smSet 0 (addr + j) (bs.getD j 0) m) m) (addr + i) =
        if i ∈ l then bs.getD i 0 else smGet 0 m (addr + i) := by
    intro l; induction l with
    | nil => intro _ m _; rfl
    | cons j l ih =>
      intro hl m hm
      have hj := List.nodup_cons.1 hl
      rw [List.foldl_cons, ih hj.2 _ (smWf_set 0 hm)]
      by_cases e : i = j
      · subst e
        have hs : smSorted m = true := (Bool.and_eq_true _ _ ▸ hm : _ ∧ _).1
        rw [if_neg hj.1, if_pos (List.mem_cons_self ..), smGet_set 0 hs]
      · rw [smGet_set_ne 0 (show addr + i ≠ addr + j by omega)]
        simp only [List.mem_cons, e, false_or]
  rw [k _ List.nodup_range m h, if_pos (List.mem_range.2 hi)]

/-- Bytes put into the array read back. -/
theorem storeGet_put {addr : Nat} {bs : Bytes} {m : List Host.Cell} (h : arrayWf m = true) :
    storeGet (storePut addr bs m) addr bs.length = bs := by
  refine List.ext_getElem (by simp [storeGet]) (fun i h1 h2 => ?_)
  simp only [storeGet, List.getElem_map, List.getElem_range]
  rw [storePut_inside h h2, List.getD_eq_getElem?_getD, List.getElem?_eq_getElem h2]; rfl

@[simp] theorem NvStore.put_array (addr : Nat) (bs : Bytes) (n : NvStore) : (n.put addr bs).array = storePut addr bs n.array :=
  rfl

/-- Interrupting a write keeps the canonical form. -/
theorem tearWrite_wf {addr : Nat} {bs : Bytes} {n : Nat} {b : Bool} {pick : Bytes} {m : List Host.Cell}
    (h : arrayWf m = true) : arrayWf (tearWrite addr bs n b pick m) = true := by
  unfold tearWrite; dsimp only; split
  · exact storePut_wf h
  · exact storePut_wf (storePut_wf h)

/-- Spoiling a word keeps the canonical form. -/
theorem spoilWord_wf {a : Nat} {m : List Host.Cell} (h : arrayWf m = true) : arrayWf (spoilWord a m) = true := storePut_wf h

theorem reset_store_wf : State.reset.nv.wf = true := rfl

end Sys2Proof.Machine
end

