-- ==== Sys2Proof/Laws/Changes.lean ====
section
/-! SUPPORT. The operations that change the mode, the Lockdown latch, the fuses or the store's array, and what each of them
still leaves alone: of the array at least its canonical form. -/
namespace Sys2Proof.Machine

/-- All that `Keeps` keeps but the mode. -/
abbrev KeepsButMode (s t : State) : Prop :=
  t.pending = s.pending ∧ t.clk = s.clk ∧ t.fuses = s.fuses ∧ t.tmp.lock = s.tmp.lock ∧ t.nv.array = s.nv.array
/-- All that `Keeps` keeps but the mode and the store's array. -/
abbrev KeepsControl (s t : State) : Prop :=
  t.pending = s.pending ∧ t.clk = s.clk ∧ t.fuses = s.fuses ∧ t.tmp.lock = s.tmp.lock
/-- All that `Keeps` keeps but the mode and the Lockdown latch. -/
abbrev KeepsStore (s t : State) : Prop :=
  t.pending = s.pending ∧ t.clk = s.clk ∧ t.fuses = s.fuses ∧ t.nv.array = s.nv.array
/-- All that `Keeps` keeps but the fuses. -/
abbrev KeepsButFuses (s t : State) : Prop :=
  t.pending = s.pending ∧ t.clk = s.clk ∧ t.mode = s.mode ∧ t.tmp.lock = s.tmp.lock ∧ t.nv.array = s.nv.array
/-- The queue, the clock and the store's array alone. -/
abbrev KeepsLittle (s t : State) : Prop := t.pending = s.pending ∧ t.clk = s.clk ∧ t.nv.array = s.nv.array

/-- The store's array stays in its canonical form. -/
abbrev KeepsForm (s t : State) : Prop := arrayWf s.nv.array = true → arrayWf t.nv.array = true
/-- All that `Keeps` keeps, but of the store's array only its canonical form. -/
abbrev KeepsWf (s t : State) : Prop :=
  t.pending = s.pending ∧ t.clk = s.clk ∧ t.fuses = s.fuses ∧ t.mode = s.mode ∧ t.tmp.lock = s.tmp.lock ∧ KeepsForm s t
/-- `KeepsWf` but the mode. -/
abbrev KeepsWfButMode (s t : State) : Prop := KeepsControl s t ∧ KeepsForm s t

theorem Keeps.wf {s t : State} (h : Keeps s t) : KeepsWf s t :=
  ⟨h.1, h.2.1, h.2.2.1, h.2.2.2.1, h.2.2.2.2.1, fun w => by rw [h.2.2.2.2.2]; exact w⟩
theorem KeepsWf.rfl' {s : State} : KeepsWf s s := Keeps.rfl'.wf
theorem KeepsWf.trans {s t u : State} (h : KeepsWf s t) (k : KeepsWf t u) : KeepsWf s u :=
  ⟨k.1.trans h.1, k.2.1.trans h.2.1, k.2.2.1.trans h.2.2.1, k.2.2.2.1.trans h.2.2.2.1, k.2.2.2.2.1.trans h.2.2.2.2.1,
    k.2.2.2.2.2 ∘ h.2.2.2.2.2⟩
theorem KeepsWf.butMode {s t : State} (h : KeepsWf s t) : KeepsWfButMode s t :=
  ⟨⟨h.1, h.2.1, h.2.2.1, h.2.2.2.2.1⟩, h.2.2.2.2.2⟩
theorem KeepsWfButMode.trans {s t u : State} (h : KeepsWfButMode s t) (k : KeepsWfButMode t u) : KeepsWfButMode s u :=
  ⟨⟨k.1.1.trans h.1.1, k.1.2.1.trans h.1.2.1, k.1.2.2.1.trans h.1.2.2.1, k.1.2.2.2.trans h.1.2.2.2⟩, k.2 ∘ h.2⟩
theorem KeepsButMode.wf {s t : State} (h : KeepsButMode s t) : KeepsWfButMode s t :=
  ⟨⟨h.1, h.2.1, h.2.2.1, h.2.2.2.1⟩, fun w => by rw [h.2.2.2.2]; exact w⟩
theorem foldl_keepsWf {α : Type} (f : State → α → State) (h : ∀ s a, KeepsWf s (f s a)) (l : List α) (s : State) :
    KeepsWf s (l.foldl f s) := by
  induction l generalizing s with
  | nil => exact KeepsWf.rfl'
  | cons a l ih => exact (h s a).trans (ih _)
theorem foldr_keepsWf {α : Type} (f : α → State → State) (h : ∀ s a, KeepsWf s (f a s)) (l : List α) (s : State) :
    KeepsWf s (l.foldr f s) := by
  induction l with
  | nil => exact KeepsWf.rfl'
  | cons a l ih => exact ih.trans (h _ a)
theorem whenDo_keepsWf (b : Bool) (f : State → State) (s : State) (h : ∀ s, KeepsWf s (f s)) : KeepsWf s (whenDo b f s) := by
  unfold whenDo; split; exact h s; exact KeepsWf.rfl'
/-- A change of the store that keeps its array's form. -/
theorem State.mNv_keepsWf (f : NvStore → NvStore) (s : State) (h : arrayWf s.nv.array = true → arrayWf (f s.nv).array = true) :
    KeepsWf s (s.mNv f) :=
  ⟨rfl, rfl, rfl, rfl, rfl, h⟩

theorem Keeps.butMode {s t : State} (h : Keeps s t) : KeepsButMode s t := ⟨h.1, h.2.1, h.2.2.1, h.2.2.2.2.1, h.2.2.2.2.2⟩
theorem KeepsButMode.trans {s t u : State} (h : KeepsButMode s t) (k : KeepsButMode t u) : KeepsButMode s u :=
  ⟨k.1.trans h.1, k.2.1.trans h.2.1, k.2.2.1.trans h.2.2.1, k.2.2.2.1.trans h.2.2.2.1, k.2.2.2.2.trans h.2.2.2.2⟩
theorem KeepsStore.trans {s t u : State} (h : KeepsStore s t) (k : KeepsStore t u) : KeepsStore s u :=
  ⟨k.1.trans h.1, k.2.1.trans h.2.1, k.2.2.1.trans h.2.2.1, k.2.2.2.trans h.2.2.2⟩
theorem KeepsLittle.trans {s t u : State} (h : KeepsLittle s t) (k : KeepsLittle t u) : KeepsLittle s u :=
  ⟨k.1.trans h.1, k.2.1.trans h.2.1, k.2.2.trans h.2.2⟩
theorem Keeps.little {s t : State} (h : Keeps s t) : KeepsLittle s t := ⟨h.1, h.2.1, h.2.2.2.2.2⟩
theorem KeepsButFuses.little {s t : State} (h : KeepsButFuses s t) : KeepsLittle s t := ⟨h.1, h.2.1, h.2.2.2.2⟩
theorem KeepsStore.little {s t : State} (h : KeepsStore s t) : KeepsLittle s t := ⟨h.1, h.2.1, h.2.2.2⟩
theorem KeepsButMode.store {s t : State} (h : KeepsButMode s t) : KeepsStore s t := ⟨h.1, h.2.1, h.2.2.1, h.2.2.2.2⟩
theorem foldl_keepsButMode {α : Type} (f : State → α → State) (h : ∀ s a, KeepsButMode s (f s a)) (l : List α) (s : State) :
    KeepsButMode s (l.foldl f s) := by
  induction l generalizing s with
  | nil => exact Keeps.rfl'.butMode
  | cons a l ih => exact (h s a).trans (ih _)
theorem ite_keepsButMode (c : Prop) [Decidable c] {s a b : State} (h : KeepsButMode s a) (k : KeepsButMode s b) :
    KeepsButMode s (if c then a else b) := by split <;> assumption
theorem whenDo_keepsButMode (b : Bool) (f : State → State) (s : State) (h : ∀ s, KeepsButMode s (f s)) :
    KeepsButMode s (whenDo b f s) := by
  unfold whenDo; split; exact h s; exact Keeps.rfl'.butMode
@[simp] theorem afterReset_lock (t : Tamper) : t.afterReset.lock = t.lock := rfl
@[simp] theorem afterReset_array (n : NvStore) : n.afterReset.array = n.array := rfl
@[simp] theorem State.enter_mode (m : Mode) (s : State) : (s.enter m).mode = m := by
  unfold State.enter; split <;> simp_all
@[simp] theorem State.enter_keepsButMode (m : Mode) (s : State) : KeepsButMode s (s.enter m) := by
  unfold State.enter; split <;> exact ⟨rfl, rfl, rfl, rfl, rfl⟩
@[simp] theorem withdrawSurge_keepsButMode (s : State) : KeepsButMode s (withdrawSurge s) := by
  unfold withdrawSurge; (repeat' split) <;> simp_all [KeepsButMode]
@[simp] theorem readyToServe_keepsButMode (s : State) : KeepsButMode s (readyToServe s) := by
  unfold readyToServe; (repeat' split) <;> simp_all [KeepsButMode]
@[simp] theorem serveToReady_keepsButMode (s : State) : KeepsButMode s (serveToReady s) := by
  unfold serveToReady; (repeat' split) <;> simp_all [KeepsButMode]
@[simp] theorem modeSettle_keepsButMode (s : State) : KeepsButMode s (modeSettle s) := by
  unfold modeSettle; (repeat' split) <;> simp_all [KeepsButMode]
@[simp] theorem leaveMain_keepsButMode (m : Mode) (s : State) : KeepsButMode s (leaveMain m s) := by
  unfold leaveMain; (repeat' split) <;> simp_all [KeepsButMode]
@[simp] theorem admitPeal_keepsButMode (c : Cand) (n : Nat) (p : PealSlot) (s : State) : KeepsButMode s (admitPeal
    c n p s) := by
  unfold admitPeal; dsimp only
  refine KeepsButMode.trans ?_ (bindKeys_keeps _ _ _).butMode
  refine KeepsButMode.trans ?_ (judgeBuffers_keeps _ _).butMode
  refine KeepsButMode.trans ?_ (whenDo_keeps _ _ _ (fun s => xlSend_keeps _ _ s)).butMode
  refine KeepsButMode.trans ?_ (whenDo_keepsButMode _ _ _ (fun s => withdrawSurge_keepsButMode s))
  refine KeepsButMode.trans ?_ (readyToServe_keepsButMode _)
  refine KeepsButMode.trans ?_ (lapseSurge_keeps _).butMode
  refine KeepsButMode.trans ?_ (whenDo_keeps _ _ _ (fun s => touchCache_keeps _ s)).butMode
  simp [KeepsButMode]
@[simp] theorem decideWaiting_keepsButMode (w : Waiting) (s : State) : KeepsButMode s (decideWaiting w s) := by
  unfold decideWaiting; dsimp only; (repeat' split)
  all_goals first
    | (simp [KeepsButMode]; done)
    | exact ((noteDecision_keeps _ _).trans ((whenDo_keeps _ _ _ (fun s => State.mGov_keeps _ s)).trans
        (setWaiting_keeps _ _))).butMode
@[simp] theorem setMaintenance_keepsButMode (enter : Bool) (s : State) : KeepsButMode s (setMaintenance enter s) := by
  unfold setMaintenance; (repeat' split) <;> simp_all [KeepsButMode]
/-! The store's words as records, commands and interruptions change them. -/

@[simp] theorem spreadUp_keepsWf (c : Nat × Nat) (s : State) : KeepsWf s (spreadUp c s) :=
  (State.mNv_keepsWf _ s storePut_wf).trans (countCycles_keeps _ _).wf
@[simp] theorem placeRecord_keepsWf (lost : Bool) (r : TwoAt) (aux : BitVec 32) (body : Bytes) (s : State) :
    KeepsWf s (placeRecord lost r aux body s) :=
  State.mNv_keepsWf _ s fun w => by split; exact w; exact storePut_wf w
@[simp] theorem emptyRset_keepsWf (t : Fn) (s : State) : KeepsWf s (emptyRset t s) :=
  (State.mKs_keeps _ s).wf.trans (State.mNv_keepsWf _ _ fun w => arrayWf_filter w)
@[simp] theorem destroyTenant_keepsWf (t : Fn) (s : State) : KeepsWf s (destroyTenant t s) := by
  have h := foldl_keeps (fun s (e : Nat × KeyRec) => dropRec e.1 s) (fun s a => dropRec_keeps _ s)
    (s.ks.recs.filter fun e => keyTenant e.1 == t) s
  unfold destroyTenant; dsimp only
  simp +contextual [KeepsWf, KeepsForm, h.1, h.2.1, h.2.2.1, h.2.2.2.1, h.2.2.2.2.1, h.2.2.2.2.2]
@[simp] theorem storeTenant_keepsWf (lost : List Nat) (e : Effect) (s : State) : KeepsWf s (storeTenant lost e s) := by
  unfold storeTenant; (repeat' split) <;> first | exact KeepsWf.rfl' | exact placeRecord_keepsWf _ _ _ _ _
@[simp] theorem rootCopyWritten_keepsWf (lost : Bool) (s : State) : KeepsWf s (rootCopyWritten lost s) := by
  unfold rootCopyWritten; split; exact KeepsWf.rfl'; exact placeRecord_keepsWf _ _ _ _ _
@[simp] theorem workDone_keepsWf (w : NvWork) (s : State) : KeepsWf s (workDone w s) := by
  cases w <;> simp only [workDone] <;> (repeat' split) <;> simp +contextual [KeepsWf, KeepsForm]
@[simp] theorem workFailed_keepsWf (w : NvWork) (s : State) : KeepsWf s (workFailed w s) := by
  cases w <;> simp only [workFailed] <;> (repeat' split) <;> simp +contextual [KeepsWf, KeepsForm]
@[simp] theorem applyEffect_keepsWf (p : PealSlot) (e : Effect) (s : State) : KeepsWfButMode s (applyEffect p e s) := by
  have k (n : Nat) (s : State) := foldl_keeps (fun s i => tollWrite (some p) (.tollImage (some p) i) s)
    (fun s a => tollWrite_keeps _ _ s) (List.range n) s
  cases e <;> simp only [applyEffect] <;> (repeat' split) <;> first
  | (simp +contextual [KeepsWfButMode, KeepsControl, KeepsForm]; done)
  | (simp +contextual [KeepsWfButMode, KeepsControl, KeepsForm, (k _ _).1, (k _ _).2.1, (k _ _).2.2.1, (k _ _).2.2.2.2.1,
      (k _ _).2.2.2.2.2]; done)
  | (rename_i h; have k := keeps_of_eq h (freshBytes_keeps _ _); simp +contextual [KeepsWfButMode, KeepsControl, KeepsForm, k])
@[simp] theorem commitPeal_keepsWf (p : PealSlot) (seq : Option Nat) (s : State) : KeepsWfButMode s (commitPeal p seq s) := by
  unfold commitPeal; dsimp only; (repeat' split) <;> simp +contextual [KeepsWfButMode, KeepsControl, KeepsForm]
@[simp] theorem commitGroup_keepsWf (g : List PealSlot) (seq : BitVec 64) (s : State) :
    KeepsWfButMode s (commitGroup g seq s) := by
  unfold commitGroup
  generalize List.range g.length = l
  induction l generalizing s with
  | nil => exact KeepsWf.rfl'.butMode
  | cons i l ih =>
    refine KeepsWfButMode.trans ?_ (ih _)
    dsimp only; split; exact commitPeal_keepsWf _ _ _; exact KeepsWf.rfl'.butMode
@[simp] theorem groupWritten_keepsWf (r : LogRec) (s : State) : KeepsWfButMode s (groupWritten r s) := by
  unfold groupWritten; dsimp only; simp +contextual [KeepsWfButMode, KeepsControl, KeepsForm]
@[simp] theorem recordWritten_keepsWf (p : PealSlot) (s : State) : KeepsWfButMode s (recordWritten p s) := by
  unfold recordWritten; (repeat' split) <;> simp +contextual [KeepsWfButMode, KeepsControl, KeepsForm]
@[simp] theorem cutOff_keepsWf (b : Bool) (c : NvCmd) (s : State) : KeepsWf s (cutOff b s c) :=
  (State.mRng_keeps _ s).wf.trans (State.mNv_keepsWf _ _ fun w => tearWrite_wf w)
@[simp] theorem freePeal_keepsButMode (p : PealSlot) (q : Peal) (spend : Nat) (s : State) : KeepsButMode s
    (freePeal p q spend s) := by
  simp [KeepsButMode, freePeal]
@[simp] theorem toRest_keepsButMode (s : State) : KeepsButMode s (toRest s) := by
  unfold toRest; (repeat' split) <;> simp_all [KeepsButMode]
@[simp] theorem toReady_keepsButMode (s : State) : KeepsButMode s (toReady s) := by
  unfold toReady; (repeat' split) <;> simp_all [KeepsButMode]
@[simp] theorem dropLink_keepsButMode (s : State) : KeepsButMode s (dropLink s) := by
  simp [KeepsButMode, dropLink]
@[simp] theorem pcieReset_keepsButMode (s : State) : KeepsButMode s (pcieReset s) := by
  simp [KeepsButMode, pcieReset]
@[simp] theorem lockdownMode_keepsButMode (s : State) : KeepsButMode s (lockdownMode s) := by
  simp [KeepsButMode, lockdownMode]
@[simp] theorem lockdownMode_mode (s : State) : (lockdownMode s).mode = .lockdown := by
  simp [lockdownMode]
@[simp] theorem enterLockdown_keepsButMode (s : State) : KeepsButMode s (enterLockdown s) := by
  simp [KeepsButMode, enterLockdown]
@[simp] theorem latchLockdown_keepsStore (cause : BitVec 5) (resp : BitVec 2) (s : State) : KeepsStore s
    (latchLockdown cause resp s) := by
  unfold latchLockdown; dsimp only
  split
  · split <;> simp [KeepsStore]
  · split <;> simp [KeepsStore]
@[simp] theorem stepEpoch_keepsButFuses (s : State) : KeepsButFuses s (stepEpoch s) := by
  simp [KeepsButFuses, stepEpoch]
@[simp] theorem gong_keepsButFuses (s : State) : KeepsButFuses s (gong s) := by
  unfold gong; dsimp only; split <;> simp [KeepsButFuses]
@[simp] theorem judgeSurge_keepsButMode (waited : Bool) (s : State) : KeepsButMode s (judgeSurge waited s) := by
  unfold judgeSurge; dsimp only; (repeat' split) <;> simp [KeepsButMode]
@[simp] theorem sourceLost_keepsButMode (k : BitVec 2) (st : SrcState) (s : State) : KeepsButMode s (sourceLost k
    st s) := by
  unfold sourceLost; dsimp only; (repeat' split) <;> simp [KeepsButMode]
@[simp] theorem confirmFw_keepsWf (s : State) : KeepsWf s (confirmFw s) :=
  (foldl_keepsWf _ (fun s _ => spreadUp_keepsWf _ s) _ s).trans (State.mBoot_keeps _ _).wf
@[simp] theorem bootEnd_keepsWf (r : BootReport) (slot : Option Bool) (s : State) : KeepsWfButMode s (bootEnd r slot s) := by
  unfold bootEnd; dsimp only; (repeat' split) <;> simp +contextual [KeepsWfButMode, KeepsControl, KeepsForm]
@[simp] theorem bootGoesOn_keepsWf (s : State) : KeepsWfButMode s (bootGoesOn s) := by
  have h : ∀ t, Keeps s t → KeepsWfButMode s (match t.boot.awaitNoise with
      | some (r, slot) => if t.tmp.lock.isSome then issueDkcs t else bootEnd r slot (issueDkcs t)
      | none => issueDkcs t) := fun t k => by
    have k1 := (k.trans (issueDkcs_keeps t)).wf.butMode
    (repeat' split) <;> first | exact k1 | exact k1.trans (bootEnd_keepsWf _ _ _)
  unfold bootGoesOn; dsimp only
  refine h _ ?_
  (repeat' split) <;> simp [Keeps]
@[simp] theorem startWindow_keepsWf (k : BitVec 2) (pass : Bool) (s : State) : KeepsWfButMode s (startWindow k pass s) := by
  unfold startWindow; dsimp only; (repeat' split) <;> simp +contextual [KeepsWfButMode, KeepsControl, KeepsForm]
@[simp] theorem healthyWindow_keepsWf (k : BitVec 2) (pass : Bool) (w : BitVec 1024) (s : State) :
    KeepsWfButMode s (healthyWindow k pass w s) := by
  unfold healthyWindow; dsimp only; (repeat' split) <;> simp +contextual [KeepsWfButMode, KeepsControl, KeepsForm]
@[simp] theorem activated_keepsWf (s : State) : KeepsWfButMode s (activated s) := by
  unfold activated; dsimp only; (repeat' split) <;> simp +contextual [KeepsWfButMode, KeepsControl, KeepsForm]
@[simp] theorem noteSensor_keeps (st : BitVec 2) (s : State) (n : Nat) : Keeps s (noteSensor st s n) := by
  simp [Keeps, noteSensor]
@[simp] theorem respond_keepsLittle (ns : List Nat) (s : State) : KeepsLittle s (respond ns s) := by
  unfold respond; dsimp only; (repeat' split) <;> simp [KeepsLittle]
@[simp] theorem snareEvent_keepsLittle (st : BitVec 2) (ids : BitVec 22) (s : State) : KeepsLittle s (snareEvent st
    ids s) := by
  unfold snareEvent; dsimp only; split
  · exact Keeps.rfl'.little
  · exact (foldl_keeps _ (fun s a => noteSensor_keeps st s a) _ _).little.trans (respond_keepsLittle _ _)
@[simp] theorem selfCheck_keepsLittle (fails : BitVec 22) (s : State) : KeepsLittle s (selfCheck fails s) := by
  exact (passCheck_keeps _ _).little.trans (snareEvent_keepsLittle _ _ _)
@[simp] theorem integrityFault_keepsStore (line : Nat) (owner : LineOwner) (s : State) : KeepsStore s
    (integrityFault line owner s) := by
  unfold integrityFault; dsimp only; (repeat' split) <;> simp [KeepsStore]
@[simp] theorem lockdownUp_keepsButMode (s : State) : KeepsButMode s (lockdownUp s) := by
  simp [KeepsButMode, lockdownUp]
@[simp] theorem clearVolatile_keepsButMode (s : State) : KeepsButMode s (clearVolatile s) := by
  simp [KeepsButMode, clearVolatile]
@[simp] theorem restoreTenant_keepsWf (t : Fn) (old : Tenant) (kept : TenantStore) (destroyed : Bool) (s : State) :
    KeepsWf s (restoreTenant t old kept destroyed s) := by
  have h (l : List Host.Cell) (m : List Host.Cell) (w : arrayWf m = true) :
      arrayWf (l.foldl (fun m c => if smGet 0 m c.1 = 0 then smSet 0 c.1 c.2 m else m) m) = true := by
    induction l generalizing m with
    | nil => exact w
    | cons c l ih => refine ih _ ?_; dsimp only; split; exact smWf_set 0 w; exact w
  have k := (State.mTenant_keeps t (fun x => { x with
    state := old.state, tskAlg := old.tskAlg, tsk := old.tsk, tskGen := old.tskGen, kek := old.kek,
    pendingKek := old.pendingKek, storageGen := old.storageGen }) s).wf.trans (State.mNv_keepsWf (fun n => { n with
    array := kept.bytes.foldl (fun m c => if smGet 0 m c.1 = 0 then smSet 0 c.1 c.2 m else m) n.array }) _ fun w => h _ _ w)
  unfold restoreTenant; dsimp only; split
  · exact k.trans (State.mKs_keeps _ _).wf
  · exact k
@[simp] theorem Unstored.restore_keepsWf (u : Unstored) (s : State) : KeepsWf s (u.restore s) := by
  cases u <;> simp only [Unstored.restore] <;> first
  | exact restoreTenant_keepsWf _ _ _ _ _
  | exact Keeps.wf (by simp [Keeps])
@[simp] theorem restoreUnstored_keepsWf (s : State) : KeepsWf s (restoreUnstored s) :=
  (foldr_keepsWf _ (fun s u => u.restore_keepsWf s) _ s).trans (State.mNv_keepsWf _ _ id)
@[simp] theorem interrupted_keepsWf (s : State) : KeepsWf s (interrupted s) := by
  unfold interrupted; dsimp only
  refine KeepsWf.trans ?_ (foldr_keepsWf _ (fun s c => ?_) _ _)
  · refine KeepsWf.trans ?_ (foldl_keeps _ (fun s c => keepWhole_keeps s c) _ _).wf
    exact (foldl_keepsWf _ (fun s c => cutOff_keepsWf true c s) _ _).trans (foldl_keepsWf _ (fun s c => cutOff_keepsWf false c s) _ _)
  · split <;> first | exact Unstored.restore_keepsWf _ _ | exact KeepsWf.rfl'
@[simp] theorem clearVolatile_mode (s : State) : (clearVolatile s).mode = s.mode := by simp [clearVolatile]
@[simp] theorem vtimeRestart_keeps (s : State) : (vtimeRestart s).pending = s.pending ∧ (vtimeRestart s).fuses =
    s.fuses ∧
    (vtimeRestart s).mode = s.mode ∧ (vtimeRestart s).tmp.lock = s.tmp.lock ∧ (vtimeRestart s).nv.array = s.nv.array := by
  unfold vtimeRestart
  exact ⟨State.mClk_pending _ _, State.mClk_fuses _ _, State.mClk_mode _ _, congrArg Tamper.lock (State.mClk_tmp _ _),
    congrArg NvStore.array (State.mClk_nv _ _)⟩
@[simp] theorem lostRecord_keepsWf (f : State → State) (s : State) (h : ∀ s, KeepsWf s (f s)) : KeepsWf s (lostRecord f s) :=
  ((State.mNv_keepsWf _ s id).trans (h _)).trans (raiseDev_keeps _ _).wf
@[simp] theorem loseRoleMap_keepsWf (s : State) : KeepsWf s (loseRoleMap s) :=
  lostRecord_keepsWf _ s fun s => (State.mPair_keeps _ s).wf
@[simp] theorem damagedRecords_keepsWf (r : BootReport) (s : State) : KeepsWf s (damagedRecords r s) :=
  (whenDo_keepsWf _ _ _ fun s => lostRecord_keepsWf _ s fun s => (State.mHealth_keeps _ s).wf).trans
    (whenDo_keepsWf _ _ _ fun s => lostRecord_keepsWf _ s fun s => (State.mBoot_keeps _ s).wf)
@[simp] theorem spoilRoot_keepsWf (bad : BitVec 2) (s : State) : KeepsWf s (spoilRoot bad s) := by
  have h (hit : Bool) (a : Nat) (m : List Host.Cell) (w : arrayWf m = true) :
      arrayWf (if hit && le (storeGet m a 2) 0 2 ≠ 0 then spoilWord a m else m) = true := by
    split; exact spoilWord_wf w; exact w
  refine (State.mNv_keepsWf _ s fun w => ?_).trans (whenDo_keepsWf _ _ _ fun s => lostRecord_keepsWf _ s fun _ => KeepsWf.rfl')
  exact h _ _ _ (h _ _ _ w)
@[simp] theorem eraseDamaged_keepsWf (s : State) (t : Fn) : KeepsWf s (eraseDamaged s t) := by
  unfold eraseDamaged; dsimp only
  refine KeepsWf.trans ?_ (State.mNv_keepsWf _ _ id)
  refine KeepsWf.trans ?_ ((State.mTenant_keeps _ _ _).trans (State.mKs_keeps _ _)).wf
  refine KeepsWf.trans ?_ (destroyTenant_keepsWf _ _)
  exact (State.mNv_keepsWf _ s id).trans (raiseDev_keeps _ _).wf
@[simp] theorem bootNumber_keepsWf (s : State) : KeepsWf s (bootNumber s) :=
  (spreadUp_keepsWf _ s).trans (State.mKs_keeps _ _).wf
@[simp] theorem journalStep_keepsWf (held : Bool) (r : BootReport) (s : State) : KeepsWf s (journalStep held r s) := by
  unfold journalStep; dsimp only; split
  · exact ((whenDo_keeps _ _ _ fun s => nvQueue_keeps _ _ s).trans (carry_keeps _ _ _)).wf
  · (repeat' split) <;> simp +contextual [KeepsWf, KeepsForm]
/-- The steps of the boot sequence before the clusters' BIST keep what `KeepsWf` says (Table 16-2, steps 3 to 9). -/
theorem bootRecords_keepsWf (held latched : Bool) (r : BootReport) (s : State) :
    KeepsWf s (loadWindows (loadCells (loadRset (journalStep held r (tollStep held (rootStep held latched (spoilRoot r.rootBad
      (identUp (bootEntropy latched r (bistBlocks r (damagedRecords r s)))))))))))  := by
  refine KeepsWf.trans ?_ ((loadRset_keeps _).trans ((loadCells_keeps _).trans (loadWindows_keeps _))).wf
  refine KeepsWf.trans ?_ (journalStep_keepsWf _ _ _)
  refine KeepsWf.trans ?_ ((rootStep_keeps _ _ _).trans (tollStep_keeps _ _)).wf
  refine KeepsWf.trans ?_ (spoilRoot_keepsWf _ _)
  refine (damagedRecords_keepsWf r s).trans (Keeps.wf ?_)
  simp [Keeps]
/-- `KeepsStore` with the array's form alone. -/
abbrev KeepsStoreWf (s t : State) : Prop := t.pending = s.pending ∧ t.clk = s.clk ∧ t.fuses = s.fuses ∧ KeepsForm s t
theorem KeepsWf.storeWf {s t : State} (h : KeepsWf s t) : KeepsStoreWf s t := ⟨h.1, h.2.1, h.2.2.1, h.2.2.2.2.2⟩
theorem KeepsStoreWf.trans {s t u : State} (h : KeepsStoreWf s t) (k : KeepsStoreWf t u) : KeepsStoreWf s u :=
  ⟨k.1.trans h.1, k.2.1.trans h.2.1, k.2.2.1.trans h.2.2.1, k.2.2.2 ∘ h.2.2.2⟩
@[simp] theorem bootRest_keeps (r : BootReport) (s : State) : KeepsStoreWf s (bootRest r s) := by
  have h := bootRecords_keepsWf (s.pwr.aoHeld && r.vaultCheck) s.tmp.lock.isSome r s
  unfold bootRest; dsimp only
  generalize loadWindows _ = x at h ⊢
  have h2 := h.trans (whenDo_keepsWf r.roleMapDamaged loseRoleMap x loseRoleMap_keepsWf)
  generalize whenDo r.roleMapDamaged loseRoleMap x = y at h2 ⊢
  have h3 := h2.trans (foldl_keepsWf eraseDamaged (fun s t => eraseDamaged_keepsWf s t)
    (r.damaged ++ ((List.range 256).map (BitVec.ofNat 8 ·)).filter (recordBroken x)).eraseDups y)
  generalize List.foldl eraseDamaged y _ = z at h3 ⊢
  refine h3.storeWf.trans ?_
  (repeat' split) <;> simp +contextual [KeepsStoreWf, KeepsForm]
@[simp] theorem wipeStore_keeps (s : State) : Keeps s (wipeStore s) := by
  simp [Keeps, wipeStore]
@[simp] theorem wipeScope_keeps (scope : BitVec 8) (s : State) : (wipeScope scope s).pending = s.pending ∧
    (wipeScope scope s).clk = s.clk ∧ (wipeScope scope s).mode = s.mode ∧
    (wipeScope scope s).tmp.lock = s.tmp.lock ∧ (wipeScope scope s).nv.array = s.nv.array := by
  unfold wipeScope; dsimp only; split <;> simp
@[simp] theorem wipeFor_keeps (e : LcEntry) (s : State) : (wipeFor e s).pending = s.pending ∧
    (wipeFor e s).clk = s.clk ∧ (wipeFor e s).mode = s.mode ∧ (wipeFor e s).tmp.lock = s.tmp.lock ∧
    (wipeFor e s).nv.array = s.nv.array := by
  unfold wipeFor; split <;> simp
@[simp] theorem scrapEnd_keepsButFuses (s : State) : KeepsButFuses s (scrapEnd s) := by
  unfold scrapEnd; dsimp only; split <;> simp [KeepsButFuses]
@[simp] theorem completeTransition_keeps (t : LcState) (s : State) :
    (completeTransition t s).pending = s.pending ∧ (completeTransition t s).nv.array = s.nv.array := by
  unfold completeTransition; dsimp only; (repeat' split) <;> simp
@[simp] theorem fusesProgrammed_keeps (e : LcEntry) (s : State) :
    (fusesProgrammed e s).pending = s.pending ∧ (fusesProgrammed e s).nv.array = s.nv.array := by
  unfold fusesProgrammed; dsimp only; split <;> simp
@[simp] theorem lcWritten_keeps (e : LcEntry) (s : State) :
    (lcWritten e s).pending = s.pending ∧ (lcWritten e s).nv.array = s.nv.array := by
  unfold lcWritten; dsimp only; (repeat' split) <;> simp
@[simp] theorem transitionGoesOn_keeps (s : State) : KeepsStoreWf s (transitionGoesOn s) := by
  unfold transitionGoesOn; (repeat' split) <;> simp +contextual [KeepsStoreWf, KeepsForm]
/-- The queue is kept, and the array's form. -/
abbrev KeepsQueue (s t : State) : Prop := t.pending = s.pending ∧ KeepsForm s t
theorem KeepsQueue.trans {s t u : State} (h : KeepsQueue s t) (k : KeepsQueue t u) : KeepsQueue s u :=
  ⟨k.1.trans h.1, k.2 ∘ h.2⟩
theorem KeepsWf.queue {s t : State} (h : KeepsWf s t) : KeepsQueue s t := ⟨h.1, h.2.2.2.2.2⟩
@[simp] theorem afterStore_keeps (w : NvWork) (s : State) : KeepsQueue s (afterStore w s) := by
  unfold afterStore; split <;> simp +contextual [KeepsQueue, KeepsForm]
@[simp] theorem resumeTransition_keeps (r : BootReport) (s : State) : KeepsQueue s (resumeTransition r s) := by
  unfold resumeTransition; dsimp only; (repeat' split) <;> simp +contextual [KeepsQueue, KeepsForm]
@[simp] theorem deviceReset_keeps (c : BitVec 4) (r : BootReport) (s : State) : KeepsQueue s (deviceReset c r s) := by
  have go (x : State) (h : KeepsQueue s x) : KeepsQueue s (if lcPending x then resumeTransition r x else bootRest r x) := by
    split
    · exact h.trans (resumeTransition_keeps _ _)
    · exact h.trans ⟨(bootRest_keeps _ _).1, (bootRest_keeps _ _).2.2.2⟩
  unfold deviceReset; dsimp only
  refine KeepsQueue.trans (go _ ?_) (State.mPwr_keeps _ _).wf.queue
  have h0 : KeepsQueue s (clearVolatile (restoreUnstored (interrupted { s with mode := .off }))) := by
    simp +contextual [KeepsQueue, KeepsForm]
  generalize clearVolatile (restoreUnstored (interrupted { s with mode := .off })) = x at h0 ⊢
  have h1 : KeepsQueue s (bootNumber (if s.pwr.aoHeld then x.mBoot fun b => { b with cause := c, quick := c == 1 } else
      vtimeRestart (x.mBoot fun b => { b with cause := c, quick := c == 1 }))) := by
    refine h0.trans (KeepsQueue.trans ?_ (bootNumber_keepsWf _).queue)
    split <;> simp [KeepsQueue, KeepsForm]
  generalize bootNumber _ = y at h1 ⊢
  refine h1.trans ?_
  (repeat' split) <;> simp [KeepsQueue, KeepsForm]
/-- The store keeps its canonical form as a command of it ends. -/
theorem execNvCommandComplete_keeps (res : NvResult) (s t : State) (h : execNvCommandComplete res s = .next t) :
    KeepsQueue s t := by
  have k (l : List Nat) (s : State) := foldl_keeps (fun s p => remap p s) (fun s p => remap_keeps p s) l s
  unfold execNvCommandComplete at h
  injection h with h; subst h
  split
  · exact KeepsWf.rfl'.queue
  · dsimp only; split
    · exact KeepsWf.rfl'.queue
    · refine KeepsQueue.trans ?_ (afterStore_keeps _ _)
      refine KeepsQueue.trans ?_ (nextCommand_keeps _).wf.queue
      split
      · simp +contextual [KeepsQueue, KeepsForm]
      · refine KeepsQueue.trans ?_ (workDone_keepsWf _ _).queue
        refine KeepsQueue.trans ?_ (k _ _).wf.queue
        simp +contextual [KeepsQueue, KeepsForm]

end Sys2Proof.Machine
end

