-- ==== Sys2Proof/Laws/Crypto.lean ====
section
/-! SUPPORT. The small laws of byte strings, and of Crypto.lean: lengths, and that opening undoes sealing (GCM), decryption
encryption (a block, CBC) and unwrapping wrapping (an X9.143 block); and of the multiples of a point. -/
namespace Sys2Proof.Machine
open Sys2Proof

@[simp] theorem natLe_length (k n : Nat) : (natLe k n).length = k := by
  induction k generalizing n with
  | zero => rfl
  | succ k ih => simp [natLe, ih]

@[simp] theorem natBe_length (k n : Nat) : (natBe k n).length = k := by simp [natBe]

@[simp] theorem zeros_length (k : Nat) : (zeros k).length = k := by simp [zeros]

@[simp] theorem aesEnc_length (k x : Bytes) : (aesEnc k x).length = 16 := by simp [aesEnc]

@[simp] theorem xorBytes_length (a b : Bytes) : (xorBytes a b).length = min a.length b.length := by simp [xorBytes]

/-- A mask cancels itself. -/
theorem xorBytes_cancel (a b : Bytes) (h : a.length ≤ b.length) : xorBytes (xorBytes a b) b = a := by
  induction a generalizing b with
  | nil => rfl
  | cons x a ih =>
    cases b with
    | nil => simp at h
    | cons y b =>
      have := ih b (by simpa using h)
      simp_all [xorBytes]

theorem gctr_length (k nonce : Bytes) (f c : Nat) (m : Bytes) (h : m.length ≤ f) :
    (gctr k nonce c (pieces 16 f m)).length = m.length := by
  induction f generalizing c m with
  | zero => simp [pieces, gctr]; omega
  | succ f ih =>
    cases m with
    | nil => rfl
    | cons x m =>
      have := ih (c + 1) ((x :: m).drop 16) (by simp at h ⊢; omega)
      simp only [pieces, gctr, List.isEmpty_cons, Bool.false_eq_true, if_false, List.length_append, xorBytes_length,
        aesEnc_length, List.length_take, this, List.length_drop]
      omega

/-- GCM's counter mode is its own inverse. -/
theorem gctr_gctr (k nonce : Bytes) (f g c : Nat) (m : Bytes) (h : m.length ≤ f) (hg : m.length ≤ g) :
    gctr k nonce c (pieces 16 g (gctr k nonce c (pieces 16 f m))) = m := by
  induction f generalizing c m g with
  | zero => cases m with
    | nil => cases g <;> rfl
    | cons x m => simp at h
  | succ f ih =>
    cases m with
    | nil => cases g <;> rfl
    | cons x m =>
      obtain _ | g := g
      · simp at hg
      have hl := gctr_length k nonce f (c + 1) ((x :: m).drop 16) (by simp at h ⊢; omega)
      have hi := ih g (c + 1) ((x :: m).drop 16) (by simp at h ⊢; omega) (by simp at hg ⊢; omega)
      have hA : (xorBytes ((x :: m).take 16) (aesEnc k (nonce ++ natBe 4 c))).length = min 16 (m.length + 1) := by simp; omega
      have hp : pieces 16 (f + 1) (x :: m) = (x :: m).take 16 :: pieces 16 f ((x :: m).drop 16) := rfl
      rw [hp, gctr]
      generalize hA' : xorBytes ((x :: m).take 16) (aesEnc k (nonce ++ natBe 4 c)) = A at hA ⊢
      generalize hR : gctr k nonce (c + 1) (pieces 16 f ((x :: m).drop 16)) = R at hl hi ⊢
      simp only [List.length_drop, List.length_cons] at hl
      have hne : (A ++ R).isEmpty = false := by
        cases A with
        | nil => simp at hA; omega
        | cons => rfl
      have h1 : (A ++ R).take 16 = A ∧ (A ++ R).drop 16 = R := by
        by_cases hm : 16 ≤ m.length + 1
        · have : A.length = 16 := by omega
          exact ⟨by simp [← this], by simp [← this]⟩
        · have : R = [] := List.eq_nil_of_length_eq_zero (by omega)
          subst this
          exact ⟨by rw [List.append_nil, List.take_of_length_le (by omega)], by simp; omega⟩
      have hx : xorBytes A (aesEnc k (nonce ++ natBe 4 c)) = (x :: m).take 16 := by
        rw [← hA']; exact xorBytes_cancel _ _ (by simp)
      simp only [pieces, hne, h1.1, h1.2, gctr, hx, hi, Bool.false_eq_true, if_false, List.take_append_drop]

@[simp] theorem gcmCrypt_length (k nonce m : Bytes) : (gcmCrypt k nonce m).length = m.length :=
  gctr_length k nonce m.length 2 m (Nat.le_refl _)

theorem gcmCrypt_gcmCrypt (k nonce m : Bytes) : gcmCrypt k nonce (gcmCrypt k nonce m) = m := by
  have := gcmCrypt_length k nonce m
  exact gctr_gctr k nonce m.length (gcmCrypt k nonce m).length 2 m (Nat.le_refl _) (by omega)

@[simp] theorem gcmTag_length (k nonce aad ct : Bytes) : (gcmTag k nonce aad ct 16).length = 16 := by
  simp [gcmTag]

theorem aeadEnc_length (k nonce aad m : Bytes) : (aeadEnc false 16 k nonce aad m).length = m.length + 16 := by
  simp [aeadEnc]

/-- Opening undoes sealing, and the tag verifies. -/
theorem aeadDec_aeadEnc (k nonce aad m : Bytes) :
    aeadDec false 16 k nonce aad (aeadEnc false 16 k nonce aad m) = (m, true) := by
  simp [aeadDec, aeadEnc, gcmCrypt_gcmCrypt]

/-- A big-endian string's value is the number it was made of, as far as its bytes hold it. -/
theorem beNat_natBe (k n : Nat) : beNat (natBe k n) = n % 256 ^ k := by
  induction k generalizing n with
  | zero => simp [natBe, natLe, beNat, Nat.mod_one]
  | succ k ih =>
    have h := ih (n / 256)
    simp only [natBe, natLe, List.reverse_cons, beNat, List.foldl_append, List.foldl_cons, List.foldl_nil,
      BitVec.toNat_ofNat] at h ⊢
    have e : n % 256 ^ (k + 1) = n % 256 + 256 * (n / 256 % 256 ^ k) := by rw [Nat.pow_succ', Nat.mod_mul]
    rw [h, e]
    omega

/-- A string is that of its value. -/
theorem natBe_beNat (bs : Bytes) : natBe bs.length (beNat bs) = bs := by
  induction bs using List.reverseRecOn with
  | nil => rfl
  | append_singleton bs b ih =>
    have h : beNat (bs ++ [b]) = 256 * beNat bs + b.toNat := by simp [beNat]
    rw [List.length_append, List.length_singleton, h, natBe, natLe, List.reverse_cons,
      show (256 * beNat bs + b.toNat) / 256 = beNat bs by omega]
    rw [natBe] at ih
    rw [ih]
    congr 2
    apply BitVec.eq_of_toNat_eq
    rw [BitVec.toNat_ofNat]
    omega

theorem beNat_lt (bs : Bytes) : beNat bs < 256 ^ bs.length := by
  have h := congrArg beNat (natBe_beNat bs)
  rw [beNat_natBe] at h
  rw [← h]
  exact Nat.mod_lt _ (Nat.pow_pos (by decide))

/-- Block ciphers are permutations: each direction undoes the other on a whole block. -/
theorem aesDec_aesEnc (k x : Bytes) (h : x.length = 16) : aesDec k (aesEnc k x) = x := by
  have hx := beNat_lt x
  rw [h] at hx
  rw [aesDec, aesEnc, beNat_natBe, Nat.mod_eq_of_lt (by have := BitVec.isLt (Config.aes k (BitVec.ofNat 128 (beNat x))); omega),
    BitVec.ofNat_toNat, BitVec.setWidth_eq, Equiv.symm_apply_apply, BitVec.toNat_ofNat, Nat.mod_eq_of_lt (by omega), ← h,
    natBe_beNat]
theorem desDec_desEnc (k x : Bytes) (h : x.length = 8) : desDec k (desEnc k x) = x := by
  have hx := beNat_lt x
  rw [h] at hx
  rw [desDec, desEnc, beNat_natBe, Nat.mod_eq_of_lt (by
      have := BitVec.isLt (Config.des (BitVec.ofNat 64 (beNat k)) (BitVec.ofNat 64 (beNat x))); omega),
    BitVec.ofNat_toNat, BitVec.setWidth_eq, Equiv.symm_apply_apply, BitVec.toNat_ofNat, Nat.mod_eq_of_lt (by omega), ← h,
    natBe_beNat]
theorem desEnc_desDec (k x : Bytes) (h : x.length = 8) : desEnc k (desDec k x) = x := by
  have hx := beNat_lt x
  rw [h] at hx
  rw [desDec, desEnc, beNat_natBe, Nat.mod_eq_of_lt (by
      have := BitVec.isLt ((Config.des (BitVec.ofNat 64 (beNat k))).symm (BitVec.ofNat 64 (beNat x))); omega),
    BitVec.ofNat_toNat, BitVec.setWidth_eq, Equiv.apply_symm_apply, BitVec.toNat_ofNat, Nat.mod_eq_of_lt (by omega), ← h,
    natBe_beNat]
@[simp] theorem desEnc_length (k x : Bytes) : (desEnc k x).length = 8 := by simp [desEnc]
@[simp] theorem desDec_length (k x : Bytes) : (desDec k x).length = 8 := by simp [desDec]

@[simp] theorem blkEnc_length (tdes : Bool) (k x : Bytes) : (blkEnc tdes k x).length = blkLen tdes := by
  cases tdes <;> simp [blkEnc, blkLen, tdesEnc]
theorem blkDec_blkEnc (tdes : Bool) (k x : Bytes) (h : x.length = blkLen tdes) : blkDec tdes k (blkEnc tdes k x) = x := by
  cases tdes
  · exact aesDec_aesEnc k x h
  · simp only [blkDec, blkEnc, if_true, tdesDec, tdesEnc]
    rw [desDec_desEnc _ _ (by simp), desEnc_desDec _ _ (by simp), desDec_desEnc _ _ h]

/-- CBC decryption undoes CBC encryption of whole blocks. -/
theorem cbcDec_cbcEnc (tdes : Bool) (k iv : Bytes) (xs : List Bytes) (hi : iv.length = blkLen tdes)
    (h : ∀ x ∈ xs, x.length = blkLen tdes) :
    (cbcEnc tdes k iv xs).length = blkLen tdes * xs.length ∧
    ∀ f, xs.length ≤ f → cbcDec tdes k iv (pieces (blkLen tdes) f (cbcEnc tdes k iv xs)) = xs.flatten := by
  induction xs generalizing iv with
  | nil => exact ⟨rfl, fun f _ => by cases f <;> rfl⟩
  | cons x xs ih =>
    have hx := h x (by simp)
    have hc := blkEnc_length tdes k (xorBytes x iv)
    obtain ⟨h1, h2⟩ := ih _ hc fun y hy => h y (by simp [hy])
    refine ⟨by simp only [cbcEnc, List.length_append, hc, h1, List.length_cons, Nat.mul_add]; omega, fun f hf => ?_⟩
    obtain _ | f := f
    · simp at hf
    have hne : (blkEnc tdes k (xorBytes x iv) ++ cbcEnc tdes k (blkEnc tdes k (xorBytes x iv)) xs).isEmpty = false := by
      cases hb : blkEnc tdes k (xorBytes x iv) with
      | nil => rw [hb] at hc; cases tdes <;> simp [blkLen] at hc
      | cons => rfl
    simp only [cbcEnc, pieces, hne, Bool.false_eq_true, if_false, List.take_left' hc, List.drop_left' hc, cbcDec]
    rw [h2 f (by simpa using hf), blkDec_blkEnc _ _ _ (by simp [hx, hi]), xorBytes_cancel _ _ (by omega)]
    rfl

/-- Whole blocks cut apart and put together. -/
theorem pieces_flatten (n f : Nat) (m : Bytes) (h : m.length ≤ n * f) : (pieces n f m).flatten = m := by
  induction f generalizing m with
  | zero => simp at h; simp [pieces, h]
  | succ f ih =>
    cases m with
    | nil => rfl
    | cons x m =>
      simp only [pieces, List.isEmpty_cons, Bool.false_eq_true, if_false, List.flatten_cons]
      rw [ih _ (by simp only [List.length_drop, List.length_cons, Nat.mul_add] at h ⊢; omega), List.take_append_drop]
theorem pieces_whole (n : Nat) (f j : Nat) (m : Bytes) (h : m.length = n * j) :
    ∀ x ∈ pieces n f m, x.length = n := by
  induction f generalizing m j with
  | zero => simp [pieces]
  | succ f ih =>
    cases m with
    | nil => simp [pieces]
    | cons y m =>
      obtain _ | j := j
      · simp at h
      have hj : n ≤ (y :: m).length := by rw [h, Nat.mul_add]; omega
      intro x hx
      simp only [pieces, List.isEmpty_cons, Bool.false_eq_true, if_false, List.mem_cons] at hx
      rcases hx with rfl | hx
      · rw [List.length_take]; omega
      · exact ih j _ (by rw [List.length_drop, h, Nat.mul_add]; omega) x hx

@[simp] theorem cmac_length (tdes : Bool) (k m : Bytes) : (cmac tdes k m).length = blkLen tdes := by
  simp only [cmac, cbcMac, List.foldl_append, List.foldl_cons, List.foldl_nil, blkEnc_length]

/-- What is enciphered of whole blocks is as long as they, and decryption gives them back. -/
theorem cbc_whole (tdes : Bool) (k iv plain : Bytes) (j : Nat) (hi : iv.length = blkLen tdes)
    (hlen : plain.length = blkLen tdes * j) :
    (cbcEnc tdes k iv (blocksOf (blkLen tdes) plain)).length = plain.length ∧
    cbcDec tdes k iv (blocksOf (blkLen tdes) (cbcEnc tdes k iv (blocksOf (blkLen tdes) plain))) = plain := by
  have hn : 0 < blkLen tdes := by cases tdes <;> decide
  obtain ⟨c1, c2⟩ := cbcDec_cbcEnc tdes k iv (blocksOf (blkLen tdes) plain) hi (pieces_whole _ _ _ _ hlen)
  have hf : (blocksOf (blkLen tdes) plain).flatten = plain := pieces_flatten _ _ _ (Nat.le_mul_of_pos_left _ hn)
  have hq : blkLen tdes * (blocksOf (blkLen tdes) plain).length = plain.length := by
    rw [← congrArg List.length hf, List.length_flatten, List.eq_replicate_of_mem (l := (blocksOf _ plain).map List.length)
      (a := blkLen tdes) (by
        intro b hb
        obtain ⟨x, hx, rfl⟩ := List.mem_map.1 hb
        exact pieces_whole _ _ _ _ hlen x hx)]
    simp [Nat.mul_comm]
  rw [hq] at c1
  exact ⟨c1, (c2 _ (by rw [c1, ← hq]; exact Nat.le_mul_of_pos_left _ hn)).trans hf⟩

theorem x9Wrap_length (d : Bool) (kbpk head plain : Bytes) (j : Nat) (h : plain.length = blkLen (!d) * j) :
    (x9Wrap d kbpk head plain).length = plain.length + blkLen (!d) := by
  rw [x9Wrap, List.length_append, (cbc_whole _ _ _ _ j (cmac_length _ _ _) h).1, cmac_length]

/-- A block wrapped under a protection key unwraps under it to its key. -/
theorem x9Unwrap_x9Wrap (d : Bool) (kbpk head key pad : Bytes) (j : Nat) (hk : key.length < 8192)
    (hl : 2 + key.length + pad.length = blkLen (!d) * (j + 1)) :
    x9Unwrap d kbpk head (x9Wrap d kbpk head (natBe 2 (8 * key.length) ++ key ++ pad)) = some key := by
  generalize hp : natBe 2 (8 * key.length) ++ key ++ pad = plain
  have hlen : plain.length = blkLen (!d) * (j + 1) := by rw [← hp]; simp only [List.length_append, natBe_length]; omega
  have hn : 0 < blkLen (!d) := by cases d <;> decide
  obtain ⟨c1, hd⟩ := cbc_whole (!d) (x9Key d kbpk 0) (cmac (!d) (x9Key d kbpk 1) (head ++ plain)) plain (j + 1)
    (cmac_length _ _ _) hlen
  have h2 : plain.take 2 = natBe 2 (8 * key.length) := by
    rw [← hp, List.append_assoc]; exact List.take_left' (natBe_length _ _)
  have h3 : plain.drop 2 = key ++ pad := by
    rw [← hp, List.append_assoc]; exact List.drop_left' (natBe_length _ _)
  have hb : beNat (plain.take 2) = 8 * key.length := by rw [h2, beNat_natBe]; exact Nat.mod_eq_of_lt (by omega)
  have hs : ∀ c m : Bytes, m.length = blkLen (!d) → (c ++ m).take ((c ++ m).length - blkLen (!d)) = c ∧
      (c ++ m).drop ((c ++ m).length - blkLen (!d)) = m := by
    intro c m h
    rw [List.length_append, h, Nat.add_sub_cancel]
    exact ⟨List.take_left' rfl, List.drop_left' rfl⟩
  obtain ⟨s1, s2⟩ := hs (cbcEnc (!d) (x9Key d kbpk 0) (cmac (!d) (x9Key d kbpk 1) (head ++ plain))
    (blocksOf (blkLen (!d)) plain)) _ (cmac_length (!d) (x9Key d kbpk 1) (head ++ plain))
  have he : (cbcEnc (!d) (x9Key d kbpk 0) (cmac (!d) (x9Key d kbpk 1) (head ++ plain))
      (blocksOf (blkLen (!d)) plain)).isEmpty = false := by
    rw [List.isEmpty_eq_false_iff, ← List.length_pos_iff, c1, hlen]
    exact Nat.mul_pos hn (by omega)
  simp only [x9Unwrap, x9Wrap, s1, s2, hd, hb, he, h3, c1, hlen, Nat.mul_mod_right, Nat.mul_div_cancel_left _ (show 0 < 8 by decide)]
  simp only [ne_eq, not_true_eq_false, decide_false, Bool.or_self, Bool.false_eq_true,
    Nat.not_lt.2 (show 2 + key.length ≤ blkLen (!d) * (j + 1) by omega), if_false, List.take_left' rfl]

/-- No multiple of anything by zero but infinity; a point is its own multiple by one. -/
theorem ecMul_zero (p a f : Nat) (x : EcPoint) : ecMul p a f 0 x = none := by
  induction f generalizing x with
  | zero => rfl
  | succ f ih => simp [ecMul, ih]
theorem ecMul_one (p a f : Nat) (x : EcPoint) : ecMul p a (f + 1) 1 x = x := by
  simp only [ecMul, Nat.reduceDiv, ecMul_zero, Nat.reduceMod, if_true]
  cases x <;> rfl

end Sys2Proof.Machine
end

