-- ==== Sys2Proof/WellFormed.lean ====
section
/-! DEFINITION. Which commands are well formed: every operand within the range the spec gives it. The meanings
are total on ill-formed commands too, which name events that cannot happen. -/
namespace Sys2Proof

/-- A symmetric engine number, SE0 to SE4 (Table 1-2). -/
def seOk (n : BitVec 3) : Bool := decide (n.toNat < 5)
/-- A public-key core number, PK0 to PK5 (Table 1-2). -/
def pkOk (n : BitVec 3) : Bool := decide (n.toNat < 6)
/-- An engine number of the kind named. -/
def engOk (isPk : Bool) (n : BitVec 3) : Bool := if isPk then pkOk n else seOk n
/-- A DRBG instance, 288 in all (R282). -/
def drbgOk (n : BitVec 9) : Bool := decide (n.toNat < 288)
/-- A scatter-gather list holds 1 to 256 entries (R76). -/
def sglOk (l : List (BitVec 128)) : Bool := decide (1 ≤ l.length) && decide (l.length ≤ 256)
/-- An input or an output is at most 16 MiB (Table 3-5). -/
def inputOk (bs : Bytes) : Bool := decide (bs.length ≤ 16777216)
/-- A register access is of 4 or 8 bytes and naturally aligned (R476). -/
def accessOk (off : BitVec 18) (size : BitVec 4) : Bool :=
  (size = 4 && off.toNat % 4 = 0) || (size = 8 && off.toNat % 8 = 0)
/-- A SHA-384 digest is 48 bytes. -/
def digestOk (bs : Bytes) : Bool := decide (bs.length = 48)
/-- The findings of a device reset cover the 16 clusters. -/
def BootReport.ok (r : BootReport) : Bool := decide (r.clusters.length = 16)
/-- A COMMIT carries at most four ledger charges (Table 14-5). -/
def CommitPayload.ok (p : CommitPayload) : Bool := decide (p.charges.length ≤ 4)
/-- A segment is at most 4,096 bytes (R245). -/
def TieResult.ok : TieResult → Bool
  | .first b _ => decide (b.length ≤ 4096)
  | .second b _ => decide (b.length ≤ 4096)
  | .neither => true

/-- Whether a command is well formed. -/
def Instr.wf : Instr → Bool
  | .submissionDoorbellWrite _ off _ _ => decide (off.toNat % 4 = 0)
  | .sglListRead _ _ entries => sglOk entries
  | .requestParse _ input => inputOk input
  | .tieBreakComplete _ _ res => res.ok
  | .rimshotSuspend _ _ se _ => seOk se
  | .rimshotResume _ se => seOk se
  | .pkPreemptPark _ _ pk _ => pkOk pk
  | .pkJobResume _ pk => pkOk pk
  | .jobAbandon _ isPk n => engOk isPk n
  | .releaseVerifySelfTestComplete _ pk _ => pkOk pk
  | .registerWrite _ off size _ => accessOk off size
  | .registerLowHalfRead _ off => decide (off.toNat % 8 = 0)
  | .refillBoundary _ _ temps _ => decide (temps.length ≤ 24)
  | .drbgScheduledReseed i => drbgOk i
  | .drbgReseedLimitReached i => drbgOk i
  | .powerOnReset r => r.ok
  | .warmReset r => r.ok
  | .recoveryReset r => r.ok
  | .commit _ p => p.ok
  | .resync _ ps _ => decide (ps.length ≤ 64) && ps.all CommitPayload.ok
  | .dualReq _ _ _ _ _ d => digestOk d
  | .dualResult _ _ _ _ d => digestOk d
  | .fwStageComplete img _ _ _ => match img with | some b => decide (b.length ≤ 0x400000) | none => true
  | .request d _ => decide (d.length ≤ 255)
  | .read n => decide (n.toNat ≤ 240)
  | .patrolScrub f => match f with
    | .integrity _ owner => match owner with | .table _ kind => decide (1 ≤ kind.toNat) && decide (kind.toNat ≤ 3) | _ => true
    | .passEnd => true
    | .corrected _ => true
  | .completionHeadWrite .. | .descriptorFetch .. | .descriptorFetchError .. | .admissionDecision ..
  | .tier3FetchComplete .. | .inputReadError .. | .counterCellWriteComplete .. | .commitPoint ..
  | .completionPost .. | .journalPostedSet .. | .outputWriteRefused .. | .completionWriteRefused ..
  | .chimeTimerExpire .. | .cqIrqEnableWrite .. | .journalGroupClose .. | .groupRecordComplete ..
  | .stewardRecordWriteComplete .. | .ringEnable .. | .ringDisable .. | .ringReset .. | .ringResetAbort ..
  | .ringSelectWrite .. | .ringParameterWrite .. | .functionLevelReset .. | .flrComplete ..
  | .recoveryListClear .. | .sriOfferWrite .. | .creditSnapshot .. | .blockAssignWrite .. | .setupLockSet ..
  | .vfVectorsWrite .. | .hktRegisterWrite .. | .eventFlagClear .. | .eventEnableWrite ..
  | .eventMessageInterval .. | .busMasterEnableWrite .. | .powerStateWrite .. | .linkEntersL0 ..
  | .linkLeavesL0 .. | .perstAssert .. | .perstRelease .. | .functionReady .. | .govCapWrite ..
  | .govWeightWrite .. | .govTenantShareWrite .. | .clusterWakeComplete .. | .clockGateTimer ..
  | .powerGateTimer .. | .clusterGatingComplete .. | .keyCacheReshare .. | .rootSecretReshare ..
  | .barrierDrainComplete .. | .noiseWindowComplete .. | .startupTestRetry .. | .maskingGeneratorRekey ..
  | .carriedSeedReplace .. | .tollDeltaRecordTimer .. | .journalModeBatteryTimer .. | .nvCommandComplete ..
  | .stewardCommandGapExpire .. | .vaultTimeCheckpoint .. | .pfwarnAssert .. | .pfwarnDeassert ..
  | .mainPowerGood .. | .mainPowerLost .. | .vaultEntry .. | .batteryPresent .. | .batteryAbsent ..
  | .stewardWatchdogExpire .. | .stewardRestartComplete .. | .spareSelfTest .. | .spareSelfTestComplete ..
  | .xeolinkTrainingComplete .. | .xeolinkBlockLockLoss .. | .xeolinkLaneRetrain .. | .hello ..
  | .xeolinkHandshakeComplete .. | .xeolinkHandshakeRetry .. | .xeolinkRekey .. | .heartbeatSend ..
  | .heartbeat .. | .hwm .. | .revoke .. | .role .. | .partnerSilenceTimeout .. | .peerFailNLow ..
  | .peerFailRoleTimer .. | .snareSensorOutOfRange .. | .snareSelfCheck .. | .tamperLogCopy ..
  | .throttleExpire .. | .fuseGroupProgramComplete .. | .wipeVerificationComplete ..
  | .intakeSessionExpire .. | .recoverToken .. | .eolAnalysisToken .. | .eolScrapToken ..
  | .replaceRecoveryKeyToken .. | .scrapOnlyPolicyToken .. | .registerRecoveryKey .. | .lockdownReport ..
  | .debugChallenge .. | .debugToken .. | .tmpCommitGo .. | .fwStage .. | .fwActivate .. | .fwAbandon ..
  | .impedanceCalibration .. | .channelDegradedClear .. | .ident .. | .health .. | .status .. | .offset ..
  | .alertResponse .. | .maintenanceEnter .. | .maintenanceExit .. | .generateSymmetricKey ..
  | .generateEcKeyPair .. | .generateRsaKeyPair .. | .generateMldsaKeyPair .. | .generateMlkemKeyPair ..
  | .deriveAndStore .. | .changeState .. | .revokeKey .. | .pinOrUnpin .. | .drop .. | .keyReport ..
  | .setAllowances .. | .loadKeyStatePolicy .. | .importX9143Block .. | .exportX9143Block ..
  | .createTenant .. | .openIntakeSession .. | .enterComponent .. | .closeIntakeSession .. | .importKek ..
  | .rotateTableSigningKey .. | .rewrapBlock .. | .finishKekRotation .. | .abandonPendingKek ..
  | .destroyTenant .. | .deriveInitialDukptKey .. | .tenantReport .. | .healthReport .. | .registerPartner ..
  | .setReplicationMode .. | .transferRoles .. | .takeRoles .. | .loadOwnTable .. | .loadTableForTenant ..
  | .userRegionRead .. | .userRegionWrite .. | .setUserWindow .. | .userRegionStatus ..
  | .readBuiltinPealTable .. | .clearOwnTable .. | .setAlgorithmPolicy .. | .readAlgorithmPolicy ..
  | .setPermissionMap .. | .setTollBindingMap .. | .keyAttestation .. | .certificateChain ..
  | .lookupByTag .. | .readBySequence .. | .emptyCarriedJournal .. | .readCostTable .. | .loadCostTable ..
  | .tenantStatement .. | .fullStatement .. | .tollStatusBlock .. | .unseal .. | .forcedUnseal ..
  | .setAuthorityKey .. | .setJournalMode .. | .tollSeal .. | .replaceStoreImage .. | .msixVectorUnmask .. | .smbusObjectReady ..
  | .lockdownReportReady .. | .tier2PageInComplete .. | .pealEntryFetchComplete ..
  | .manufacturingTransition .. | .sensorsClearTimer .. | .vaoCapChargeTimeout .. | .gongNHoldExpire ..
  | .configSpaceReady .. | .stepIssue .. | .stepEnd .. | .drbgHoldExpire ..
  | .vfEnableWrite .. => true

end Sys2Proof
end

