-- ==== Sys2Proof/Tests/Slice0.lean ====
section
/-! SUPPORT. The model's own tests: ill-formed commands refused, commands whose results the spec states, and for each
obligation with hypotheses a state and operands that meet them together. -/
namespace Sys2Proof.Tests
open Sys2Proof Sys2Proof.Machine

set_option Elab.async false

/-! A device that is up, and what the tests add to it. -/

/-- T0 with a key-encryption key and a table-signing key. -/
def kek : Kek := { alg := 3, gen := 1, key := zeros 32 }
/-- An active tenant. -/
def tenantA : Tenant := { Tenant.none with state := .active, tskAlg := 0x24, tsk := [4], kek := some kek, tskGen := 1 }

/-- A function with SRI 2.1, bus mastering, and vectors unmasked. -/
def fnA : Func := { Func.init with sriActive := 0x21, bme := true, msixUnmasked := [0, 1] }

/-- Submission ring 0 of PF0, of 16 entries, bound to completion ring 0. -/
def ringA : SubRing := { SubRing.init with state := .enabled, cfg := 0x10004 }
/-- Completion ring 0 of PF0, of 16 entries. -/
def cplA : CplRing := { CplRing.init with state := .enabled, log2 := 4 }

/-- A cluster that serves. -/
def clusterA : Cluster := { Cluster.init with inService := true, state := .active, maskKey := some 0 }

/-- Two shares of zeros. -/
def share (n : Nat) : Shares := { a := zeros n, b := zeros n }

/-- A device in Serve on main power, its link in L0, its function ready, ten seconds after power-up. -/
def up : State :=
  { State.reset with
    clk := { now := 10000000000, phase := 0, vtime := 0x200000 }, mode := .serve,
    fe := { FrontEnd.init with
      linkL0 := true, perstAsserted := false, perstReleasedAt := some 0, cfgReady := true, reported := true,
      funcs := [(0, fnA), (1, fnA)], sqs := [(0, ringA)], cqs := [(0, cplA)] },
    clusters := List.replicate 16 clusterA, tenants := [(0, tenantA), (1, tenantA)],
    root := {
      RootState.init with
      vault := some { epoch := 0, secret := share 64 }, present := true, dkcs := List.replicate 3 (zeros 232),
      regs := { ident := share 48, xeol := share 48, toll := share 48, attest := share 48 } },
    rng := { Rng.init with
      pool := List.replicate 1024 0, maskKey := some 0,
      sources := List.replicate 4 { NoiseSource.init with state := .healthy },
      drbg := (List.range 288).map fun i => (i, { Drbg.none with instantiated := true, state := share 48 }) },
    toll := { Toll.init with bankValid := true, hasKey := true, stmtHwm := 100, regionUsed := true },
    boot := { Boot.init with stage := 7, stewardUp := true },
    mem := { Memory.init with trained := true, key := some (share 64) },
    gov := { Governor.init with costs := { CostTable.none with edges := [25, 45, 65, 85, 105] } } }

/-- `up` in another mode. -/
def upIn (m : Mode) : State := { up with mode := m }
/-- `up` after a change of its front end. -/
def upFe (f : FrontEnd → FrontEnd) : State := { up with fe := f up.fe }
/-- `up` with one submission ring. -/
def upSq (q : SubRing) : State := upFe fun e => { e with sqs := [(0, q)] }
/-- `up` with one completion ring. -/
def upCq (q : CplRing) : State := upFe fun e => { e with cqs := [(0, q)] }

/-! Witnesses: the front end. -/

theorem witness_EmptyQueuePassesOneCycle : up.pending = [] ∧ up.clk.phase < 1000000000 := by decide +kernel

theorem witness_DoorbellAcceptsDescriptors :
    barsOn up 0 = true ∧ up.fe.reported = true ∧ sqOf up 0 (64 * (0 / 0x1000) + 0 % 0x1000 / 8) = some 0#16 ∧
    (3#64).toNat % 2 ^ 32 = 3 ∧ 3 < 2 * (up.sq 0).size ∧ (up.sq 0).state = .enabled ∧
    3 = (3 + 2 * (up.sq 0).size - (up.sq 0).tail.toNat) % (2 * (up.sq 0).size) ∧
    3 + (up.sq 0).outstanding.toNat ≤ (up.sq 0).size := by decide +kernel

/-- DoorbellIgnoredByName: one doorbell for each name, the first past the tail's range and the first past the credits; a slot
of no ring, the first of the reserved offsets, and an unaligned one. -/
theorem witness_DoorbellIgnoredByName :
    (barsOn up 0 = true ∧ up.fe.reported = true ∧ sqOf up 0 (64 * (0x1000 / 0x1000) + 0x1000 % 0x1000 / 8) = none ∧
      0x200 ≤ 0x200 % 0x1000 ∧ 4 % 8 ≠ 0) ∧
    (let s := upFe fun e => { e with reported := false }
     barsOn s 0 = true ∧ sqOf s 0 0 = some 0#16 ∧ s.fe.reported = false) ∧
    (let s := upSq { ringA with state := .error }
     barsOn s 0 = true ∧ sqOf s 0 0 = some 0#16 ∧ s.fe.reported = true ∧ (s.sq 0).state ≠ .enabled) ∧
    (barsOn up 0 = true ∧ sqOf up 0 0 = some 0#16 ∧ (up.sq 0).state = .enabled ∧ 2 * (up.sq 0).size ≤ 32) ∧
    ((up.sq 0).state = .enabled ∧ 17 < 2 * (up.sq 0).size ∧
      (up.sq 0).size < (up.sq 0).outstanding.toNat +
        (17 + 2 * (up.sq 0).size - (up.sq 0).tail.toNat) % (2 * (up.sq 0).size) ∧
      (17 + 2 * (up.sq 0).size - (up.sq 0).tail.toNat) % (2 * (up.sq 0).size) ≠ 0) := by decide +kernel

/-- HeadWriteFreesEntries: a head at POSTED, and one past it. -/
theorem witness_HeadWriteFreesEntries :
    let s := upCq { cplA with posted := 5 }
    barsOn s 0 = true ∧ s.fe.reported = true ∧ cqOf s 0 0 = some 0#13 ∧ 5 < 2 * (s.cq 0).size ∧
    5 = (5 + 2 * (s.cq 0).size - (s.cq 0).head.toNat) % (2 * (s.cq 0).size) ∧ 5 ≤ (s.cq 0).used ∧
    6 = (6 + 2 * (s.cq 0).size - (s.cq 0).head.toNat) % (2 * (s.cq 0).size) ∧ (s.cq 0).used < 6 := by decide +kernel

/-- An SRI 2.1 descriptor of the health report, peal 0x00EE, in a class, its output of 608 bytes to 0x1000, with its
flag bits [12:11]. -/
def descHealth (cls flags : Nat) : BitVec 512 :=
  BitVec.ofNat 512 (0x21 + cls * 2 ^ 8 + flags * 2 ^ 11 + 0xEE * 2 ^ 16 + 2 ^ 50 + 7 * 2 ^ 64 + 608 * 2 ^ 288 +
    0x1000 * 2 ^ 448)
/-- It waits for admission. -/
def waitA : Waiting :=
  { fn := 0, ring := 0, raw := descHealth 1 0, accepted := 9999999000, order := 0, withheld := [], cause := none }

/-- FetchedDescriptorWaits: a descriptor that passes checks 1 and 2, one that does not, one outstanding as the role was lost, a
ring in reset, and a ring whose turn comes after another's. -/
theorem witness_FetchedDescriptorWaits :
    let r := { ringA with tail := 1, outstanding := 1, consumed := 1, accepts := [(0, 1)] }
    let s := upSq r
    sqOwner s 0 = some 0#8 ∧ fetchTurn s 0 = true ∧ (s.sq 0).unfetched ≠ 0 ∧ canDma s 0 = true ∧ (s.sq 0).state = .enabled ∧
    (s.sq 0).roleLost = 0 ∧ checks12 (sriOf s 0) (parseDesc (sriOf s 0) (descHealth 1 0)) = none ∧
    (checks12 (sriOf s 0) (parseDesc (sriOf s 0) 0)).isSome = true ∧
    (let s := upSq { r with roleLost := 1 }
     fetchTurn s 0 = true ∧ (s.sq 0).state = .enabled ∧ (s.sq 0).roleLost ≠ 0) ∧
    (let s := upSq { r with state := .resetting }
     fetchTurn s 0 = true ∧ (s.sq 0).state = .resetting) ∧
    (let s := upFe fun e => { e with sqs := [(0, r), (1, { r with cfg := 0x10004 })], lastFetch := 0 }
     fetchTurn s 0 = false ∧ fetchTurn s 1 = true) := by decide +kernel

/-- `up` with a selection in the ring window and the setup lock. -/
def upSel (ring : BitVec 10) (cpl locked : Bool) (q : SubRing) (c : CplRing) : State :=
  upFe fun e => { e with
    funcs := [(0, { fnA with ringSel := ring, ringKind := cpl, locked := locked })], sqs := [(0, q)], cqs := [(0, c)] }

/-- RingWindowWrites: no ring, and DISABLED and ENABLED rings of each kind. -/
theorem witness_RingWindowWrites :
    (setupOn (upSel 64 false false ringA cplA) 0 = true ∧ selected (upSel 64 false false ringA cplA) 0 = .none) ∧
    (selected (upSel 0 false false ringA cplA) 0 = .sub 0 ∧ ((upSel 0 false false ringA cplA).sq 0).state ≠ .disabled) ∧
    (let s := upSel 0 false true SubRing.init cplA
     setupOn s 0 = true ∧ selected s 0 = .sub 0 ∧ (s.sq 0).state = .disabled ∧ (s.func 0).locked = true) ∧
    (let s := upSel 0 false false SubRing.init cplA
     setupOn s 0 = true ∧ selected s 0 = .sub 0 ∧ (s.sq 0).state = .disabled ∧ (s.func 0).locked = false) ∧
    (selected (upSel 0 true false ringA cplA) 0 = .cpl 0 ∧ ((upSel 0 true false ringA cplA).cq 0).state ≠ .disabled) ∧
    (let s := upSel 0 true false SubRing.init CplRing.init
     setupOn s 0 = true ∧ selected s 0 = .cpl 0 ∧ (s.cq 0).state = .disabled) := by decide +kernel

/-- RingCommandsChangeState: conditions of R40 that hold, of both kinds, and rings that may be disabled. -/
theorem witness_RingCommandsChangeState :
    (let s := upSel 0 false false { ringA with state := .disabled } cplA
     setupOn s 0 = true ∧ selected s 0 = .sub 0 ∧ subEnableOk s 0 0 = true) ∧
    (let s := upSel 0 true false SubRing.init { cplA with state := .disabled }
     selected s 0 = .cpl 0 ∧ cplEnableOk s 0 0 = true) ∧
    (let s := upSel 0 false false ringA cplA
     selected s 0 = .sub 0 ∧ (s.sq 0).state = .enabled ∧ (s.sq 0).outstanding = 0) ∧
    (let s := upSel 0 true false SubRing.init cplA
     selected s 0 = .cpl 0 ∧ (s.cq 0).state = .enabled ∧ boundCount s 0 = 0) := by decide +kernel

/-- CompletionRingNeedsNoBoundRing: a running ring bound, and none. -/
theorem witness_CompletionRingNeedsNoBoundRing :
    (let s := upSel 0 true false ringA cplA
     setupOn s 0 = true ∧ selected s 0 = .cpl 0 ∧
     ∃ e ∈ s.fe.sqs, (e.2.state = .enabled ∨ e.2.state = .resetting) ∧ boundCq s (BitVec.ofNat 16 e.1) = some 0) ∧
    (let s := upSel 0 true false SubRing.init cplA
     setupOn s 0 = true ∧ selected s 0 = .cpl 0 ∧ (s.cq 0).state = .enabled ∧
     ∀ e ∈ s.fe.sqs, (e.2.state = .enabled ∨ e.2.state = .resetting) →
       boundCq s (BitVec.ofNat 16 e.1) ≠ some 0) := by decide +kernel

/-- RingResetStartsDraining: an idle ring, one with a descriptor outstanding, and a completion ring in ERROR. -/
theorem witness_RingResetStartsDraining :
    (let s := upSel 0 false false ringA cplA
     setupOn s 0 = true ∧ selected s 0 = .sub 0 ∧ (s.sq 0).state = .enabled ∧ (∀ w ∈ s.fe.waiting, w.ring ≠ 0) ∧
     (∀ e ∈ s.peals, e.2.ring ≠ 0) ∧ (s.sq 0).outstanding = 0) ∧
    (let s := upSel 0 false false { ringA with outstanding := 1, consumed := 1, tail := 1 } cplA
     selected s 0 = .sub 0 ∧ (s.sq 0).state = .enabled ∧ (∀ w ∈ s.fe.waiting, w.ring ≠ 0) ∧
     (∀ e ∈ s.peals, e.2.ring ≠ 0) ∧ (s.sq 0).outstanding ≠ 0) ∧
    (let s := upSel 0 true false SubRing.init { cplA with state := .error }
     selected s 0 = .cpl 0 ∧ (s.cq 0).state = .error ∧ boundCount s 0 = 0) := by decide +kernel

/-- FunctionSetupWrites: every ring DISABLED, one that is not, a ring held and one not held, and both selections. -/
theorem witness_FunctionSetupWrites :
    (setupOn (upSq SubRing.init) 0 = true ∧ ringsDisabled (upSq SubRing.init |>.mCq 0 fun _ => CplRing.init) 0 = true) ∧
    (setupOn up 0 = true ∧ ringsDisabled up 0 = false) ∧ (4#32).extractLsb' 0 3 ≠ 0#3 ∧ (8#32).extractLsb' 0 3 = 0#3 ∧
    ((0#32).getLsbD 16 = false ∧ sqOf up 0 ((0#32).extractLsb' 0 10).toNat = some 0 ∧
      sqOf up 0 ((64#32).extractLsb' 0 10).toNat = none) ∧
    ((0x10000#32).getLsbD 16 = true ∧ ∃ e ∈ up.fe.sqAssign, e.2.valid = true ∧ e.2.fn = 0) ∧
    (∀ e ∈ (upFe fun x => { x with sqAssign := [] }).fe.sqAssign, e.2.valid = true → e.2.fn ≠ 0) ∧
    selected (upSel 64 true false ringA cplA) 0 = .none ∧ selected (upSel 0 true false ringA cplA) 0 = .cpl 0 := by
  decide +kernel

/-- BlockAssignmentTakesEffectWhenIdle: locked; a ring not DISABLED; a page taken; a write of the entry as it stands;
and changes of both kinds that take effect. -/
theorem witness_BlockAssignmentTakesEffectWhenIdle :
    (setupOn (upSel 0 false true ringA cplA) 0 = true ∧ ((upSel 0 false true ringA cplA).func 0).locked = true ∧
      smGet Assign.none up.fe.sqAssign 0 ≠ Assign.ofWord false 0 ∧ smGet Assign.none up.fe.cqAssign 0 ≠ Assign.ofWord true 0) ∧
    (setupOn up 0 = true ∧ (up.func 0).locked = false ∧ sqBlockIdle up 0 = false ∧ cqBlockIdle up 0 = false) ∧
    (smGet Assign.none up.fe.sqAssign 1 ≠ Assign.ofWord false 0x80000000 ∧
      pageTaken up.fe.sqAssign 1 (Assign.ofWord false 0x80000000) = true) ∧
    smGet Assign.none up.fe.sqAssign 1 = Assign.ofWord false 0x80000001 ∧
    smGet Assign.none up.fe.cqAssign 1 = Assign.ofWord true 0x80000001 ∧
    (smGet Assign.none up.fe.cqAssign 1 ≠ Assign.ofWord true 0x80000100 ∧ cqBlockIdle up 1 = true ∧
      pageTaken up.fe.cqAssign 1 (Assign.ofWord true 0x80000100) = false) ∧
    (smGet Assign.none up.fe.sqAssign 1 ≠ Assign.ofWord false 0x80000100 ∧ sqBlockIdle up 1 = true ∧
      pageTaken up.fe.sqAssign 1 (Assign.ofWord false 0x80000100) = false) := by decide +kernel

/-- RegisterWritesSetTheirFields: registers that answer, a message interval over, and a 64-bit register read. -/
theorem witness_RegisterWritesSetTheirFields :
    (let s := upFe fun e => { e with vfEnable := true, numVfs := 4 }
     eventOn s 1 false = true ∧ eventOn s 0 true = true ∧ busOn s 1 = true ∧ s.mode ≠ .lockdown) ∧
    (let f := { fnA with evtSentAt := some 0, evtDue := true }
     let s := upFe fun e => { e with funcs := [(0, f)] }
     (s.func 0).evtSentAt = some 0 ∧ (s.func 0).evtDue = true ∧ 0 + 1000 ≤ s.clk.now) ∧
    (busOn up 0 = true ∧ (1#11).toNat < vectors up 0) ∧
    (busOn (upIn .maintenance) 0 = true ∧ snareWritable (upIn .maintenance) = true ∧ snareWritable up = false) ∧
    (508 % (4#4).toNat = 0 ∧ 508 < 512) ∧
    (offsetOn up 0 0x50 = true ∧ (reg64 up 0 0x50).isSome = true) := by decide +kernel

/-- ConfigurationWrites: configuration space that answers, VF Enable clear and set, and an FLR in progress. -/
theorem witness_ConfigurationWrites :
    (configOn up 0 = true ∧ up.fe.vfEnable = false) ∧
    (let s := upFe fun e => { e with vfEnable := true, numVfs := 4 }
     configOn s 0 = true ∧ s.fe.vfEnable = true ∧ configOn s 1 = true) ∧
    (setupOn up 0 = true ∧ 1 ≤ (8#8).toNat ∧ (8#8).toNat ≤ 64 ∧ up.fe.vfVectors ≠ (8#8).setWidth 7) ∧
    ((upFe fun e => { e with funcs := [(1, { fnA with flr := true })] }).func 1).flr = true := by decide +kernel

/-- LinkAndPcieReset: down, up, PERST_N asserted, and released 20 ms ago. -/
theorem witness_LinkAndPcieReset :
    (let s := upFe fun e => { e with linkL0 := false }
     s.fe.linkL0 = false ∧ onMain s = true ∧ s.fe.perstAsserted = false ∧ pcieHeld s = false) ∧
    (up.fe.linkL0 = true ∧ up.fe.perstAsserted = false ∧ up.pwr.resetN = true ∧ onMain up = true) ∧
    (upFe fun e => { e with perstAsserted := true }).fe.perstAsserted = true ∧
    (up.fe.perstReleasedAt = some 0 ∧ 0 + 20000000 ≤ up.clk.now ∧ up.boot.stage = 7 ∧ pcieHeld up = false) := by
  decide +kernel

/-! Witnesses: peals and their steps. -/

/-- `up` with a descriptor waiting. -/
def upWait (w : Waiting) : State :=
  upFe fun e => { e with sqs := [(0, { ringA with outstanding := 1, consumed := 1, tail := 1, head := 1 })], waiting := [w] }
/-- A descriptor withheld, its completion ring full. -/
def upFull (w : Waiting) : State := (upWait w).mFe fun e => { e with cqs := [(0, { cplA with reserved := 16 })] }

/-- The candidate of a waiting descriptor, when it has one. -/
def cand (s : State) (w : Waiting) : Option Cand := match candOf s w with | .inr c => some c | .inl _ => none

/-- AdmissionGivesAnEntry: whose turn it is; withheld by its completion ring; NO_WAIT against the thermal level. -/
theorem witness_AdmissionGivesAnEntry :
    (∃ c, candOf (upWait waitA) waitA = .inr c) ∧
    (let s := upWait waitA
     deciding s = true ∧ s.fe.waiting.find? (·.order == 0) = some waitA ∧
     (cand s waitA).any (fun c => !c.d.dual && (c.cause (noteDecision (candidates s) s)).isNone &&
       (turn (noteDecision (candidates s) s) (candidates s)).any (·.w.order == 0) &&
       (refusal (noteDecision (candidates s) s) c none).isNone && c.cluster.isSome) = true ∧
     (freeSlot (noteDecision (candidates s) s)).isSome = true) ∧
    (let s := upFull waitA
     deciding s = true ∧ s.fe.waiting.find? (·.order == 0) = some waitA ∧
     (cand s waitA).any (fun c => c.cause (noteDecision (candidates s) s) == some 5 && !c.d.noWait &&
       !deadlineMissed (noteDecision (candidates s) s) c &&
       (refusal (noteDecision (candidates s) s) c (some 5)).isNone) = true) ∧
    (let w := { waitA with raw := descHealth 1 1 }
     let s := (upWait w).mGov fun g => { g with thermal := 3 }
     deciding s = true ∧ s.fe.waiting.find? (·.order == 0) = some w ∧
     (cand s w).any (fun c => c.thermalFails (noteDecision (candidates s) s) && c.d.noWait) = true) ∧
    (let w := { waitA with fn := 1 }
     let s := upWait w
     (w.fn ≠ 0 ∧ (s.mPair fun x => { x with roles := 1 }).pair.roles.getLsbD w.fn.toNat = false) ∧
     s.pair.roles.getLsbD w.fn.toNat = true ∧ (candOf s { w with raw := BitVec.ofNat 512 (0x1234 * 2 ^ 16) }).isLeft = true ∧
     ({ s with mode := .maintenance }).mode = .maintenance ∧ deciding { s with mode := .maintenance } = true ∧
     (candOf { s with mode := .maintenance } w).isRight = true) := by
  refine ⟨?_, by decide +kernel, by decide +kernel, by decide +kernel, by decide +kernel⟩
  cases h : candOf (upWait waitA) waitA with
  | inl st => exact absurd (show (candOf (upWait waitA) waitA).isRight = true by decide +kernel) (by simp [h])
  | inr c => exact ⟨c, rfl⟩

theorem witness_AdmittedPealTakesItsReservations : boundCq (upWait waitA) waitA.ring = some 0 := by decide +kernel

/-- What admission knows of the health report. -/
def candA : Cand :=
  { w := waitA, d := parseDesc 0x21 (descHealth 1 0), cls := 1, e := bPeal 0x00EE 0 0 0 0 (admSteps [608]), keys := [],
    checked := false, cm610 := false, maxOut := 608, costs := [], cluster := some 0, tokens := 1 }
/-- An admitted admin peal of PF0, its input on the die, with keys. -/
def pealA (id : BitVec 16) (keys : List Nat) (input : Bytes) : Peal :=
  { newPeal up { candA with e := admPeal id 0 0 0 false [0] } 0 with
    entryReady := true, input := some input,
    keys := keys.map fun k => { key := k, phase := .judged, fault := none, reserved := false, tier3 := false } }
/-- An admitted peal with steps of its own. -/
def pealS (steps : List StepDef) : Peal :=
  { newPeal up { candA with e := bPeal 0x0070 0 0 maxIn 0 steps } 0 with entryReady := true, input := some [1, 2, 3, 4] }
/-- `up` with a peal in slot 5. -/
def withPeal (q : Peal) (s : State) : State := { s with peals := [(5, q)] }
/-- A hash step over the whole input. -/
def hashStep : StepDef := bStep 0x07 0xF 0 32 0 (inRef 0 0) noRef
/-- A descriptor whose input and output are scatter-gather lists of one entry. -/
def descLists : BitVec 512 := BitVec.ofNat 512 (0x21 + 0xEE * 2 ^ 16 + 2 * 2 ^ 48 + 2 * 2 ^ 50 + 4 * 2 ^ 256 + 608 * 2 ^ 288)
theorem hexVal_hexChar : ∀ n < 16, hexVal (hexChar n) = some n := by decide
theorem fromHex_toHex (bs : Bytes) : fromHex (toHex bs) = some bs := by
  induction bs with
  | nil => rfl
  | cons b bs ih =>
    have h := b.isLt
    rw [toHex] at ih
    have e : BitVec.ofNat 8 (16 * (b.toNat / 16) + b.toNat % 16) = b := by
      rw [Nat.div_add_mod, BitVec.ofNat_toNat, BitVec.setWidth_eq]
    simp only [toHex, List.flatMap_cons, List.cons_append, List.nil_append, fromHex, ih,
      hexVal_hexChar _ (show b.toNat / 16 < 16 by omega), hexVal_hexChar _ (show b.toNat % 16 < 16 by omega)]
    change some (BitVec.ofNat 8 (16 * (b.toNat / 16) + b.toNat % 16) :: bs) = _
    rw [e]

/-- Optional blocks are read from the front. -/
theorem optLength_append (b : Bytes) : ∀ (n : Nat) (a : Bytes) (o : Nat), optLength n a = some o → optLength n (a ++ b) = some o
  | 0, _, _, h => h
  | n + 1, a, o, h => by
    rw [optLength] at h ⊢
    obtain ⟨l, hl, h⟩ := Option.bind_eq_some_iff.mp h
    change (if (decide ((l.headD 0).toNat < 4) || decide (a.length < (l.headD 0).toNat)) = true then none else _) = _ at h
    by_cases hc : (decide ((l.headD 0).toNat < 4) || decide (a.length < (l.headD 0).toNat)) = true
    · rw [if_pos hc] at h; cases h
    · rw [if_neg hc] at h
      simp only [Bool.or_eq_true, decide_eq_true_eq, not_or, Nat.not_lt] at hc
      have h2 : ((a ++ b).drop 2).take 2 = (a.drop 2).take 2 := by
        rw [List.drop_append_of_le_length (by omega), List.take_append_of_le_length (by simp; omega)]
      obtain ⟨r, hr, h⟩ := Option.bind_eq_some_iff.mp h
      rw [h2, hl]
      have hc' : (decide ((l.headD 0).toNat < 4) || decide ((a ++ b).length < (l.headD 0).toNat)) = false := by
        simp only [Bool.or_eq_false_iff, decide_eq_false_iff_not, List.length_append]; omega
      change (if _ then none else _) = _
      rw [hc', if_neg (by decide), List.drop_append_of_le_length hc.2, optLength_append b n _ r hr]
      exact h

/-- A header with its optional blocks, and the enciphered part in hexadecimal, read. -/
theorem readX9_of (head body : Bytes) (n : Nat) (h : 16 ≤ head.length)
    (hl : decimalVal ((head.drop 1).take 4) = some (head.length + 2 * body.length))
    (hn : decimalVal ((head.drop 12).take 2) = some n) (ho : optLength n (head.drop 16) = some (head.length - 16)) :
    readX9 (head ++ toHex body) = some
      { version := head.headD 0, usage := (head.drop 5).take 2, alg := head.getD 7 0, mode := head.getD 8 0,
        exp := head.getD 11 0, head := head, body := body } := by
  have ht : (toHex body).length = 2 * body.length := by simp [toHex, Nat.mul_comm]
  have h1 : ((head ++ toHex body).drop 1).take 4 = (head.drop 1).take 4 := by
    rw [List.drop_append_of_le_length (by omega), List.take_append_of_le_length (by simp; omega)]
  have h2 : ((head ++ toHex body).drop 12).take 2 = (head.drop 12).take 2 := by
    rw [List.drop_append_of_le_length (by omega), List.take_append_of_le_length (by simp; omega)]
  have h3 : ((head ++ toHex body).drop 5).take 2 = (head.drop 5).take 2 := by
    rw [List.drop_append_of_le_length (by omega), List.take_append_of_le_length (by simp; omega)]
  have h4 : ∀ i, i < 16 → (head ++ toHex body).getD i 0 = head.getD i 0 := by
    intro i hi
    simp only [List.getD]; rw [List.getElem?_append_left (by omega)]
  have h5 : (head ++ toHex body).headD 0 = head.headD 0 := by
    cases head with
    | nil => simp at h
    | cons => rfl
  have h0 : 16 + (head.length - 16) = head.length := by omega
  have h6 : (head ++ toHex body).drop (16 + (head.length - 16)) = toHex body := by rw [h0]; exact List.drop_left' rfl
  have h7 : (head ++ toHex body).take (16 + (head.length - 16)) = head := by rw [h0]; exact List.take_left' rfl
  have h8 : (head ++ toHex body).length = head.length + 2 * body.length := by rw [List.length_append, ht]
  have h9 : ¬(head.length + 2 * body.length < 16) := by omega
  have ho' : optLength n ((head ++ toHex body).drop 16) = some (head.length - 16) := by
    rw [List.drop_append_of_le_length h]; exact optLength_append _ _ _ _ ho
  rw [readX9, h1, hl, h2, hn]
  change (if (decide (_ ≠ _) || decide (_ < _)) = true then none else _) = _
  rw [h8]
  simp only [ne_eq, not_true_eq_false, decide_false, h9, Bool.or_self, Bool.false_eq_true, if_false]
  rw [ho']
  change ((fromHex ((head ++ toHex body).drop (16 + (head.length - 16)))).bind _) = _
  rw [h6, fromHex_toHex]
  change some _ = _
  rw [h7, h3, h4 7 (by decide), h4 8 (by decide), h4 11 (by decide), h5]

/-- A key table entry of handle 3: valid, 224 bytes. -/
def hkeA : BitVec 128 := BitVec.ofNat 128 (224 * 2 ^ 64 + 2 ^ 78)
/-- The attributes of its block: handle 3, KEK generation 1. -/
def attrsA : BitVec 384 := BitVec.ofNat 384 (1 + 3 * 2 ^ 64 + 2 ^ 288)
/-- The block of an AES-128 key of zeros under T0's KEK, with a 7L block. -/
def hostOf (a : BitVec 384) : Bytes := x9Block true (zeros 32) [0x44, 0x30] 0x41 0x42 0x4E (optBlocks (natLe 48 a.toNat)) (zeros 16) 0

/-- A host block that reads, names its key and unwraps, opens. -/
theorem openHost_of (s : State) (t : Fn) (bs a key : Bytes) (n : Nat) (g : Kek) (b : X9Block) (hr : readX9 bs = some b)
    (hv : b.version = 0x44) (hn : decimalVal ((b.head.drop 12).take 2) = some n)
    (ha : read7L (blockOpts n (b.head.drop 16)) = some a) (hk : kekAt s t (fieldNat (leNat a) 288 32) = some g)
    (hx : x9Unwrap true g.key b.head b.body = some key) : openHost s t bs = some (a, key) := by
  rw [openHost, hr]
  change ((decimalVal ((b.head.drop 12).take 2)).bind fun n => (read7L (blockOpts n (b.head.drop 16))).bind _) = _
  rw [hn]
  change ((read7L (blockOpts n (b.head.drop 16))).bind _) = _
  rw [ha]
  change ((kekAt s t _).bind _) = _
  rw [hk]
  change ((x9Unwrap true g.key b.head b.body).bind _) = _
  rw [hx]
  change (if b.version = 0x44 then _ else _) = _
  rw [if_pos hv]

/-- The header of that block. -/
def hostHead (a : BitVec 384) : Bytes :=
  [0x44] ++ decimal 4 224 ++ [0x44, 0x30] ++ [0x41, 0x42, 0x30, 0x30, 0x4E] ++ [0x30, 0x32] ++ [0x30, 0x30] ++
    optBlocks (natLe 48 a.toNat)

theorem hostOf_opens (a : BitVec 384) (s : State) (hk : kekAt s 0 (fieldNat (leNat (natLe 48 a.toNat)) 288 32) = some kek)
    (h1 : (hostHead a).length = 128) (h2 : optLength 2 ((hostHead a).drop 16) = some 112)
    (h3 : read7L (blockOpts 2 ((hostHead a).drop 16)) = some (natLe 48 a.toNat)) :
    openHost s 0 (fit 224 (hostOf a)) = some (natLe 48 a.toNat, zeros 16) := by
  have hp : (natBe 2 (8 * (zeros 16).length) ++ zeros 16 ++ (List.range 14).map (Config.padByte 0)).length = blkLen (!true) * 2 := by
    simp only [List.length_append, natBe_length, zeros_length, List.length_map, List.length_range]; rfl
  have hx := x9Unwrap_x9Wrap true (zeros 32) (hostHead a) (zeros 16) ((List.range 14).map (Config.padByte 0)) 1 (by decide)
    (by simp only [zeros_length, List.length_map, List.length_range]; rfl)
  have hw := x9Wrap_length true (zeros 32) (hostHead a) _ 2 hp
  have e : hostOf a = hostHead a ++ toHex (x9Wrap true (zeros 32) (hostHead a)
      (natBe 2 (8 * (zeros 16).length) ++ zeros 16 ++ (List.range 14).map (Config.padByte 0))) := rfl
  rw [hp] at hw
  generalize x9Wrap true (zeros 32) (hostHead a)
      (natBe 2 (8 * (zeros 16).length) ++ zeros 16 ++ (List.range 14).map (Config.padByte 0)) = body at hx hw e
  have hw : body.length = 48 := hw
  have ht : (toHex body).length = 2 * body.length := by simp [toHex, Nat.mul_comm]
  have hf : fit 224 (hostOf a) = hostHead a ++ toHex body := by
    rw [fit, e, List.length_append, h1, ht, hw, List.take_of_length_le (by rw [List.length_append, h1, ht, hw])]
    exact List.append_nil _
  have hr := readX9_of (hostHead a) body 2 (by omega) (by rw [hw, h1]; rfl) rfl (by rw [h2, h1])
  rw [hf]
  exact openHost_of s 0 _ _ _ 2 kek _ hr rfl rfl h3 hk hx

/-- A fetch of that block as handle 3 of T0 gives the record its 7L block describes. -/
theorem fetch_hostOf (a : BitVec 384) (s : State) (m : Bytes)
    (hs : 3 < (s.func 0).hktEntries.toNat ∧ kekAt s 0 (fieldNat (leNat (natLe 48 a.toNat)) 288 32) = some kek)
    (h1 : (hostHead a).length = 128) (h2 : optLength 2 ((hostHead a).drop 16) = some 112)
    (h3 : read7L (blockOpts 2 ((hostHead a).drop 16)) = some (natLe 48 a.toNat))
    (hc : let y := leNat (natLe 48 a.toNat)
      attrsOk (natLe 48 a.toNat) = true ∧ fieldNat y 48 8 = 0 ∧ fieldNat y 64 32 = 3 ∧ fieldNat y 0 8 = 1 ∧ fieldNat y 8 8 = 0) :
    fetchOutcome s 0 3 (.entry hkeA (hostOf a)) m =
      .inr (recOf7L s 0 (natLe 48 a.toNat) (zeros 16) (fit 16 m)) := by
  obtain ⟨c1, c2, c3, c4, c5⟩ := hc
  have hx : bitAt hkeA.toNat 78 = true ∧ fieldNat hkeA.toNat 79 49 = 0 ∧ fieldNat hkeA.toNat 64 14 = 224 := by decide +kernel
  have hd : ∀ cs, dataLen cs 1 0 = 16 := fun _ => rfl
  simp only [fetchOutcome, if_neg (Nat.not_le.mpr hs.1), hx.1, hx.2.1, hx.2.2, hostOf_opens a s hs.2 h1 h2 h3, c1, c2, c3, c4, c5, hd]
  rfl

/-- WhatArrivesForAPeal: lists awaited; input awaited with a parse done and one that succeeds or fails; an entry awaited; a
fetch that fails, and one that gives a record. -/
theorem witness_WhatArrivesForAPeal :
    (let q := { pealS [hashStep] with raw := descLists, input := none }
     let s := withPeal q up
     s.peal 5 = some q ∧ q.phase = .running ∧ q.abort = none ∧ q.desc.inMode = 2 ∧ q.desc.outMode = 2 ∧ q.inSgl = none ∧
     q.outSgl = none ∧ [0#128].length = q.desc.inCnt ∧ [0#128].length = q.desc.outCnt ∧ canDma s q.fn = true ∧
     q.listsRead = false) ∧
    (let q := { pealS [hashStep] with input := none }
     q.input = none ∧ q.listsRead = true ∧ q.entryReady = true ∧ canDma (withPeal q up) q.fn = true ∧ q.parsed = true) ∧
    (let f : FmtEntry := { id := 7, kind := 0, instrs := [{ fop := 0x3F, field := 0, src := 0, off := 0, len := 0, arg := 0 }], consts := [] }
     let q := { pealS [hashStep] with input := none, parsed := false, fmts := [f] }
     let q' := { q with entry := { q.entry with reqFmt := 7 } }
     q'.parsed = false ∧ q'.fmts.find? (·.id == q'.entry.reqFmt) = some f ∧
     runParse f.consts (fit q'.desc.inLen []) [] f.instrs = some []) ∧
    runParse [] [] [] [{ fop := 0x01, field := 0, src := 0, off := 0, len := 4, arg := 0 }] = none ∧
    { pealS [hashStep] with entryReady := false }.entryReady = false ∧
    (let k := keyNo 0 3
     let s := (up.mKs fun x => { x with fetches := [{ key := k, waiters := [5] }] }).mFunc 0 fun f => { f with hktEntries := 8 }
     s.ks.fetches.find? (·.key == k) = some { key := k, waiters := [5] } ∧ canDma s 0 = true ∧
     fetchOutcome s 0 3 .refused (zeros 512) = .inl (St.keyFault, 4) ∧
     ∀ m, (fetchOutcome s 0 3 (.entry hkeA (hostOf attrsA)) m).isRight = true) := by
  refine ⟨by decide +kernel, by decide +kernel, by decide +kernel, by decide +kernel, by decide +kernel, by decide +kernel,
    by decide +kernel, by decide +kernel, fun m => ?_⟩
  rw [fetch_hostOf attrsA _ m (by decide +kernel) (by decide +kernel) (by decide +kernel) (by decide +kernel) (by decide +kernel)]
  rfl

/-- A cluster with one engine of each kind, and `up` with it alone. -/
def clusterOne : Cluster := { clusterA with se := [EngineRec.init], pk := [EngineRec.init] }
def upOne (c : Cluster) : State := { up with clusters := [c] }

/-- IssuedStepRunsOnItsEngines: a hash step that waits and finds its engine. -/
theorem witness_IssuedStepRunsOnItsEngines :
    let q := pealS [hashStep]
    let s := withPeal q (upOne clusterOne)
    s.peal 5 = some q ∧ q.stepDef 0 = some hashStep ∧ engKind hashStep.op.toNat = some .se ∧ canIssue s q.cluster = true ∧
    q.stepReady 0 = true ∧ q.lowerReady 0 .se = false ∧ (pickEngines s q 0 hashStep).isSome = true ∧
    (q.run 0).phase = .waiting ∧ inputFault s q hashStep = none ∧ generates hashStep = false ∧
    drawLen q hashStep = 0 := by decide +kernel

/-- A run of a step in a phase on an engine. -/
def runOn (ph : StepPhase) (e second : Option Engine) : StepRun := { StepRun.init with phase := ph, engine := e, second := second }
/-- A MAC check with a guard, a step of ECDH, a signing one, a combined signing one, one that decrypts with RSA, a random
one and a FORMAT one. -/
def macStep : StepDef := { bStep 0x06 0 0x2003 0 0xFF (inRef 0 0) noRef with guard := true, gstat := 1 }
def ecbStep : StepDef := bStep 0x01 0 0 0xFFFF 0 (inRef 0 0) noRef
def dhStep : StepDef := bStep 0x48 0xF 0x0001 0 0xFF (inRef 0 0) noRef
def dh521Step : StepDef := bStep 0x48 0xF 0x0003 0 0xFF (inRef 0 0) noRef
def signStep : StepDef := bStep 0x42 0 0x0F01 64 0 (inRef 0 0) noRef
def rsaDecStep : StepDef := bStep 0x4D 0 0x0100 256 0 (inRef 0 0) noRef
def randomStep : StepDef := bStep 0x68 0xF 0 32 0 noRef noRef
def formatStep : StepDef := bStep 0x60 0xF 7 32 0 noRef noRef

/-- `up` with a running peal of one step, the step in a phase on engines. -/
def upRun (st : StepDef) (r : StepRun) : State := withPeal { pealS [st] with steps := [r] } up

/-- A step runs, nothing dooms it, and no input of it is a shadow. -/
def plainRun (st : StepDef) (s : State) : Bool :=
  match s.peal 5 with
  | some q => q.stepDef 0 == some st && q.phase == .running && (q.run 0).phase == .running && !frozen s && !q.doomed 0 &&
      !stepShadow q st && (q.run 0).agreed.isEmpty && (q.run 0).agreedOk.isNone
  | none => false

/-- RunningStepEnds: running steps whose operation gives a data output, a failed guard, or waits for its verification. -/
theorem witness_RunningStepEnds :
    plainRun hashStep (upRun hashStep (runOn .running (some (.se 0)) (some (.se 1)))) = true ∧
    plainRun macStep (upRun macStep (runOn .running (some (.se 0)) none)) = true ∧
    plainRun signStep (upRun signStep (runOn .running (some (.pk 0 0)) none)) = true ∧ combined signStep.op.toNat = true ∧
    plainRun signStep (upRun signStep (runOn .running (some (.pk 0 0)) (some (.pk 0 1)))) = true ∧
    plainRun randomStep (upRun randomStep (runOn .running (some .drbg) none)) = true ∧ randomStep.op = 0x68 ∧
    plainRun formatStep (upRun formatStep (runOn .running (some .fmt) none)) = true ∧ formatStep.op = 0x60 := by decide +kernel

/-- The MAC step's check of an empty MAC fails. -/
theorem macStep_fails (k a : Bytes) : (symResult 0 macStep k a [] []).verdict = .notVerified := by
  have h : (macResult 0 macStep k a).length = 32 := by
    simp [macResult, hmac, digest, macStep, bStep, fieldNat, hashBytes, natBe, natLe_length]
  change (StepResult.check (macResult 0 macStep k a == []) []).verdict = _
  cases hm : macResult 0 macStep k a with
  | nil => simp [hm] at h
  | cons x l => rfl

/-- RunningStepEnds: a data output, the verdict of a check that fails, and a decryption that fails. -/
theorem witness_RunningStepEnds_results (s : State) :
    (∃ x, computed s (pealS [hashStep]) 0 hashStep = .inr x ∧ x.verdict = .valid ∧ x.key = [] ∧
      sensitive (pealS [hashStep]).fmts hashStep = false) ∧
    (∃ x, computed s (pealS [macStep]) 0 macStep = .inr x ∧ verifies macStep.op.toNat = true ∧ x.verdict ≠ .valid) ∧
    computed up (pealS [rsaDecStep]) 0 rsaDecStep = .inl (St.inputInvalid, 7) := by
  refine ⟨⟨_, rfl, rfl, rfl, by decide +kernel⟩, ⟨_, rfl, by decide, ?_⟩, by decide +kernel⟩
  change (symResult 0 macStep _ [1, 2, 3, 4] [] []).verdict ≠ _
  exact fun h => by have := macStep_fails (workKey s (pealS [macStep]) 0) [1, 2, 3, 4]; rw [h] at this; exact nomatch this

/-- RunningStepEnds: a step with a shadow input whose inputs fail; miscompares of a pair with and without a spare; and a
step whose peal has been stopped. -/
theorem witness_RunningStepEnds_more :
    (let st : StepDef := { hashStep with inA := outRef 0, inB := { noRef with off := 9, len := 9, src := 1 } }
     let q := { pealS [hashStep, st] with steps := [{ runOn .ended none none with shadow := true }, runOn .running (some (.se 0)) none] }
     stepShadow q st = true ∧ (inputFault up q st).isSome = true ∧ (q.run 1).second = none ∧ q.doomed 1 = false) ∧
    (let s := upRun hashStep (runOn .running (some (.se 0)) (some (.se 1)))
     (s.cluster 0).se.any (·.role == .spare) = true ∧ 0 < segments s (pealS [hashStep]) 0 hashStep) ∧
    ((withPeal (pealS [hashStep]) (upOne clusterOne)).cluster 0).se.any (·.role == .spare) = false ∧
    (let q := { pealS [dhStep] with steps := [runOn .running (some (.pk 0 0)) none], abort := some .queueReset }
     let s := withPeal q (upOne { clusterOne with pk := [{ EngineRec.init with job := some (5, 0) }] })
     s.peal 5 = some q ∧ q.doomed 0 = true ∧ (s.eng 0 true 0).job = some (5, 0)) := by decide +kernel

/-- MiscomparesRetireAnEngine. -/
theorem witness_MiscomparesRetireAnEngine :
    let x : TieRec := { at_ := 5, segment := 0, context := share 32, input := [1, 2, 3, 4] }
    let q := { pealS [hashStep] with steps := [{ runOn .tieBreak (some (.se 0)) (some (.se 1)) with tie := some x }] }
    let s := withPeal q up
    s.peal 5 = some q ∧ q.stepDef 0 = some hashStep ∧ (q.run 0).engine = some (.se 0) ∧ (q.run 0).second = some (.se 1) ∧
    (q.run 0).phase = .tieBreak ∧ (q.run 0).tie = some x ∧ frozen s = false ∧ firstTie s q.cluster 5 0 x.at_ = true ∧
    (s.cluster q.cluster).se.findIdx? (·.role == .spare) = some 4 ∧ q.doomed 0 = false ∧ s.clusters.length = 16 ∧
    ((s.cluster 0).se.getD 1 EngineRec.init).role = .active ∧ 1 < (s.cluster 0).se.length := by decide +kernel

/-- Two peals, the one in slot 6 working on the one engine of its kind. -/
def twoPeals (q v : Peal) (c : Cluster) : State := { upOne c with peals := [(5, q), (6, v)] }

/-- SelfTestsAndCounterCells: a core and a spare in test, a spare that may start one, and a cell's write ended. -/
theorem witness_SelfTestsAndCounterCells :
    (let s := upOne { clusterOne with pk := [{ EngineRec.init with selfTest := some 0 }] }
     (s.eng 0 true 0).selfTest.isSome = true ∧ (s.eng 0 true 0).role = .active ∧ (s.eng 0 true 0).job = none) ∧
    (spareOf up 0 false = some 4 ∧ (up.cluster 0).inService = true ∧ (up.cluster 0).gating = false ∧
      (up.cluster 0).state = .active ∧ onMain up = true ∧ tieBreaks up 0 = []) ∧
    (let s := upOne { clusterOne with se := [{ EngineRec.init with role := .spare, selfTest := some 0 }] }
     spareOf s 0 false = some 0 ∧ (s.eng 0 false 0).selfTest.isSome = true) ∧
    (let sp : CounterSpace := { h := 0, next := 0, released := [], reserved := [], writing := some 9, stored := true, fresh := true }
     let s := up.mKs fun k => { k with spaces := [(keyNo 0 3, sp)] }
     smFind (keyNo 0 3) s.ks.spaces = some sp ∧ sp.writing = some 9 ∧ sp.stored = true ∧ s.pair.sync = false) := by
  decide +kernel

/-- Engines out of service, after the one a test uses. -/
def idleNone : List EngineRec := List.replicate 5 { EngineRec.init with role := .retired }

/-- A context set aside by a step of the peal in slot 6. -/
def heldA : HeldJob := { slot := 6, step := 0, at_ := 0, context := share 32, blocks := 0, key := none, work := share 32, blind := [] }

/-- RimshotAndPreemption: a Critical hash against a Bulk cipher with 128 blocks left; its resumption; an Interactive ECDH
against a Bulk one of a larger curve; and its resumption. -/
theorem witness_RimshotAndPreemption :
    (let q := { pealS [hashStep] with cls := 0 }
     let v := { pealS [ecbStep] with
       cls := 2, input := some (zeros 2048), steps := [{ runOn .running (some (.se 0)) none with started := up.clk.now }] }
     let s := twoPeals q v { clusterOne with se := { EngineRec.init with job := some (6, 0) } :: idleNone }
     s.peal 5 = some q ∧ s.peal 6 = some v ∧ q.stepDef 0 = some hashStep ∧ v.stepDef 0 = some ecbStep ∧
     canIssue s q.cluster = true ∧ (s.eng q.cluster false 0).job = some (6, 0) ∧ q.cls = 0 ∧
     q.stepReady 0 = true ∧ engKind hashStep.op.toNat = some .se ∧ pickSe s q hashStep = none ∧
     rimshotVictim s q = some 0) ∧
    (let v := { pealS [hashStep] with cls := 2, steps := [runOn .suspended (some (.se 0)) none] }
     let s := twoPeals (pealS []) v { clusterOne with se := [{ EngineRec.init with held := [heldA] }] }
     (s.eng 0 false 0).held = [heldA] ∧ seOf (v.run 0) = [0] ∧ (s.eng 0 false 0).job = none ∧
     canIssue s 0 = true ∧ criticalReady s 0 = false) ∧
    (let q := pealS [dhStep]
     let v := { pealS [dh521Step] with
       cls := 2, steps := [{ runOn .running (some (.pk 0 0)) none with started := up.clk.now }] }
     let s := twoPeals q v { clusterOne with pk := { EngineRec.init with job := some (6, 0) } :: idleNone }
     canIssue s q.cluster = true ∧ (s.eng q.cluster true 0).job = some (6, 0) ∧
     preemptVictim s q 0 = some 0 ∧ preemptedBy s q 0 = false) ∧
    (let v := { pealS [dhStep] with steps := [runOn .parked (some (.pk 0 0)) none] }
     let s := twoPeals (pealS []) v { clusterOne with pk := [{ EngineRec.init with held := [heldA] }] }
     (s.eng 0 true 0).held = [heldA] ∧ (s.eng 0 true 0).job = none ∧
     (s.eng 0 true 0).selfTest = none) := by decide +kernel

/-! Witnesses: commits and completions. -/

/-- A sealed peal of Toll class 3. -/
def sealedA : Peal := { pealS [] with sealedAt := some 9999999999, toll := 3 }
/-- `up` with it, and with a number of dirty counters of other tenants. -/
def upDirty (q : Peal) (n : Nat) : State :=
  (withPeal q up).mToll fun k => { k with dirty := (List.range n).map (· + 16) }

/-- CommitPointTakesOneCommit: a lapsed operation, a read-only peal, a Steward-held record, an open group with room and
without, and the dirty limit at 256 and at 255. -/
theorem witness_CommitPointTakesOneCommit :
    (let q := { sealedA with effect := .installKek 1 3 (zeros 32) none }
     let s := withPeal q { up with tenants := [(1, { tenantA with pendingKek := some kek })] }
     s.peal 5 = some q ∧ commitReady s 5 = true ∧ (effectLapse s q.effect).isSome = true) ∧
    (let q := { pealA 0xEE [] [] with sealedAt := some 9999999999 }
     commitReady (withPeal q up) 5 = true ∧ effectLapse (withPeal q up) q.effect = none ∧ q.readOnly = true) ∧
    (let q := { sealedA with effect := .userWrite 0 [1, 2, 3, 4] }
     let s := withPeal q up
     s.peal 5 = some q ∧ commitReady s 5 = true ∧ effectLapse s q.effect = none ∧ q.readOnly = false ∧
     0 < stewardWrites s q ∧ s.boot.stewardUp = true) ∧
    (let s := (withPeal sealedA up).mToll fun k => { k with journal := true }
     commitReady s 5 = true ∧ effectLapse s sealedA.effect = none ∧ sealedA.readOnly = false ∧
     stewardWrites s sealedA = 0 ∧ s.toll.journal = true ∧ s.toll.journalNext = none ∧
     groupWords s (s.clap.group ++ [5]) ≤ 255) ∧
    (let s := (({ up with peals := (5, sealedA) :: (List.range 255).map fun i =>
         (i + 100, { sealedA with phase := .grouped, fn := BitVec.ofNat 8 i }) }).mToll fun k => { k with journal := true }).mClap
       fun c => { c with group := (List.range 255).map fun i => BitVec.ofNat 12 (i + 100) }
     commitReady s 5 = true ∧ s.toll.journal = true ∧ s.toll.journalNext = none ∧
     255 < groupWords s (s.clap.group ++ [5])) ∧
    (let s := upDirty sealedA 255
     commitReady s 5 = true ∧ stewardWrites s sealedA = 0 ∧ s.toll.journal = false ∧
     255 < dirtyCount s + newDirty s sealedA ∧ sealedA.tollWait = false) ∧
    (let s := upDirty sealedA 254
     commitReady s 5 = true ∧ stewardWrites s sealedA = 0 ∧ s.toll.journal = false ∧
     dirtyCount s + newDirty s sealedA ≤ 255) := by decide +kernel

/-- CommitWaitsBehind255: 255 committed peals; and one more in a group that closes, or whose record is written. -/
theorem witness_CommitWaitsBehind255 :
    let s := { up with peals := (List.range 255).map fun i => (i, { pealS [] with phase := .committed }) }
    let n := (s.peals.filter fun e => e.2.phase == .committed).length
    255 ≤ n ∧ 255 < n + (s.mClap fun c => { c with group := [300] }).clap.group.length ∧
    255 < n + (s.mClap fun c => { c with writing := [300] }).clap.writing.length := by decide +kernel

/-- CommitIsOneTransaction, at the last count that does not wrap, in the highest charged class. -/
theorem witness_CommitIsOneTransaction :
    let q := { sealedA with toll := 15 }
    let s := (withPeal q up).mClap fun c => { c with count := 0xFFFFFFFE }
    s.peal 5 = some q ∧ q.readOnly = false ∧ q.effect = .none ∧ s.clap.count.toNat + 1 < 2 ^ 32 ∧ q.toll.toNat < 16 := by
  decide +kernel

theorem witness_CommitChangesNoOtherPeal :
    let s := { up with peals := [(5, sealedA), (6, sealedA)] }
    s.peal 5 = some sealedA ∧ sealedA.effect = .none ∧ (6 : PealSlot) ≠ 5 := by decide +kernel

/-- A record of the record log. -/
def recA : LogRec := { group := true, final := false, jm := true, seq := 1, words := [.ledger 2 0 0 1], valid := true }

/-- RecordsAndGroupsCommit: a Steward's record written, with a lapsed operation, at the dirty limit and past it; a group at its
2 ms, one of late commits alone, and one that closes as journal mode ends; and a group's record written. -/
theorem witness_RecordsAndGroupsCommit :
    (let q := { sealedA with phase := .writing }
     let s := withPeal q up
     s.peal 5 = some q ∧ q.phase = .writing ∧ q.storeWait = 0 ∧ s.clap.writing.contains 5 = false ∧
     (s.peals.filter fun e => e.2.phase == .committed).length < 255 ∧ s.gov.thermal ≠ 3 ∧ effectLapse s q.effect = none ∧
     dirtyCount s + newDirty s q ≤ 255 ∧
     (let v := upDirty q 255
      effectLapse v q.effect = none ∧ v.toll.journal = false ∧ 255 < dirtyCount v + newDirty v q)) ∧
    (let q := { sealedA with phase := .writing, effect := .installKek 1 3 (zeros 32) none }
     let s := withPeal q { up with tenants := [(1, { tenantA with pendingKek := some kek })] }
     s.peal 5 = some q ∧ (effectLapse s q.effect).isSome = true) ∧
    (let s := up.mClap fun c => { c with late := [.ledger 2 0 0 1], groupFull := true }
     s.clap.late ≠ [] ∧ s.toll.writing = none ∧ s.pwr.pfwarn = false ∧
     (s.peals.filter fun e => e.2.phase == .committed).length + s.clap.group.length ≤ 255 ∧ s.clap.groupFull = true) ∧
    (let s := (withPeal { sealedA with phase := .grouped } up).mClap fun c =>
       { c with group := [5], groupSince := 10000000000 - 2000000 }
     s.clap.group ≠ [] ∧ s.clap.writing = [] ∧ s.toll.writing = none ∧ s.pwr.pfwarn = false ∧
     s.clap.groupSince + 2000000 ≤ s.clk.now) ∧
    (let s := ((withPeal { sealedA with phase := .grouped } up).mClap fun c => { c with group := [5] }).mToll fun k =>
       { k with journal := true, journalNext := some false }
     s.clap.group ≠ [] ∧ s.clap.writing = [] ∧ s.toll.writing = none ∧ s.toll.journalNext = some false) ∧
    (let s := (up.mClap fun c => { c with groupDone := true, writing := [5] }).mToll fun k => { k with writing := some recA }
     s.clap.groupDone = true ∧ s.toll.writing = some recA ∧
     (s.peals.filter fun e => e.2.phase == .committed).length + s.clap.writing.length ≤ 255) := by decide +kernel

/-- A committed peal whose output waits. -/
def doneA : Peal := { pealA 0xF4 [] [1] with sealedAt := some 9999999999, phase := .committed, journalSeq := some 7, opOut := [1, 2] }

/-- CompletionIsPostedOnce: a failed peal, a committed one with an entry reserved and without, a suppressed one, one on a ring
in ERROR, on a DISABLED one, on a full one and on none; and POSTED due after 1,000 ns. -/
theorem witness_CompletionIsPostedOnce :
    (let q := { sealedA with phase := .failed }
     let s := withPeal q up
     s.peal 5 = some q ∧ q.phase = .failed ∧ q.dualPending = false ∧ q.suppressed = false ∧ boundCq s q.ring = some 0 ∧
     (s.cq 0).state = .enabled ∧ q.cplHeld = true ∧ canDma s q.fn = true ∧ s.gov.thermal ≠ 3) ∧
    (let q := { sealedA with phase := .failed, cplHeld := false }
     let s := withPeal q up
     (s.cq 0).state = .enabled ∧ 0 < (s.cq 0).free ∧ (withPeal q (upCq { cplA with state := .disabled })).cq 0 = { cplA with state := .disabled } ∧
     (let v := withPeal q (upCq { cplA with reserved := 16 })
      (v.cq 0).state = .enabled ∧ q.cplHeld = false ∧ (v.cq 0).free = 0) ∧
     boundCq (withPeal q (upFe fun e => { e with cqAssign := [] })) q.ring = none) ∧
    (let s := withPeal doneA up
     s.peal 5 = some doneA ∧ doneA.phase = .committed ∧ mayRelease s doneA = true ∧ boundCq s doneA.ring = some 0 ∧
     (s.cq 0).state = .enabled ∧ doneA.outFault = false) ∧
    (let q := { doneA with suppressed := true }
     (withPeal q up).peal 5 = some q ∧ mayRelease (withPeal q up) q = true ∧ q.suppressed = true) ∧
    (let s := withPeal doneA (upCq { cplA with state := .error })
     s.peal 5 = some doneA ∧ boundCq s doneA.ring = some 0 ∧ (s.cq 0).state = .error) ∧
    (let s := up.mClap fun k => { k with postedDue := [(7, 10000000000 - 1000)] }
     (s.clap.postedDue.any fun x => x.1 == 7 && decide (x.2 + 1000 ≤ s.clk.now)) = true) := by decide +kernel

theorem witness_ReturnedCreditIsCountedOnce :
    { ringA with outstanding := 1 }.outstanding ≠ 0 ∧ ringA.outstanding = 0 ∧
    131070 + { ringA with outstanding := 1 }.outstanding.toNat < 2 ^ 17 := by decide +kernel

/-- RefusedWritesOfTheHost: an output write, a completion write, and a timer of 3 us that has just run out. -/
theorem witness_RefusedWritesOfTheHost :
    (let s := withPeal doneA up
     s.peal 5 = some doneA ∧ doneA.phase = .committed ∧ doneA.suppressed = false ∧ mayRelease s doneA = true ∧
     canDma s doneA.fn = true ∧ doneA.outString ≠ [] ∧ doneA.journalSeq = some 7) ∧
    (let s := withPeal doneA up
     cqOwner s 0 = some 0 ∧ (s.cq 0).state = .enabled ∧ canDma s 0 = true ∧
     (s.peals.any fun e => (e.2.phase == .committed || e.2.phase == .failed) && !e.2.suppressed &&
       boundCq s e.2.ring == some 0) = true) ∧
    (let p : PendingCpl := { at_ := 10000000000 - 3000, critical := false }
     let s := upCq { cplA with chime := 3 * 2 ^ 20, pending := [p], irqEnable := true }
     cqOwner s 0 = some 0 ∧ (s.cq 0).pending = p :: [] ∧ p.at_ + 1000 * (s.cq 0).timer ≤ s.clk.now ∧
     0 < (s.cq 0).timer ∧ (s.cq 0).irqEnable = true) := by decide +kernel

/-- StoreCommandsAndTimers: a command of the Steward with spares and without; a gap over; a dirty counter one second after
the last record; journal mode with a battery; and a checkpoint's instant. -/
theorem witness_StoreCommandsAndTimers :
    (let c : NvCmd := { cls := 5, work := .retirement 0 }
     let s := up.mNv fun n => { n with current := some c }
     (remapPages c .done s).length ≤ s.nv.spares.toNat ∧ c.data.writes s.nv.array = (0, []) ∧
     s.nv.current = some c ∧ s.nv.held = false ∧ s.pwr.mainGood = true ∧ s.nv.spares ≠ 0 ∧ c.cls ≠ 1 ∧
     (match c.work with | .lifeCycle _ => false | _ => true) = true ∧ s.boot.awaitNoise = none ∧ (s.mNv fun n => { n with spares := 0 }).nv.spares = 0) ∧
    up.nv.gapUntil ≤ up.clk.now ∧
    (let s := up.mToll fun k => { k with dirty := [3], lastRecordAt := 0x200000 - 32768 }
     s.toll.dirty ≠ [] ∧ s.toll.journal = false ∧ s.toll.lastRecordAt + 32768 ≤ s.clk.vtime.toNat ∧
     s.pwr.pfwarn = false ∧ onMain s = true) ∧
    (let s := up.mKs fun k => { k with ledger := [(2, { key := 3, gen := 1, uses := 1, dirty := true })] }
     ∃ e ∈ s.ks.ledger, e.2.dirty = true) ∧
    (let s := { up with pwr := { up.pwr with battA := true, battASince := some (10000000000 - 1000000000) } }.mToll fun k =>
       { k with journal := true }
     onMain s = true ∧ journalWanted s = false ∧ s.toll.journal = true) ∧
    (onMain up = true ∧ up.clk.vtime.toNat % 2 ^ 21 = 0) ∧
    (let s := up.mKs fun k => { k with cells := [(0, { key := 3, gen := 1, h := 0, exhausted := false, committed := 0 })] }
     s.nv.unstored = [] ∧ (workFailed (.cell 3 0) s).ks.cells ≠ []) := by decide +kernel

/-! Witnesses: the governor and the noise sources. -/

/-- RefillBoundaryAndItsTables: a boundary exactly due, from a level that falls below zero; and the tables' edges. -/
theorem witness_RefillBoundaryAndItsTables :
    (let s := up.mGov fun g => { g with boundaryAt := 10000000000 - 10000, level := 0 }
     onMain s = true ∧ s.gov.boundaryAt + 10000 ≤ s.clk.now ∧ 0 ≤ s.gov.level ∧
     ((refill 0xFFFF s).mGov fun g => { g with boundaryAt := s.clk.now, packagePower := 0, basePower := 0xFFFF }).gov.level < 0) ∧
    ((0 : Nat) < 7 ∧ (6 : Nat) < 7) ∧
    (thermalAt 115 0 = 3 ∧ thermalAt 114 3 = 3 ∧ thermalAt 109 3 = 2 ∧ thermalAt 104 1 = 1 ∧ thermalAt 89 3 = 0) := by
  decide +kernel

/-- A noise window whose samples alternate. -/
def windowA : BitVec 1024 := BitVec.ofNat 1024 ((2 ^ 1024 - 1) / 3)
/-- `up` with cluster 3 in a state of its own. -/
def upCl (f : Cluster → Cluster) : State := up.mCluster 3 f

/-- GovernorRegistersAndGating: the cap's range and both sides of it, weights, and each state of a cluster. -/
theorem witness_GovernorRegistersAndGating :
    setupOn up 0 = true ∧
    (25 ≤ ((25#32).extractLsb' 0 7).toNat ∧ ((110#32).extractLsb' 0 7).toNat ≤ 110 ∧
      ((24#32).extractLsb' 0 7).toNat < 25 ∧ 110 < ((111#32).extractLsb' 0 7).toNat) ∧
    (let s := upCl fun k => { k with state := .powerGated, waking := some (10000000000 - 15000) }
     s.clusters.length = 16 ∧ (s.cluster 3).waking = some (10000000000 - 15000) ∧
     10000000000 - 15000 + wakeTime (s.cluster 3) ≤ s.clk.now) ∧
    (let s := upCl fun k => { k with idleSince := some (10000000000 - 5000) }
     idleFor s 3 .active (idleCg s) = true) ∧
    (let s := upCl fun k => { k with state := .clockGated, idleSince := some (10000000000 - 500000) }
     idleFor s 3 .clockGated (idlePg s) = true ∧ s.clusters.length = 16) ∧
    (let s := upCl fun k => { k with gating := true, wakeAfterGating := true }
     (s.cluster 3).gating = true ∧ s.clusters.length = 16) ∧
    (onMain up = true ∧ up.mode ≠ .lockdown ∧ up.ks.reshareAt + 960 ≤ up.clk.now) ∧
    (let s := { up with clk := { up.clk with vtime := 2097152 } }
     s.root.vault ≠ none ∧ aoRuns s = true ∧ s.pwr.mainGood = true ∧
     s.root.lastReshare + (if s.pwr.mainGood then 2097152 else 33554432) ≤ s.clk.vtime.toNat) ∧
    (let b : Barrier := { slot := some 7, key := keyNo 0 3, b := 9, revoke := true, destroyed := false, drained := false }
     let s := up.mKs fun k => { k with barriers := [b] }
     s.ks.barriers.find? (·.key == keyNo 0 3) = some b ∧ undrained s b = false) := by decide +kernel

/-- `up` with noise source 2 changed. -/
def upSrc (f : NoiseSource → NoiseSource) : State := up.mSource 2 f
/-- `up` with the generator of T0 past its reseed interval, in use since an instant, and a pool. -/
def upDrbg (pool : Nat) (d : Drbg) : State := (up.mRng fun g => { g with pool := List.replicate pool 0 }).mDrbg 0 fun _ => d

/-- NoiseAndGenerators. -/
theorem witness_NoiseAndGenerators :
    onMain up = true ∧
    ((up.source 2).state = .healthy ∧ up.rng.outage = false ∧ (windowTest (up.source 2) windowA).1 = true ∧
      (windowTest (up.source 2) 0).1 = false) ∧
    (let s := upSrc fun n => { n with fails := [0x200000 - 1, 0x200000] }
     (s.source 2).state = .healthy ∧ onMain s = true ∧
     3 ≤ ((s.source 2).recent s.clk.vtime.toNat ++ [s.clk.vtime.toNat]).length) ∧
    (let s := upSrc fun n => { n with state := .starting, startPassed := 3 }
     (s.source 2).state = .starting ∧ (s.source 2).startFailed ≠ 1 ∧ (s.source 2).startPassed = 3 ∧
     (windowTest (s.source 2) windowA).1 = true) ∧
    (let s := upSrc fun n => { n with state := .starting, startFailed := 1 }
     (s.source 2).state = .starting ∧ (s.source 2).startFailed = 1 ∧
     (s.source 2).failedAt + 1000000 ≤ s.clk.now) ∧
    (let s := upDrbg 3 { Drbg.none with instantiated := true, sinceReseed := 65536, reseedAt := 0x200000 }
     3 ≤ s.rng.pool.length ∧ s.rng.katFailed = false ∧ reseedDue s 0 = true) ∧
    (let s := upDrbg 2 { Drbg.none with instantiated := true, sinceReseed := 1048576, reseedAt := 0x200000 }
     atLimit s 0 = true ∧ s.rng.pool.length < 3) ∧
    (let s := upDrbg 3 { Drbg.none with instantiated := true, sinceReseed := 1048576, reseedAt := 0x200000 }
     3 ≤ s.rng.pool.length ∧ s.rng.katFailed = false ∧ atLimit s 0 = true) ∧
    (let h : HeldDraw := { inst := 0, who := .step 5 0, pr := false, at_ := 10000000000 - 50000000 }
     let q := pealS [hashStep]
     let s := withPeal q ((upDrbg 0 Drbg.none).mRng fun g => { g with held := [h] })
     s.rng.held.find? (fun h => h.who == .step 5 0) = some h ∧ h.at_ + 50000000 ≤ s.clk.now ∧
     (s.drbg h.inst).instantiated = false ∧ s.peal 5 = some q ∧ q.stepDef 0 = some hashStep ∧ q.isAdmin = false) ∧
    (let s := up.mRng fun g => { g with pool := List.replicate 17 0 }
     s.rng.outage = false ∧ s.mode ≠ .lockdown ∧ s.rng.maskAt + 10000000 ≤ s.clk.now ∧ s.clusters.length = 16 ∧
     1 + (masked s).length ≤ s.rng.pool.length ∧ (s.cluster 15).enabled = true ∧ (s.cluster 15).inService = true ∧
     s.rng.seedAt + 1000000000 ≤ s.clk.now ∧ 2 ≤ s.rng.pool.length) := by decide +kernel

/-! Witnesses: admin peals. -/

theorem witness_AdminOperationSealsItsPeal :
    let q := pealA 0xF4 [] [1]
    let s := withPeal q up
    s.peal 5 = some q ∧ q.phase = .running ∧ q.abort = none ∧ q.dualRun = false ∧ q.steps ≠ [] ∧
    (∀ r ∈ q.steps, r.fail = none) := by decide +kernel

/-! Witnesses: keys and tenants. -/

/-- A template of handle 3 for an algorithm, a parameter and a usage, unlimited, in PRE_ACTIVE. -/
def tplBytes (alg param usage : Nat) : Bytes :=
  natLe 32 (3 + alg * 2 ^ 32 + param * 2 ^ 40 + usage * 2 ^ 48 + 0xFFFFFFFF * 2 ^ 96)
/-- What it reads as. -/
def tpl (internal : Bool) (alg param usage : Nat) : Template :=
  { handle := 3, alg := alg, param := param, usage := usage, flags := templateFlags 0 0xFFFFFFFF internal, state := 0,
    limit := 0xFFFFFFFF }
/-- A key record of an algorithm: ACTIVE, exportable, critical, of no ledger entry or cell. -/
def keyA (alg : BitVec 8) (usage : BitVec 16) : KeyRec :=
  { alg := alg, param := 0, state := 1, flags := 0x08, usage := usage, ext := 0, gen := 7, parent := 0xFFFFFFFF,
    parentGen := 0, uses := 0, limit := 0xFFFFFFFF, ivHwm := 0, boot := 0, cell := 0xFFFF, ledger := 0xFFFF, kcv := 0,
    key := share (if alg = 3 then 32 else 16), pub := [], home := 0, chain := [], pinned := false, lastUse := 0,
    usesReserved := 0 }
/-- `up` with an AES-128 key of handle 8 and an AES-256 key of handle 9, T0's. -/
def upKeys : State := up.mKs fun k => { k with recs := [(keyNo 0 8, keyA 1 3), (keyNo 0 9, keyA 3 0x0C)] }
/-- `upKeys` with an admin peal in slot 5 whose keys are those of the handles. -/
def onKeys (id : BitVec 16) (handles : List Nat) (input : Bytes) : State :=
  withPeal (pealA id (handles.map (keyNo 0 ·)) input) upKeys

/-- A draw is served. -/
def isServed : Draw → Bool | .served _ => true | _ => false
theorem served_of {d : Draw × State} (h : isServed d.1 = true) : ∃ bs u, d = (.served bs, u) := by
  obtain ⟨d, u⟩ := d
  cases d <;> simp_all [isServed]

/-- The bytes of a served draw. -/
def servedBytes : Draw → Bytes | .served b => b | _ => []

/-- A generation peal of an algorithm can run, its template passes, and with these draws it needs no more. -/
def genMeets (id alg param usage : Nat) (algs : List Nat) (draws : List Bytes) : Bool :=
  let q := { pealA (BitVec.ofNat 16 id) [] (tplBytes alg param usage) with opDraws := draws }
  let s := withPeal q up
  s.peal 5 == some q && adminReady s q [id] && decide (genCheck q algs s = .inr (tpl true alg param usage)) &&
    (genNeed q.curves q.fn.toNat (instI (4 + q.cluster.toNat)) alg param draws).isNone

/-- KeysAreCreated: a generation by each command with the draws it needs; and draws served, held and failed. An RSA search's
end rests on values no one can choose; its generation can run. -/
theorem witness_KeysAreCreated :
    genMeets 0xD0 3 0 3 [1, 2, 3, 8, 9, 0x10] [zeros 32] = true ∧
    genMeets 0xD1 0x20 1 0x40 [0x20, 0x24, 0x26] [zeros 40, zeros 40] = true ∧
    genMeets 0xD1 0x24 4 0x40 [0x20, 0x24, 0x26] [zeros 32] = true ∧
    genMeets 0xD3 0x38 1 0x40 [0x38] [zeros 32, zeros 32] = true ∧
    genMeets 0xD4 0x3C 3 0x2000 [0x3C] [zeros 64, zeros 32] = true ∧
    (let q := pealA 0xD2 [] (tplBytes 0x30 64 0x42)
     let s := withPeal q up
     s.peal 5 = some q ∧ adminReady s q [0xD2] = true ∧ genCheck q [0x30] s = .inr (tpl true 0x30 64 0x42)) ∧
    (let s := withPeal (pealA 0xD0 [] (tplBytes 3 0 3)) up
     isServed (drawInTurn 5 0 0 32 true s).1 = true ∧
     (drawInTurn 5 0 0 32 true (s.mRng fun g => { g with pool := [] })).1 = .held ∧
     (drawInTurn 5 0 0 32 true (s.mRng fun g => { g with outage := true })).1 = .failed 1) := by decide +kernel

/-- An AES-256 key wrapped in a version D block under 32 bytes of zeros, by its usage and mode; its key is zeros too. -/
def blockOf (u v mode : Byte) : Bytes := x9Block true (zeros 32) [u, v] 0x41 mode 0x4E [] (zeros 32) 0

theorem blockOf_opens (u v mode : Byte) : ∃ b, readX9 (blockOf u v mode) = some b ∧ b.version = 0x44 ∧ b.usage = [u, v] ∧
    b.alg = 0x41 ∧ b.mode = mode ∧ b.exp = 0x4E ∧ x9Unwrap (b.version == 0x44) (zeros 32) b.head b.body = some (zeros 32) := by
  let head : Bytes := [0x44] ++ decimal 4 144 ++ [u, v] ++ [0x41, mode, 0x30, 0x30, 0x4E] ++ [0x30, 0x30] ++ [0x30, 0x30] ++ []
  let pad := (List.range 14).map (Config.padByte 0)
  have hp : (natBe 2 (8 * (zeros 32).length) ++ zeros 32 ++ pad).length = blkLen (!true) * 3 := by
    simp only [List.length_append, natBe_length, zeros_length, pad, List.length_map, List.length_range]; rfl
  have hw : (x9Wrap true (zeros 32) head (natBe 2 (8 * (zeros 32).length) ++ zeros 32 ++ pad)).length = 64 := by
    rw [x9Wrap_length _ _ _ _ 3 hp, hp]; rfl
  have e : blockOf u v mode = head ++ toHex (x9Wrap true (zeros 32) head (natBe 2 (8 * (zeros 32).length) ++ zeros 32 ++ pad)) := rfl
  refine ⟨_, e ▸ readX9_of head _ 0 (Nat.le_refl 16) (by rw [hw]; rfl) rfl rfl, rfl, rfl, rfl, rfl, rfl, ?_⟩
  exact x9Unwrap_x9Wrap true (zeros 32) head (zeros 32) pad 2 (by decide)
    (by simp only [zeros_length, pad, List.length_map, List.length_range]; rfl)

/-- KeysAreCreated: a derivation, and a record made. -/
theorem witness_KeysAreCreated_others :
    (let q := pealA 0xD6 [keyNo 0 8] (tplBytes 1 0 3)
     let s := onKeys 0xD6 [8] (tplBytes 1 0 3)
     s.peal 5 = some q ∧ adminReady s q [0xD6] = true ∧ parseTemplate false q.inputBytes = some (tpl false 1 0 3) ∧
     slotRec s q 0 = some (keyNo 0 8, keyA 1 3) ∧ derivable (tpl false 1 0 3).alg = true ∧ (keyA 1 3).parent = 0xFFFFFFFF) ∧
    ((newRecord upKeys 0 (tpl true 1 0 3) 0xFFFFFFFF 0).isSome = true ∧ (upKeys.tenant 0).kek = some kek) := by
  decide +kernel

/-- KeysAreCreated: an import of a data key, to encrypt and decrypt. -/
theorem witness_KeysAreCreated_import :
    let q := pealA 0xE0 [keyNo 0 9] (tplBytes 3 0 3 ++ blockOf 0x44 0x30 0x42)
    let s := withPeal q upKeys
    s.peal 5 = some q ∧ adminReady s q [0xE0] = true ∧ parseTemplate false q.inputBytes = some (tpl false 3 0 3) ∧
    slotRec s q 0 = some (keyNo 0 9, keyA 3 0x0C) ∧ importUsage (beNat [0x44, 0x30]) 0x42 3 = some 3 ∧
    versionFits 0x44 3 = true ∧ (tpl false 3 0 3).usage &&& 3 = (tpl false 3 0 3).usage ∧
    keyDefect q.curves 3 0 (zeros 32) = none ∧
    ∃ b, readX9 (q.inputBytes.drop 32) = some b ∧ b.version = 0x44 ∧ b.usage = [0x44, 0x30] ∧ b.alg = algLetter 3 ∧
      b.mode = 0x42 ∧ b.exp = 0x4E ∧
      x9Unwrap (b.version == 0x44) (keyA 3 0x0C).key.value b.head b.body = some (zeros 32) := by
  have hk : (keyA 3 0x0C).key.value = zeros 32 := by decide +kernel
  have hi : (pealA 0xE0 [keyNo 0 9] (tplBytes 3 0 3 ++ blockOf 0x44 0x30 0x42)).inputBytes.drop 32 = blockOf 0x44 0x30 0x42 :=
    List.drop_left' (natLe_length 32 _)
  dsimp only
  rw [hk, hi]
  exact ⟨rfl, by decide +kernel, by decide +kernel, by decide +kernel, by decide +kernel, by decide +kernel,
    by decide +kernel, by decide +kernel, blockOf_opens _ _ _⟩

/-- The attributes of handle 3 as a key without a counter cell and a ledger entry. -/
def attrsFree : BitVec 384 := attrsA ||| BitVec.ofNat 384 (0xFFFFFFFF * 2 ^ 256)

/-- The record of those attributes names no ledger entry and no cell. -/
theorem freeRec_indices (s u : State) (m : Bytes) :
    indicesMatch s (keyNo 0 3) (recOf7L u 0 (natLe 48 attrsFree.toNat) (zeros 16) (fit 16 m)) = true := by
  have hl : (bitsAt (leNat (natLe 48 attrsFree.toNat)) 272 16 : BitVec 16) = 0xFFFF := by decide +kernel
  have hc : (bitsAt (leNat (natLe 48 attrsFree.toNat)) 256 16 : BitVec 16) = 0xFFFF := by decide +kernel
  have hf : (bitsAt (leNat (natLe 48 attrsFree.toNat)) 24 8 : BitVec 8) = 0 := by decide +kernel
  simp [indicesMatch, recOf7L, KeyRec.limited, KeyRec.ivgen, hl, hc, hf]

/-- KeyPealsDoTheirOperation: a state change permitted by Table 6-9 and a destruction; a revocation; both pin operations at
the allowance; an export; a drop; reports of a resident key and of one to be read; allowances; a policy. -/
theorem witness_KeyPealsDoTheirOperation :
    (let q := pealA 0xD8 [keyNo 0 8] [2]
     let s := onKeys 0xD8 [8] [2]
     s.peal 5 = some q ∧ adminReady s q [0xD8] = true ∧ slotRec s q 0 = some (keyNo 0 8, keyA 1 3) ∧
     (s.tenant q.fn).kek = some kek ∧ (q.inputBytes.headD 0).toNat ≤ 4 ∧
     bitAt (kst q.pol.keyTable (keyA 1 3).state.toNat).2 2 = true ∧ (keyA 1 3).gen.toNat < 0x7FFFFFFF ∧
     rsetRoom s (keyNo 0 8) false = true ∧ rsetRoom s (keyNo 0 8) true = true ∧ (keyA 1 3).state ≠ 4) ∧
    (let q := pealA 0xD9 [keyNo 0 8] []
     adminReady (withPeal q upKeys) q [0xD9] = true) ∧
    (let q := pealA 0xDA [keyNo 0 8] [1]
     let s := withPeal q (upKeys.mKs fun k => { k with allowances := [(0, { Allowance.init with pins := 1 })] })
     adminReady s q [0xDA] = true ∧ q.inputBytes.headD 0 = 1 ∧ (keyA 1 3).critical = true ∧ (keyA 1 3).pinned = false ∧
     pinnedBy s q.fn + (keyA 1 3).size ≤ (allowance s q.fn).pins.toNat) ∧
    (let q := pealA 0xE1 [keyNo 0 8, keyNo 0 9] [0x45]
     let s := withPeal q upKeys
     adminReady s q [0xE1] = true ∧ slotRec s q 0 = some (keyNo 0 8, keyA 1 3) ∧
     slotRec s q 1 = some (keyNo 0 9, keyA 3 0x0C) ∧ q.inputBytes.headD 0 = 0x45 ∧ (keyA 1 3).nonExport = false ∧
     strength 1 ≤ strength 3) ∧
    (let q := pealA 0xDB [] (natLe 4 8)
     inputHandle q = some 8 ∧ adminReady (withPeal q upKeys) q [0xDB] = true) ∧
    (let q := pealA 0xDC [] (natLe 4 8)
     adminReady (withPeal q upKeys) q [0xDC] = true ∧ (withPeal q upKeys).krec (keyNo q.fn 8) = some (keyA 1 3)) ∧
    (let q := pealA 0xDC [] (natLe 4 3)
     let s := withPeal q (up.mFunc 0 fun f => { f with hktEntries := 8 })
     inputHandle q = some 3 ∧ adminReady s q [0xDC] = true ∧ s.krec (keyNo q.fn 3) = none ∧
     s.ks.fetches.any (·.key == keyNo q.fn 3) = false ∧ canDma s q.fn = true ∧
     (∃ (rd : HostRead) (r : Bytes → KeyRec), ∀ m, fetchOutcome s q.fn 3 rd m = .inr (r m) ∧ indicesMatch s (keyNo q.fn 3) (r m) = true ∧
       setRefuses s (keyNo q.fn 3) q.seq (r m) = false) ∧
     (let v := s.mKs fun k => { k with rset := [(keyNo 0 3, { minGen := 9, revoked := true, barrier := none, before_ := none })] }
      ∃ (rd : HostRead) (r : Bytes → KeyRec), ∀ m, fetchOutcome v q.fn 3 rd m = .inr (r m) ∧ setRefuses v (keyNo q.fn 3) q.seq (r m) = true)) ∧
    (let q := pealA 0xDD [] ([1, 0] ++ natLe 2 64 ++ natLe 2 32 ++ natLe 2 2 ++ natLe 4 8 ++ natLe 4 0)
     let s := withPeal q upKeys
     adminReady s q [0xDD] = true ∧ q.inputBytes.getD 1 0 = 0 ∧
     allowanceOk s (q.inputBytes.getD 0 0) (inputAllowance q.inputBytes) = true) ∧
    (let q := pealA 0xDE [] ((List.replicate 5 (natLe 4 0xFFFFFF)).flatten ++ zeros 12)
     adminReady (withPeal q upKeys) q [0xDE] = true ∧ (∀ i < 5, le q.inputBytes (4 * i) 4 < 2 ^ 24) ∧
     (∀ i < 8, 5 ≤ i → le q.inputBytes (4 * i) 4 = 0)) := by
  refine ⟨by decide +kernel, by decide +kernel, by decide +kernel, by decide +kernel, by decide +kernel, by decide +kernel,
    ⟨by decide +kernel, by decide +kernel, by decide +kernel, by decide +kernel, by decide +kernel,
      ⟨.entry hkeA (hostOf attrsFree), fun m => recOf7L _ 0 (natLe 48 attrsFree.toNat) (zeros 16) (fit 16 m), fun m =>
        ⟨fetch_hostOf attrsFree _ m (by decide +kernel) (by decide +kernel) (by decide +kernel) (by decide +kernel) (by decide +kernel),
          freeRec_indices _ _ m, by rfl⟩⟩,
      ⟨.entry hkeA (hostOf attrsFree), fun m => recOf7L _ 0 (natLe 48 attrsFree.toNat) (zeros 16) (fit 16 m), fun m =>
        ⟨fetch_hostOf attrsFree _ m (by decide +kernel) (by decide +kernel) (by decide +kernel) (by decide +kernel) (by decide +kernel),
          by rfl⟩⟩⟩, by decide +kernel, by decide +kernel⟩

/-- An intake session of T1 with both components of method 1 entered, and a remote one. -/
def sessionA : Session :=
  { id := 2, tenant := 1, method := 1, kekAlg := 1, opened := 0x200000, secret := share 64,
    parts := [(1, share 16), (2, share 16)] }
def sessionR : Session := { sessionA with method := 3, parts := [] }
/-- `up` with a peal in slot 5 and a change. -/
def onUp (id : BitVec 16) (input : Bytes) (f : State → State) : State := withPeal (pealA id [] input) (f up)

/-! A key under which a chosen signature is valid: of a message's scalar times the generator and the key, the chord is
horizontal, and the third point's abscissa is 1 modulo n. -/

/-- The abscissa of the other point on a horizontal chord, where the third has the abscissa r. -/
def otherX (p r x : Nat) : Nat := (2 * p - r - x % p) % p

/-- The third point of a horizontal chord. -/
theorem ecAdd_flat (p a r x y : Nat) (hp : 0 < p) (hr : r < p) (h : otherX p r x ≠ x) :
    ∃ z, ecAdd p a (some (x, y)) (some (otherX p r x, y % p)) = some (r, z) := by
  have h0 : subMod p (y % p) y = 0 := by
    have := Nat.mod_lt y hp
    rw [subMod, show y % p + (p - y % p) = p by omega, Nat.mod_self]
  have hx : x ≠ otherX p r x := fun e => h e.symm
  have h3 : subMod p 0 (x + otherX p r x) = r := by
    have hm := Nat.mod_lt x hp
    have : (x + otherX p r x) % p = (p - r) % p := by
      rw [otherX, ← Nat.mod_add_mod, Nat.add_mod_mod, show x % p + (2 * p - r - x % p) = (p - r) + p by omega,
        Nat.add_mod_right]
    rw [subMod, this]
    rcases Nat.eq_zero_or_pos r with rfl | h1
    · simp
    · rw [Nat.mod_eq_of_lt (show p - r < p by omega), show 0 + (p - (p - r)) = r by omega, Nat.mod_eq_of_lt hr]
  exact ⟨_, by simp only [ecAdd, hx, false_and, if_false, h0, Nat.zero_mul, Nat.zero_mod, Nat.mul_zero, h3]; rfl⟩

/-- A public key under which the signature of two ones is valid for a message. -/
def keyFor (msg : Bytes) : Bytes :=
  let q := match p384.mulG (ecdsaZ p384.n 1 msg % p384.n) with
    | none => (1, 1)
    | some (x, y) => (otherX p384.p (if otherX p384.p 1 x = x then p384.n + 1 else 1) x, y % p384.p)
  4 :: natBe 48 q.1 ++ natBe 48 q.2

/-- The signature of two ones. -/
def sigOnes : Bytes := natBe 48 1 ++ natBe 48 1

theorem xy_of (a b : Nat) (ha : a < p384.p) (hb : b < p384.p) : p384.xy (4 :: natBe 48 a ++ natBe 48 b) = (a, b) := by
  have hl : byteLen p384.p = 48 := by decide +kernel
  have hp : p384.p < 256 ^ 48 := by decide +kernel
  simp only [Domain.xy, hl, List.cons_append, List.drop_succ_cons, List.drop_zero, Nat.reduceAdd]
  rw [List.take_left' (natBe_length 48 a), List.drop_left' (natBe_length 48 a), beNat_natBe, beNat_natBe,
    Nat.mod_eq_of_lt (ha.trans hp), Nat.mod_eq_of_lt (hb.trans hp)]

/-- It is valid. -/
theorem ownerVerdict_keyFor (msg : Bytes) : ownerVerdict 1 (keyFor msg) msg sigOnes = .valid := by
  have hs : p384.readSig false sigOnes = some (1, 1) := by decide +kernel
  have hi : invMod p384.n 1 = 1 := by decide +kernel
  have hn : 1 < p384.n := by decide +kernel
  have hv : ∀ q, p384.verify q 1 msg 1 1 = (match ecAdd p384.p p384.a (p384.mulG (ecdsaZ p384.n 1 msg % p384.n)) (some q) with
      | some (x, _) => x % p384.n == 1
      | none => false) := by
    intro q
    simp only [Domain.verify, hi, Nat.mul_one, Nat.mod_eq_of_lt hn, Domain.mul, ecMul_one] <;> rfl
  have : p384.verify (p384.xy (keyFor msg)) 1 msg 1 1 = true := by
    rw [hv, keyFor]
    cases hg : p384.mulG (ecdsaZ p384.n 1 msg % p384.n) with
    | none =>
      dsimp only
      rw [xy_of 1 1 (by decide +kernel) (by decide +kernel)]
      decide +kernel
    | some v =>
      obtain ⟨x, y⟩ := v
      dsimp only
      have hp : 0 < p384.p := by decide +kernel
      rw [xy_of _ _ (by exact Nat.mod_lt _ hp) (Nat.mod_lt _ hp)]
      have hne : otherX p384.p (if otherX p384.p 1 x = x then p384.n + 1 else 1) x ≠ x := by
        split
        · rename_i h
          have hb : p384.n + 1 < p384.p := by decide +kernel
          have hx := h ▸ Nat.mod_lt (2 * p384.p - 1 - x % p384.p) hp
          intro h2
          have hd := Nat.sub_mod_eq_zero_of_mod_eq (h.trans h2.symm)
          have hm := Nat.mod_lt x hp
          rw [show 2 * p384.p - 1 - x % p384.p - (2 * p384.p - (p384.n + 1) - x % p384.p) = p384.n by omega,
            Nat.mod_eq_of_lt (by omega)] at hd
          exact absurd hd (by decide +kernel)
        · assumption
      obtain ⟨z, hz⟩ := ecAdd_flat p384.p p384.a (if otherX p384.p 1 x = x then p384.n + 1 else 1) x y hp
        (by split <;> decide +kernel) hne
      rw [hz]
      dsimp only
      split <;> decide +kernel
  simp only [ownerVerdict, show ((1 : BitVec 8) = 2) = False by decide, if_false, hs, hn, this]
  rfl

/-- A peal of T1. -/
def pealT1 (id : BitVec 16) (input : Bytes) : Peal := { pealA id [] input with fn := 1, window := (2, 16) }

/-- A message and the signature under its key. -/
theorem signed_valid (m : Bytes) (n : Nat) (h : m.length = n) :
    sigFault (ownerVerdict 1 (keyFor m) ((m ++ sigOnes).take n) ((m ++ sigOnes).drop n)) = none := by
  rw [List.take_left' h, List.drop_left' h, ownerVerdict_keyFor]
  rfl

/-- TenantsAreAdministered: creation of T2 and of T0's own key; a session that opens on number 0, with each bound of its
method. -/
theorem witness_TenantsAreAdministered :
    (let q := pealA 0xE2 [] ([2, 1] ++ zeros 6 ++ zeros 97)
     let s := withPeal q up
     s.peal 5 = some q ∧ adminReady s q [0xE2] = true ∧ tskBytes (q.inputBytes.getD 1 0) = some (q.inputBytes.length - 8) ∧
     zeroAt q.inputBytes 2 6 = true ∧ q.fn = 0 ∧ q.inputBytes.getD 0 0 ≠ 0 ∧ (s.tenant (q.inputBytes.getD 0 0)).state = .absent) ∧
    (let q := pealA 0xE2 [] ([0, 2] ++ zeros 6 ++ zeros 1952)
     let s := withPeal q { up with tenants := [(0, { tenantA with state := .creating, tsk := [] })] }
     adminReady s q [0xE2] = true ∧ tskBytes (q.inputBytes.getD 1 0) = some (q.inputBytes.length - 8) ∧
     zeroAt q.inputBytes 2 6 = true ∧ q.fn = 0 ∧ q.inputBytes.getD 0 0 = 0 ∧ (s.tenant 0).state = .creating ∧ (s.tenant 0).tsk = []) ∧
    (let q := pealA 0xE3 [] ([1, 1, 1] ++ zeros 5 ++ zeros 48)
     let s := withPeal q up
     let x := drawInTurn 5 0 (instI 0) (sessionDraw 1) true s
     let v := (freshBytes (sessionKey 1 (servedBytes x.1)).length
       ((unholdDraw 5 0 x.2).mPeal 5 fun p => { p with opDraws := p.opDraws ++ [servedBytes x.1] })).2
     q.opDraws = [] ∧ isServed x.1 = true ∧ isServed (drawInTurn 5 0 (instI 3) 56 false v).1 = true ∧ s.peal 5 = some q ∧
     adminReady s q [0xE3] = true ∧ 1 ≤ (q.inputBytes.getD 1 0).toNat ∧
     (q.inputBytes.getD 1 0).toNat ≤ 4 ∧ q.inputBytes.getD 2 0 = 1 ∧ zeroAt q.inputBytes 3 5 = true ∧
     mayIntake s q.fn (q.inputBytes.getD 0 0) = true ∧
     (openSessions s ++ opening s).any (·.tenant == q.inputBytes.getD 0 0) = false ∧
     freeIndex 4 ((openSessions s ++ opening s).map (·.id)) = some 0) ∧
    (let q := pealA 0xE3 [] ([1, 4, 3] ++ zeros 5 ++ zeros 48)
     adminReady (withPeal q up) q [0xE3] = true ∧ (q.inputBytes.getD 1 0).toNat ≤ 4 ∧ q.inputBytes.getD 2 0 = 3) ∧
    (∀ o ∈ [(0xE2, [2, 1] ++ zeros 6 ++ zeros 97), (0xE6, zeros 128), (0xEB, [1])],
      let q := pealT1 (BitVec.ofNat 16 o.1) o.2
      adminReady (withPeal q up) q [o.1] = true ∧ q.fn ≠ 0) := by
  decide +kernel

/-- The KEK component and what seals it, for a session, an index and an encapsulation of zeros. -/
def partKey : Bytes := 1 :: zeros 15
def partWrap (x : Session) (i : Nat) : Bytes := intakeWrap up x i ((sessionSecret x (zeros 1088)).getD [])
def partMsg : Bytes := partKey ++ kcvBytes (keyKcv 1 partKey [])
/-- A component of a session as its holder sends it. -/
def partBytes (x : Session) (i : Nat) : Bytes :=
  ([BitVec.ofNat 8 x.id, BitVec.ofNat 8 i] ++ zeros 6) ++ zeros 1088 ++
    aeadEnc false 16 (partWrap x i) (zeros 12) ([BitVec.ofNat 8 x.id, BitVec.ofNat 8 i] ++ zeros 6) partMsg

theorem partMsg_length : partMsg.length = 19 := by simp [partMsg, partKey, kcvBytes]

/-- The parts of a header, an encapsulation and a ciphertext put together before a rest. -/
theorem slices (h e c t : Bytes) (n m : Nat) (h8 : h.length = 8) (he : e.length = n) (hc : c.length = m) :
    (h ++ e ++ c ++ t).take 8 = h ∧ slice (h ++ e ++ c ++ t) 8 n = e ∧ slice (h ++ e ++ c ++ t) (8 + n) m = c := by
  subst he hc
  have e1 : h ++ e ++ c ++ t = h ++ (e ++ (c ++ t)) := by simp [List.append_assoc]
  have e2 : h ++ e ++ c ++ t = (h ++ e) ++ (c ++ t) := by simp [List.append_assoc]
  refine ⟨by rw [e1]; exact List.take_left' h8, ?_, ?_⟩
  · rw [slice, e1, List.drop_left' h8]; exact List.take_left' rfl
  · rw [slice, e2, List.drop_left' (by simp [h8])]; exact List.take_left' rfl

/-- A component so sealed opens under the session, whatever follows it. -/
theorem partBytes_opens (x : Session) (i : Nat) (s : State) (t : Bytes) (hm : x.method = 1 ∨ x.method = 3) (ha : x.kekAlg = 1)
    (hs : s.fuses.serial = up.fuses.serial) : intakeOpen s x i (partBytes x i ++ t) = (partMsg, true) := by
  have hc : (aeadEnc false 16 (partWrap x i) (zeros 12) ([BitVec.ofNat 8 x.id, BitVec.ofNat 8 i] ++ zeros 6) partMsg).length = 35 := by
    rw [aeadEnc_length, partMsg_length]
  have h4 : x.method ≠ 4 := by rcases hm with h | h <;> rw [h] <;> decide
  have hz : ∃ z, sessionSecret x (zeros 1088) = some z := by
    unfold sessionSecret; rw [if_neg h4]; exact ⟨_, rfl⟩
  obtain ⟨z, hz⟩ := hz
  obtain ⟨e3, e1, e2⟩ := slices ([BitVec.ofNat 8 x.id, BitVec.ofNat 8 i] ++ zeros 6) (zeros 1088) _ t 1088 35
    (by rw [List.length_append, zeros_length]; rfl) (zeros_length _) hc
  simp only [intakeOpen, partBytes, h4, if_false, e1, hz, ha, kekLen, if_true, e2, e3, Nat.reduceAdd]
  have hw : intakeWrap s x i z = partWrap x i := by simp [partWrap, hz, intakeWrap, hs]
  rw [hw, aeadDec_aeadEnc]

theorem partBytes_length (x : Session) (i : Nat) : (partBytes x i).length = 1131 := by
  rw [partBytes, List.length_append, List.length_append, List.length_append, zeros_length, zeros_length, aeadEnc_length,
    partMsg_length]
  rfl

/-- TenantsAreAdministered: a component of a ceremony, entered. -/
theorem witness_TenantsAreAdministered_component :
    let x := { sessionA with parts := [(1, share 16)] }
    let q := pealA 0xE4 [] (partBytes x 2)
    let s := withPeal q { up with sessions := [x] }
    s.peal 5 = some q ∧ callerSession s q.fn (q.inputBytes.headD 0).toNat = some x ∧ adminReady s q [0xE4] = true ∧
    q.inputBytes.length = intakeLen x (s.tenant x.tenant).tskAlg ∧ zeroAt q.inputBytes 2 6 = true ∧
    (intakeIndices x.method).contains (q.inputBytes.getD 1 0).toNat = true ∧
    x.parts.any (·.1 == (q.inputBytes.getD 1 0).toNat) = false ∧ x.method.toNat < 3 ∧ partKey.length = kekLen x.kekAlg ∧
    intakeOpen s x 2 q.inputBytes = (partKey ++ kcvBytes (keyKcv x.kekAlg.toNat partKey []), true) ∧
    partKey.all (· == 0) = false := by
  refine ⟨rfl, by decide +kernel, by decide +kernel, partBytes_length _ 2, by decide +kernel, by decide +kernel,
    by decide +kernel, by decide +kernel, by decide +kernel, ?_, by decide +kernel⟩
  have := partBytes_opens { sessionA with parts := [(1, share 16)] } 2
    (withPeal (pealA 0xE4 [] (partBytes { sessionA with parts := [(1, share 16)] } 2)) { up with sessions := [{ sessionA with parts := [(1, share 16)] }] })
    [] (.inl rfl) rfl rfl
  rwa [List.append_nil] at this

/-- TenantsAreAdministered: a remote package under its tenant's signature, entered. -/
theorem witness_TenantsAreAdministered_package :
    let bs := partBytes sessionR 0 ++ sigOnes
    let q := pealA 0xE4 [] bs
    let s := withPeal q { up with
      sessions := [sessionR], tenants := [(0, tenantA), (1, { tenantA with tskAlg := 1, tsk := keyFor (partBytes sessionR 0) })] }
    callerSession s q.fn (q.inputBytes.headD 0).toNat = some sessionR ∧ adminReady s q [0xE4] = true ∧
    q.inputBytes.length = intakeLen sessionR (s.tenant sessionR.tenant).tskAlg ∧ zeroAt q.inputBytes 2 6 = true ∧
    (intakeIndices sessionR.method).contains (q.inputBytes.getD 1 0).toNat = true ∧
    sessionR.parts.any (·.1 == (q.inputBytes.getD 1 0).toNat) = false ∧ sigFault (intakeVerdict s sessionR q.inputBytes) = none ∧
    intakeOpen s sessionR 0 q.inputBytes = (partKey ++ kcvBytes (keyKcv sessionR.kekAlg.toNat partKey []), true) := by
  refine ⟨by decide +kernel, by decide +kernel, ?_, by decide +kernel, by decide +kernel, by decide +kernel, ?_,
    ?_⟩
  · change (partBytes sessionR 0 ++ sigOnes).length = 1227
    rw [List.length_append, partBytes_length]; rfl
  · generalize partBytes sessionR 0 = m
    exact signed_valid m _ (((congrArg (· - 96) (List.length_append (as := m) (bs := sigOnes))).trans
      (Nat.add_sub_cancel _ 96)).symm)
  · have h := fun s => partBytes_opens sessionR 0 s sigOnes (.inr rfl) rfl
    generalize partBytes sessionR 0 = m at h ⊢
    exact h _ rfl

/-- TenantsAreAdministered: a close, and an import of a KEK. -/
theorem witness_TenantsAreAdministered_keks :
    (let q := pealA 0xE5 [] [2]
     let s := withPeal q { up with sessions := [sessionA] }
     callerSession s q.fn (q.inputBytes.headD 0).toNat = some sessionA ∧ adminReady s q [0xE5] = true ∧
     (intakeIndices sessionA.method).all (fun i => sessionA.parts.any (·.1 == i)) = true ∧
     (s.tenant sessionA.tenant).pendingKek = none) ∧
    (let q := pealA 0xE6 [keyNo 0 9] ([1] ++ zeros 7 ++ blockOf 0x4B 0x30 0x42)
     let s := withPeal q upKeys
     adminReady s q [0xE6] = true ∧ q.fn = 0 ∧ slotRec s q 0 = some (keyNo 0 9, keyA 3 0x0C) ∧
     zeroAt q.inputBytes 1 7 = true ∧ versionFits 0x44 3 = true ∧ beNat [0x4B, 0x30] = 0x4B30 ∧
     (s.tenant (q.inputBytes.getD 0 0)).pendingKek = none ∧ strength (kekAlgOf (zeros 32)).toNat ≤ strength 3 ∧
     ∃ b, readX9 (q.inputBytes.drop 8) = some b ∧ b.version = 0x44 ∧ b.usage = [0x4B, 0x30] ∧ b.alg = 0x41 ∧ b.mode = 0x42 ∧
       b.exp = 0x4E ∧ x9Unwrap (b.version == 0x44) (keyA 3 0x0C).key.value b.head b.body = some (zeros 32)) := by
  refine ⟨by decide +kernel, by decide +kernel, rfl, by decide +kernel, by decide +kernel, by decide +kernel, by decide +kernel,
    by decide +kernel, by decide +kernel, ?_⟩
  have hk : (keyA 3 0x0C).key.value = zeros 32 := by decide +kernel
  rw [hk]
  exact blockOf_opens _ _ _

/-- TenantsAreAdministered: an unsigned rotation of the table-signing key, one of the KEK, its end, and a destruction. -/
theorem witness_TenantsAreAdministered_rotations :
    (let q := pealA 0xE7 [] ([1] ++ natLe 4 2 ++ zeros 3 ++ zeros 97)
     let s := withPeal q { up with tenants := [(0, tenantA), (3, { tenantA with tskAlg := 1, state := .creating })] }
     adminReady s q [0xE7] = true ∧
     rotateTarget s q.fn (q.inputBytes.length == 8 + 97) (le q.inputBytes 1 4) = (3, true) ∧
     (s.tenant 3).tsk ≠ [] ∧ le q.inputBytes 1 4 = (s.tenant 3).tskGen.toNat + 1 ∧ q.inputBytes.length = 8 + 97) ∧
    (let g : Kek := { alg := 3, gen := 2, key := zeros 32 }
     let q := { pealA 0xE8 [keyNo 0 8] [] with pol := { keyTable := none, alg := 0, pendingGen := some 2 } }
     let s := withPeal q { upKeys with tenants := [(0, { tenantA with pendingKek := some g })] }
     rewrapKek s q = some g ∧ adminReady s q [0xE8] = true ∧ slotRec s q 0 = some (keyNo 0 8, keyA 1 3)) ∧
    (let q := pealA 0xEA [] []
     adminReady (withPeal q up) q [0xEA] = true) ∧
    (let q := pealA 0xEB [] [1]
     let s := withPeal q (upIn .maintenance)
     adminReady s q [0xEB] = true ∧ q.fn = 0 ∧ s.mode = .maintenance ∧ (s.tenant (q.inputBytes.headD 0)).state ≠ .absent ∧
     ringsDisabled s (q.inputBytes.headD 0) = true) := by decide +kernel

/-- TenantsAreAdministered: a rotation of the table-signing key, signed by the old one. -/
theorem witness_TenantsAreAdministered_signed :
    let m : Bytes := [1] ++ natLe 4 2 ++ zeros 3 ++ zeros 97
    let q := pealA 0xE7 [] (m ++ sigOnes)
    let s := withPeal q { up with tenants := [(0, { tenantA with tskAlg := 1, tsk := keyFor m })] }
    adminReady s q [0xE7] = true ∧ tskBytes (q.inputBytes.getD 0 0) = some 97 ∧
    rotateTarget s q.fn (q.inputBytes.length == 8 + 97) (le q.inputBytes 1 4) = (0, false) ∧
    (s.tenant 0).state = .active ∧ (s.tenant 0).tsk ≠ [] ∧ zeroAt q.inputBytes 5 3 = true ∧
    le q.inputBytes 1 4 = (s.tenant 0).tskGen.toNat + 1 ∧
    q.inputBytes.length = 8 + 97 + (sigBytes (s.tenant 0).tskAlg).getD 0 ∧
    sigFault (ownerVerdict (s.tenant 0).tskAlg (s.tenant 0).tsk (q.inputBytes.take (8 + 97)) (q.inputBytes.drop (8 + 97))) = none := by
  refine ⟨by decide +kernel, by decide +kernel, by decide +kernel, by decide +kernel, by decide +kernel, by decide +kernel,
    by decide +kernel, by decide +kernel, ?_⟩
  have h : ([1] ++ natLe 4 2 ++ zeros 3 ++ zeros 97 : Bytes).length = 105 := by decide +kernel
  generalize ([1] ++ natLe 4 2 ++ zeros 3 ++ zeros 97 : Bytes) = m at h ⊢
  exact signed_valid m 105 h

/-- TenantsAreAdministered: the check value of the pending KEK. -/
theorem witness_TenantsAreAdministered_finish :
    let g : Kek := { alg := 3, gen := 2, key := zeros 32 }
    let q := pealA 0xE9 [] (kcvBytes g.kcv ++ [0])
    let s := withPeal q { up with tenants := [(0, { tenantA with pendingKek := some g })] }
    s.peal 5 = some q ∧ (s.tenant q.fn).pendingKek = some g ∧ adminReady s q [0xE9] = true ∧ q.inputBytes.getD 3 0 = 0 ∧
    q.inputBytes.take 3 = kcvBytes g.kcv :=
  ⟨rfl, rfl, by decide +kernel, rfl, rfl⟩

/-- `up` with a window of 16 pages from page 2 for T1, and a byte stored. -/
def upWin : State := up.mNv fun n => { n with windows := [(1, (2, 16))], array := [(userBase + 3, 7)], wear := [(2048, 5)] }

/-- A read peal can run. -/
def reads (id : BitVec 16) (keys : List Nat) (input : Bytes) (s : State) : Bool :=
  let q := pealA id keys input
  (withPeal q s).peal 5 == some q && adminReady (withPeal q s) q [id.toNat]

/-- DeviceAnswersForItself: each read peal can run, with the bounds of its input. -/
theorem witness_DeviceAnswersForItself :
    (reads 0xED [] [1] up = true ∧ reads 0xEE [] [] up = true ∧ reads 0xF9 [] [] up = true ∧
      reads 0xFA [] (zeros 8) up = true ∧ reads 0xFA [] (zeros 8 ++ [1]) up = true ∧ reads 0xF3 [] [] up = true ∧
      reads 0xFD [] [] up = true ∧ reads 0xF5 [] [1] up = true ∧ reads 0xF2 [] [4] up = true) ∧
    (reads 0xFB [] (zeros 8 ++ natLe 4 256) up = true ∧ le (zeros 8 ++ natLe 4 256) 8 4 = 256 ∧
      le (zeros 8 ++ natLe 4 1) 8 4 = 1) ∧
    (let q := pealA 0xEC [keyNo 0 8, keyNo 0 9] ([1] ++ zeros 15)
     let s := withPeal q upKeys
     adminReady s q [0xEC] = true ∧ slotRec s q 0 = some (keyNo 0 8, keyA 1 3) ∧
     slotRec s q 1 = some (keyNo 0 9, keyA 3 0x0C) ∧ zeroAt q.inputBytes 1 7 = true ∧ q.inputBytes.headD 0 = 1 ∧
     isAes 1 = true ∧ strength 1 ≤ strength 3) ∧
    (let q := pealA 0xEC [keyNo 0 7, keyNo 0 9] ([2] ++ zeros 14 ++ [0xE0])
     let s := withPeal q (up.mKs fun k => { k with recs := [(keyNo 0 7, keyA 8 0x800), (keyNo 0 9, keyA 3 0x0C)] })
     adminReady s q [0xEC] = true ∧ slotRec s q 0 = some (keyNo 0 7, keyA 8 0x800) ∧
     slotRec s q 1 = some (keyNo 0 9, keyA 3 0x0C) ∧ q.inputBytes.headD 0 = 2 ∧ isAes 8 = false ∧
     (q.inputBytes.getD 15 0).toNat % 32 = 0 ∧ strength 8 ≤ strength 3) ∧
    (let q := pealT1 0xF2 ([1, 0] ++ natLe 2 256 ++ natLe 4 0)
     let s := withPeal q upWin
     adminReady s q [0xF2] = true ∧ q.inputBytes.length = 8 ∧ q.inputBytes.headD 0 = 1 ∧ zeroAt q.inputBytes 1 1 = true ∧
     le q.inputBytes 2 2 = 256 ∧ le q.inputBytes 4 4 + 256 ≤ 16 * q.window.2.toNat ∧ 16 * q.window.1.toNat = 32 ∧
     userBusy s q (16 * 32) (16 * 256) = false ∧ s.nv.lost = [] ∧ smSorted s.nv.wear = true ∧
     ((regionPages 1).1 ≤ 2048 ∧ 2048 < (regionPages 1).2 → smFind 2048 s.nv.wear = some 5)) := by decide +kernel

/-- DeviceAnswersForItself: an attestation's key, and its draw served. -/
theorem witness_DeviceAnswersForItself_attestation :
    (let q := pealA 0xF8 [keyNo 0 8] (zeros 48)
     q.opDraws = [] ∧ adminReady (withPeal q upKeys) q [0xF8] = true ∧ slotRec (withPeal q upKeys) q 0 = some (keyNo 0 8, keyA 1 3)) ∧
    ∃ bs u, drawInTurn 5 0 (instI 3) 56 false (withPeal (pealA 0xF8 [keyNo 0 8] (zeros 48)) upKeys) = (.served bs, u) :=
  ⟨by decide +kernel, served_of (by decide +kernel)⟩

/-- UserWriteChangesItsWordsOnly: a write of two words, one of the most words, a window up to the last page, new pages cut
into commands, and a command that ends. -/
theorem witness_UserWriteChangesItsWordsOnly :
    (let q := pealT1 0xF2 ([2, 0] ++ natLe 2 2 ++ natLe 4 1 ++ zeros 32)
     let s := withPeal q upWin
     s.peal 5 = some q ∧ adminReady s q [0xF2] = true ∧ q.inputBytes.length = 8 + 16 * 2 ∧ q.inputBytes.headD 0 = 2 ∧
     zeroAt q.inputBytes 1 1 = true ∧ le q.inputBytes 2 2 = 2 ∧ le q.inputBytes 4 4 + 2 ≤ 16 * q.window.2.toNat ∧
     16 * q.window.1.toNat + le q.inputBytes 4 4 = 33 ∧ (33 + 2 - 1) / 16 < 33 / 16 + 16) ∧
    (let q := pealT1 0xF2 ([2, 0] ++ natLe 2 256 ++ natLe 4 0 ++ zeros 4096)
     let s := withPeal q upWin
     adminReady s q [0xF2] = true ∧ q.inputBytes.length = 8 + 16 * 256 ∧ le q.inputBytes 2 2 = 256 ∧
     le q.inputBytes 4 4 + 256 ≤ 16 * q.window.2.toNat ∧ 16 * q.window.1.toNat + le q.inputBytes 4 4 = 32 ∧
     (32 + 256 - 1) / 16 < 32 / 16 + 16) ∧
    (let q := pealA 0xF2 [] ([3, 1, 0, 0] ++ natLe 2 2046 ++ natLe 2 2 ++ zeros 8)
     let s := withPeal q up
     q.fn = 0 ∧ adminReady s q [0xF2] = true ∧ q.inputBytes.length = 16 ∧ q.inputBytes.headD 0 = 3 ∧
     q.inputBytes.getD 1 0 ≠ 0 ∧ zeroAt q.inputBytes 2 2 = true ∧ zeroAt q.inputBytes 8 8 = true ∧
     le q.inputBytes 4 2 ≤ 2047 ∧ le q.inputBytes 4 2 + le q.inputBytes 6 2 ≤ 2048 ∧
     windowClash s (q.inputBytes.getD 1 0).toNat (le q.inputBytes 4 2) (le q.inputBytes 6 2) = false) ∧
    ((pageRuns (newPages upWin 1 2 20))[0]? = some (18, 4) ∧ pageRuns (List.range 20) = [(0, 16), (16, 4)]) ∧
    (let c : NvCmd := { cls := 5, work := .stewardRecord 5 0, data := .words (userBase + 16) (zeros 31 ++ [9]) }
     let s := up.mNv fun n => { n with current := some c }
     s.nv.wf = true ∧ s.nv.current = some c ∧ c.cls ≠ 1 ∧ c.data = .words (userBase + 16) (zeros 31 ++ [9]) ∧
     s.nv.held = false ∧ s.pwr.mainGood = true ∧ s.boot.awaitNoise = none ∧
     (wornPages s (c.data.pages s.nv.array)).length ≤ s.nv.spares.toNat) := by decide +kernel

/-- An image's header bytes 0 to 27, a key generation, its other bytes, and a signature (Table 4-3). -/
def imageOf (kind version tenant : Nat) (seq : Nat) (keygen : Nat) (count : Nat) (body sig : Bytes) : Bytes :=
  (natLe 4 0x42544C5A ++ natLe 1 kind ++ natLe 1 version ++ natLe 1 tenant ++ [1] ++ natLe 4 seq ++
    natLe 4 body.length ++ natLe 2 count ++ zeros 10) ++ (natLe 4 keygen ++ (zeros 32 ++ body ++ sig))
/-- A cost table body of one default record for each operation. -/
def costBody : Bytes :=
  [1, 2, 3, 4, 5, 6, 7, 0] ++ natLe 2 256 ++ natLe 2 256 ++ zeros 20 ++
  ([0x01, 0x02, 0x03, 0x04, 0x05, 0x06, 0x07, 0x08, 0x09, 0x0A, 0x10, 0x11, 0x12, 0x18, 0x19, 0x1A, 0x1C, 0x40, 0x41, 0x42,
    0x43, 0x44, 0x45, 0x48, 0x4A, 0x4B, 0x4C, 0x4D, 0x4E, 0x50, 0x51, 0x52, 0x54, 0x55, 0x60, 0x68].map
      fun o => natLe 80 o).flatten ++ ((List.range 16).map fun o => natLe 80 (0x70 + o)).flatten
/-- `up` with T0's table-signing key of the first algorithm. -/
def upTsk : State := { up with tenants := [(0, { tenantA with tskAlg := 1 })] }
/-- An empty table of T0, signed. -/
def imgA (kind version : Nat) : Bytes := imageOf kind version 0 7 1 0 [] sigOnes
/-- `up` with the key that signed it. -/
def upImg (kind version : Nat) (m : Mode) : State :=
  { up with tenants := [(0, { tenantA with tskAlg := 1, tsk := keyFor ((imgA kind version).take 64) })], mode := m }

/-- TablesAndPoliciesChange: the signature of a table of each kind is valid. -/
theorem witness_TablesAndPoliciesChange_signed :
    (let h := parseTblHeader (imgA 1 3)
     imageVerdict (withPeal (pealA 0xF0 [] (imgA 1 3)) (upImg 1 3 .serve)) h (imgA 1 3) = .valid) ∧
    (let h := parseTblHeader (imgA 2 1)
     imageVerdict (withPeal (pealA 0xF1 [] (imgA 2 1)) (upImg 2 1 .maintenance)) h (imgA 2 1) = .valid) := by
  have go (id : BitVec 16) (m : Mode) (bs : Bytes) (hb : (parseTblHeader bs).bodyLen = 0) (ht : (parseTblHeader bs).tenant = 0)
      (hs : bs.drop 64 = sigOnes) : imageVerdict (withPeal (pealA id [] bs) { up with
        tenants := [(0, { tenantA with tskAlg := 1, tsk := keyFor (bs.take 64) })], mode := m }) (parseTblHeader bs) bs = .valid := by
    rw [imageVerdict, hb, ht, Nat.add_zero, hs]
    exact ownerVerdict_keyFor (bs.take 64)
  exact ⟨go 0xF0 .serve _ (by decide +kernel) (by decide +kernel) (by decide +kernel),
    go 0xF1 .maintenance _ (by decide +kernel) (by decide +kernel) (by decide +kernel)⟩

/-- TablesAndPoliciesChange: a load of a table of each kind that passes, at its own and in Maintenance. -/
theorem witness_TablesAndPoliciesChange :
    (let bs := imgA 1 3
     let q := pealA 0xF0 [] bs
     let s := withPeal q (upImg 1 3 .serve)
     let h := parseTblHeader bs
     s.peal 5 = some q ∧ q.inputBytes = bs ∧ headerCheck s q h bs = none ∧ tableWaits s q h.kind.toNat = false ∧
     bodyCheck s h (imageBody h bs) = some (.peals []) ∧ adminReady s q [0xF0] = true) ∧
    (let bs := imgA 2 1
     let q := pealA 0xF1 [] bs
     let s := withPeal q (upImg 2 1 .maintenance)
     let h := parseTblHeader bs
     q.inputBytes = bs ∧ headerCheck s q h bs = none ∧ tableWaits s q h.kind.toNat = false ∧
     bodyCheck s h (imageBody h bs) = some (.fmts []) ∧ adminReady s q [0xF1] = true ∧ s.mode = .maintenance) ∧
    (let q := pealA 0xF4 [] [2]
     let s := withPeal q up
     adminReady s q [0xF4] = true ∧ tableWaits s q 0 = false ∧ crossOk (tabPeals s q.fn) [] (curvesOf s q.fn) = true ∧
     crossOk (tabPeals s q.fn) (tabFmts s q.fn) [] = true) ∧
    (let bs : Bytes := [1, 15, 0, 0, 0, 0xFE, 0, 0]
     let q := pealA 0xF5 [] bs
     adminReady (withPeal q up) q [0xF5] = true ∧ bs.length = 8 ∧ (bs.getD 1 0).toNat < 16 ∧
     (bs.getD 5 0).getLsbD 0 = false ∧ zeroAt bs 6 2 = true) ∧
    (let bs := [1] ++ zeros 39
     let q := pealA 0xF6 [] bs
     adminReady (withPeal q up) q [0xF6] = true ∧ zeroAt bs 1 7 = true) ∧
    (let bs := zeros 8 ++ List.replicate 512 0x0F
     let q := pealA 0xF7 [] bs
     adminReady (withPeal q up) q [0xF7] = true ∧ zeroAt bs 1 7 = true) ∧
    reads 0xFC [] [] up = true ∧ reads 0xDF [] [1] up = true ∧
    (reads 0xDF [] [2] (upIn .maintenance) = true ∧ (upIn .maintenance).boot.fwBusy = false ∧
      (upIn .maintenance).lc.busy = false) := by decide +kernel

/-- TablesAndPoliciesChange: every entry of that map is permitted, and the bounds of the others. -/
theorem witness_TablesAndPoliciesChange_map :
    (∀ i < 512, tollEntryOk i ((zeros 8 ++ List.replicate 512 (0x0F : Byte)).getD (8 + i) 0) = true) ∧
    tollEntryOk 256 0xFE = true ∧ tollEntryOk 255 0xFE = false ∧ tollEntryOk 0 0xFF = true ∧ tollEntryOk 0 0x10 = false := by
  refine ⟨fun i hi => ?_, by decide⟩
  have : (zeros 8 ++ List.replicate 512 (0x0F : Byte)).getD (8 + i) 0 = 0x0F := by
    have h8 : (zeros 8).length = 8 := rfl
    rw [List.getD, List.getElem?_append_right (by omega), h8, Nat.add_sub_cancel_left, List.getElem?_replicate,
      if_pos hi, Option.getD_some]
  rw [this]
  simp [tollEntryOk]


/-- The cost table's image, of Lenzius's key generation, and its header. -/
def costImg : Bytes := imageOf 4 1 0 7 Config.lenziusKeygen.toNat 52 costBody (zeros 96)
def costHdr : TblHeader :=
  { magic := 0x42544C5A, kind := 4, version := 1, tenant := 0, sigAlg := 1, seq := 7, bodyLen := costBody.length,
    count := 52, scope := 0, keygen := Config.lenziusKeygen, clean := true }

theorem leNat_natLe4 (x : BitVec 32) : BitVec.ofNat 32 (leNat (natLe 4 x.toNat)) = x := by
  apply BitVec.eq_of_toNat_eq
  simp only [natLe, leNat, BitVec.toNat_ofNat]
  omega

theorem costHdr_of_img : parseTblHeader costImg = costHdr := by
  have k : BitVec.ofNat 32 (le costImg 28 4) = Config.lenziusKeygen := by
    have : le costImg 28 4 = leNat (natLe 4 Config.lenziusKeygen.toNat) := by
      rfl
    rw [this, leNat_natLe4]
  have c : (le costImg 18 2 == 0 && le costImg 32 32 == 0) = true := by decide +kernel
  simp only [parseTblHeader, costHdr, TblHeader.mk.injEq]
  exact ⟨by decide +kernel, by decide +kernel, by decide +kernel, by decide +kernel, by decide +kernel, by decide +kernel,
    by decide +kernel, by decide +kernel, by decide +kernel, k, c⟩
/-- TablesAndPoliciesChange: a load of the cost table, its keys those of Lenzius, whatever their generation. -/
theorem witness_TablesAndPoliciesChange_costs :
    let q := pealA 0xFE [] costImg
    let s := withPeal q upTsk
    s.peal 5 = some q ∧ q.inputBytes = costImg ∧ parseTblHeader costImg = costHdr ∧
    headerCheck s q costHdr costImg = none ∧ adminReady s q [0xFE] = true ∧
    ∃ t, parseCosts costHdr.count (imageBody costHdr costImg) = some t := by
  refine ⟨rfl, rfl, costHdr_of_img, ?_, by decide +kernel, Option.isSome_iff_exists.1 (by decide +kernel)⟩
  have f : headerForm costHdr costImg = true := by decide +kernel
  have c : ((pealA 0xFE [] costImg).entry.id == 0xFE) = true := by decide +kernel
  have g : costHdr.keygen = Config.lenziusKeygen := rfl
  simp only [headerCheck, f, c, g, if_true, ne_eq, not_true_eq_false]
  decide +kernel

/-! Witnesses: the Toll and the pair. -/

/-- A request of the Toll can run on a state. -/
def tolls (input : Bytes) (s : State) : Bool :=
  let q := pealA 0xFF [] input
  (withPeal q s).peal 5 == some q && tollReady (withPeal q s) q && !tollBusy (withPeal q s) (some 5) &&
    !tollAhead (withPeal q s) q
/-- A seal token over an operation and an identifier, with its signature. -/
def tokenA (op : BitVec 8) (id : Bytes) : Bytes :=
  [op] ++ zeros 7 ++ [0x54, 0x53, 0x54, 0x4B, op] ++ zeros 3 ++ zeros 16 ++ natLe 4 0 ++ zeros 4 ++ id ++ sigOnes

/-- TollPealDoesItsOperation: both statements of tenants, the full one, the status, the seal and its opposite, the operations
of Maintenance, and the last mode. -/
theorem witness_TollPealDoesItsOperation :
    (tolls ([1, 0] ++ zeros 38) up = true ∧ up.toll.hasKey = true ∧ stmtSeq up < up.toll.stmtHwm.toNat ∧
      ([1, 0] ++ zeros 38 : Bytes).length = 40 ∧ zeroAt ([1, 0] ++ zeros 38) 2 6 = true) ∧
    (tolls ([2] ++ zeros 47) up = true ∧ ([2] ++ zeros 47 : Bytes).length = 48 ∧ zeroAt ([2] ++ zeros 47) 40 8 = true) ∧
    tolls [3] up = true ∧
    (let s := up.mToll fun k => { k with authority := some [4] }
     let bs := tokenA 0x10 (natLe 32 1)
     tolls bs s = true ∧ bs.length = 168 ∧ zeroAt bs 1 7 = true ∧ bs.headD 0 = 0x10 ∧
     tokenFields s 0x10 (bs.drop 8) = true ∧ s.toll.sealed_ = false ∧ s.toll.authority.isSome = true) ∧
    (let s := up.mToll fun k => { k with sealed_ := true, sealId := natLe 32 1 }
     let bs := tokenA 0x11 (natLe 32 1)
     tolls bs s = true ∧ bs.headD 0 = 0x11 ∧ tokenFields s 0x11 (bs.drop 8) = true ∧ s.toll.sealed_ = true) ∧
    (let s := (upIn .maintenance).mToll fun k => { k with sealed_ := true, sealEvents := 9 }
     let bs := [0x12] ++ zeros 3 ++ natLe 4 9
     tolls bs s = true ∧ s.mode = .maintenance ∧ bs.length = 8 ∧ s.toll.sealed_ = true ∧ zeroAt bs 1 3 = true ∧
     le bs 4 4 = s.toll.sealEvents.toNat) ∧
    (let bs := [0x13] ++ zeros 7 ++ [4] ++ zeros 96
     tolls bs (upIn .maintenance) = true ∧ bs.length = 105 ∧ bs.getD 8 0 = 4 ∧ zeroAt bs 1 7 = true ∧
     (upIn .maintenance).toll.sealed_ = false) ∧
    (let bs := [0x14] ++ zeros 7
     tolls bs (upIn .maintenance) = true ∧ 8 ≤ bs.length ∧ (upIn .maintenance).toll.imageVersion.toNat ≤ (0#32).toNat) ∧
    (let bs : Bytes := [0x15, 2, 0, 0, 0, 0, 0, 0]
     tolls bs up = true ∧ bs.length = 8 ∧ (bs.getD 1 0).toNat ≤ 2 ∧ zeroAt bs 2 6 = true) := by decide +kernel

/-- TollPealDoesItsOperation: an authority key under which a token's signature is valid, and a statement's draw. -/
theorem witness_TollPealDoesItsOperation_signed :
    let bs := tokenA 0x10 (natLe 32 1)
    let s := up.mToll fun k => { k with authority := some (keyFor (slice bs 8 64)) }
    s.toll.authority.isSome = true ∧ tolls bs s = true ∧
    sigFault (ownerVerdict 1 (s.toll.authority.getD []) (slice bs 8 64) (slice bs 0x48 96)) = none := by
  refine ⟨rfl, by decide +kernel, ?_⟩
  have h : slice (tokenA 0x10 (natLe 32 1)) 0x48 96 = sigOnes := by decide +kernel
  generalize tokenA 0x10 (natLe 32 1) = bs at h ⊢
  rw [h]
  exact (congrArg sigFault (ownerVerdict_keyFor (slice bs 8 64))).trans rfl

theorem witness_TollPealDoesItsOperation_draw : (pealA 0xFF [] [1]).opDraws = [] ∧
    ∃ ds u, drawInTurn 5 0 (instI 3) 56 false up = (.served ds, u) := ⟨rfl, served_of (by decide +kernel)⟩

theorem witness_TollEffectsAtTheCommitPoint :
    (∃ (e : Effect) (t : State), e = .tollSeal (natLe 32 1) ∧ t = applyEffect 5 e up) ∧
    arrayWf [] = true ∧ sealCells ∈ [bootCells, epochCells, arbCells, sealCells] ∧ spreadValue [] sealCells + 1 < 2 ^ 64 :=
  ⟨⟨_, _, rfl, rfl⟩, by decide +kernel⟩

/-- `up` with a pair in a state of its own. -/
def upPair (f : Pair → Pair) : State := up.mPair fun x => f { x with lanes := 3, partner := some (natLe 16 77) }

/-- The base point of P-384 as a public key. -/
def pointA : Bytes := [4] ++ natBe 48 p384.gx ++ natBe 48 p384.gy
theorem pointA_sound : keyDefect [] 0x21 2 pointA = none := by decide +kernel

/-- XeolinkComesUpAndFails: each state of the link; the instants on the bounds; the peal's requests. -/
theorem witness_XeolinkComesUpAndFails :
    (let s := upPair fun x => { x with link := .training }
     onMain s = true ∧ s.pair.link = .training ∧ s.pair.lane0 = false ∧ s.pair.lane1 = false ∧ laneFit s true = true ∧
     s.pair.laneTime true + 100000000 ≤ s.clk.now) ∧
    (let s := upPair fun x => { x with link := .training, lane1 := true }
     s.pair.lane1 = true ∧ s.pair.link = .training ∧ commonVersion s.pair.versions 0x04 = 2 ∧
     commonVersion s.pair.versions 0x81 = 0 ∧ s.pair.inService = false) ∧
    (let s := upPair fun x => { x with link := .authenticating, lane1 := true }
     s.pair.link = .authenticating ∧ s.pair.handshakeAt = none ∧ s.boot.stewardUp = true ∧
     s.pair.partner = some (natLe 16 (77#128).toNat) ∧ s.pair.inService = false ∧ isServed (shakeHands pointA s).1 = true) ∧
    (let s := upPair fun x => { x with handshakeAt := some (10000000000 - 100000000) }
     s.pair.handshakeAt = some (10000000000 - 100000000) ∧ 10000000000 - 100000000 + 100000000 ≤ s.clk.now) ∧
    (let s := upPair fun x => { x with link := .up, inService := true, lastFrameAt := 10000000000 - 1000000 }
     s.pair.link = .up ∧ s.pair.unacked = [] ∧ (∀ r ∈ s.pair.revokeUnacked, r.1 = 0) ∧ (∀ r ∈ s.pair.hwmPending, r.1 = 0) ∧
     s.pair.syncNext = none ∧ s.pair.rxHold = [] ∧ s.pair.inService = true ∧ s.pair.lastFrameAt + 1000000 ≤ s.clk.now ∧
     onMain s = true ∧ isServed (shakeHands (partnerKey s).1 (partnerKey s).2).1 = true) ∧
    (let s := upPair fun x => { x with peerFail := true, peerFailSince := some (0x200000 - 65536) }
     s.pair.peerFailSince = some (0x200000 - 65536) ∧ s.pair.link = .down ∧ s.pair.peerFail = true ∧
     0x200000 - 65536 + 65536 ≤ s.clk.vtime.toNat ∧ onMain s = true) ∧
    (let bs := [1] ++ zeros 7 ++ natLe 16 77
     reads 0xEF [] bs (upIn .maintenance) = true ∧ bs.length = 24 ∧ zeroAt bs 1 7 = true) ∧
    (let bs : Bytes := [2, 1, 0, 0, 0, 0, 0, 0]
     reads 0xEF [] bs (upPair id) = true ∧ (bs.getD 1 0).toNat ≤ 1 ∧ zeroAt bs 2 6 = true ∧
     (upPair id).pair.partner.isSome = true) ∧
    (let bs := [3] ++ zeros 39
     reads 0xEF [] bs (upPair fun x => { x with inService := true }) = true ∧ bs.length = 40 ∧ zeroAt bs 1 7 = true) ∧
    (reads 0xEF [] ([4] ++ zeros 39) (upPair id) = true ∧ (upPair id).pair.inService = false) := by decide +kernel

/-- PartnerFramesAreActedOn: a frame in sequence by one, one at the last sequence, and a lower cell. -/
theorem witness_PartnerFramesAreActedOn :
    let s := (upPair fun x => { x with link := .up, version := 2, rxSeq := 7 }).mKs fun k =>
      { k with cells := [(4, { key := keyNo 0 3, gen := 1, h := 9, exhausted := false, committed := 0 })] }
    let fr : Frame := { tagOk := true, seq := 8, ack := 0 }
    let u := ackTo fr.ack (s.mPair fun x => { x with rxSeq := fr.seq, lastFrameAt := s.clk.now })
    s.pair.link = .up ∧ fr.tagOk = true ∧ s.pair.rxSeq.toNat < fr.seq.toNat ∧ u.pair.version = 2 ∧
    (u.ks.cells.any fun e => e.2.key == keyNo 0 (3#24).toNat && e.2.gen == 1#32 && decide (e.2.h.toNat < (10#64).toNat)) = true ∧
    (7#64).toNat ≤ s.pair.rxSeq.toNat := by decide +kernel

/-! Witnesses: the Snare, the memory, the firmware and SMBus. -/

/-- `up` with the Snare's state changed. -/
def upTmp (f : Tamper → Tamper) : State := up.mTmp f

/-- SnareEventsAndResponses: events on main power and on battery, a stronger latch, each response, and a table at its floors
and below one. -/
theorem witness_SnareEventsAndResponses :
    (snareOn up = true ∧ (sensorList 0x40).filter (monitored up) = [6] ∧ [6] ≠ ([] : List Nat)) ∧
    (let s := { up with mode := .vault }.mPwr fun p => { p with mainGood := false, battA := true }
     snareOn s = true ∧ (sensorList 0x0801).filter (monitored s) = [11] ∧ responseNow s 11 = 3) ∧
    (let l : LockLatch := { cause := 11, response := 2, onBattery := false, vtime := 7 }
     let s := (upIn .lockdown).mTmp fun t => { t with lock := some l }
     s.tmp.lock = some l ∧ responseNow s 7 ≤ l.response.toNat ∧ s.locked = true) ∧
    (up.tmp.lock = none ∧ responseNow up 18 = 3 ∧ responseNow (upTmp fun t => { t with response := 0 }) 18 = 0 ∧
      responseNow (upTmp fun t => { t with response := 1 }) 0 = 1 ∧
      responseNow (upTmp fun t => { t with response := 2 }) 0 = 2 ∧ up.mode ≠ .off ∧ onMain up = true) ∧
    (let s := upTmp fun t => { t with sensors := { state := 2, count := 1 } :: t.sensors.drop 1 }
     s.tmp.sensors[0]? = some { state := 2, count := 1 } ∧ onMain s = true) ∧
    (let s := upTmp fun t => { t with throttle := true, throttleAt := 10000000000 - 1000000000 }
     s.tmp.throttle = true ∧ s.tmp.throttleAt + 1000000000 ≤ s.clk.now) ∧
    (let s := upTmp fun t => { t with latch := [{ sensor := 3, response := 0, onBattery := false, coalesced := false, overflow := false, count := 1, vtime := 7, last := 7 }] }
     onMain s = true ∧ s.tmp.latch ≠ [] ∧ nvHas .tamperLog s = false) ∧
    (∀ x ∈ up.tmp.sensors, x.state ≠ 2#2) ∧
    (let s := (upIn .maintenance).mTmp fun t => { t with
       stagedResponse := BitVec.ofNat 44 ((List.range 22).foldl (fun a n => a + snareFloor n * 4 ^ n) 0) }
     busOn s 0 = true ∧ s.mode = .maintenance ∧ s.tmp.commitBusy = false ∧
     (∀ n, n < 22 → snareFloor n ≤ (s.tmp.stagedResponse.extractLsb' (2 * n) 2).toNat)) ∧
    (let s := (upIn .maintenance).mTmp fun t => { t with stagedResponse := 0 }
     s.fuses.lc = .production ∧ 17 < 22 ∧ (s.tmp.stagedResponse.extractLsb' (2 * 17) 2).toNat < snareFloor 17) := by
  decide +kernel

/-- `up` with memory channel 2 changed. -/
def upChan (f : MemChan → MemChan) : State := up.mChan 2 f

/-- HoldStageAndMemory: each supply; a scrub of a trained memory, with 255 errors before and with 15. -/
theorem witness_HoldStageAndMemory :
    up.pwr.mainGood = true ∧
    (let s := up.mPwr fun p => { p with mainGood := false }
     s.pwr.mainGood = false ∧ s.pwr.battA = false ∧ s.pwr.battB = false) ∧
    (onMain up = true ∧ up.mem.trained = true ∧ up.mem.key ≠ none) ∧
    (let s := upChan fun x => { x with recent := [(10000000000 - 1, 255)] }
     (2#2).toNat < s.mem.chans.length ∧ (s.chan 2).state = 0 ∧ 255 ≤ errorCount ((s.chan 2).within60 s.clk.now)) ∧
    (let s := upChan fun x => { x with state := 1, recent := [(10000000000 - 1, 15)] }
     (s.chan 2).state = 1 ∧ s.mem.mismatch = false ∧ errorCount ((s.chan 2).within60 s.clk.now) < 16) ∧
    (up.mMem fun m => { m with key := none }).mem.key = none ∧
    (checkedLine up (0#24).toNat = true ∧ checkedLine up (0x7C000#24).toNat = true ∧
      (lineRegion up.mem.two (0xFC0000#24).toNat).counters = true ∧ checkedLine up (0xFC0000#24).toNat = true) := by decide +kernel

/-- `up` in Maintenance with its boot state changed. -/
def upBoot (f : Boot → Boot) : State := (upIn .maintenance).mBoot f

/-- FirmwareIsReplacedInMaintenance: outside Maintenance, busy, staging of the least and the greatest length and version, one
past it, activation, and a restart that ends. -/
theorem witness_FirmwareIsReplacedInMaintenance :
    (busOn up 0 = true ∧ up.mode ≠ .lockdown ∧ up.mode ≠ .maintenance ∧ onMain up = true ∧ up.boot.stage = 7 ∧
      up.boot.stewardUp = true) ∧
    (let s := upBoot fun b => { b with fwBusy := true, antiRollback := 3 }
     busOn s 0 = true ∧ s.mode = .maintenance ∧ s.boot.fwBusy = true ∧ s.boot.activating = false ∧
     s.boot.antiRollback.toNat ≤ (3#32).toNat ∧ (67#32).toNat ≤ s.boot.antiRollback.toNat + 64 ∧
     (2#32).toNat < s.boot.antiRollback.toNat ∧ s.boot.antiRollback.toNat + 64 < (68#32).toNat) ∧
    (let s := upBoot fun b => { b with fwLen := 0x400000, fwStaged := true }
     busOn s 0 = true ∧ s.boot.fwBusy = false ∧ 0x2000 ≤ s.boot.fwLen.toNat ∧ s.boot.fwLen.toNat ≤ 0x400000 ∧
     s.boot.fwStaged = true ∧ (upBoot id).boot.fwStaged = false) ∧
    (let s := upBoot fun b => { b with stewardUp := false, activating := true }
     s.boot.stewardUp = false ∧ onMain s = true ∧ s.boot.stage = 7 ∧ stewardStoreIdle s = true ∧
     chooseSlot s.boot s.boot.slotB true true = some false ∧ s.boot.activating = true ∧ s.mode = .maintenance) := by
  decide +kernel

/-- An image of the least length, its body empty, of a format, for stepping A0 and of security version 5. -/
def fwHead (format : BitVec 8) : Bytes :=
  [0x5A, 0x53, 0x46, 0x57, format, 1, 0, 0] ++ natLe 4 5 ++ natLe 4 9 ++ natLe 4 0 ++ natLe 4 1
def imageFw (format : BitVec 8) : Bytes := fwHead format ++ sha384 [] ++ zeros 8120
theorem fwHead_length (f : BitVec 8) : (fwHead f).length = 24 := rfl
/-- `up` staging an image of that length. -/
def upStage : State := upBoot fun b => { b with fwBusy := true, fwLen := 0x2000, antiRollback := 3 }

theorem imageFw_digest (f : BitVec 8) : sha384 (fwBody (imageFw f)) = slice (imageFw f) 0x18 48 := by
  have l : (sha384 []).length = 48 := by simp [sha384]
  have b : fwBody (imageFw f) = [] := by
    apply List.drop_eq_nil_of_le
    rw [imageFw, List.length_append, List.length_append, l, zeros_length, fwHead_length]
  rw [b, imageFw, slice, List.append_assoc, List.drop_left' (fwHead_length f)]
  exact (List.take_left' l).symm

/-- FirmwareIsReplacedInMaintenance: what staging ends with: a sound image, a flash write that failed, a wrong format. -/
theorem witness_FirmwareIsReplacedInMaintenance_stage :
    upStage.boot.fwBusy = true ∧ upStage.boot.activating = false ∧ canDma upStage 0 = true ∧
    (let s := upStage.mFunc 0 fun f => { f with bme := false }
     s.boot.fwBusy = true ∧ s.boot.activating = false ∧ canDma s 0 = false) ∧
    stageFault upStage (imageFw 1) true true true = 1 ∧ stageFault upStage (imageFw 1) true true false = 8 ∧
    stageFault upStage (imageFw 0) true true true = 3 := by
  have h : fwHeaderOk (imageFw 1) = true := by decide +kernel
  have st : ((imageFw 1).getD 5 0).getLsbD (steppingBit upStage.fuses.stepping) = true := by decide +kernel
  have v : (decide (fwSvn (imageFw 1) < upStage.boot.antiRollback.toNat) ||
    decide (upStage.boot.antiRollback.toNat + 64 < fwSvn (imageFw 1))) = false := by decide +kernel
  have h0 : fwHeaderOk (imageFw 0) = false := by decide +kernel
  have go (flash : Bool) : stageFault upStage (imageFw 1) true true flash = if flash then 1 else 8 := by
    simp only [stageFault, h, st, v, imageFw_digest, Bool.not_true, Bool.false_eq_true, if_false, ne_eq, not_true_eq_false,
      Bool.or_self]
    cases flash <;> rfl
  refine ⟨rfl, rfl, by decide +kernel, by decide +kernel, go true, go false, ?_⟩
  simp only [stageFault, h0, Bool.not_false, if_true]

/-- `up` with an SMBus request pending for an object. -/
def upSmb (object : BitVec 8) (f : SmBus → SmBus) : State := up.mSmb fun x => f { x with status := 1, object := object }

/-- SmbusInterface: a request of each object, a ready object, a statement, and the draws of one and of a report. -/
theorem witness_SmbusInterface :
    (smbusOn up = true ∧ requestFits [1] = true ∧ requestFits (5 :: zeros 32) = true ∧ requestFits (4 :: 1 :: zeros 32) = true) ∧
    (up.mSmb fun x => { x with status := 2, data := zeros 600, offset := 400 }).smb.status = 2#8 ∧
    (let s := upSmb 5 fun x => { x with stmt := some 9, waitSeq := 0 }
     s.smb.status = 1 ∧ onMain s = true ∧ s.boot.coreMin = true ∧ s.smb.object = 5 ∧ s.smb.stmt = some 9 ∧
     s.smb.waitSeq.toNat ≤ lastRecord s) ∧
    ((upSmb 6 id).smb.object = 6 ∧ reportAllowed (upSmb 6 id) = false ∧ (upSmb 0 id).smb.object = 0 ∧
      (upSmb 3 id).smb.object = 3) ∧
    (let s := { upSmb 6 id with mode := .lockdown }
     reportAllowed s = true ∧ s.smb.object = 6 ∧ onMain s = true) ∧
    (let s := upSmb 4 id
     s.smb.object = 4 ∧ s.smb.stmt = none ∧ s.toll.hasKey = true ∧ tollBusy s none = false ∧ stmtSeq s < s.toll.stmtHwm.toNat ∧
     allRecorded s = true) := by decide +kernel

theorem witness_SmbusInterface_draw :
    (∃ bs u, drawFor .object (instI 3) 56 { upSmb 6 id with mode := .lockdown } = (.served bs, u)) ∧
    ∃ bs u, drawFor .object (instI 3) 56 (upSmb 4 id) = (.served bs, u) :=
  ⟨served_of (by decide +kernel), served_of (by decide +kernel)⟩

/-! Witnesses: the life cycle, supplies and resets, invariants. -/

/-- A token of a kind by a signer, for the serial number zero and LC_SEQ 2, of a Production device. -/
def lcToken (kind signer : BitVec 8) : Bytes :=
  [0x4C, 0x43, 0x54, 0x4B, kind, signer, 0, 0] ++ zeros 16 ++ natLe 4 2 ++ [2] ++ zeros 3 ++ zeros (512 - 0x20)
/-- `up` in a mode with a token in the window, a recovery key registered. -/
def upTok (m : Mode) (kind signer : BitVec 8) : State :=
  (upIn m).mLc fun l => { l with data := lcToken kind signer, recoveryKey := some [4] }

/-- LifeCycleTokensAndReports: busy; each kind of token where it passes, and one that fails each check. -/
theorem witness_LifeCycleTokensAndReports :
    (busOn up 0 = true ∧ up.lc.busy = false ∧ (up.mLc fun l => { l with busy := true }).lc.busy = true) ∧
    (let s := (upTok .lockdown 1 1).mTmp fun t => { t with clear := true }
     busOn s 0 = true ∧ ltKind s = 1 ∧ tokenFault s true = none ∧ tokenFault s false = some 4 ∧
     tokenFault (upTok .lockdown 1 1) true = some 5) ∧
    (ltKind (upTok .maintenance 2 2) = 2 ∧ tokenFault (upTok .maintenance 2 2) true = none ∧
      tokenFault (upTok .serve 2 2) true = some 2) ∧
    (ltKind (upTok .lockdown 3 1) = 3 ∧ tokenFault (upTok .lockdown 3 1) true = none) ∧
    (ltKind (upTok .maintenance 4 1) = 4 ∧ tokenFault (upTok .maintenance 4 1) true = none) ∧
    (ltKind (upTok .maintenance 5 1) = 5 ∧ tokenFault (upTok .maintenance 5 1) true = none ∧
      tokenFault ((upTok .maintenance 5 1).mLc fun l => { l with lcSeq := 3 }) true = some 3) ∧
    (let s := (upIn .maintenance).mLc fun l => { l with data := pointA ++ zeros 415 }
     s.mode = .maintenance ∧ s.lc.recoveryKey = none ∧ keyDefect [] 0x21 2 (slice (lcBytes s) 0 97) = none ∧ busOn s 0 = true) ∧
    (reportAllowed (upIn .lockdown) = true ∧ (upIn .lockdown).rng.outage = false ∧ ((upIn .lockdown).drbg (instI 3)).instantiated = true ∧ busOn (upIn .lockdown) 0 = true) ∧
    (let c := zeros 32
     let s := ({ up with fuses := { up.fuses with lcFuse := 0xFF } }).mLc fun l => { l with
       data := [0x44, 0x42, 0x54, 0x4B, 1, 1, 31, 0] ++ zeros 16 ++ c ++ zeros 456, challenge := some c }
     busOn s 0 = true ∧ debugState s = true ∧ debugFieldsOk s = true) := by decide +kernel

theorem witness_LifeCycleTokensAndReports_draws :
    (∃ c u, drawFor .challenge (instI 1) 32 { up with fuses := { up.fuses with lcFuse := 0xFF } } = (.served c, u)) ∧
    (let s := (upIn .lockdown).mLc fun l => { l with report := some (zeros 32) }
     s.lc.report = some (zeros 32) ∧ busOn s 0 = true ∧ ∃ bs u, drawFor .report (instI 3) 56 s = (.served bs, u)) :=
  ⟨served_of (by decide +kernel), rfl, by decide +kernel, served_of (by decide +kernel)⟩

/-- An entry of a transition. -/
def entryA (to_ scope : BitVec 8) : LcEntry :=
  { step := 1, from_ := 2, to_ := to_, scope := scope, lcSeq := 2, vtime := 0, boot := 0, seq := 2, kind := 2, signer := 2 }
/-- What a boot finds when every test passes. -/
def bootOk : BootReport :=
  { clusters := List.replicate 16 { se := 31, pk := 63, shared := true }, coreBad := 0, bootRom := true,
    drbgKat := true, noisePass := 15, noiseRetry := 0, certificates := true, spreadCounters := true, twoDevices := true,
    popMismatch := false, memTrained := true, tollImage := true, lane0 := true, lane1 := true, metronome := true,
    snareFails := 0, snareOut := 0, vaultCheck := true, bodyA := true, bodyB := true, retained := true, tempBad := 0, pfCheck := true,
    secondary := false, damaged := [], roleMapDamaged := false, countsDamaged := false, bootRecDamaged := false, rootBad := 0 }

/-- LifeCycleTransitionsRun: both manufacturing transitions; a wipe's check before and at its second failure, with zero pages
and one that is not; the fuses programmed; and CLOSED to be written. -/
theorem witness_LifeCycleTransitionsRun :
    (let s := { up with fuses := { up.fuses with lcFuse := 0 } }
     onMain s = true ∧ s.lc.busy = false ∧ s.lc.pending = false ∧ s.fuses.lc = .blank) ∧
    (let s := { up with fuses := { up.fuses with lcFuse := 0xFF } }.mLc fun l => { l with debug := some 16 }
     s.fuses.lc = .test ∧ s.lc.debug = some 16 ∧ (16#16).getLsbD 4 = true) ∧
    ((entryA 3 1).target = .eolAnalysis ∧ (entryA 3 2).target = .eolScrap ∧ (entryA 2 0).target = .production ∧
      (entryA 1 0).target = .test) ∧
    (let e := entryA 3 2
     let s := up.mLc fun l => { l with entry := some e, pending := true, wiped := true, wipeFails := 1 }
     onMain s = true ∧ s.lc.entry = some e ∧ s.lc.pending = true ∧ s.lc.wiped = true ∧ s.lc.wipeFails < 2 ∧
     s.lc.verified = false ∧ (nvAll s).any NvCmd.isWipe = false ∧ zeroPages (wipePages e.scope) s.nv.array = true ∧
     zeroPages (wipePages e.scope) [(pageAddr 9472, 1)] = false ∧ e.step = 1 ∧ { e with step := 2 }.step = 2 ∧ { e with step := 4 }.step = 4) ∧
    (let e := entryA 3 1
     let s := up.mLc fun l => { l with entry := some e, pending := true, verified := true }
     onMain s = true ∧ s.lc.entry = some e ∧ s.lc.pending = true ∧ s.lc.verified = true ∧ lcWriting s = false ∧
     e.target ≠ .eolScrap ∧ s.fuses.lc.rank ≤ e.target.rank ∧ e.target ≠ .blank) ∧
    (let e := entryA 3 1
     let s := (up.mLc fun l => { l with entry := some e, pending := true, journal := [e] }).mToll fun t => { t with closing := some [1] }
     s.lc.entry = some e ∧ s.lc.pending = true ∧ e.target = .eolAnalysis ∧ s.lc.closing = none ∧ s.lc.wiped = false ∧
     lcWriting s = false ∧ s.toll.closing ≠ none ∧ (nvAll s).any NvCmd.isClosing = false ∧ lcLast s = some e ∧ e.step = 1) := by
  decide +kernel

/-- `up` with a battery, and with its power-fail warning asserted. -/
def upBatt : State := up.mPwr fun p => { p with battA := true }
def upWarn : State := up.mPwr fun p => { p with pfwarn := true }

/-- SuppliesAndResets: the warning with a battery and without one, and its end; main power lost and good; Off with a battery;
the resets, the recovery at its 8 ms. -/
theorem witness_SuppliesAndResets :
    (onMain upBatt = true ∧ upBatt.pwr.pfwarn = false ∧ noBattery upBatt = false) ∧
    (noBattery up = true ∧ up.toll.journal = false ∧ up.toll.writing = none) ∧
    (onMain upWarn = true ∧ upWarn.pwr.pfwarn = true ∧ finalOpen upWarn = false) ∧
    (let s := { upBatt with mode := .off }.mPwr fun p => { p with mainGood := false }
     s.mode = .off ∧ s.pwr.mainGood = false ∧ noBattery s = false) ∧
    (up.mPwr fun p => { p with mainGood := false }).pwr.mainGood = false ∧
    (State.reset.pwr.mainGood = true ∧ State.reset.pwr.resetN = true ∧ State.reset.boot.stage = 0) ∧
    (up.pwr.mainGood = true ∧ up.boot.stage ≠ 0) ∧
    (let s := up.mLc fun l => { l with recovering := some (10000000000 - 8000000) }
     s.lc.recovering = some (10000000000 - 8000000) ∧ 10000000000 - 8000000 + 8000000 ≤ s.clk.now ∧ onMain s = true) ∧
    (let cmd : NvCmd := { cls := 5, work := .stewardRecord 5 0, data := .words (userBase + 48) (List.replicate 32 9) }
     let s := upWin.mNv fun n => { n with current := some cmd }
     onMain s = true ∧ s.nv.wf = true ∧ s.nv.current = some cmd ∧ s.nv.stopped = none ∧ cmd.cls ≠ 1 ∧
     (List.replicate 32 (9 : Byte)).length = 16 * 2) ∧
    (let cmd : NvCmd := { cls := 5, work := .stewardRecord 5 0, data := .words (userBase + 48) (List.replicate 32 9) }
     let s := upWin.mNv fun n => { n with stopped := some cmd }
     s.nv.wf = true ∧ s.nv.current = none ∧ s.nv.stopped = some cmd) ∧
    (upBatt.nv.current = none ∧ upBatt.nv.stopped = none ∧ upBatt.root.forming = none) := by
  decide +kernel

/-- FusesNeverReturn: a ROOT_EPOCH with its last bit programmed, and a command that programs a fuse. -/
theorem witness_FusesNeverReturn :
    { State.reset.fuses with epoch := 32 }.ok = true ∧
    ∃ t, exec (.scrapOnlyPolicyToken true) (upTok .maintenance 5 1) = .next t := ⟨by decide +kernel, _, rfl⟩

/-- LockdownIsLatched: a latched Lockdown in its mode, and without power. -/
theorem witness_LockdownIsLatched :
    let s := (upIn .lockdown).mTmp fun t => { t with lock := some { cause := 11, response := 2, onBattery := false, vtime := 7 } }
    s.locked = true ∧ s.lockdownInv = true ∧ { s with mode := .off }.lockdownInv = true ∧
    (∀ r, Instr.mainPowerLost ≠ .recoveryReset r) ∧
    ({ s with lc := { s.lc with pending := true } }.lc.pending = true → Instr.mainPowerLost ≠ .fuseGroupProgramComplete ∧
      ∀ r, Instr.mainPowerLost ≠ .nvCommandComplete r) ∧
    ∃ t, exec .mainPowerLost s = .next t :=
  ⟨by decide +kernel, by decide +kernel, by decide +kernel, fun _ => Instr.noConfusion,
    fun _ => ⟨Instr.noConfusion, fun _ => Instr.noConfusion⟩, _, rfl⟩

/-- ModesAreEnteredByTheirTriggers: Vault is entered where main power is lost with a battery present. -/
theorem witness_ModesAreEnteredByTheirTriggers :
    ∃ t, exec .mainPowerLost upBatt = .next t ∧ t.mode = .vault ∧ t.mode ≠ upBatt.mode :=
  ⟨_, rfl, by decide +kernel, by decide +kernel⟩

/-- StoreStaysCanonical: a store command's end from the canonical form, which changes a byte. -/
theorem witness_StoreStaysCanonical :
    let s := up.mNv fun n => { n with
      current := some { cls := 5, work := .stewardRecord 5 0, data := .words (userBase + 16) (zeros 15 ++ [9]) } }
    s.nv.wf = true ∧ ∃ t, exec (.nvCommandComplete .done) s = .next t ∧ t.storeByte (userBase + 31) ≠ s.storeByte (userBase + 31) :=
  ⟨by decide +kernel, _, rfl, by decide +kernel⟩

/-! Ill-formed commands, one for each check of WellFormed, are refused. -/

/-- A COMMIT payload of more ledger charges than Table 14-5 has. -/
def payloadBad : CommitPayload := { entry := 0, charges := List.replicate 5 0 }
/-- A frame in sequence. -/
def frameA : Frame := { tagOk := true, seq := 8, ack := 0 }

/-- An input of one byte more than 16 MiB, and an image of one more than 4 MiB. -/
theorem test_wf_lengths (bs im : Bytes) (h : bs.length = 16777217) (g : im.length = 4194305) :
    (Instr.requestParse 5 bs).wf = false ∧ (Instr.fwStageComplete (some im) true true true).wf = false :=
  ⟨decide_eq_false (by omega), decide_eq_false (by omega)⟩

/-- No row of the table gives bits: no word spells a command, and the queue stays as it is. -/
theorem test_no_words (nbits w : Nat) (s : State) :
    decodeTableWord nbits w = none ∧ s.withFetchWord nbits w = s := ⟨rfl, rfl⟩

/-! Results the spec states. -/

/-- Free entries of the groups 0x00A0 to 0x00CF can exist: one of each is in its format (R116, R123). -/
theorem test_group_peals :
    entryOk builtinFmts [] (groupPeal 0xA1) = true ∧ entryOk builtinFmts [] (groupPeal 0xB1) = true ∧
    entryOk builtinFmts [] (groupPeal 0xC1) = true := ⟨by decide +kernel, by decide +kernel, by decide +kernel⟩


/-- What a command leaves, of a state. -/
def run (c : Instr) (s : State) : State := match exec c s with | .next t => t | _ => s

/-- `up` with VFs enabled and T7's function ready. -/
def upVf (f : FrontEnd → FrontEnd) : State :=
  upFe fun e => f { e with vfEnable := true, numVfs := 255, vfVectorsInForce := 8, funcs := [(0, fnA), (7, fnA)] }

/-- The example of R55: ring 448 of T7, 256 entries, 236 credits free. -/
def ring448 : SubRing :=
  { SubRing.init with state := .enabled, cfg := 0x10008, tail := 0x1F0, consumed := 1000020, posted := 1000000, outstanding := 20 }
theorem test_doorbell_example :
    let s := upVf fun e => { e with sqs := [(448, ring448)] }
    let t := run (.submissionDoorbellWrite 7 0 .full 0x010) s
    let u := run (.submissionDoorbellWrite 7 0 .full 0x1E0) t
    (t.sq 448).consumed = 1000052 ∧ (t.sq 448).outstanding = 52 ∧ (t.sq 448).tail = 0x010 ∧
    (u.sq 448) = (t.sq 448) ∧ (u.func 7).evtFlags.getLsbD FnEvent.dbOvercredit.num = true := by decide +kernel
/-- A move of exactly N positions backwards is N new descriptors when all N credits are free (R44). -/
theorem test_doorbell_n_backwards :
    let s := upSq { ringA with tail := 16 }
    ((run (.submissionDoorbellWrite 0 0 .low 0) s).sq 0).outstanding = 16 := by decide +kernel
/-- The default assignment: T7 owns submission rings 448 to 511 and completion rings 56 to 63 (R37). -/
theorem test_default_assignment :
    sqOf up 7 0 = some 448#16 ∧ sqOf up 7 63 = some 511#16 ∧ cqOf up 7 0 = some 56#13 ∧ cqOf up 7 7 = some 63#13 := by
  decide +kernel

/-- The descriptor of the worked encoding of 03, its bytes as written there. -/
def vessat : Bytes :=
  [0x21, 0x05, 0x04, 0x01, 0xD0, 0x07, 0x05, 0x00, 0xC2, 0x71, 0x04, 0x00, 0x00, 0x00, 0x11, 0x5E,
   0x31, 0x2A, 0, 0, 0x10, 0x04, 0, 0, 0x11, 0x04, 0, 0, 0x02, 0x0C, 0, 0,
   0x80, 0x01, 0, 0, 0x00, 0x02, 0, 0, 0x40, 0x00, 0x50, 0x34, 0x12, 0, 0, 0, 0, 0, 0, 0, 0, 0, 0, 0,
   0x00, 0x80, 0x56, 0x34, 0x12, 0, 0, 0]
theorem test_descriptor_example :
    let d := parseDesc 0x21 (BitVec.ofNat 512 (leNat vessat))
    d.cls = 1 ∧ d.checked = true ∧ d.pealId = 0x0104 ∧ d.deadline = 2000 ∧ d.inMode = 1 ∧ d.outMode = 1 ∧
    d.tag = 0x5E110000000471C2 ∧ d.keys.map (·.toNat) = [0x2A31, 0x410, 0x411, 0xC02] ∧ d.inLen = 384 ∧ d.outLen = 512 ∧
    d.inAddr = 0x1234500040 ∧ d.outAddr = 0x1234568000 ∧ d.reservedZero = true := by decide +kernel
/-- Its completion, and the one of a failed guard S2. -/
theorem test_completion_example :
    let c : Cpl := { tag := 0x5E110000000471C2, status := 0, sub := 0, wait := 1, outLen := 416, nonce := 0, toll := 3,
                     nonceLen := 0, ivInOutput := false, outFault := false, cls := 1, step := 0, stepValid := false,
                     deferred := false, cause := 0 }
    natLe 32 (c.bits true).toNat = [0xC2, 0x71, 0x04, 0, 0, 0, 0x11, 0x5E, 0, 0, 1, 0, 0xA0, 1, 0, 0] ++ zeros 12 ++
      [3, 0x40, 0, 0x80] ∧
    (natLe 32 (({ c with status := 1, sub := 1, outLen := 0, toll := 0xFF, step := 1, stepValid := true } : Cpl).bits
      true).toNat).drop 0x1C = [0xFF, 0x40, 0x21, 0x80] := by decide +kernel

/-- The example of R61: TIMER 5, posted at 83.00 us; vector 2 is sent at 88.00 us and not before. -/
theorem test_chime_example :
    let q := { cplA with chime := 0x00500002, irqEnable := true, posted := 1, pending := [{ at_ := 83000, critical := false }] }
    let s (now : Nat) : State := { (upCq q).mFunc 0 (fun f => { f with msixUnmasked := [2] }) with clk := { up.clk with now := now } }
    (run (.chimeTimerExpire 0) (s 88000)).fe.bus = [.msix 0 2] ∧ (run (.chimeTimerExpire 0) (s 87999)).fe.bus = [] := by
  decide +kernel

/-- GOV_TENANT_SHARE of the bring-up of T7 (18). -/
theorem test_share_example :
    let s := up.mGov fun g => { g with tenantSel := 7 }
    let t := run (.govTenantShareWrite 0x0002008004000040) s
    Machine.share t 7 = { min := 64, cap := 1024, critCap := 128, weight := 2 } := by decide +kernel
/-- FE_RING_CFG 0x0009_0008 of that bring-up: 256 entries, completion ring 0, Interactive, checked. -/
theorem test_ring_cfg_example :
    let t := run (.ringParameterWrite 7 .cfg 0x00090008) (upVf fun e => { e with sqs := [] })
    (t.sq 448).size = 256 ∧ (t.sq 448).cfg = 0x90008 := by decide +kernel
/-- An offer of every SRI version is answered with 2.1. -/
theorem test_sri_example :
    ((run (.sriOfferWrite 7 7) (upVf fun e => { e with funcs := [(0, fnA), (7, { fnA with sriActive := 0 })] })).func 7).sriActive =
      0x21 := by decide +kernel

/-- The headroom example of 11: H 74 brings measure 1, H 59 measure 2, and H 65 lifts measure 2 alone. -/
theorem test_measures_example :
    measuresAt 100 0 = 0 ∧ measuresAt 75 0 = 0 ∧ measuresAt 74 0 = 1 ∧ measuresAt 60 1 = 1 ∧ measuresAt 59 1 = 3 ∧
    measuresAt 64 3 = 3 ∧ measuresAt 65 3 = 1 := by decide +kernel
/-- A cap of 24 W is refused, and 50 W limits the level to 50,000 uJ at the next boundary. -/
theorem test_cap_example :
    (run (.govCapWrite 24) up).gov.watts = 110 ∧ (run (.govCapWrite 24) up).fe.devFlags.getLsbD DevEvent.govCapInvalid.num = true ∧
    (let s := (run (.govCapWrite 50) up).mGov fun g => { g with level := 110000 }
     (run (.refillBoundary 240 500 [] ()) s).gov.level = 50000 ∧ (run (.refillBoundary 240 500 [] ()) s).gov.depth = 50000) := by
  decide +kernel

/-- The key attestation example of 07, bytes 0x018 to 0x037. -/
theorem test_attestation_example :
    let r := { keyA 0x20 0x4040 with param := 1, flags := 0x06, gen := 1, kcv := 0x5D0A3E }
    let s := { up with fuses := { up.fuses with epoch := 2 }, ks := { up.ks with boot := 0x151 },
                       clk := { up.clk with vtime := 0x18B024400 } }
    slice (attestBody s 0 7 r 0xC02 [] []) 0x18 32 =
      [2, 2, 7, 0x20, 1, 6, 0x40, 0x40, 2, 0x0C, 0, 0, 1, 0, 0, 0, 0x5D, 0x0A, 0x3E, 1, 0x51, 1, 0, 0,
       0, 0x44, 2, 0x8B, 1, 0, 0, 0] := by decide +kernel
/-- The statement example of 12: its first eight bytes, the count of counters, and T7 class 3. -/
theorem test_statement_example :
    let s := up.mToll fun k => { k with sealed_ := true, epochStated := true, counters := [(16 * 7 + 3, 0x28E7380)] }
    let b := stmtBody s 1 (some 7) 5 (zeros 32)
    b.take 8 = [0x54, 0x4F, 0x4C, 0x53, 1, 1, 1, 7] ∧ slice b 0x1A 2 = [0x10, 0] ∧
    slice b 0x118 8 = [0x80, 0x73, 0x8E, 2, 0, 0, 0, 0] ∧ b.length + 96 = 480 := by decide +kernel
/-- The journal lookup example of 05. -/
theorem test_lookup_example :
    let j : JEntry := { tag := 0x5E110000000471C2, seq := 0x3_0009_1A2C, vtime := 0x18A3C11F0, tenant := 7, pealId := 0x104,
                        toll := 3, flags := 0x40 }
    let s := up.mClap fun c => { c with epoch := 3, count := 0x00091A2D, carried := [j], carriedLast := 0x3_0009_1A2C,
                                        carriedSource := 1, carriedComplete := true }
    lookupOut s (fun e => e.tenant == 7) =
      [1, 0, 6, 0, 0, 0, 0, 0, 0x2D, 0x1A, 9, 0, 3, 0, 0, 0, 0x2D, 0x1A, 9, 0, 3, 0, 0, 0, 0x2C, 0x1A, 9, 0, 3, 0, 0, 0,
       0xC2, 0x71, 4, 0, 0, 0, 0x11, 0x5E, 0x2C, 0x1A, 9, 0, 3, 0, 0, 0, 0xF0, 0x11, 0x3C, 0x8A, 1, 0, 0, 0,
       7, 4, 1, 0, 3, 0x60, 0, 0] := by decide +kernel
/-- The nonce example of 08: at H the next cell write is of H plus 2^20. -/
theorem test_cell_example :
    let sp : CounterSpace := { h := 0x2400000, next := 0x2400000, released := [], reserved := [],
                               writing := none, stored := false, fresh := true }
    let s := startCellWrite (keyNo 12 0x1A00) (up.mKs fun k => { k with spaces := [(keyNo 12 0x1A00, sp)] })
    (smFind (keyNo 12 0x1A00) s.ks.spaces).bind (·.writing) = some 0x2500000 := by decide +kernel
/-- The torn pair example of 13: the write goes to copy A, one sequence above copy B's; with A torn, B is selected. -/
theorem test_pair_example :
    let r := pairAt (pairNo 7 1)
    let cp (seq aux : BitVec 32) : CopyRec := { seq := seq, aux := aux, body := zeros 48 }
    let m := storePut r.a (r.bytes (cp 0x41 0x12)) (storePut r.b (r.bytes (cp 0x42 0x13)) [])
    let m1 := storePut r.a (r.bytes (cp 0x43 0x14)) m
    pairNo 7 1 = 21 ∧ r.next m = (r.a, 0x43) ∧ twoSelect m1 r = .copy true (cp 0x43 0x14) ∧
    twoSelect (storePut (r.a + 32) [1] m1) r = .copy false (cp 0x42 0x13) := by
  decide +kernel
/-- The outage example of 10: SRC0 to SRC2 failed, SRC3's third window failure within a second. -/
theorem test_outage_example :
    let bad : NoiseSource := { NoiseSource.init with state := .failed }
    let s := up.mRng fun g => { g with sources := [bad, bad, bad, { NoiseSource.init with
      state := .healthy, fails := [0x200000 - 2, 0x200000 - 1] }] }
    let t := run (.noiseWindowComplete 3 0) s
    t.rng.outage = true ∧ t.rng.pool = [] ∧ srcStatus t % 256 = 0xAA ∧
    t.fe.devFlags.getLsbD DevEvent.rngOutage.num = true := by decide +kernel
/-- The retirement example of 15: LC_STATE reads 0x0000_8027 once it has completed. -/
theorem test_retirement_example :
    lcState { up with fuses := { up.fuses with lcFuse := 0xFFFFFF, epoch := 32 }, lc := { up.lc with cleared := true } } = 0x8027 := by
  decide +kernel
/-- The firmware example of 16: the third restart of an image tried three times takes the other slot. -/
theorem test_fallback_example :
    let s := (upIn .maintenance).mBoot fun b => { b with
      antiRollback := 7, slotA_ := { FwSlot.init with svn := 7, build := 0x310 }, slotB := true, preferB := true, stewardUp := false,
      slotB_ := { FwSlot.init with svn := 8, build := 0x402, confirmed := false, trials := 3 } }
    let t := run (.stewardRestartComplete true true) s
    t.boot.slotB = false ∧ t.boot.antiRollback = 7 ∧ t.fe.devFlags.getLsbD DevEvent.fwFallback.num = true := by decide +kernel

/-- The sequence's last step ends in Rest, whatever came before (R25, R440); a battery keeps Vault when main power goes
(Table 1-7). -/
theorem test_boot_ends_in_rest (r : BootReport) (slot : Option Bool) (s : State) : (bootEnd r slot s).mode = .rest := by
  have h (x : State) : (x.enter .rest).mode = .rest := by unfold State.enter; split <;> first | assumption | rfl
  unfold bootEnd
  split
  · exact h _
  · split <;> exact h _
theorem test_power_lost : (run .mainPowerLost upBatt).mode = .vault ∧ (run .mainPowerLost up).mode = .off := by decide +kernel
/-- A write of three words of which one is programmed and the next interrupted: each bit old or new (Table 13-3). -/
theorem test_torn_write :
    tearWrite 32 (List.replicate 16 1 ++ List.replicate 16 3 ++ List.replicate 16 5) 1 false (List.replicate 16 0xF0)
      [(48, 0xAA), (70, 7)] =
      (List.range 16).map (32 + ·, 1) ++ (48, 0xA3) :: (List.range 15).map (49 + ·, 3) ++ [(70, 7)] := by decide +kernel
/-- A role map whose write found no spare is in force, and the next reset finds the one before (R370). -/
theorem test_lost_write :
    let s := { up with pair := { up.pair with stored := 7 } }.mNv fun n =>
      { n with spares := 0, current := some { cls := 5, work := .roleMap 3 } }
    let t := run (.nvCommandComplete .noSpare) s
    t.pair.stored = 7 ∧ (restoreUnstored t).pair.stored = 3 ∧ t.nv.writeFails = 1 := by decide +kernel
/-- An idle queue passes; a queue runs its first command (log entries 11 and 12). -/
theorem test_queue_order :
    let s := { up with pending := [.mainPowerLost, .vaultEntry] }
    (match step s with | .next t => decide (t.pending = [.vaultEntry]) && decide (t.mode = .off) | _ => false) = true := by decide +kernel

end Sys2Proof.Tests
end

section
/-! Facts of the sparse maps, the rings and the block assignment, and from them the completion ring commands of R52 and
BLOCK_ASSIGN_WRITE of R38 (02). -/
namespace Sys2Proof.Machine

/-! What a key can read as. -/

/-- A listed value is an entry of the map. -/
theorem mem_of_smFind {β : Type} {k : Nat} {v : β} {m : SMap β} (h : smFind k m = some v) : (k, v) ∈ m := by
  induction m with
  | nil => simp [smFind] at h
  | cons e m ih =>
    obtain ⟨j, w⟩ := e
    simp only [smFind] at h
    split at h
    · simp_all
    · exact List.mem_cons_of_mem _ (ih h)

/-- A key reads as the default or as one of its entries. -/
theorem smGet_eq_default_or_mem {β : Type} (d : β) (m : SMap β) (k : Nat) :
    smGet d m k = d ∨ (k, smGet d m k) ∈ m := by
  unfold smGet
  cases h : smFind k m with
  | none => exact .inl rfl
  | some v => exact .inr (mem_of_smFind h)

/-- In a mapped map a key reads as the default or as the image of one of its entries. -/
theorem smGet_smMap_eq_default_or {β : Type} [DecidableEq β] (d : β) (f : Nat → β → β) (m : SMap β) (k : Nat) :
    smGet d (smMap d f m) k = d ∨ ∃ v, smGet d (smMap d f m) k = f k v := by
  refine (smGet_eq_default_or_mem d (smMap d f m) k).imp_right fun hmem => ?_
  obtain ⟨⟨j, v⟩, -, himage⟩ := List.mem_map.1 (List.mem_of_mem_filter hmem)
  obtain ⟨rfl, hv⟩ := Prod.mk.inj himage
  exact ⟨v, hv.symm⟩

/-- Where the setup registers answer, the access takes effect. -/
theorem atSetup_of_setupOn {fn : Fn} {s : State} (h : setupOn s fn = true) (f : State → State) :
    atSetup fn f s = .next (f s) := by
  simp [atSetup, h]

/-! Disable and reset of a completion ring, R52. -/

/-- BOUND is 0 exactly when no ENABLED or RESETTING submission ring is bound to the completion ring. -/
theorem boundCount_eq_zero_iff (s : State) (c : CqNo) :
    boundCount s c = 0 ↔ ∀ e ∈ s.fe.sqs, (e.2.state = .enabled ∨ e.2.state = .resetting) →
      boundCq s (BitVec.ofNat 16 e.1) ≠ some c := by
  simp [boundCount, List.filter_eq_nil_iff]

section
variable {fn : Fn} {s : State} {c : CqNo}

theorem exec_ringDisable_cpl (hon : setupOn s fn = true) (hsel : selected s fn = .cpl c) :
    exec (.ringDisable fn) s = .next (if (s.cq c).state = .enabled ∧ boundCount s c = 0 then clearCq c .disabled s
      else raiseFn fn .ringConfigInvalid s) := by
  change execRingDisable fn s = _
  rw [execRingDisable, atSetup_of_setupOn hon, hsel]
  rfl

theorem exec_reset_cpl {op : Instr} (hop : op = .ringReset fn ∨ op = .ringResetAbort fn)
    (hon : setupOn s fn = true) (hsel : selected s fn = .cpl c) :
    exec op s = .next (if ((s.cq c).state = .enabled ∨ (s.cq c).state = .error) ∧ boundCount s c = 0 then
      clearCq c .disabled s else raiseFn fn .ringConfigInvalid s) := by
  obtain rfl | rfl := hop
  · change execRingReset fn s = _
    rw [execRingReset, atSetup_of_setupOn hon, resetRing, hsel]
    rfl
  · change execRingResetAbort fn s = _
    rw [execRingResetAbort, atSetup_of_setupOn hon, resetRing, hsel]
    rfl

/-- With a running ring bound, the disable and both resets are refused whatever the completion ring's state; with none,
each makes an ENABLED one DISABLED. -/
theorem exec_stop_cpl {op : Instr} (hop : op = .ringDisable fn ∨ op = .ringReset fn ∨ op = .ringResetAbort fn)
    (hon : setupOn s fn = true) (hsel : selected s fn = .cpl c) :
    (boundCount s c ≠ 0 → exec op s = .next (raiseFn fn .ringConfigInvalid s)) ∧
    (boundCount s c = 0 → (s.cq c).state = .enabled → exec op s = .next (clearCq c .disabled s)) := by
  obtain rfl | hreset := hop
  · rw [exec_ringDisable_cpl hon hsel]
    exact ⟨fun hbound => by simp [hbound], fun hnone hstate => by simp [hnone, hstate]⟩
  · rw [exec_reset_cpl hreset hon hsel]
    exact ⟨fun hbound => by simp [hbound], fun hnone hstate => by simp [hnone, hstate]⟩

end

/-- Settles O11: BOUND is 0 exactly when no running ring of the statement is bound, and the three commands turn on it. -/
theorem completionRingNeedsNoBoundRing : Obligations.CompletionRingNeedsNoBoundRing := by
  intro fn s c hon hsel op hop
  obtain ⟨refused, disabled⟩ := exec_stop_cpl hop hon hsel
  refine ⟨fun ⟨e, he, hrun, hbound⟩ => refused fun hzero => ?_, fun hnone => disabled ?_⟩
  · exact (boundCount_eq_zero_iff s c).1 hzero e he hrun hbound
  · exact (boundCount_eq_zero_iff s c).2 hnone

/-! BLOCK_ASSIGN_WRITE, R38, R480, R482. -/

/-- After a reset of a block's conservation counters each ring of the block is as at reset or has its counters at zero. -/
theorem zeroCounters_sq {b : Nat} {r : SqNo} (hr : r.toNat / 64 = b) (s : State) :
    (zeroCounters b s).sq r = SubRing.init ∨
      ∃ q : SubRing, (zeroCounters b s).sq r = { q with consumed := 0, posted := 0, suppressed := 0 } := by
  obtain hinit | ⟨q, hq⟩ := smGet_smMap_eq_default_or SubRing.init (fun k q =>
    if k / 64 = b then { q with consumed := 0, posted := 0, suppressed := 0 } else q) s.fe.sqs r.toNat
  · exact .inl hinit
  · exact .inr ⟨q, hq.trans (if_pos hr)⟩

theorem zeroCounters_sq_counters {b : Nat} {r : SqNo} (hr : r.toNat / 64 = b) (s : State) :
    ((zeroCounters b s).sq r).consumed = 0 ∧ ((zeroCounters b s).sq r).posted = 0 ∧
      ((zeroCounters b s).sq r).suppressed = 0 := by
  obtain hread | ⟨q, hread⟩ := zeroCounters_sq hr s
  · rw [hread]; exact ⟨rfl, rfl, rfl⟩
  · rw [hread]; exact ⟨rfl, rfl, rfl⟩

/-- A block assignment change that takes effect: a submission block's counters are reset with it (R38). -/
def assignBlock (cq : Bool) (b : Nat) (a : Assign) (s : State) : State :=
  if cq then s.mFe fun e => { e with cqAssign := smSet Assign.none b a e.cqAssign }
  else zeroCounters b (s.mFe fun e => { e with sqAssign := smSet Assign.none b a e.sqAssign })

/-- What a write of a block assignment entry does where PF0's setup registers answer: its checks in order. -/
theorem exec_blockAssignWrite {s : State} (hon : setupOn s 0 = true) (cq : Bool) (b : BitVec 10) (d : BitVec 32) :
    exec (.blockAssignWrite cq b d) s = .next (
      if smGet Assign.none (if cq then s.fe.cqAssign else s.fe.sqAssign) b.toNat = Assign.ofWord cq d then s
      else if (s.func 0).locked then raiseFn 0 .lockedWrite s
      else if !(if cq then cqBlockIdle s b.toNat else sqBlockIdle s b.toNat) ||
        pageTaken (if cq then s.fe.cqAssign else s.fe.sqAssign) b.toNat (Assign.ofWord cq d) then
        raiseFn 0 .blockAssignRefused s
      else assignBlock cq b.toNat (Assign.ofWord cq d) s) := by
  change execBlockAssignWrite cq b d s = _
  rw [execBlockAssignWrite, atSetup_of_setupOn hon]
  rfl

/-- An unlocked change of an entry takes effect exactly on an idle block and a free page. -/
theorem exec_blockAssignWrite_unlocked {s : State} {cq : Bool} {b : BitVec 10} {d : BitVec 32}
    (hon : setupOn s 0 = true) (hlock : (s.func 0).locked = false)
    (hne : smGet Assign.none (if cq then s.fe.cqAssign else s.fe.sqAssign) b.toNat ≠ Assign.ofWord cq d) :
    exec (.blockAssignWrite cq b d) s = .next (
      if !(if cq then cqBlockIdle s b.toNat else sqBlockIdle s b.toNat) ||
        pageTaken (if cq then s.fe.cqAssign else s.fe.sqAssign) b.toNat (Assign.ofWord cq d) then
        raiseFn 0 .blockAssignRefused s
      else assignBlock cq b.toNat (Assign.ofWord cq d) s) := by
  rw [exec_blockAssignWrite hon, if_neg hne, hlock, if_neg Bool.false_ne_true]

/-- Settles O14: each clause is one branch of the write, and a change that takes effect on a submission block zeroes
the counters of its rings, listed or not. -/
theorem blockAssignmentTakesEffectWhenIdle : Obligations.BlockAssignmentTakesEffectWhenIdle := by
  intro b d s hon
  refine ⟨fun cq hne => ⟨fun hlock => ?locked, fun hlock hbad => ?refused⟩, fun cq hsame => ?same,
    fun hne hlock hidle hfree => ?completion, fun hne hlock hidle hfree =>
      ⟨assignBlock false b.toNat (Assign.ofWord false d) s, ?submission, rfl, rfl, fun r hr =>
        zeroCounters_sq_counters hr _⟩⟩
  case same => rw [exec_blockAssignWrite hon, if_pos hsame]
  case locked => rw [exec_blockAssignWrite hon, if_neg hne, if_pos hlock]
  case refused =>
    rw [exec_blockAssignWrite_unlocked hon hlock hne, if_pos]
    obtain hbusy | htaken := hbad
    · rw [hbusy, Bool.not_false, Bool.true_or]
    · rw [htaken, Bool.or_true]
  case completion => simp [exec_blockAssignWrite_unlocked hon hlock (cq := true) hne, hidle, hfree, assignBlock]
  case submission => simp [exec_blockAssignWrite_unlocked hon hlock (cq := false) hne, hidle, hfree]

end Sys2Proof.Machine
end

section
/-! The wait of R135: what a commit point and the ends of its records' writes do while 255 peals are committed and not
completed; and that a closing statement, which such an end may start (R349), changes no peal and nothing of the
Clapper. -/
namespace Sys2Proof.Machine

/-! Operations that leave the peal table and the Clapper as they are. -/

/-- The peal table and the Clapper of `t` are those of `s`. -/
structure KeepsPeals (s t : State) : Prop where
  peals : t.peals = s.peals
  clap : t.clap = s.clap

namespace KeepsPeals

theorem refl (s : State) : KeepsPeals s s := ⟨rfl, rfl⟩

theorem trans {s t u : State} (h : KeepsPeals s t) (k : KeepsPeals t u) : KeepsPeals s u :=
  ⟨k.peals.trans h.peals, k.clap.trans h.clap⟩

theorem ite {s t u : State} {c : Prop} [Decidable c] (h : KeepsPeals s t) (k : KeepsPeals s u) :
    KeepsPeals s (if c then t else u) := by
  split
  · exact h
  · exact k

theorem foldl {α : Type} {f : State → α → State} (h : ∀ s a, KeepsPeals s (f s a)) (l : List α) (s : State) :
    KeepsPeals s (l.foldl f s) := by
  induction l generalizing s with
  | nil => exact refl s
  | cons a l ih => exact (h s a).trans (ih _)

/-- The state a computation answers with its value. -/
theorem of_eq {α : Type} {s t : State} {x : α × State} {a : α} (h : KeepsPeals s x.2) (e : x = (a, t)) :
    KeepsPeals s t := by
  rwa [e] at h

end KeepsPeals

theorem State.mFe_keepsPeals (f : FrontEnd → FrontEnd) (s : State) : KeepsPeals s (s.mFe f) := ⟨rfl, rfl⟩

theorem State.mFunc_keepsPeals (fn : Fn) (f : Func → Func) (s : State) : KeepsPeals s (s.mFunc fn f) :=
  State.mFe_keepsPeals _ s

theorem State.mRng_keepsPeals (f : Rng → Rng) (s : State) : KeepsPeals s (s.mRng f) := ⟨rfl, rfl⟩

theorem State.mToll_keepsPeals (f : Toll → Toll) (s : State) : KeepsPeals s (s.mToll f) := ⟨rfl, rfl⟩

theorem State.mLc_keepsPeals (f : LifeCycle → LifeCycle) (s : State) : KeepsPeals s (s.mLc f) := ⟨rfl, rfl⟩

theorem nvQueue_keepsPeals (cls : Nat) (w : NvWork) (s : State) : KeepsPeals s (nvQueue cls w s) := ⟨rfl, rfl⟩

/-! Events. -/

theorem sendMsix_keepsPeals (fn : Fn) (v : Nat) (s : State) : KeepsPeals s (sendMsix fn v s) :=
  .ite (.refl s) (.ite (State.mFe_keepsPeals _ s) (State.mFunc_keepsPeals _ _ s))

theorem eventMessage_keepsPeals (fn : Fn) (s : State) : KeepsPeals s (eventMessage fn s) := by
  have hsent := (State.mFunc_keepsPeals fn (fun f => { f with evtSentAt := some s.clk.now }) s).trans
    (sendMsix_keepsPeals fn 0 _)
  refine .ite (.refl s) ?_
  split
  · exact .ite (State.mFunc_keepsPeals _ _ s) hsent
  · exact hsent

theorem raiseFn_keepsPeals (fn : Fn) (ev : FnEvent) (s : State) : KeepsPeals s (raiseFn fn ev s) :=
  .ite ((State.mFunc_keepsPeals _ _ s).trans (eventMessage_keepsPeals _ _)) (State.mFunc_keepsPeals _ _ s)

theorem raiseDev_keepsPeals (ev : DevEvent) (s : State) : KeepsPeals s (raiseDev ev s) :=
  .ite ((State.mFe_keepsPeals _ s).trans (eventMessage_keepsPeals _ _)) (State.mFe_keepsPeals _ s)

/-! A draw by a function of the device (R284, R292). -/

theorem freshBytes_keepsPeals (n : Nat) (s : State) : KeepsPeals s (freshBytes n s).2 := by
  unfold freshBytes
  split
  · exact ⟨rfl, rfl⟩
  · exact ⟨rfl, rfl⟩

theorem takePool_keepsPeals (n : Nat) (s : State) : KeepsPeals s (takePool n s).2 := ⟨rfl, rfl⟩

theorem seedDrbg_keepsPeals (i : Nat) (s : State) : KeepsPeals s (seedDrbg i s) :=
  ((takePool_keepsPeals entropyInput s).trans (freshBytes_keepsPeals 48 _)).trans ⟨rfl, rfl⟩

theorem reseedIfDue_keepsPeals (i : Nat) (s : State) : KeepsPeals s (reseedIfDue i s) :=
  .ite (seedDrbg_keepsPeals i s) (.refl s)

theorem generateBytes_keepsPeals (i n : Nat) (s : State) : KeepsPeals s (generateBytes i n s).2 :=
  (freshBytes_keepsPeals 48 s).trans ⟨rfl, rfl⟩

theorem raiseLimit_keepsPeals (i : Nat) (s : State) : KeepsPeals s (raiseLimit i s) :=
  have hdev := (State.mRng_keepsPeals _ s).trans (raiseDev_keepsPeals .rngReseedLimit _)
  .ite (.refl s) (.ite (hdev.trans (raiseFn_keepsPeals _ _ _)) hdev)

theorem draw_keepsPeals (i n : Nat) (pr : Bool) (s : State) : KeepsPeals s (draw i n pr s).2 := by
  have hseed : KeepsPeals s (if pr then seedDrbg i s else reseedIfDue i s) :=
    .ite (seedDrbg_keepsPeals i s) (reseedIfDue_keepsPeals i s)
  unfold draw
  split
  · exact .refl s
  · split
    · exact .refl s
    · split
      · exact .refl s
      · dsimp only
        generalize (if pr then seedDrbg i s else reseedIfDue i s) = s1 at hseed ⊢
        split
        · exact hseed.trans (raiseLimit_keepsPeals i _)
        · exact hseed.trans (generateBytes_keepsPeals i n _)

theorem drawAfter_keepsPeals (u : DrawUser) (i n : Nat) (pr : Bool) (s : State) :
    KeepsPeals s (drawAfter u i n pr s).2 := by
  unfold drawAfter
  split
  · exact .refl s
  · exact draw_keepsPeals i n pr s

theorem holdFor_keepsPeals (u : DrawUser) (i : Nat) (pr : Bool) (s : State) : KeepsPeals s (holdFor u i pr s) :=
  State.mRng_keepsPeals _ s

theorem unholdFor_keepsPeals (u : DrawUser) (s : State) : KeepsPeals s (unholdFor u s) := State.mRng_keepsPeals _ s

theorem expireHold_keepsPeals (h : HeldDraw) (s : State) : KeepsPeals s (expireHold h s) :=
  have hdev := (unholdFor_keepsPeals h.who s).trans (raiseDev_keepsPeals .rngHoldExpired _)
  .ite (hdev.trans (raiseFn_keepsPeals _ _ _)) hdev

theorem drawFor_keepsPeals (u : DrawUser) (i n : Nat) (s : State) : KeepsPeals s (drawFor u i n s).2 := by
  have hdraw := drawAfter_keepsPeals u i n false s
  unfold drawFor
  split
  next s1 hheld =>
    have hwait := hdraw.of_eq hheld
    split
    · split
      · exact hwait.trans (expireHold_keepsPeals _ _)
      · exact hwait
    · exact hwait.trans (holdFor_keepsPeals u i false s1)
  next r s1 _ hend => exact (hdraw.of_eq hend).trans (unholdFor_keepsPeals u s1)

/-! The closing statement (R343, R349). -/

theorem markReady_keepsPeals (seq : Nat) (s : State) : KeepsPeals s (markReady seq s).2 := by
  unfold markReady
  split
  · exact .refl s
  · exact .ite (.refl s) (nvQueue_keepsPeals _ _ s)

theorem sealLogAdd_none_keepsPeals (kind : BitVec 8) (count : BitVec 32) (extra : Bytes) (s : State) :
    KeepsPeals s (sealLogAdd none kind count extra s) := (State.mToll_keepsPeals _ s).trans (nvQueue_keepsPeals _ _ _)

theorem writeClosing_keepsPeals (seq : Nat) (sig : Option Bytes) (s : State) : KeepsPeals s (writeClosing seq sig s) :=
  have hused := (State.mLc_keepsPeals _ s).trans (State.mToll_keepsPeals _ _)
  have hlog := hused.trans (sealLogAdd_none_keepsPeals _ _ _ _)
  hlog.trans (.foldl (fun s _ => nvQueue_keepsPeals _ _ s) _ _)

/-- Each answer to the request for the closing statement's nonce writes the statement or waits. -/
theorem closeGoesOn_keepsPeals (s : State) : KeepsPeals s (closeGoesOn s) := by
  have hmark := markReady_keepsPeals (stmtSeq s) s
  unfold closeGoesOn
  refine .ite (.refl s) ?_
  dsimp only
  split
  next s1 hwait => exact hmark.of_eq hwait
  next s1 hready =>
    have hmarked := hmark.of_eq hready
    have hdraw := hmarked.trans (drawFor_keepsPeals .closing (instI 3) signDraw s1)
    refine .ite (hmarked.trans (writeClosing_keepsPeals _ _ _)) ?_
    split
    next hserved => exact (hdraw.of_eq hserved).trans (writeClosing_keepsPeals _ _ _)
    next hheld => exact hdraw.of_eq hheld
    next hfailed => exact (hdraw.of_eq hfailed).trans (writeClosing_keepsPeals _ _ _)

/-- Without a closing statement that waits, nothing is taken up. -/
theorem closeGoesOn_of_none {s : State} (h : s.lc.closing = none) : closeGoesOn s = s := by
  simp [closeGoesOn, h]

/-! The room of R135. -/

section
variable {s : State} {slot : PealSlot}

theorem commitReady_eq_false_of_full (h : 255 ≤ committedWaiting s) : commitReady s slot = false := by
  simp [commitReady, Nat.not_lt.2 h]

theorem exec_commitPoint_of_full (h : 255 ≤ committedWaiting s) : exec (.commitPoint slot) s = .next s := by
  change execCommitPoint slot s = _
  unfold execCommitPoint
  cases s.peal slot with
  | none => rfl
  | some q => simp [commitReady_eq_false_of_full h]

theorem recordWritten_of_full (h : 255 ≤ committedWaiting s) : recordWritten slot s = s := by
  unfold recordWritten
  cases s.peal slot with
  | none => rfl
  | some q => simp [h]

theorem exec_stewardRecordWriteComplete_of_full (h : 255 ≤ committedWaiting s) :
    exec (.stewardRecordWriteComplete slot) s = .next (closeGoesOn s) := by
  change execStewardRecordWriteComplete slot s = _
  rw [execStewardRecordWriteComplete, recordWritten_of_full h]

theorem exec_journalGroupClose_of_overfull (h : 255 < committedWaiting s + s.clap.group.length) :
    exec .journalGroupClose s = .next s := by
  change execJournalGroupClose s = _
  simp [execJournalGroupClose, h]

theorem exec_groupRecordComplete_of_overfull (h : 255 < committedWaiting s + s.clap.writing.length) :
    exec .groupRecordComplete s = .next s := by
  change execGroupRecordComplete s = _
  simp [execGroupRecordComplete, h]

end

/-- Settles O27: every way to commit asks for room under 255, and without it only a closing statement may go on. -/
theorem commitWaitsBehind255 : Obligations.CommitWaitsBehind255 := by
  intro slot s n hn
  obtain rfl : n = committedWaiting s := hn
  have hkeeps := closeGoesOn_keepsPeals s
  exact ⟨fun hfull => ⟨exec_commitPoint_of_full hfull, closeGoesOn s, exec_stewardRecordWriteComplete_of_full hfull,
    hkeeps.peals, hkeeps.clap, closeGoesOn_of_none⟩, exec_journalGroupClose_of_overfull,
    exec_groupRecordComplete_of_overfull⟩

end Sys2Proof.Machine
end

section
/-! Raising an event: the front end alone changes, and of a function's registers the event's own (R12, R485, R486). -/
namespace Sys2Proof.Machine

/-! A change of the front end alone. -/

/-- Nothing but the front end differs. -/
abbrev FeOnly (s t : State) : Prop := t = { s with fe := t.fe }

section
variable {s t u : State}

theorem FeOnly.refl (s : State) : FeOnly s s := rfl

theorem FeOnly.trans (h : FeOnly s t) (k : FeOnly t u) : FeOnly s u := by
  rw [FeOnly, h] at k
  exact k

theorem FeOnly.ite {c : Prop} [Decidable c] (h : FeOnly s t) (k : FeOnly s u) : FeOnly s (if c then t else u) := by
  split <;> assumption

theorem FeOnly.mFe (h : FeOnly s t) (f : FrontEnd → FrontEnd) : FeOnly s (t.mFe f) := h.trans rfl

theorem State.mFe_feOnly (f : FrontEnd → FrontEnd) (s : State) : FeOnly s (s.mFe f) := rfl

theorem State.mFunc_feOnly (fn : Fn) (f : Func → Func) (s : State) : FeOnly s (s.mFunc fn f) := rfl

theorem sendMsix_feOnly (fn : Fn) (v : Nat) (s : State) : FeOnly s (sendMsix fn v s) :=
  .ite (.refl s) (.ite (State.mFe_feOnly _ s) (State.mFunc_feOnly _ _ s))

theorem eventMessage_feOnly (fn : Fn) (s : State) : FeOnly s (eventMessage fn s) := by
  have hsent := (State.mFunc_feOnly fn (fun f => { f with evtSentAt := some s.clk.now }) s).trans
    (sendMsix_feOnly fn 0 _)
  unfold eventMessage
  refine .ite (.refl s) ?_
  split
  · exact .ite (State.mFunc_feOnly _ _ s) hsent
  · exact hsent

theorem raiseFn_feOnly (fn : Fn) (e : FnEvent) (s : State) : FeOnly s (raiseFn fn e s) :=
  .ite ((State.mFunc_feOnly _ _ s).trans (eventMessage_feOnly _ _)) (State.mFunc_feOnly _ _ s)

theorem raiseDev_feOnly (e : DevEvent) (s : State) : FeOnly s (raiseDev e s) :=
  .ite ((State.mFe_feOnly _ s).trans (eventMessage_feOnly _ _)) (State.mFe_feOnly _ s)

end

/-! One key of a map, set to a value that is listed. -/

section
variable {β : Type} [DecidableEq β]

theorem smGet_set_of_ne_default {d v : β} (hv : v ≠ d) (k : Nat) (m : SMap β) : smGet d (smSet d k v m) k = v := by
  simp [smGet, smSet, hv, smFind_insert]

end

theorem satInc16_ne_zero (c : BitVec 16) : satInc16 c ≠ 0 := by
  unfold satInc16
  split <;> bv_omega

theorem smGet_satInc16 (n : Nat) (m : SMap (BitVec 16)) : smGet 0 (smMod 0 n satInc16 m) n = satInc16 (smGet 0 m n) :=
  smGet_set_of_ne_default (satInc16_ne_zero _) n m

/-! A function's registers after a change of them. -/

theorem State.func_mFunc_ne {fn g : Fn} (h : g ≠ fn) (f : Func → Func) (s : State) :
    (s.mFunc fn f).func g = s.func g :=
  smGet_set_ne _ (fun e => h (BitVec.eq_of_toNat_eq e)) _ _

theorem State.func_mFunc {fn : Fn} {f : Func → Func} {s : State} (h : f (s.func fn) ≠ Func.init) :
    (s.mFunc fn f).func fn = f (s.func fn) :=
  smGet_set_of_ne_default h _ _

/-- The event registers of a function agree. -/
abbrev SameEvents (a b : Func) : Prop :=
  b.evtFlags = a.evtFlags ∧ b.evtEnable = a.evtEnable ∧ b.evtCount = a.evtCount

theorem ne_init_of_flags {f : Func} (h : f.evtFlags ≠ 0) : f ≠ Func.init := fun e => h (e ▸ rfl)

section
variable {s : State} {fn : Fn}

theorem State.mFunc_sameEvents (h : (s.func fn).evtFlags ≠ 0) (f : Func → Func) (hf : SameEvents (s.func fn) (f (s.func fn))) :
    SameEvents (s.func fn) ((s.mFunc fn f).func fn) := by
  rwa [State.func_mFunc (ne_init_of_flags (hf.1 ▸ h))]

theorem sendMsix_sameEvents (h : (s.func fn).evtFlags ≠ 0) (v : Nat) :
    SameEvents (s.func fn) ((sendMsix fn v s).func fn) := by
  unfold sendMsix
  split
  · exact ⟨rfl, rfl, rfl⟩
  · split
    · exact ⟨rfl, rfl, rfl⟩
    · exact State.mFunc_sameEvents h _ ⟨rfl, rfl, rfl⟩

theorem eventMessage_sameEvents (h : (s.func fn).evtFlags ≠ 0) :
    SameEvents (s.func fn) ((eventMessage fn s).func fn) := by
  have hsent : SameEvents (s.func fn)
      ((sendMsix fn 0 (s.mFunc fn fun f => { f with evtSentAt := some s.clk.now })).func fn) := by
    have hset := State.mFunc_sameEvents h (fun f => { f with evtSentAt := some s.clk.now }) ⟨rfl, rfl, rfl⟩
    have hsend := sendMsix_sameEvents (hset.1 ▸ h) 0
    exact ⟨hsend.1.trans hset.1, hsend.2.1.trans hset.2.1, hsend.2.2.trans hset.2.2⟩
  unfold eventMessage
  split
  · exact ⟨rfl, rfl, rfl⟩
  · split
    · split
      · exact State.mFunc_sameEvents h _ ⟨rfl, rfl, rfl⟩
      · exact hsent
    · exact hsent

end

theorem sendMsix_func_ne {fn g : Fn} (h : g ≠ fn) (v : Nat) (s : State) : (sendMsix fn v s).func g = s.func g := by
  unfold sendMsix
  split
  · rfl
  · split
    · rfl
    · exact State.func_mFunc_ne h _ s

theorem eventMessage_func_ne {fn g : Fn} (h : g ≠ fn) (s : State) : (eventMessage fn s).func g = s.func g := by
  have hset (f : Func → Func) := State.func_mFunc_ne h f s
  unfold eventMessage
  split
  · rfl
  · split
    · split
      · exact hset _
      · exact (sendMsix_func_ne h 0 _).trans (hset _)
    · exact (sendMsix_func_ne h 0 _).trans (hset _)

theorem raiseFn_func_ne {fn g : Fn} (h : g ≠ fn) (e : FnEvent) (s : State) : (raiseFn fn e s).func g = s.func g := by
  unfold raiseFn
  dsimp only
  split
  · exact (eventMessage_func_ne h _).trans (State.func_mFunc_ne h _ s)
  · exact State.func_mFunc_ne h _ s

theorem FnEvent.num_lt (e : FnEvent) : e.num < 17 := by cases e <;> decide

theorem DevEvent.num_lt (e : DevEvent) : e.num < 39 := by cases e <;> decide

theorem or_bit_ne_zero {w n : Nat} (h : n < w) (x : BitVec w) : x ||| ((1 : BitVec w) <<< n) ≠ 0 := by
  intro e
  have hbit := congrArg (BitVec.getLsbD · n) e
  simp [h] at hbit

/-- The function's event registers after the event: its flag is set and its counter has advanced. -/
theorem raiseFn_func (fn : Fn) (e : FnEvent) (s : State) :
    ((raiseFn fn e s).func fn).evtFlags = (s.func fn).evtFlags ||| (1 <<< e.num) ∧
      ((raiseFn fn e s).func fn).evtEnable = (s.func fn).evtEnable ∧
      ((raiseFn fn e s).func fn).evtCount = smMod 0 e.num satInc16 (s.func fn).evtCount := by
  let f : Func → Func := fun f =>
    { f with evtFlags := f.evtFlags ||| (1 <<< e.num), evtCount := smMod 0 e.num satInc16 f.evtCount,
             evtSet := (if f.evtSetAt = s.clk.now then f.evtSet else 0) ||| (1 <<< e.num), evtSetAt := s.clk.now }
  have hflags : (f (s.func fn)).evtFlags ≠ 0 := or_bit_ne_zero (by have := e.num_lt; omega) _
  have hset : (s.mFunc fn f).func fn = f (s.func fn) := State.func_mFunc (ne_init_of_flags hflags)
  have hmsg := eventMessage_sameEvents (s := s.mFunc fn f) (fn := fn) (by rwa [hset])
  have heq : SameEvents (f (s.func fn)) ((raiseFn fn e s).func fn) := by
    rw [← hset]
    change SameEvents _ ((if _ then eventMessage fn (s.mFunc fn f) else s.mFunc fn f).func fn)
    split
    · exact hmsg
    · exact ⟨rfl, rfl, rfl⟩
  exact heq

theorem eventMessage_dev (fn : Fn) (s : State) :
    (eventMessage fn s).fe.devFlags = s.fe.devFlags ∧ (eventMessage fn s).fe.devEnable = s.fe.devEnable ∧
      (eventMessage fn s).fe.devCount = s.fe.devCount := by
  have hsend (t : State) : (sendMsix fn 0 t).fe.devFlags = t.fe.devFlags ∧
      (sendMsix fn 0 t).fe.devEnable = t.fe.devEnable ∧ (sendMsix fn 0 t).fe.devCount = t.fe.devCount := by
    unfold sendMsix
    (repeat' split) <;> exact ⟨rfl, rfl, rfl⟩
  unfold eventMessage
  (repeat' split)
  · exact ⟨rfl, rfl, rfl⟩
  · exact ⟨rfl, rfl, rfl⟩
  · exact hsend _
  · exact hsend _

/-- PF0's device event registers after the event. -/
theorem raiseDev_dev (e : DevEvent) (s : State) :
    (raiseDev e s).fe.devFlags = s.fe.devFlags ||| (1 <<< e.num) ∧ (raiseDev e s).fe.devEnable = s.fe.devEnable ∧
      (raiseDev e s).fe.devCount = smMod 0 e.num satInc16 s.fe.devCount := by
  unfold raiseDev
  dsimp only
  split
  · exact eventMessage_dev 0 _
  · exact ⟨rfl, rfl, rfl⟩

/-- Settles O6: the registers of the event are set before its message is sent, and the message touches none of them. -/
theorem raisedEventIsFlaggedAndCounted : Obligations.RaisedEventIsFlaggedAndCounted := by
  unfold Obligations.RaisedEventIsFlaggedAndCounted
  refine fun s => ⟨fun fn e => ?_, fun e => ?_⟩
  · obtain ⟨hflags, henable, hcount⟩ := raiseFn_func fn e s
    exact ⟨hflags, henable, hcount ▸ smGet_satInc16 _ _, fun g hg => raiseFn_func_ne hg e s, raiseFn_feOnly fn e s⟩
  · obtain ⟨hflags, henable, hcount⟩ := raiseDev_dev e s
    exact ⟨hflags, henable, hcount ▸ smGet_satInc16 _ _, raiseDev_feOnly e s⟩

end Sys2Proof.Machine
end

section
/-! What a command answers: a next state in every state (O3), and, but for 26 of the commands, one that keeps what
`Keeps` names. -/
namespace Sys2Proof.Machine

/-! Answers. -/

/-- The outcome is a next state that has `P`. -/
def Answers (P : State → Prop) : Res → Prop
  | .next t => P t
  | .fault _ => False
  | .refused _ => False

section
variable {P Q : State → Prop} {o : Res} {s t : State}

@[simp] theorem answers_next : Answers P (.next t) ↔ P t := Iff.rfl

theorem Answers.mono (h : Answers P o) (hPQ : ∀ t, P t → Q t) : Answers Q o := by
  cases o with
  | next t => exact hPQ t h
  | fault | refused => exact h

theorem Answers.exists_next (h : Answers P o) : ∃ t, o = .next t ∧ P t := by
  cases o with
  | next t => exact ⟨t, rfl, h⟩
  | fault | refused => exact h.elim

theorem Answers.of_eq (h : Answers P o) (e : o = .next t) : P t := by
  subst e
  exact h

end

/-! The shared forms of a command's meaning: where the command may run its operation is applied, and elsewhere the state
stays or an error is reported. -/

section
variable {f : State → State} {g : Peal → State → State}

theorem atSetup_keeps (fn : Fn) (s : State) (h : ∀ s, Keeps s (f s)) : Answers (Keeps s) (atSetup fn f s) :=
  .ite _ (h s) .rfl'

theorem atSmbus_keeps (s : State) (h : ∀ s, Keeps s (f s)) : Answers (Keeps s) (atSmbus f s) := .ite _ (h s) .rfl'

theorem lcCommand_keeps (b : Bool) (s : State) (h : ∀ s, Keeps s (f s)) : Answers (Keeps s) (lcCommand b f s) :=
  .ite _ .rfl' (.ite _ (lcRefuse_keeps _ _ _) (h s))

theorem token_keeps (mine sig : Bool) (s : State) (h : ∀ s, Keeps s (f s)) : Answers (Keeps s) (token mine sig f s) := by
  unfold token
  split
  · exact .rfl'
  · refine lcCommand_keeps true s fun s => ?_
    split
    · exact lcRefuse_keeps _ _ _
    · exact h s

theorem fwCommand_keeps (s : State) (h : ∀ s, Keeps s (f s)) : Answers (Keeps s) (fwCommand f s) :=
  .ite _ .rfl' (.ite _ (fwEnd_keeps _ _) (.ite _ (fwEnd_keeps _ _) (h s)))

theorem frameIn_keeps (fr : Frame) (s : State) (h : ∀ s, Keeps s (f s)) : Answers (Keeps s) (frameIn fr f s) :=
  .ite _ .rfl' (.ite _ (dropFrame_keeps _) (((State.mPair_keeps _ _).trans (ackTo_keeps _ _)).trans (h _)))

theorem runAdmin_keeps (p : PealSlot) (ids : List Nat) (s : State) (h : ∀ q s, Keeps s (g q s)) :
    Answers (Keeps s) (runAdmin p ids g s) := by
  dsimp only [runAdmin, answers_next]
  split
  · exact .rfl'
  · exact .ite _ (h _ s) .rfl'

theorem runToll_keeps (p : PealSlot) (s : State) (h : ∀ q s, Keeps s (g q s)) :
    Answers (Keeps s) (runToll p g s) := by
  dsimp only [runToll, answers_next]
  split
  · exact .rfl'
  · exact .ite _ (h _ s) .rfl'

end

/-! Three commands that go on with a draw's answer. -/

theorem shakeHands_keeps (key : Bytes) (s : State) : Keeps s (shakeHands key s).2 := by
  unfold shakeHands
  split
  next h3 =>
    have hfirst := keeps_of_eq h3 (drawFor_keeps _ _ _ _)
    split
    next h1 =>
      exact hfirst.trans ((keeps_of_eq h1 (drawFor_keeps _ _ _ _)).trans (State.mPair_keeps _ _))
    next h1 => exact hfirst.trans (drawFor_keeps _ _ _ _)
  next => exact drawFor_keeps _ _ _ _

theorem execXeolinkHandshakeComplete_keeps (ok peerHasRoot : Bool) (peer : Hello) (peerSecondary : Bool) (s : State) :
    Answers (Keeps s) (execXeolinkHandshakeComplete ok peerHasRoot peer peerSecondary s) := by
  dsimp only [execXeolinkHandshakeComplete, answers_next]
  refine .ite _ .rfl' (.ite _ ?_ (shakeFailed_keeps s))
  split
  next h => exact keeps_of_eq h (shakeHands_keeps _ _)
  next h => exact (keeps_of_eq h (shakeHands_keeps _ _)).trans (shakeFailed_keeps _)
  next h =>
    have hkeyed := keeps_of_eq h (shakeHands_keeps _ _)
    exact .ite _ (hkeyed.trans ((State.mPair_keeps _ _).trans (startResync_keeps _)))
      (hkeyed.trans (State.mPair_keeps _ _))

theorem execXeolinkRekey_keeps (s : State) : Answers (Keeps s) (execXeolinkRekey s) := by
  dsimp only [execXeolinkRekey, answers_next]
  refine .ite _ .rfl' ?_
  have hkey : Keeps s (partnerKey s).2 := noiseBytes_keeps 56 s
  split
  next h => exact (hkey.trans (keeps_of_eq h (shakeHands_keeps _ _))).trans (State.mPair_keeps _ _)
  next h => exact hkey.trans (keeps_of_eq h (shakeHands_keeps _ _))

theorem execLockdownReportReady_keeps (s : State) : Answers (Keeps s) (execLockdownReportReady s) := by
  dsimp only [execLockdownReportReady, answers_next]
  split
  · exact .rfl'
  · refine .ite _ .rfl' ?_
    split
    next h => exact (keeps_of_eq h (drawFor_keeps _ _ _ _)).trans ((State.mLc_keeps _ _).trans (lcResult_keeps _ _))
    next h => exact keeps_of_eq h (drawFor_keeps _ _ _ _)
    next h => exact (keeps_of_eq h (drawFor_keeps _ _ _ _)).trans ((State.mLc_keeps _ _).trans (lcResult_keeps _ _))

/-! Every command but these. -/

/-- Commands that may change the mode, the Lockdown latch, a fuse or the store's array. -/
def quietCmd : Instr → Bool
  | .admissionDecision _ | .commitPoint _ | .completionPost _ _ | .groupRecordComplete
  | .stewardRecordWriteComplete _ | .linkEntersL0 | .linkLeavesL0 | .perstAssert | .functionReady
  | .refillBoundary _ _ _ _ | .clockGateTimer _ | .noiseWindowComplete _ _ | .nvCommandComplete _
  | .powerOnReset _ | .mainPowerLost | .vaultEntry | .batteryAbsent _ | .warmReset _
  | .stewardRestartComplete _ _ | .snareSensorOutOfRange _ | .snareSelfCheck _
  | .fuseGroupProgramComplete | .wipeVerificationComplete _ | .recoveryReset _
  | .scrapOnlyPolicyToken _ | .patrolScrub _ => false
  | _ => true

/-- A command outside that list keeps the queue, the clock, the fuses, the mode, the latch and the store's array. -/
theorem exec_keeps_of_quiet (c : Instr) (s : State) (hquiet : quietCmd c = true) : Answers (Keeps s) (exec c s) := by
  cases c with
  | admissionDecision | commitPoint | completionPost | groupRecordComplete | stewardRecordWriteComplete |
    linkEntersL0 | linkLeavesL0 | perstAssert | functionReady | refillBoundary | clockGateTimer | noiseWindowComplete |
    nvCommandComplete | powerOnReset | mainPowerLost | vaultEntry | batteryAbsent | warmReset | stewardRestartComplete |
    snareSensorOutOfRange | snareSelfCheck | fuseGroupProgramComplete | wipeVerificationComplete | recoveryReset |
    scrapOnlyPolicyToken | patrolScrub =>
    exact absurd hquiet Bool.false_ne_true
  | xeolinkHandshakeComplete => exact execXeolinkHandshakeComplete_keeps _ _ _ _ s
  | xeolinkRekey => exact execXeolinkRekey_keeps s
  | manufacturingTransition =>
    dsimp only [exec, execManufacturingTransition]
    refine answers_next.2 ?_
    (repeat' split) <;> simp [Keeps, beginTransition]
  | lockdownReportReady => exact execLockdownReportReady_keeps s
  | cqIrqEnableWrite | ringDisable | ringReset | ringResetAbort | ringSelectWrite | ringParameterWrite |
    recoveryListClear | sriOfferWrite | creditSnapshot | blockAssignWrite | setupLockSet | vfVectorsWrite |
    hktRegisterWrite | govCapWrite | govWeightWrite | govTenantShareWrite =>
    dsimp only [exec, execCqIrqEnableWrite, execRingDisable, execRingReset, execRingResetAbort, execRingSelectWrite,
       execRingParameterWrite, execRecoveryListClear, execSriOfferWrite, execCreditSnapshot,
       execBlockAssignWrite, execSetupLockSet, execVfVectorsWrite, execHktRegisterWrite, execGovCapWrite,
       execGovWeightWrite, execGovTenantShareWrite]
    refine atSetup_keeps _ s fun s => ?_
    (repeat' split) <;> simp [Keeps]
  | ident | health | request | status | offset | read | alertResponse =>
    dsimp only [exec, execIdent, execHealth, execRequest, execStatus, execOffset, execRead, execAlertResponse]
    refine atSmbus_keeps s fun s => ?_
    (repeat' split) <;> simp [Keeps]
  | heartbeat | commit | hwm | revoke | role | dualReq | dualResult | resync =>
    dsimp only [exec, execHeartbeat, execCommit, execHwm, execRevoke, execRole, execDualReq, execDualResult, execResync]
    refine frameIn_keeps _ s fun s => ?_
    (repeat' split) <;> simp [Keeps]
  | registerRecoveryKey | lockdownReport | debugChallenge | debugToken =>
    dsimp only [exec, execRegisterRecoveryKey, execLockdownReport, execDebugChallenge, execDebugToken]
    refine lcCommand_keeps _ s fun s => ?_
    (repeat' split) <;> simp [Keeps]
  | recoverToken | eolAnalysisToken | eolScrapToken | replaceRecoveryKeyToken =>
    dsimp only [exec, execRecoverToken, execEolAnalysisToken, execEolScrapToken, execReplaceRecoveryKeyToken]
    refine token_keeps _ _ s fun s => ?_
    simp [Keeps, beginTransition]
  | fwStage | fwActivate | fwAbandon =>
    dsimp only [exec, execFwStage, execFwActivate, execFwAbandon]
    refine fwCommand_keeps s fun s => ?_
    (repeat' split) <;> simp [Keeps]
  | maintenanceEnter | maintenanceExit | generateSymmetricKey | generateEcKeyPair | generateRsaKeyPair |
    generateMldsaKeyPair | generateMlkemKeyPair | deriveAndStore | changeState | revokeKey | pinOrUnpin | drop |
    keyReport | setAllowances | loadKeyStatePolicy | importX9143Block | exportX9143Block | createTenant |
    openIntakeSession | enterComponent | closeIntakeSession | importKek | rotateTableSigningKey | rewrapBlock |
    finishKekRotation | abandonPendingKek | destroyTenant | deriveInitialDukptKey | tenantReport | healthReport |
    registerPartner | setReplicationMode | transferRoles | takeRoles | loadOwnTable | loadTableForTenant |
    userRegionRead | userRegionWrite | setUserWindow | userRegionStatus | readBuiltinPealTable | clearOwnTable |
    setAlgorithmPolicy | readAlgorithmPolicy | setPermissionMap | setTollBindingMap | keyAttestation |
    certificateChain | lookupByTag | readBySequence | emptyCarriedJournal | readCostTable | loadCostTable =>
    dsimp only [exec, execMaintenanceEnter, execMaintenanceExit, execGenerateSymmetricKey, execGenerateEcKeyPair,
       execGenerateRsaKeyPair, execGenerateMldsaKeyPair, execGenerateMlkemKeyPair, execDeriveAndStore,
       execChangeState, execRevokeKey, execPinOrUnpin, execDrop, execKeyReport, execSetAllowances,
       execLoadKeyStatePolicy, execImportX9143Block, execExportX9143Block, execCreateTenant,
       execOpenIntakeSession, execEnterComponent, execCloseIntakeSession, execImportKek,
       execRotateTableSigningKey, execRewrapBlock, execFinishKekRotation, execAbandonPendingKek,
       execDestroyTenant, execDeriveInitialDukptKey, execTenantReport, execHealthReport, execRegisterPartner,
       execSetReplicationMode, execTransferRoles, execTakeRoles, execLoadOwnTable, execLoadTableForTenant,
       execUserRegionRead, execUserRegionWrite, execSetUserWindow, execUserRegionStatus,
       execReadBuiltinPealTable, execClearOwnTable, execSetAlgorithmPolicy, execReadAlgorithmPolicy,
       execSetPermissionMap, execSetTollBindingMap, execKeyAttestation, execCertificateChain, execLookupByTag,
       execReadBySequence, execEmptyCarriedJournal, execReadCostTable, execLoadCostTable]
    refine runAdmin_keeps _ _ s fun q s => ?_
    (repeat' split) <;> simp [Keeps]
  | tenantStatement | fullStatement | tollStatusBlock | forcedUnseal | setAuthorityKey | replaceStoreImage |
    setJournalMode | tollSeal =>
    dsimp only [exec, execTenantStatement, execFullStatement, execTollStatusBlock, execForcedUnseal,
       execSetAuthorityKey, execReplaceStoreImage, execSetJournalMode, execTollSeal]
    refine runToll_keeps _ s fun q s => ?_
    (repeat' split) <;> simp [Keeps]
  | submissionDoorbellWrite | completionHeadWrite | descriptorFetch | descriptorFetchError | tier3FetchComplete |
    sglListRead | inputReadError | requestParse | stepIssue | counterCellWriteComplete | stepEnd | tieBreakComplete |
    rimshotSuspend | rimshotResume | pkPreemptPark | pkJobResume | jobAbandon | releaseVerifySelfTestComplete |
    journalPostedSet | outputWriteRefused | completionWriteRefused | chimeTimerExpire | journalGroupClose |
    ringEnable | functionLevelReset | flrComplete | eventFlagClear | eventEnableWrite | eventMessageInterval |
    registerWrite | registerLowHalfRead | busMasterEnableWrite | powerStateWrite | vfEnableWrite | perstRelease |
    clusterWakeComplete | powerGateTimer | clusterGatingComplete | keyCacheReshare | rootSecretReshare |
    barrierDrainComplete | startupTestRetry | drbgScheduledReseed | drbgReseedLimitReached | drbgHoldExpire |
    maskingGeneratorRekey | carriedSeedReplace | tollDeltaRecordTimer | journalModeBatteryTimer |
    stewardCommandGapExpire | vaultTimeCheckpoint | pfwarnAssert | pfwarnDeassert | mainPowerGood | batteryPresent |
    stewardWatchdogExpire | spareSelfTest | spareSelfTestComplete | xeolinkTrainingComplete | xeolinkBlockLockLoss |
    xeolinkLaneRetrain | hello | xeolinkHandshakeRetry | heartbeatSend |
    partnerSilenceTimeout | peerFailNLow | peerFailRoleTimer | tamperLogCopy | throttleExpire | intakeSessionExpire |
    tmpCommitGo | fwStageComplete | impedanceCalibration | channelDegradedClear | msixVectorUnmask |
    smbusObjectReady | tier2PageInComplete | pealEntryFetchComplete |
    sensorsClearTimer | vaoCapChargeTimeout | gongNHoldExpire | configSpaceReady =>
    dsimp only [exec, execSubmissionDoorbellWrite, execCompletionHeadWrite, execDescriptorFetch, execDescriptorFetchError,
       execTier3FetchComplete, execSglListRead, execInputReadError, execRequestParse, execStepIssue,
       execCounterCellWriteComplete, execStepEnd, execTieBreakComplete, execRimshotSuspend, execRimshotResume,
       execPkPreemptPark, execPkJobResume, execJobAbandon, execReleaseVerifySelfTestComplete,
       execJournalPostedSet, execOutputWriteRefused, execCompletionWriteRefused, execChimeTimerExpire,
       execJournalGroupClose, execRingEnable, execFunctionLevelReset, execFlrComplete, execEventFlagClear,
       execEventEnableWrite, execEventMessageInterval, execRegisterWrite, execRegisterLowHalfRead,
       execBusMasterEnableWrite, execPowerStateWrite, execVfEnableWrite, execPerstRelease,
       execClusterWakeComplete, execPowerGateTimer, execClusterGatingComplete, execKeyCacheReshare,
       execRootSecretReshare, execBarrierDrainComplete, execStartupTestRetry, execDrbgScheduledReseed,
       execDrbgReseedLimitReached, execDrbgHoldExpire, execMaskingGeneratorRekey, execCarriedSeedReplace,
       execTollDeltaRecordTimer, execJournalModeBatteryTimer, execStewardCommandGapExpire,
       execVaultTimeCheckpoint, execPfwarnAssert, execPfwarnDeassert, execMainPowerGood, execBatteryPresent,
       execStewardWatchdogExpire, execSpareSelfTest, execSpareSelfTestComplete, execXeolinkTrainingComplete,
       execXeolinkBlockLockLoss, execXeolinkLaneRetrain, execHello,
       execXeolinkHandshakeRetry, execHeartbeatSend, execPartnerSilenceTimeout,
       execPeerFailNLow, execPeerFailRoleTimer, execTamperLogCopy, execThrottleExpire, execIntakeSessionExpire,
       execTmpCommitGo, execFwStageComplete, execImpedanceCalibration, execChannelDegradedClear,
       execMsixVectorUnmask, execSmbusObjectReady, execTier2PageInComplete,
       execPealEntryFetchComplete, execSensorsClearTimer, execVaoCapChargeTimeout,
       execGongNHoldExpire, execConfigSpaceReady]
    refine answers_next.2 ?_
    (repeat' split) <;> simp [Keeps]
  -- UNSEAL alone: its constructor's name is a keyword of Lean
  | _ =>
    dsimp only [exec, execUnseal]
    refine runToll_keeps _ s fun q s => ?_
    (repeat' split) <;> simp [Keeps]

end Sys2Proof.Machine
end

section
/-! The mode: what each operation that enters one enters, and from where (R22, R24, Table 1-7). -/
namespace Sys2Proof.Machine

section
variable {s t u : State}

/-- A move among the working modes that the peals and clusters make: Serve is entered from Ready or Surge, Ready from
Serve or Surge. -/
def Mode.Settles (a b : Mode) : Prop :=
  b = a ∨ (b = .serve ∧ (a = .ready ∨ a = .surge)) ∨ (b = .ready ∧ (a = .serve ∨ a = .surge))

theorem withdrawSurge_mode (s : State) : (withdrawSurge s).mode = if s.mode = .surge then .serve else s.mode := by
  unfold withdrawSurge
  dsimp only
  split <;> simp [*]

theorem readyToServe_mode (s : State) :
    (readyToServe s).mode = s.mode ∨ ((readyToServe s).mode = .serve ∧ s.mode = .ready) := by
  unfold readyToServe
  split <;> simp_all

theorem serveToReady_mode (s : State) :
    (serveToReady s).mode = s.mode ∨ ((serveToReady s).mode = .ready ∧ s.mode = .serve) := by
  unfold serveToReady
  dsimp only
  split <;> simp_all

theorem toRest_mode (s : State) : (toRest s).mode = if s.mode.working then .rest else s.mode := by
  unfold toRest
  split <;> simp

theorem toReady_mode (s : State) :
    (toReady s).mode = s.mode ∨ ((toReady s).mode = .ready ∧ s.mode = .rest) := by
  unfold toReady
  split <;> simp_all

theorem dropLink_mode (s : State) : (dropLink s).mode = if s.mode.working then .rest else s.mode := by
  simp [dropLink, toRest_mode]

theorem pcieReset_mode (s : State) : (pcieReset s).mode = if s.mode.working then .rest else s.mode := by
  simp [pcieReset, dropLink_mode]

theorem leaveMain_mode (m : Mode) (s : State) :
    (leaveMain m s).mode = s.mode ∨
      ((leaveMain m s).mode = m ∧ s.mode ≠ .lockdown ∧ ¬ (s.mode = .off ∧ s.tmp.lock.isSome = true)) := by
  unfold leaveMain
  split <;> simp_all

theorem freePeal_mode (p : PealSlot) (q : Peal) (spend : Nat) (s : State) :
    (freePeal p q spend s).mode = s.mode ∨ ((freePeal p q spend s).mode = .ready ∧ s.mode = .serve) := by
  have h := serveToReady_mode (drainReady (noteIdle q.cluster (dropLost
    ((dropOuts p.toNat (freeHold q { s with peals := smErase p.toNat s.peals })).mGov fun g =>
      { g with settle := g.settle + 10 * (q.tokens : Int) - (spend : Int) }))))
  simpa [freePeal] using h

theorem Mode.Settles.trans {a b c : Mode} (h : a.Settles b) (k : b.Settles c) : a.Settles c := by
  rcases h with rfl | ⟨rfl, rfl | rfl⟩ | ⟨rfl, rfl | rfl⟩ <;>
    rcases k with rfl | ⟨rfl, h | h⟩ | ⟨rfl, h | h⟩ <;> simp_all [Mode.Settles]

theorem Keeps.settles (h : Keeps s t) : s.mode.Settles t.mode := .inl h.2.2.2.1

theorem withdrawSurge_settles (s : State) : s.mode.Settles (withdrawSurge s).mode := by
  rw [withdrawSurge_mode]
  split <;> simp_all [Mode.Settles]

theorem readyToServe_settles (s : State) : s.mode.Settles (readyToServe s).mode :=
  (readyToServe_mode s).imp_right fun h => .inl ⟨h.1, .inl h.2⟩

theorem serveToReady_settles (s : State) : s.mode.Settles (serveToReady s).mode :=
  (serveToReady_mode s).imp_right fun h => .inr ⟨h.1, .inl h.2⟩

theorem ite_settles {a : Mode} (c : Prop) [Decidable c] (h : a.Settles s.mode) (k : a.Settles t.mode) :
    a.Settles (if c then s else t).mode := by split <;> assumption

theorem whenDo_settles (b : Bool) (f : State → State) (s : State) (h : ∀ s : State, s.mode.Settles (f s).mode) :
    s.mode.Settles (whenDo b f s).mode := by
  unfold whenDo
  split
  · exact h s
  · exact .inl rfl

theorem admitPeal_settles (c : Cand) (n : Nat) (p : PealSlot) (s : State) : s.mode.Settles (admitPeal c n p s).mode := by
  unfold admitPeal
  dsimp only
  refine .trans ?_ (bindKeys_keeps _ _ _).settles
  refine .trans ?_ (judgeBuffers_keeps _ _).settles
  refine .trans ?_ (whenDo_keeps _ _ _ fun s => xlSend_keeps _ _ s).settles
  refine .trans ?_ (whenDo_settles _ _ _ withdrawSurge_settles)
  refine .trans ?_ (readyToServe_settles _)
  refine .trans ?_ (lapseSurge_keeps _).settles
  refine .trans ?_ (whenDo_keeps _ _ _ fun s => touchCache_keeps _ s).settles
  exact Keeps.settles (by simp [Keeps])

theorem decideWaiting_settles (w : Waiting) (s : State) : s.mode.Settles (decideWaiting w s).mode := by
  unfold decideWaiting
  dsimp only
  have hnote := (noteDecision_keeps (candidates s) s).settles
  refine ite_settles _ (.inl rfl) (ite_settles _ (refuseWaiting_keeps _ _ _).settles ?_)
  split
  · exact (refuseWaiting_keeps _ _ _).settles
  · refine ite_settles _ (refuseWaiting_keeps _ _ _).settles ?_
    split
    · exact hnote.trans (refuseWaiting_keeps _ _ _).settles
    · split
      · exact hnote.trans (admitPeal_settles _ _ _ _)
      · exact hnote.trans ((whenDo_keeps _ _ _ fun s => State.mGov_keeps _ s).trans (setWaiting_keeps _ _)).settles

theorem setMaintenance_mode (enter : Bool) (s : State) :
    (setMaintenance enter s).mode = s.mode ∨
      ((setMaintenance enter s).mode = .maintenance ∧ (s.mode = .ready ∨ s.mode = .serve ∨ s.mode = .surge)) ∨
      ((setMaintenance enter s).mode = .ready ∧ s.mode = .maintenance) := by
  unfold setMaintenance
  (repeat' split) <;> simp_all [or_assoc]

theorem judgeSurge_mode (waited : Bool) (s : State) :
    s.mode.Settles (judgeSurge waited s).mode ∨ ((judgeSurge waited s).mode = .surge ∧ s.mode = .serve) := by
  unfold judgeSurge
  extract_lets now ok absent held s1
  have hs1 : Keeps s s1 := State.mGov_keeps _ s
  clear_value s1
  split
  · exact .inl (hs1.settles.trans ((withdrawSurge_settles _).trans (serveToReady_settles _)))
  · split
    next h =>
      simp only [Bool.and_eq_true, decide_eq_true_eq] at h
      exact .inr ⟨State.enter_mode _ _, hs1.2.2.2.1 ▸ h.1.2⟩
    next => exact .inl (hs1.settles.trans (ite_settles _ (newClock_keeps _ _).settles (.inl rfl)))

/-- A move that commit points make: Maintenance is entered from Ready, Serve or Surge, and left to Ready. -/
def Mode.Commits (a b : Mode) : Prop :=
  b = a ∨ (b = .maintenance ∧ (a = .ready ∨ a = .serve ∨ a = .surge)) ∨
    (b = .ready ∧ (a = .maintenance ∨ a = .serve ∨ a = .surge))

theorem Mode.Commits.trans {a b c : Mode} (h : a.Commits b) (k : b.Commits c) : a.Commits c := by
  rcases h with rfl | ⟨rfl, rfl | rfl | rfl⟩ | ⟨rfl, rfl | rfl | rfl⟩ <;>
    rcases k with rfl | ⟨rfl, h | h | h⟩ | ⟨rfl, h | h | h⟩ <;> simp_all [Mode.Commits]

theorem Keeps.commits (h : Keeps s t) : s.mode.Commits t.mode := .inl h.2.2.2.1
theorem KeepsWf.commits (h : KeepsWf s t) : s.mode.Commits t.mode := .inl h.2.2.2.1

theorem setMaintenance_commits (enter : Bool) (s : State) : s.mode.Commits (setMaintenance enter s).mode :=
  (setMaintenance_mode enter s).imp_right fun h => h.imp_right fun k => ⟨k.1, .inl k.2⟩

theorem applyEffect_mode (p : PealSlot) (e : Effect) (s : State) :
    (applyEffect p e s).mode = s.mode ∨ ∃ enter, applyEffect p e s = setMaintenance enter s := by
  cases e with
  | maintenance b => exact .inr ⟨b, rfl⟩
  | tollImage image v =>
    refine .inl ?_
    have h := foldl_keeps (fun s i => tollWrite (some p) (.tollImage (some p) i) s)
      (fun s a => tollWrite_keeps _ _ s) (List.range ((image.length + 4095) / 4096))
      (s.mToll fun k => { k with image := image, imageVersion := v })
    simp [applyEffect, h.2.2.2.1]
  | enterComponent id i key =>
    exact .inl (freshBytes_keeps key.length s).2.2.2.1
  | installKek t alg key ses => cases ses <;> exact .inl (by simp [applyEffect])
  | _ => exact .inl (by simp [applyEffect])

theorem applyEffect_commits (p : PealSlot) (e : Effect) (s : State) : s.mode.Commits (applyEffect p e s).mode := by
  rcases applyEffect_mode p e s with h | ⟨enter, h⟩
  · exact .inl h
  · exact h ▸ setMaintenance_commits enter s

theorem commitPeal_commits (p : PealSlot) (seq : Option Nat) (s : State) : s.mode.Commits (commitPeal p seq s).mode := by
  unfold commitPeal
  dsimp only
  split
  · exact .inl rfl
  next q _ =>
    split
    · exact ((returnHolds_keeps _ _).trans (State.mPeal_keeps _ _ _)).commits.trans (applyEffect_commits _ _ _)
    · refine .trans ?_ (deltaIfDue_keeps _).commits
      have hend (b : Prop) [Decidable b] (x : State) :
          x.mode.Commits (if b then noteSuppressed p x else suppressBroken p x).mode :=
        (Keeps.ite b (noteSuppressed_keeps _ _) (suppressBroken_keeps _ _)).commits
      refine .trans ?_ (hend _ _)
      refine .trans ?_ (storeTenant_keepsWf _ _ _).commits
      refine .trans ?_ (noteStored_keeps _ _ _).commits
      refine .trans (Keeps.commits ?_) (applyEffect_commits _ _ _)
      (repeat' split) <;> simp [Keeps]

theorem commitGroup_commits (g : List PealSlot) (seq : BitVec 64) (s : State) :
    s.mode.Commits (commitGroup g seq s).mode := by
  unfold commitGroup
  generalize List.range g.length = l
  induction l generalizing s with
  | nil => exact .inl rfl
  | cons i l ih =>
    refine .trans ?_ (ih _)
    dsimp only
    split
    · exact commitPeal_commits _ _ _
    · exact .inl rfl

theorem groupWritten_commits (r : LogRec) (s : State) : s.mode.Commits (groupWritten r s).mode := by
  unfold groupWritten
  dsimp only
  have htail (x : State) : Keeps x (tollClear (journalSwitch (serveStatements
      { r with words := groupRecord s s.clap.lateIn s.clap.writing (takeSeqs s.clap.writing.length s).1 }.seq
      (baseIfDue (clearTollWait x))))) := by simp [Keeps]
  refine .trans ?_ (htail _).commits
  refine .trans ?_ (cleanLedger_keeps _ _).commits
  refine .trans (.inl ?_) (commitGroup_commits _ _ _)
  simp

theorem recordWritten_commits (p : PealSlot) (s : State) : s.mode.Commits (recordWritten p s).mode := by
  unfold recordWritten
  (repeat' split)
  all_goals first
    | exact .inl rfl
    | exact (failPeal_keeps _ _ _ _).commits
    | exact (holdDirty_keeps _ _ _).commits
    | exact (commitPeal_commits _ _ _).trans (tollClear_keeps _).commits

end

/-! The root's and the noise sources' work leaves open what the power-up sequence waits for. -/

/-- What the power-up sequence waits for stays. -/
abbrev KeepsAwait (s t : State) : Prop := t.boot.awaitNoise = s.boot.awaitNoise

theorem freshBytes_await (n : Nat) (s : State) : KeepsAwait s (freshBytes n s).2 := by
  unfold freshBytes noiseBytes
  split <;> simp [KeepsAwait]

theorem freshBytes_await_of_eq {n : Nat} {s t : State} {m : Bytes} (h : freshBytes n s = (m, t)) : KeepsAwait s t := by
  have k := freshBytes_await n s
  rwa [h] at k

theorem seedDrbg_await (i : Nat) (s : State) : KeepsAwait s (seedDrbg i s) := by
  unfold seedDrbg State.mDrbg
  dsimp only
  simp [KeepsAwait, takePool, freshBytes_await]

theorem instantiateWaiting_await (s : State) : KeepsAwait s (instantiateWaiting s) := by
  unfold instantiateWaiting
  generalize instOrder s = l
  induction l generalizing s with
  | nil => rfl
  | cons i l ih =>
    refine (ih _).trans ?_
    dsimp only
    split
    · rfl
    · exact seedDrbg_await i s

theorem rekeyClusters_await (l : List Nat) (s : State) : KeepsAwait s (rekeyClusters l s) := by
  induction l generalizing s with
  | nil => rfl
  | cons n l ih => simp [KeepsAwait, rekeyClusters, ih, takePool]

theorem startRekey_await (s : State) : KeepsAwait s (startRekey s) := by
  unfold startRekey rekeyMasks
  split
  · simp [KeepsAwait, rekeyClusters_await, takePool]
  · rfl

theorem raiseDev_await (e : DevEvent) (s : State) : KeepsAwait s (raiseDev e s) := by
  rw [raiseDev_feOnly e s]

theorem raiseFn_await (fn : Fn) (e : FnEvent) (s : State) : KeepsAwait s (raiseFn fn e s) := by
  rw [raiseFn_feOnly fn e s]

theorem draw_await (i n : Nat) (pr : Bool) (s : State) : KeepsAwait s (draw i n pr s).2 := by
  have hlimit (t : State) : KeepsAwait t (raiseLimit i t) := by
    unfold raiseLimit
    (repeat' split) <;> simp [KeepsAwait, State.mDrbg, raiseDev_await, raiseFn_await]
  have hgen (t : State) : KeepsAwait t (generateBytes i n t).2 := by
    simp [KeepsAwait, generateBytes, State.mDrbg, freshBytes_await]
  have hseed : KeepsAwait s (if pr then seedDrbg i s else reseedIfDue i s) := by
    unfold reseedIfDue
    (repeat' split) <;> first | rfl | exact seedDrbg_await i s
  unfold draw
  split
  · rfl
  · split
    · split <;> rfl
    · split
      · rfl
      · dsimp only
        generalize (if pr then seedDrbg i s else reseedIfDue i s) = t at hseed ⊢
        split
        · exact (hlimit t).trans hseed
        · exact (hgen t).trans hseed

theorem issueDkc_await (kind : BitVec 8) (key : Shares) (s : State) : KeepsAwait s (issueDkc kind key s) := by
  have hdraw (d : Draw) (t : State) (h : drawI3 s = (d, t)) : KeepsAwait s t := by
    have k := draw_await (instI 3) 56 false s
    rw [drawI3] at h
    rwa [h] at k
  unfold issueDkc
  split
  next h => exact (congrArg Boot.awaitNoise (State.mRoot_boot _ _)).trans (hdraw _ _ h)
  next h => exact hdraw _ _ h

theorem issueDkcs_await (s : State) : KeepsAwait s (issueDkcs s) := by
  unfold issueDkcs
  split
  · rfl
  · simp [KeepsAwait, issueDkc_await]

theorem rootUp_await (c : Nat) (s : State) : KeepsAwait s (rootUp c s) := by
  unfold rootUp
  split
  · rfl
  · dsimp only
    simp [KeepsAwait, issueDkcs_await, freshBytes_await]

theorem rootMade_await (s : State) : KeepsAwait s (rootMade s) := by
  have hmem (t : State) : KeepsAwait t (memKeyUp t) := by
    unfold memKeyUp
    split
    · rfl
    · split
      next h => exact (congrArg Boot.awaitNoise (State.mMem_boot _ _)).trans (freshBytes_await_of_eq h)
  have hnew (t : State) : KeepsAwait t (newTenants t) := rfl
  unfold rootMade
  dsimp only
  split <;> simp [KeepsAwait, hmem, hnew, rootUp_await]

theorem bootEnd_mode (r : BootReport) (slot : Option Bool) (s : State) : (bootEnd r slot s).mode = .rest := by
  unfold bootEnd
  dsimp only
  (repeat' split) <;> simp

/-- A power-up sequence that does not wait for noise does not go on with it. -/
theorem bootGoesOn_keeps_of_none (s : State) (h : s.boot.awaitNoise = none) : Keeps s (bootGoesOn s) := by
  unfold bootGoesOn
  extract_lets s1
  have hs1 : Keeps s s1 ∧ s1.boot.awaitNoise = none := by
    unfold s1
    simp only [h, Option.isSome_none, Bool.false_and, Bool.false_eq_true, if_false]
    (repeat' split)
    · exact ⟨.rfl', h⟩
    · exact ⟨rootMade_keeps s, (rootMade_await s).trans h⟩
    · exact ⟨.rfl', h⟩
  rw [hs1.2]
  exact hs1.1.trans (issueDkcs_keeps _)

/-- Where it does, the device comes to Rest without a latched Lockdown, or stays as it is. -/
theorem bootGoesOn_mode (s : State) :
    (bootGoesOn s).mode = s.mode ∨
      ((bootGoesOn s).mode = .rest ∧ s.boot.awaitNoise ≠ none ∧ s.tmp.lock.isSome = false) := by
  by_cases h : s.boot.awaitNoise = none
  · exact .inl (bootGoesOn_keeps_of_none s h).2.2.2.1
  · unfold bootGoesOn
    extract_lets s1
    have hs1 : Keeps s s1 := by
      unfold s1
      (repeat' split) <;> simp [Keeps]
    clear_value s1
    split
    · split
      · exact .inl (hs1.trans (issueDkcs_keeps _)).2.2.2.1
      next hlock =>
        refine .inr ⟨?_, h, by simpa [hs1.2.2.2.2.1] using hlock⟩
        exact bootEnd_mode _ _ _
    · exact .inl (hs1.trans (issueDkcs_keeps _)).2.2.2.1

end Sys2Proof.Machine
end

section
/-! The fuses: programming only adds bits (R198, R424 to R426). -/
namespace Sys2Proof.Machine

theorem Fuses.group_program (t : LcState) (f : Fuses) (n : Nat) :
    (f.program t).group n = f.group n ||| t.fuses.extractLsb' (8 * n) 8 := by
  simp [Fuses.group, Fuses.program, BitVec.extractLsb'_or]

/-- Whether the highest group with a bit is incomplete. -/
theorem Fuses.lcIncomplete_eq (f : Fuses) :
    f.lcIncomplete = if f.group 3 ≠ 0 then f.group 3 != 0xFF else if f.group 2 ≠ 0 then f.group 2 != 0xFF
      else if f.group 1 ≠ 0 then f.group 1 != 0xFF else if f.group 0 ≠ 0 then f.group 0 != 0xFF else false := by
  have hgroups : (List.range 4).reverse = [3, 2, 1, 0] := rfl
  simp only [Fuses.lcIncomplete, hgroups, List.find?_cons, List.find?_nil]
  cases h3 : f.group 3 != 0 with
  | true => simp_all
  | false =>
    cases h2 : f.group 2 != 0 with
    | true => simp_all
    | false =>
      cases h1 : f.group 1 != 0 with
      | true => simp_all
      | false => cases h0 : f.group 0 != 0 <;> simp_all

theorem LcState.rank_injective {a b : LcState} (h : a.rank = b.rank) : a = b := by
  cases a <;> cases b <;> first | rfl | cases h

theorem Fuses.program_rank (t : LcState) (f : Fuses) : f.lc.rank ≤ (f.program t).lc.rank := by
  simp only [Fuses.lc, Fuses.group_program]
  cases t <;> simp [LcState.fuses] <;> (repeat' split) <;> simp_all [LcState.rank]

theorem Fuses.program_complete (t : LcState) (f : Fuses) (hlc : f.lc = (f.program t).lc) (h : f.lcIncomplete = false) :
    (f.program t).lcIncomplete = false := by
  rw [Fuses.lcIncomplete_eq] at h ⊢
  simp only [Fuses.lc, Fuses.group_program] at hlc ⊢
  by_cases h3 : f.group 3 = 0
  · by_cases h2 : f.group 2 = 0
    · by_cases h1 : f.group 1 = 0
      · by_cases h0 : f.group 0 = 0
        · cases t <;> simp_all [LcState.fuses]
        · cases t <;> simp_all [LcState.fuses]
      · cases t <;> simp_all [LcState.fuses]
    · cases t <;> simp_all [LcState.fuses]
  · cases t <;> simp_all [LcState.fuses]

/-- A change of the fuses that only programs bits, and keeps ROOT_EPOCH within its 32. -/
def Fuses.Grows (a b : Fuses) : Prop := a.ok = true → Fuses.Le a b ∧ b.ok = true

theorem Fuses.Le.refl (a : Fuses) : Fuses.Le a a :=
  ⟨rfl, rfl, rfl, BitVec.or_self, le_rfl, fun _ h => h, id, .inl rfl, le_rfl⟩

theorem Fuses.Le.trans {a b c : Fuses} (h : Fuses.Le a b) (k : Fuses.Le b c) : Fuses.Le a c := by
  obtain ⟨hgrade, hstep, hserial, hbits, hrank, hcomplete, hscrap, hkey, hepoch⟩ := h
  obtain ⟨kgrade, kstep, kserial, kbits, krank, kcomplete, kscrap, kkey, kepoch⟩ := k
  refine ⟨kgrade.trans hgrade, kstep.trans hstep, kserial.trans hserial, ?_, hrank.trans krank, fun hlc hdone => ?_,
    kscrap ∘ hscrap, ?_, hepoch.trans kepoch⟩
  · rw [← kbits, ← BitVec.or_assoc, hbits]
  · have hab : a.lc = b.lc := LcState.rank_injective (le_antisymm hrank (hlc ▸ krank))
    exact kcomplete (hab ▸ hlc) (hcomplete hab hdone)
  · rcases kkey with e | e
    · exact e ▸ hkey
    · exact .inr e

section
variable {a b c : Fuses}

theorem Fuses.Grows.refl (a : Fuses) : a.Grows a := fun h => ⟨.refl a, h⟩

theorem Fuses.Grows.of_eq (h : b = a) : a.Grows b := h ▸ .refl a

theorem Fuses.Grows.trans (h : a.Grows b) (k : b.Grows c) : a.Grows c := fun hok =>
  have hb := h hok
  have hc := k hb.2
  ⟨hb.1.trans hc.1, hc.2⟩

theorem Fuses.program_grows (t : LcState) (f : Fuses) : f.Grows (f.program t) := fun hok =>
  ⟨⟨rfl, rfl, rfl, by simp [Fuses.program, ← BitVec.or_assoc], f.program_rank t, f.program_complete t, id, .inl rfl,
    le_rfl⟩, hok⟩

/-- A change that leaves LC_FUSE alone. -/
theorem Fuses.grows_of_lcFuse_eq (hgrade : b.grade = a.grade) (hstep : b.stepping = a.stepping)
    (hserial : b.serial = a.serial) (hbits : b.lcFuse = a.lcFuse) (hscrap : a.scrapOnly = true → b.scrapOnly = true)
    (hkey : b.fuseKey = a.fuseKey ∨ b.fuseKey = none) (hepoch : a.epoch ≤ 32 → a.epoch ≤ b.epoch ∧ b.epoch ≤ 32) :
    a.Grows b := fun hok => by
  have hok := hepoch (of_decide_eq_true hok)
  have hgroup (n : Nat) : b.group n = a.group n := by simp [Fuses.group, hbits]
  refine ⟨⟨hgrade, hstep, hserial, by simp [hbits], ?_, fun _ h => ?_, hscrap, hkey, hok.1⟩, decide_eq_true hok.2⟩
  · simp [Fuses.lc, hgroup]
  · simpa [Fuses.lcIncomplete_eq, hgroup] using h

end

end Sys2Proof.Machine
end

section
/-! What a command does to the queue, the fuses, the Lockdown latch, the mode and the store, said once for every command. -/
namespace Sys2Proof.Machine

section
variable {s t u : State}

/-! The fuses. -/

theorem stepEpoch_grows (s : State) : s.fuses.Grows (stepEpoch s).fuses := by
  have hmin : s.fuses.Grows { s.fuses with epoch := min 32 (s.fuses.epoch + 1) } :=
    Fuses.grows_of_lcFuse_eq rfl rfl rfl rfl id (.inl rfl) fun h => by dsimp only; omega
  unfold stepEpoch
  (repeat' split)
  · exact hmin
  · exact hmin
  · exact .refl _

theorem gong_grows (s : State) : s.fuses.Grows (gong s).fuses := by
  have h := stepEpoch_grows (zeroiseRest (zeroiseVault (tollFinal (raiseDev .tmpZeroise
    ((s.mPwr fun p => { p with gongN := false }).mTmp fun t => { t with zeroised := true })))))
  unfold gong
  dsimp only
  split <;> simpa using h

/-- A response logs only, starts a THROTTLE, or latches Lockdown, after the Gong or without it. -/
theorem respond_cases (ns : List Nat) (s : State) :
    Keeps s (respond ns s) ∨ ∃ cause resp x, (x = s ∨ x = gong s) ∧ respond ns s = latchLockdown cause resp x := by
  unfold respond
  extract_lets top cause stronger
  split
  · exact .inl .rfl'
  · split
    · exact .inl ⟨rfl, rfl, rfl, rfl, rfl, rfl⟩
    · exact .inr ⟨_, _, _, (ite_eq_or_eq _ _ _).symm, rfl⟩

theorem respond_grows (ns : List Nat) (s : State) : s.fuses.Grows (respond ns s).fuses := by
  rcases respond_cases ns s with h | ⟨cause, resp, x, hx, h⟩
  · exact .of_eq h.2.2.1
  · rw [h, (latchLockdown_keepsStore _ _ _).2.2.1]
    rcases hx with rfl | rfl
    · exact .refl _
    · exact gong_grows s

theorem snareEvent_grows (st : BitVec 2) (ids : BitVec 22) (s : State) : s.fuses.Grows (snareEvent st ids s).fuses := by
  unfold snareEvent
  dsimp only
  split
  · exact .refl _
  · exact .trans (.of_eq (foldl_keeps _ (fun s a => noteSensor_keeps st s a) _ _).2.2.1) (respond_grows _ _)

theorem selfCheck_grows (fails : BitVec 22) (s : State) : s.fuses.Grows (selfCheck fails s).fuses :=
  .trans (.of_eq (passCheck_keeps _ _).2.2.1) (snareEvent_grows _ _ _)

theorem scrapEnd_grows (s : State) : s.fuses.Grows (scrapEnd s).fuses := by
  have hnone : s.fuses.Grows { s.fuses with fuseKey := none } :=
    Fuses.grows_of_lcFuse_eq rfl rfl rfl rfl id (.inr rfl) fun h => ⟨le_rfl, h⟩
  unfold scrapEnd
  dsimp only
  split <;> simpa using hnone

theorem wipeScope_grows (scope : BitVec 8) (s : State) : s.fuses.Grows (wipeScope scope s).fuses := by
  have hall : s.fuses.Grows { s.fuses with epoch := 32 } :=
    Fuses.grows_of_lcFuse_eq rfl rfl rfl rfl id (.inl rfl) fun h => ⟨h, le_rfl⟩
  have hrest (x : State) :
      (wipeStart (wipePages scope) (wipeLcRecords (wipeToll (scope = 0 || scope = 2) (wipeStore (wipeVolatile x))))).fuses =
        x.fuses := by simp
  unfold wipeScope
  dsimp only
  rw [hrest]
  by_cases h : scope = 0
  · rw [if_pos h]
    exact Fuses.Grows.refl s.fuses
  · rw [if_neg h]
    simpa using hall

theorem wipeFor_grows (e : LcEntry) (s : State) : s.fuses.Grows (wipeFor e s).fuses := by
  unfold wipeFor
  split
  · exact .refl _
  · rw [State.mLc_fuses]
    exact wipeScope_grows _ s

/-- The end of a transition: without a latched Lockdown nothing that `Keeps` names changes; otherwise the latch is cleared
and the device comes to Rest, and after a transition to Scrap the scrap ends, after another Ready may follow. -/
theorem completeTransition_cases (x : LcState) (s : State) :
    ∃ t, t.fuses = s.fuses ∧
      ((s.tmp.lock.isSome = false ∧ t.mode = s.mode ∧ t.tmp.lock = s.tmp.lock ∧ completeTransition x s = t) ∨
        (t.mode = .rest ∧ t.tmp.lock = none ∧
          (completeTransition x s = scrapEnd (dropLink t) ∨ completeTransition x s = toReady t))) := by
  unfold completeTransition
  extract_lets s1 s2 s3
  have hs1 : Keeps s s1 := (State.mLc_keeps _ s).trans (lcResult_keeps _ _)
  have hs2 : s2.fuses = s.fuses ∧ s2.mode = s.mode ∧ s2.tmp.lock = s.tmp.lock := by
    unfold s2
    split
    · exact ⟨hs1.2.2.1, hs1.2.2.2.1, hs1.2.2.2.2.1⟩
    · exact ⟨hs1.2.2.1, hs1.2.2.2.1, hs1.2.2.2.2.1⟩
  clear_value s2
  obtain ⟨hfuses, hmode, hlock⟩ := hs2
  split
  · refine ⟨s3, by simp [s3, hfuses], .inr ⟨by simp [s3], by simp [s3], ?_⟩⟩
    exact ite_eq_or_eq _ _ _
  next h => exact ⟨s2, hfuses, .inl ⟨by simpa [hlock] using h, hmode, hlock, rfl⟩⟩

theorem completeTransition_grows (x : LcState) (s : State) : s.fuses.Grows (completeTransition x s).fuses := by
  obtain ⟨t, ht, ⟨_, _, _, h⟩ | ⟨_, _, h | h⟩⟩ := completeTransition_cases x s
  · exact .of_eq (h ▸ ht)
  · rw [h]
    exact .trans (.of_eq ((dropLink_keepsButMode t).2.2.1.trans ht)) (scrapEnd_grows _)
  · rw [h]
    exact .of_eq ((toReady_keepsButMode t).2.2.1.trans ht)

theorem fusesProgrammed_grows (e : LcEntry) (s : State) : s.fuses.Grows (fusesProgrammed e s).fuses := by
  have hprogram := Fuses.program_grows e.target s.fuses
  unfold fusesProgrammed
  dsimp only
  split
  · exact hprogram.trans (completeTransition_grows .eolScrap (s.mFuses (Fuses.program e.target)))
  · simpa using hprogram

theorem lcWritten_grows (e : LcEntry) (s : State) : s.fuses.Grows (lcWritten e s).fuses := by
  unfold lcWritten
  dsimp only
  (repeat' split)
  · exact .refl _
  · exact .of_eq (by simp [lcSeqInc])
  · exact wipeFor_grows e (lcSeqInc s)
  · exact wipeFor_grows e s
  · exact completeTransition_grows _ s
  · exact .refl _

theorem transitionGoesOn_fuses (s : State) : (transitionGoesOn s).fuses = s.fuses := (transitionGoesOn_keeps s).2.2.1

theorem afterStore_grows (w : NvWork) (s : State) : s.fuses.Grows (afterStore w s).fuses := by
  unfold afterStore
  split
  · exact (lcWritten_grows _ s).trans (.of_eq (transitionGoesOn_fuses _))
  · exact .of_eq ((bootGoesOn_keepsWf _).1.2.2.1.trans (by simp))

theorem resumeTransition_grows (r : BootReport) (s : State) : s.fuses.Grows (resumeTransition r s).fuses := by
  unfold resumeTransition
  extract_lets e s0 s1 s2
  have hs1 : s1.fuses = s.fuses := by simp [s1, s0]
  have hs2 : s1.fuses.Grows s2.fuses := by
    unfold s2
    split
    · exact .of_eq (by simp)
    · exact wipeFor_grows e s1
  exact .trans (.of_eq hs1) hs2

end

end Sys2Proof.Machine
end

section
/-! The Lockdown latch, and how the mode follows it (R23, R423, R429, Table 1-7). -/
namespace Sys2Proof.Machine

section
variable {s t u : State}

theorem lockdownInv_iff (s : State) :
    s.lockdownInv = true ↔
      (s.mode = .lockdown → s.locked = true) ∧ (s.locked = true → s.mode = .lockdown ∨ s.mode = .off) := by
  unfold State.lockdownInv
  split <;> cases s.locked <;> simp_all

/-- A latched Lockdown stays latched, and the mode goes on following the latch. -/
structure LatchKept (s t : State) : Prop where
  locked : s.locked = true → t.locked = true
  inv : s.lockdownInv = true → t.lockdownInv = true

theorem LatchKept.trans (h : LatchKept s t) (k : LatchKept t u) : LatchKept s u := ⟨k.1 ∘ h.1, k.2 ∘ h.2⟩

/-- With the latch as it was, a new mode other than Lockdown follows it when it is Off, when no Lockdown is latched, or
when the mode before was neither Off nor Lockdown. -/
theorem LatchKept.of_mode (hlock : t.tmp.lock = s.tmp.lock)
    (hmode : t.mode = s.mode ∨ (t.mode ≠ .lockdown ∧
      (t.mode = .off ∨ s.tmp.lock.isSome = false ∨ (s.mode ≠ .off ∧ s.mode ≠ .lockdown)))) : LatchKept s t := by
  have hlocked : t.locked = s.locked := congrArg Option.isSome hlock
  refine ⟨fun h => hlocked.trans h, fun hinv => ?_⟩
  rw [lockdownInv_iff] at hinv ⊢
  rw [hlocked]
  rcases hmode with h | ⟨hne, h | h | h⟩
  · rwa [h]
  · exact ⟨fun e => absurd e hne, fun _ => .inr h⟩
  · exact ⟨fun e => absurd e hne, fun e => absurd (e.symm.trans h) (by simp)⟩
  · exact ⟨fun e => absurd e hne, fun e => ((hinv.2 e).elim h.2 h.1).elim⟩

theorem Keeps.latchKept (h : Keeps s t) : LatchKept s t := .of_mode h.2.2.2.2.1 (.inl h.2.2.2.1)

theorem KeepsWf.latchKept (h : KeepsWf s t) : LatchKept s t := .of_mode h.2.2.2.2.1 (.inl h.2.2.2.1)

/-! Latching. -/

@[simp] theorem enterLockdown_mode (s : State) : (enterLockdown s).mode = .lockdown := by
  simp [enterLockdown]

theorem latchLockdown_locked (cause : BitVec 5) (resp : BitVec 2) (s : State) :
    (latchLockdown cause resp s).locked = true := by
  unfold latchLockdown State.locked
  dsimp only
  split
  next h => split <;> simp [h]
  next h => split <;> (try split) <;> simp

/-- The mode becomes Lockdown as the latch is set, but not without power; a Lockdown that was latched leaves it. -/
theorem latchLockdown_mode (cause : BitVec 5) (resp : BitVec 2) (s : State) :
    ((latchLockdown cause resp s).mode = s.mode ∧ (s.locked = true ∨ s.mode = .off)) ∨
      (latchLockdown cause resp s).mode = .lockdown := by
  unfold latchLockdown State.locked
  dsimp only
  split
  next h => refine .inl ?_; split <;> simp [h]
  next h =>
    split
    · exact .inr (enterLockdown_mode _)
    · split
      next hoff => exact .inl ⟨by simp, .inr hoff⟩
      next => exact .inr (State.enter_mode _ _)

theorem latchLockdown_latchKept (cause : BitVec 5) (resp : BitVec 2) (s : State) :
    LatchKept s (latchLockdown cause resp s) := by
  have hlocked := latchLockdown_locked cause resp s
  refine ⟨fun _ => hlocked, fun hinv => ?_⟩
  rw [lockdownInv_iff] at hinv ⊢
  refine ⟨fun _ => hlocked, fun _ => ?_⟩
  rcases latchLockdown_mode cause resp s with ⟨hmode, h | h⟩ | h
  · exact hmode ▸ hinv.2 h
  · exact .inr (hmode.trans h)
  · exact .inl h

/-- The mode stays or becomes Lockdown. -/
abbrev ToLockdown (s t : State) : Prop := t.mode = s.mode ∨ t.mode = .lockdown

theorem latchLockdown_toLockdown (cause : BitVec 5) (resp : BitVec 2) (s : State) :
    ToLockdown s (latchLockdown cause resp s) := (latchLockdown_mode cause resp s).imp_left And.left

theorem ToLockdown.trans (h : ToLockdown s t) (k : ToLockdown t u) : ToLockdown s u := by
  rcases k with e | e
  · exact h.imp e.trans e.trans
  · exact .inr e

theorem gong_latchKept (s : State) : LatchKept s (gong s) :=
  .of_mode (gong_keepsButFuses s).2.2.2.1 (.inl (gong_keepsButFuses s).2.2.1)

theorem respond_latch (ns : List Nat) (s : State) : LatchKept s (respond ns s) ∧ ToLockdown s (respond ns s) := by
  rcases respond_cases ns s with h | ⟨cause, resp, x, hx, h⟩
  · exact ⟨h.latchKept, .inl h.2.2.2.1⟩
  · have hgong : LatchKept s x ∧ x.mode = s.mode := by
      rcases hx with rfl | rfl
      · exact ⟨Keeps.rfl'.latchKept, rfl⟩
      · exact ⟨gong_latchKept s, (gong_keepsButFuses s).2.2.1⟩
    rw [h]
    exact ⟨hgong.1.trans (latchLockdown_latchKept _ _ _), .trans (.inl hgong.2) (latchLockdown_toLockdown _ _ _)⟩

theorem snareEvent_latch (st : BitVec 2) (ids : BitVec 22) (s : State) :
    LatchKept s (snareEvent st ids s) ∧ ToLockdown s (snareEvent st ids s) := by
  unfold snareEvent
  extract_lets ns
  have hnoted : Keeps s (ns.foldl (noteSensor st) s) := foldl_keeps _ (fun s a => noteSensor_keeps st s a) _ _
  split
  · exact ⟨Keeps.rfl'.latchKept, .inl rfl⟩
  · exact ⟨hnoted.latchKept.trans (respond_latch _ _).1, .trans (.inl hnoted.2.2.2.1) (respond_latch _ _).2⟩

theorem selfCheck_latch (fails : BitVec 22) (s : State) :
    LatchKept s (selfCheck fails s) ∧ ToLockdown s (selfCheck fails s) :=
  have hpass := passCheck_keeps fails s
  ⟨hpass.latchKept.trans (snareEvent_latch _ _ _).1, .trans (.inl hpass.2.2.2.1) (snareEvent_latch _ _ _).2⟩

theorem integrityFault_latch (line : Nat) (owner : LineOwner) (s : State) :
    LatchKept s (integrityFault line owner s) ∧ ToLockdown s (integrityFault line owner s) := by
  unfold integrityFault
  extract_lets c up l s1 counters s2
  have hs2 : Keeps s s2 := by
    unfold s2 s1
    split <;> simp [Keeps]
  clear_value s2
  split
  · have hdown : Keeps s (s2.mChan c fun x => { x with state := 3 }) := hs2.trans (State.mChan_keeps _ _ _)
    exact ⟨hdown.latchKept.trans (latchLockdown_latchKept _ _ _),
      .trans (.inl hdown.2.2.2.1) (latchLockdown_toLockdown _ _ _)⟩
  · exact ⟨hs2.latchKept, .inl hs2.2.2.2.1⟩

/-! The boot sequence. -/

/-- Up from a reset the device is in Lockdown where that is latched, and in Rest otherwise. -/
def BootedMode (t : State) : Prop :=
  (t.mode = .lockdown ∧ t.locked = true) ∨ (t.mode = .rest ∧ t.locked = false)

theorem BootedMode.inv (h : BootedMode t) : t.lockdownInv = true := by
  rw [lockdownInv_iff]
  rcases h with ⟨hmode, hlock⟩ | ⟨hmode, hlock⟩ <;> simp [hmode, hlock]

theorem BootedMode.of_keeps (h : BootedMode s) (k : Keeps s t) : BootedMode t := by
  unfold BootedMode State.locked
  rwa [k.2.2.2.1, k.2.2.2.2.1]

theorem latchLockdown_booted (cause : BitVec 5) (resp : BitVec 2) (hnone : s.locked = false) (hmode : s.mode ≠ .off) :
    BootedMode (latchLockdown cause resp s) := by
  refine .inl ⟨?_, latchLockdown_locked _ _ _⟩
  rcases latchLockdown_mode cause resp s with ⟨_, h | h⟩ | h
  · simp [hnone] at h
  · exact absurd h hmode
  · exact h

theorem bootRest_booted (r : BootReport) (s : State) :
    BootedMode (bootRest r s) ∧ (s.locked = true → (bootRest r s).locked = true) := by
  have hrecords := bootRecords_keepsWf (s.pwr.aoHeld && r.vaultCheck) s.tmp.lock.isSome r s
  unfold bootRest
  dsimp only
  generalize loadWindows _ = x at hrecords ⊢
  have hroles := hrecords.trans (whenDo_keepsWf r.roleMapDamaged loseRoleMap x loseRoleMap_keepsWf)
  generalize whenDo r.roleMapDamaged loseRoleMap x = y at hroles ⊢
  have hdamaged := hroles.trans (foldl_keepsWf eraseDamaged (fun s t => eraseDamaged_keepsWf s t)
    (r.damaged ++ ((List.range 256).map (BitVec.ofNat 8 ·)).filter (recordBroken x)).eraseDups y)
  generalize List.foldl eraseDamaged y _ = z at hdamaged ⊢
  have hlock : (bistTemps r (z.mGov fun g => { g with costs := builtinCosts })).tmp.lock = s.tmp.lock := by
    simpa using hdamaged.2.2.2.2.1
  generalize bistTemps r (z.mGov fun g => { g with costs := builtinCosts }) = w at hlock ⊢
  have hlocked : w.locked = s.locked := congrArg Option.isSome hlock
  have hup (v : State) (h : v.locked = s.locked) : (lockdownUp v).locked = s.locked :=
    (congrArg Option.isSome (lockdownUp_keepsButMode v).2.2.2.1).trans h
  split
  next h =>
    exact ⟨.inl ⟨by simp [lockdownUp], (hup w hlocked).trans h⟩, fun hl => (hup w hlocked).trans hl⟩
  next h =>
    have hnone : s.locked = false := by simpa [State.locked] using h
    refine ⟨?_, fun hl => absurd (hl.symm.trans hnone) (by simp)⟩
    split
    · refine .of_keeps (latchLockdown_booted (s := w.enter .rest) 22 2 ?_ (by simp)) (State.mBoot_keeps _ _)
      exact (congrArg Option.isSome (State.enter_keepsButMode .rest w).2.2.2.1).trans (hlocked.trans hnone)
    · refine .inr ⟨bootEnd_mode _ _ _, ?_⟩
      refine (congrArg Option.isSome (bootEnd_keepsWf _ _ _).1.2.2.2).trans ?_
      refine Eq.trans ?_ (hlocked.trans hnone)
      unfold State.locked
      split <;> simp

theorem resumeTransition_latched (r : BootReport) (s : State) :
    (resumeTransition r s).mode = .lockdown ∧ (resumeTransition r s).locked = true := by
  unfold resumeTransition
  extract_lets e s0 s1 s2
  have hs1 : s1.mode = .lockdown ∧ s1.locked = true := by
    refine ⟨by simp [s1, s0], ?_⟩
    have hlatch := latchLockdown_locked 23 2 (s.enter .rest)
    simpa [s1, s0, State.locked] using hlatch
  have hs2 : s2.mode = s1.mode ∧ s2.tmp.lock = s1.tmp.lock := by
    unfold s2
    split <;> simp
  constructor
  · simp [hs2.1, hs1.1]
  · have := hs1.2
    simpa [State.locked, hs2.2] using this

theorem transitionGoesOn_booted (s : State) :
    transitionGoesOn s = s ∨ ((s.locked = true → (transitionGoesOn s).locked = true) ∧ BootedMode (transitionGoesOn s)) := by
  unfold transitionGoesOn
  split
  next r _ =>
    split
    · exact .inl rfl
    · have h := bootRest_booted r (s.mBoot fun b => { b with resume := none })
      exact .inr ⟨fun hl => h.2 (by simpa [State.locked] using hl), h.1⟩
  · exact .inl rfl

/-- A device reset: the boot sequence establishes the mode, and keeps the latch and the fuses' bits. -/
theorem deviceReset_booted (cause : BitVec 4) (r : BootReport) (s : State) :
    BootedMode (deviceReset cause r s) ∧ (s.locked = true → (deviceReset cause r s).locked = true) ∧
      s.fuses.Grows (deviceReset cause r s).fuses := by
  unfold deviceReset
  extract_lets s1 s2 s3 s4 bad s5 s6 s7
  have h1 : s1.tmp.lock = s.tmp.lock ∧ s1.fuses = s.fuses := by
    have hclear := clearVolatile_keepsButMode (restoreUnstored (interrupted { s with mode := .off }))
    have hold := (interrupted_keepsWf { s with mode := .off }).trans (restoreUnstored_keepsWf _)
    exact ⟨hclear.2.2.2.1.trans hold.2.2.2.2.1, hclear.2.2.1.trans hold.2.2.1⟩
  clear_value s1
  have h2 : s2.tmp.lock = s.tmp.lock ∧ s2.fuses = s.fuses := by
    unfold s2
    split
    · exact h1
    · exact ⟨(vtimeRestart_keeps s1).2.2.2.1.trans h1.1, (vtimeRestart_keeps s1).2.1.trans h1.2⟩
  clear_value s2
  have h24 : KeepsWf s2 s4 := by
    refine (bootNumber_keepsWf s2).trans (Keeps.wf ?_)
    exact (State.mPwr_keeps _ _).trans ((copyLatch_keeps _).trans (lockRecorded_keeps _))
  have h4 : s4.tmp.lock = s.tmp.lock ∧ s4.fuses = s.fuses :=
    ⟨h24.2.2.2.2.1.trans h2.1, h24.2.2.1.trans h2.2⟩
  clear_value s4
  have h5 : (s.locked = true → s5.locked = true) ∧ s.fuses.Grows s5.fuses := by
    have hhealth := State.mHealth_keeps (fun h => { h with metronomeBad := !r.metronome }) s4
    refine ⟨fun h => (snareEvent_latch _ _ _).1.locked ((selfCheck_latch _ _).1.locked (hhealth.latchKept.locked ?_)), ?_⟩
    · exact (congrArg Option.isSome h4.1).trans h
    · exact .trans (.of_eq (hhealth.2.2.1.trans h4.2)) ((selfCheck_grows _ _).trans (snareEvent_grows _ _ _))
  clear_value s5
  have h6 : (s.locked = true → s6.locked = true) ∧ s.fuses.Grows s6.fuses := by
    unfold s6
    split
    · refine ⟨fun h => ?_, h5.2.trans (scrapEnd_grows _)⟩
      exact (congrArg Option.isSome (scrapEnd_keepsButFuses s5).2.2.2.1).trans (h5.1 h)
    · exact h5
  clear_value s6
  have h7 : BootedMode s7 ∧ (s.locked = true → s7.locked = true) ∧ s.fuses.Grows s7.fuses := by
    unfold s7
    split
    · have hresumed := resumeTransition_latched r s6
      exact ⟨.inl hresumed, fun _ => hresumed.2, h6.2.trans (resumeTransition_grows r s6)⟩
    · have hboot := bootRest_booted r s6
      exact ⟨hboot.1, hboot.2 ∘ h6.1, h6.2.trans (.of_eq (bootRest_keeps r s6).2.2.1)⟩
  have hpwr := State.mPwr_keeps (fun p => { p with aoHeld := true }) s7
  exact ⟨h7.1.of_keeps hpwr, hpwr.latchKept.locked ∘ h7.2.1, h7.2.2.trans (.of_eq hpwr.2.2.1)⟩

end

end Sys2Proof.Machine
end

section
/-! What the end of a peal's work changes: its own records and queues, and no part of the device's standing. -/
namespace Sys2Proof.Machine

/-- Only the front end, the peals, the clusters, the key store, the Clapper, the generators, the Toll, the store's commands and
the pair differ. -/
abbrev PealWork (s t : State) : Prop :=
  t = { s with fe := t.fe, peals := t.peals, clusters := t.clusters, ks := t.ks, clap := t.clap, rng := t.rng,
               toll := t.toll, nv := t.nv, pair := t.pair }

section
variable {s t u : State}

theorem PealWork.refl (s : State) : PealWork s s := rfl

theorem PealWork.trans (h : PealWork s t) (k : PealWork t u) : PealWork s u := by
  rw [PealWork, h] at k
  exact k

theorem PealWork.ite {c : Prop} [Decidable c] (h : PealWork s t) (k : PealWork s u) :
    PealWork s (if c then t else u) := by
  split <;> assumption

theorem FeOnly.pealWork (h : FeOnly s t) : PealWork s t := by
  rw [PealWork, h]

theorem foldl_pealWork {α : Type} (f : State → α → State) (h : ∀ s a, PealWork s (f s a)) (l : List α) (s : State) :
    PealWork s (l.foldl f s) := by
  induction l generalizing s with
  | nil => exact .refl s
  | cons a l ih => exact (h s a).trans (ih _)

theorem State.mPeal_pealWork (p : PealSlot) (f : Peal → Peal) (s : State) : PealWork s (s.mPeal p f) := by
  unfold State.mPeal
  split <;> rfl

theorem State.mSpace_pealWork (k : Nat) (f : CounterSpace → CounterSpace) (s : State) : PealWork s (s.mSpace k f) := by
  unfold State.mSpace
  split <;> rfl

theorem State.mRec_pealWork (k : Nat) (f : KeyRec → KeyRec) (s : State) : PealWork s (s.mRec k f) := by
  unfold State.mRec
  split <;> rfl

theorem returnHolds_pealWork (q : Peal) (s : State) : PealWork s (returnHolds q s) := by
  refine (foldl_pealWork _ (fun s k => .ite (State.mRec_pealWork _ _ s) (.refl s)) q.keys s).trans
    (foldl_pealWork _ (fun s r => ?_) _ _)
  split
  · exact State.mSpace_pealWork _ _ s
  · exact .refl s

theorem withdrawWrite_pealWork (p : PealSlot) (s : State) : PealWork s (withdrawWrite p s) := by
  unfold withdrawWrite
  dsimp only
  (repeat' split) <;> rfl

theorem leaveQueues_pealWork (p : PealSlot) (s : State) : PealWork s (leaveQueues p s) := by
  have hwrite := withdrawWrite_pealWork p s
  unfold leaveQueues
  generalize withdrawWrite p s = x at hwrite ⊢
  exact hwrite.trans rfl

theorem endPeal_pealWork (p : PealSlot) (st : Stat) (step : Option Nat) (s : State) : PealWork s (endPeal p st step s) := by
  unfold endPeal
  split
  · exact .refl s
  · refine .trans ?_ (PealWork.trans (leaveQueues_pealWork _ _) rfl)
    refine .trans ?_ (PealWork.trans (returnHolds_pealWork _ _) rfl)
    exact State.mPeal_pealWork _ _ s

theorem dualJudge_pealWork (p : PealSlot) (s : State) : PealWork s (dualJudge p s) := by
  unfold dualJudge
  split
  · exact .refl s
  · split
    · exact .refl s
    · split
      · exact .refl s
      · extract_lets s1 s2
        have hs1 : PealWork s s1 := State.mPeal_pealWork _ _ s
        have hs2 : PealWork s s2 := hs1.trans (PealWork.trans rfl (raiseDev_feOnly _ _).pealWork)
        exact .ite hs1 (.ite (hs2.trans (State.mPeal_pealWork _ _ _)) (hs2.trans (endPeal_pealWork _ _ _ _)))

theorem failPeal_pealWork (p : PealSlot) (st : Stat) (step : Option Nat) (s : State) :
    PealWork s (failPeal p st step s) :=
  (endPeal_pealWork p st step s).trans (dualJudge_pealWork p _)

theorem stopIdle_pealWork (p : PealSlot) (q : Peal) (above : Option Nat) (s : State) :
    PealWork s (stopIdle p q above s) := by
  refine foldl_pealWork _ (fun s i => ?_) _ s
  dsimp only
  exact .ite ((State.mPeal_pealWork _ _ s).trans rfl) (.refl s)

theorem settle_pealWork (p : PealSlot) (s : State) : PealWork s (settle p s) := by
  unfold settle
  split
  · exact .refl s
  · refine .ite (.refl s) ?_
    split
    · exact .ite (stopIdle_pealWork _ _ _ s) ((stopIdle_pealWork _ _ _ s).trans (failPeal_pealWork _ _ _ _))
    · split
      · exact .ite ((stopIdle_pealWork _ _ _ s).trans (failPeal_pealWork _ _ _ _)) (stopIdle_pealWork _ _ _ s)
      · refine .ite (.refl s) ?_
        split
        · exact failPeal_pealWork _ _ _ s
        · exact (State.mPeal_pealWork _ _ s).trans (dualJudge_pealWork _ _)

theorem abortPeal_pealWork (cause : AbortCause) (p : PealSlot) (s : State) : PealWork s (abortPeal cause p s) := by
  unfold abortPeal
  split
  · exact .refl s
  · exact .ite (((State.mPeal_pealWork _ _ s).trans (leaveQueues_pealWork _ _)).trans (settle_pealWork _ _)) (.refl s)

theorem discardWork_pealWork (s : State) : PealWork s (discardWork s) := by
  have hdrop (s : State) (e : Nat × Peal) : PealWork s (dropPeal s e) := by
    have habort := abortPeal_pealWork .linkLoss (BitVec.ofNat 12 e.1) s
    have hmark := State.mPeal_pealWork (BitVec.ofNat 12 e.1) (fun q => { q with suppressed := true }) s
    unfold dropPeal
    split
    · exact habort
    · exact habort
    · exact .ite hmark habort
    · exact hmark
  exact PealWork.trans rfl ((foldl_pealWork _ hdrop _ _).trans rfl)

end

end Sys2Proof.Machine
end

section
/-! What every command keeps, said once (`exec_effects`), and the invariants that follow from it. -/
namespace Sys2Proof.Machine

section
variable {c : Instr} {s t u : State}

/-! Life-cycle transitions. -/

/-- The mode stays, or is one that the end of a transition or of a boot enters. -/
abbrev ToBooted (s t : State) : Prop := t.mode = s.mode ∨ t.mode = .lockdown ∨ t.mode = .rest ∨ t.mode = .ready

theorem ToLockdown.toBooted (h : ToLockdown s t) : ToBooted s t := h.imp_right .inl

theorem BootedMode.toBooted (h : BootedMode t) : ToBooted s t := by
  rcases h with h | h
  · exact .inr (.inl h.1)
  · exact .inr (.inr (.inl h.1))

theorem ToBooted.trans (h : ToBooted s t) (k : ToBooted t u) : ToBooted s u := by
  rcases k with e | e
  · exact h.imp e.trans (Or.imp e.trans (Or.imp e.trans e.trans))
  · exact .inr e

theorem inv_of_unlocked (hmode : t.mode ≠ .lockdown) (hlock : t.tmp.lock = none) : t.lockdownInv = true := by
  rw [lockdownInv_iff]
  exact ⟨fun e => absurd e hmode, fun e => by simp [State.locked, hlock] at e⟩

theorem completeTransition_mode (x : LcState) (s : State) :
    (s.lockdownInv = true → (completeTransition x s).lockdownInv = true) ∧ ToBooted s (completeTransition x s) := by
  obtain ⟨t, _, ⟨_, hmode, hlock, h⟩ | ⟨hmode, hlock, h | h⟩⟩ := completeTransition_cases x s
  · rw [h]
    exact ⟨(LatchKept.of_mode hlock (.inl hmode)).inv, .inl hmode⟩
  · rw [h]
    have hend : (scrapEnd (dropLink t)).mode = .rest := by simp [dropLink_mode, hmode, Mode.working]
    refine ⟨fun _ => inv_of_unlocked (fun e => by rw [hend] at e; cases e) ?_, .inr (.inr (.inl hend))⟩
    simpa using hlock
  · rw [h]
    have hend : (toReady t).mode = .rest ∨ (toReady t).mode = .ready := by
      rcases toReady_mode t with e | e
      · exact .inl (e.trans hmode)
      · exact .inr e.1
    refine ⟨fun _ => inv_of_unlocked (fun e => by simp [e] at hend) ?_, .inr (.inr hend)⟩
    simpa using hlock

theorem wipeFor_latchKept (e : LcEntry) (s : State) : LatchKept s (wipeFor e s) :=
  .of_mode (wipeFor_keeps e s).2.2.2.1 (.inl (wipeFor_keeps e s).2.2.1)

theorem lcWritten_mode (e : LcEntry) (s : State) :
    (s.lockdownInv = true → (lcWritten e s).lockdownInv = true) ∧ ToBooted s (lcWritten e s) := by
  have hlatch := latchLockdown_latchKept 23 2 (lcSeqInc s)
  have hlock := latchLockdown_toLockdown 23 2 (lcSeqInc s)
  have hclose := close_keeps e (latchLockdown 23 2 (lcSeqInc s))
  have hinc : Keeps s (lcSeqInc s) := State.mLc_keeps _ s
  unfold lcWritten
  dsimp only
  (repeat' split)
  · exact ⟨id, .inl rfl⟩
  · exact ⟨((hinc.latchKept.trans hlatch).trans hclose.latchKept).inv,
      .trans (ToLockdown.toBooted (.trans (.inl hinc.2.2.2.1) hlock)) (.inl hclose.2.2.2.1)⟩
  · exact ⟨(hinc.latchKept.trans (wipeFor_latchKept e _)).inv,
      .inl ((wipeFor_keeps e _).2.2.1.trans hinc.2.2.2.1)⟩
  · exact ⟨(wipeFor_latchKept e s).inv, .inl (wipeFor_keeps e s).2.2.1⟩
  · exact completeTransition_mode _ s
  · exact ⟨id, .inl rfl⟩

/-- With no transition pending a written entry does nothing. -/
theorem lcWritten_of_not_pending (e : LcEntry) (h : s.lc.pending = false) : lcWritten e s = s := by
  simp [lcWritten, h]

theorem transitionGoesOn_mode (s : State) :
    LatchKept s (transitionGoesOn s) ∧ ToBooted s (transitionGoesOn s) := by
  rcases transitionGoesOn_booted s with h | ⟨hlocked, h⟩
  · rw [h]
    exact ⟨Keeps.rfl'.latchKept, .inl rfl⟩
  · exact ⟨⟨hlocked, fun _ => h.inv⟩, h.toBooted⟩

theorem bootGoesOn_latch (s : State) : LatchKept s (bootGoesOn s) ∧ ToBooted s (bootGoesOn s) := by
  have hlock := (bootGoesOn_keepsWf s).1.2.2.2
  rcases bootGoesOn_mode s with h | ⟨h, _, hnone⟩
  · exact ⟨.of_mode hlock (.inl h), .inl h⟩
  · exact ⟨.of_mode hlock (.inr ⟨by simp [h], .inr (.inl hnone)⟩), .inr (.inr (.inl h))⟩

theorem afterStore_mode (w : NvWork) (s : State) :
    (s.locked = true → (∀ e, w = .lifeCycle e → s.lc.pending = false) → (afterStore w s).locked = true) ∧
      (s.lockdownInv = true → (afterStore w s).lockdownInv = true) ∧ ToBooted s (afterStore w s) := by
  unfold afterStore
  split
  next e =>
    have hgo := transitionGoesOn_mode (lcWritten e s)
    refine ⟨fun hl hpend => hgo.1.locked ?_, hgo.1.inv ∘ (lcWritten_mode e s).1, (lcWritten_mode e s).2.trans hgo.2⟩
    rwa [lcWritten_of_not_pending e (hpend e rfl)]
  next =>
    have hclosed : Keeps s (closed (closeGoesOn s)) := (closeGoesOn_keeps s).trans (closed_keeps _)
    have hgo := bootGoesOn_latch (closed (closeGoesOn s))
    have hlatch := hclosed.latchKept.trans hgo.1
    exact ⟨fun hl _ => hlatch.locked hl, hlatch.inv, .trans (.inl hclosed.2.2.2.1) hgo.2⟩

/-- The requester's work of a life-cycle entry's write leaves the transition pending as it is. -/
theorem workEnds_lc_pending (e : LcEntry) (s : State) :
    (workDone (.lifeCycle e) s).lc.pending = s.lc.pending ∧ (workFailed (.lifeCycle e) s).lc.pending = s.lc.pending :=
  ⟨rfl, rfl⟩

theorem raiseDev_lc (e : DevEvent) (s : State) : (raiseDev e s).lc = s.lc := by
  rw [raiseDev_feOnly e s]

theorem remap_lc (p : Nat) (s : State) : (remap p s).lc = s.lc := by
  unfold remap whenDo
  dsimp only
  split <;> simp [raiseDev_lc]

theorem foldl_remap_lc (l : List Nat) (s : State) : (l.foldl (fun s p => remap p s) s).lc = s.lc := by
  induction l generalizing s with
  | nil => rfl
  | cons p l ih => exact (ih _).trans (remap_lc p s)

theorem loseWrite_lc (x : NvCmd) (s : State) : (loseWrite x s).lc = s.lc := by
  unfold loseWrite
  split
  · rfl
  · rfl
  · rfl
  · extract_lets w
    split
    all_goals split <;> rfl

/-! Every command's effects. -/

/-- Where Table 1-7 lets the command enter the mode from the state. -/
def Enters (c : Instr) (s : State) : Mode → Prop
  | .surge => s.mode = .serve ∧ ∃ x y z, c = .refillBoundary x y z ()
  | .serve => s.mode = .ready ∨ s.mode = .surge
  | .maintenance => s.mode = .ready ∨ s.mode = .serve ∨ s.mode = .surge
  | .ready => s.mode = .rest ∨ s.mode = .serve ∨ s.mode = .surge ∨ s.mode = .maintenance ∨
      c = .fuseGroupProgramComplete ∨ ∃ r, c = .nvCommandComplete r
  | .rest => s.mode.working = true ∨ c = .fuseGroupProgramComplete ∨ (∃ r, c = .nvCommandComplete r) ∨
      (∃ k w, c = .noiseWindowComplete k w ∧ s.boot.awaitNoise ≠ none) ∨
      ∃ r, c = .powerOnReset r ∨ c = .warmReset r ∨ c = .recoveryReset r
  | .vault => c = .mainPowerLost ∨ c = .vaultEntry
  | .off => c = .mainPowerLost ∨ ∃ b, c = .batteryAbsent b
  | .lockdown => True

/-- The commands that may change a byte of the store, each in the states where it may. -/
def WritesStore (c : Instr) (s : State) : Prop :=
  (∃ slot, c = .commitPoint slot ∨ c = .stewardRecordWriteComplete slot) ∨ c = .groupRecordComplete ∨
  (∃ r, c = .nvCommandComplete r) ∨ c = .mainPowerLost ∨
  (∃ r, c = .powerOnReset r ∨ c = .warmReset r ∨ c = .recoveryReset r) ∨
  (s.boot.awaitNoise ≠ none ∧ ∃ k w, c = .noiseWindowComplete k w) ∨
  (s.boot.activating = true ∧ ∃ x y, c = .stewardRestartComplete x y) ∨
  (s.boot.resume ≠ none ∧ c = .fuseGroupProgramComplete)

/-- The commands that may clear a latched Lockdown. -/
def Unlatches (c : Instr) (s : State) : Prop :=
  (∃ r, c = .recoveryReset r) ∨ (s.lc.pending = true ∧ (c = .fuseGroupProgramComplete ∨ ∃ r, c = .nvCommandComplete r))

/-- What a command may do to the parts that the invariants speak of. -/
structure Effects (c : Instr) (s t : State) : Prop where
  queue : t.pending = s.pending
  fuses : s.fuses.Grows t.fuses
  locked : s.locked = true → Unlatches c s ∨ t.locked = true
  inv : s.lockdownInv = true → t.lockdownInv = true
  mode : t.mode = s.mode ∨ Enters c s t.mode
  form : KeepsForm s t
  store : t.nv.array = s.nv.array ∨ WritesStore c s

theorem Keeps.effects (h : Keeps s t) : Effects c s t :=
  { queue := h.1, fuses := .of_eq h.2.2.1, locked := fun hl => .inr (h.latchKept.locked hl), inv := h.latchKept.inv,
    mode := .inl h.2.2.2.1, form := h.wf.2.2.2.2.2, store := .inl h.2.2.2.2.2 }

theorem Effects.trans_keeps (h : Effects c s t) (k : Keeps t u) : Effects c s u :=
  { queue := k.1.trans h.queue, fuses := h.fuses.trans (.of_eq k.2.2.1),
    locked := fun hl => (h.locked hl).imp_right k.latchKept.locked, inv := k.latchKept.inv ∘ h.inv,
    mode := by rw [k.2.2.2.1]; exact h.mode, form := k.wf.2.2.2.2.2 ∘ h.form,
    store := by rw [k.2.2.2.2.2]; exact h.store }

/-- Only the mode changes, and neither to nor from Lockdown. -/
theorem KeepsButMode.effects (h : KeepsButMode s t) (hmode : t.mode = s.mode ∨ (Enters c s t.mode ∧ t.mode ≠ .lockdown ∧
    (t.mode = .off ∨ s.tmp.lock.isSome = false ∨ (s.mode ≠ .off ∧ s.mode ≠ .lockdown)))) : Effects c s t := by
  have hlatch : LatchKept s t := .of_mode h.2.2.2.1 (hmode.imp_right And.right)
  exact { queue := h.1, fuses := .of_eq h.2.2.1, locked := fun hl => .inr (hlatch.locked hl), inv := hlatch.inv,
          mode := hmode.imp_right And.left, form := h.wf.2, store := .inl h.2.2.2.2 }

/-- The same where the store may change. -/
theorem KeepsWfButMode.effects (h : KeepsWfButMode s t) (hmode : t.mode = s.mode ∨ (Enters c s t.mode ∧
    t.mode ≠ .lockdown ∧ (s.tmp.lock.isSome = false ∨ (s.mode ≠ .off ∧ s.mode ≠ .lockdown))))
    (hstore : t.nv.array = s.nv.array ∨ WritesStore c s) : Effects c s t := by
  obtain ⟨⟨hqueue, _, hfuses, hlock⟩, hform⟩ := h
  have hlatch : LatchKept s t := .of_mode hlock (hmode.imp_right fun k => ⟨k.2.1, .inr k.2.2⟩)
  exact { queue := hqueue, fuses := .of_eq hfuses, locked := fun hl => .inr (hlatch.locked hl), inv := hlatch.inv,
          mode := hmode.imp_right And.left, form := hform, store := hstore }

/-- Nothing but the latch and the fuses changes, and the mode follows the latch. -/
theorem KeepsLittle.effects (h : KeepsLittle s t) (hfuses : s.fuses.Grows t.fuses) (hlatch : LatchKept s t)
    (hmode : ToLockdown s t) : Effects c s t :=
  { queue := h.1, fuses := hfuses, locked := fun hl => .inr (hlatch.locked hl), inv := hlatch.inv,
    mode := hmode.imp_right fun e => by rw [e]; trivial, form := fun w => by rw [h.2.2]; exact w, store := .inl h.2.2 }

theorem settles_effects (h : KeepsButMode s t) (hmode : s.mode.Settles t.mode) : Effects c s t := by
  refine h.effects (hmode.imp_right fun k => ?_)
  rcases k with ⟨e, k | k⟩ | ⟨e, k | k⟩ <;> simp [e, k, Enters]

/-! The commands that may change the mode alone. -/

theorem execAdmissionDecision_effects (order : Nat) (s : State) :
    Answers (Effects c s) (execAdmissionDecision order s) := by
  dsimp only [execAdmissionDecision, answers_next]
  split
  · exact Keeps.rfl'.effects
  next w _ =>
    have hcauses := noteCauses_keeps (decideWaiting w s)
    exact settles_effects ((decideWaiting_keepsButMode w s).trans hcauses.butMode)
      ((decideWaiting_settles w s).trans hcauses.settles)

theorem freePeal_settles (p : PealSlot) (q : Peal) (spend : Nat) (s : State) :
    s.mode.Settles (freePeal p q spend s).mode :=
  (freePeal_mode p q spend s).imp_right fun h => .inr ⟨h.1, .inl h.2⟩

theorem execCompletionPost_effects (slot : PealSlot) (spend : BitVec 32) (s : State) :
    Answers (Effects c s) (execCompletionPost slot spend s) := by
  have hfree (q : Peal) (x : State) (h : Keeps s x) : Effects c s (freePeal slot q spend.toNat x) :=
    settles_effects (h.butMode.trans (freePeal_keepsButMode _ _ _ _)) (h.settles.trans (freePeal_settles _ _ _ _))
  dsimp only [execCompletionPost, answers_next]
  split
  · exact Keeps.rfl'.effects
  next q _ =>
    split
    · exact Keeps.rfl'.effects
    · split
      · exact hfree q s .rfl'
      · split
        · exact hfree q _ (returnCredit_keeps _ _ _)
        · split
          · exact hfree q _ (by simp [Keeps])
          · split
            · exact Keeps.rfl'.effects
            next d _ _ _ =>
              have hposted : Keeps s (returnCredit false q.ring
                  (duePosted q (postCpl q.fn d q.cpl (unreserve q d (writeOutput q s))))) := by simp [Keeps]
              have hstop := lockdownCqs_keeps (freePeal slot q spend.toNat (returnCredit false q.ring
                (duePosted q (postCpl q.fn d q.cpl (unreserve q d (writeOutput q s))))))
              exact settles_effects ((hposted.butMode.trans (freePeal_keepsButMode _ _ _ _)).trans hstop.butMode)
                ((hposted.settles.trans (freePeal_settles _ _ _ _)).trans hstop.settles)

theorem execClockGateTimer_effects (cluster : ClusterNo) (s : State) :
    Answers (Effects c s) (execClockGateTimer cluster s) := by
  dsimp only [execClockGateTimer, answers_next]
  split
  · have hgated := State.mCluster_keeps cluster (fun k => { k with state := .clockGated, idleSince := some s.clk.now }) s
    exact settles_effects (hgated.butMode.trans (serveToReady_keepsButMode _)) (hgated.settles.trans (serveToReady_settles _))
  · exact Keeps.rfl'.effects

theorem execRefillBoundary_effects (base package : BitVec 16) (temps : List (BitVec 9)) (waited : Computed) (s : State) :
    Answers (Effects (.refillBoundary base package temps waited) s) (execRefillBoundary base package temps waited s) := by
  unfold execRefillBoundary
  refine answers_next.2 ?_
  split
  · exact Keeps.rfl'.effects
  · extract_lets s1 s2 waits s3
    have hs2 : Keeps s s2 := (refill_keeps base s).trans ((State.mGov_keeps _ _).trans (State.mGov_keeps _ _))
    have hsensed : Keeps s (judgeThermal (readSensors temps s2)) :=
      hs2.trans ((readSensors_keeps temps s2).trans (judgeThermal_keeps _))
    have hend : Keeps s3 (noteCauses (s3.fe.waiting.foldl judgeDeadline s3)) :=
      (foldl_keeps _ judgeDeadline_keeps _ _).trans (noteCauses_keeps _)
    have hs3 : s3.mode = (judgeSurge waits (judgeThermal (readSensors temps s2))).mode := State.mGov_mode _ _
    have hbut : KeepsButMode s (noteCauses (s3.fe.waiting.foldl judgeDeadline s3)) :=
      (hsensed.butMode.trans ((judgeSurge_keepsButMode _ _).trans (State.mGov_keeps _ _).butMode)).trans hend.butMode
    have hmode := judgeSurge_mode waits (judgeThermal (readSensors temps s2))
    rw [← hs3, ← hend.2.2.2.1, hsensed.2.2.2.1] at hmode
    rcases hmode with h | ⟨h, hserve⟩
    · exact settles_effects hbut h
    · refine hbut.effects (.inr ⟨?_, by rw [h]; decide, .inr (.inr (by simp [hserve]))⟩)
      rw [h]
      exact ⟨hserve, base, package, temps, rfl⟩

/-! Ready is entered as the link comes up or the function reports; the working modes fall back to Rest. -/

theorem toReady_effects (h : Keeps s t) : Effects c s (toReady t) := by
  refine KeepsButMode.effects (h.butMode.trans (toReady_keepsButMode t)) ?_
  rcases toReady_mode t with e | ⟨e, k⟩
  · exact .inl (e.trans h.2.2.2.1)
  · rw [e, ← h.2.2.2.1, k]
    simp [Enters, ← h.2.2.2.1, k]

theorem rest_effects (h : KeepsButMode s t) (hmode : t.mode = if s.mode.working then .rest else s.mode) : Effects c s t := by
  refine h.effects ?_
  by_cases hw : s.mode.working = true
  · rw [if_pos hw] at hmode
    exact .inr ⟨hmode ▸ .inl hw, by simp [hmode], .inr (.inr ⟨fun e => by simp [e, Mode.working] at hw,
      fun e => by simp [e, Mode.working] at hw⟩)⟩
  · exact .inl (by simpa [hw] using hmode)

theorem execLinkEntersL0_effects (s : State) : Answers (Effects c s) (execLinkEntersL0 s) := by
  unfold execLinkEntersL0
  refine answers_next.2 ?_
  split
  · exact Keeps.rfl'.effects
  · extract_lets s1
    have hs1 := toReady_effects (c := c) (State.mFe_keeps (fun e => { e with linkL0 := true }) s)
    have hend : Keeps s1 (drainReady ((s1.fe.funcs.map (·.1)).foldl (fun s k => releaseMsix (BitVec.ofNat 8 k) s) s1)) :=
      (foldl_keeps _ (fun s _ => releaseMsix_keeps _ s) _ _).trans (drainReady_keeps _)
    exact hs1.trans_keeps hend

theorem execFunctionReady_effects (s : State) : Answers (Effects c s) (execFunctionReady s) := by
  dsimp only [execFunctionReady, answers_next]
  split
  · exact toReady_effects (State.mFe_keeps _ s)
  · exact Keeps.rfl'.effects

theorem execLinkLeavesL0_effects (s : State) : Answers (Effects c s) (execLinkLeavesL0 s) := by
  dsimp only [execLinkLeavesL0, answers_next]
  split
  · exact rest_effects (dropLink_keepsButMode s) (dropLink_mode s)
  · exact Keeps.rfl'.effects

theorem execPerstAssert_effects (s : State) : Answers (Effects c s) (execPerstAssert s) := by
  dsimp only [execPerstAssert, answers_next]
  have hpin := State.mFe_keeps (fun e => { e with perstAsserted := true, perstReleasedAt := none }) s
  split
  · exact Keeps.rfl'.effects
  · split
    · exact hpin.effects
    · refine rest_effects ((hpin.butMode.trans (pcieReset_keepsButMode _)).trans (State.mBoot_keeps _ _).butMode) ?_
      rw [State.mBoot_mode, pcieReset_mode, hpin.2.2.2.1]

/-! Supplies. -/

theorem execVaultEntry_effects (s : State) : Answers (Effects .vaultEntry s) (execVaultEntry s) := by
  unfold execVaultEntry
  refine answers_next.2 ?_
  split
  · exact Keeps.rfl'.effects
  · extract_lets s1
    have hs1 : Keeps s s1 := State.mPwr_keeps _ s
    split
    next h =>
      refine KeepsButMode.effects (hs1.butMode.trans (State.enter_keepsButMode _ _)) (.inr ⟨?_, ?_, .inr (.inl ?_)⟩)
      · rw [State.enter_mode]
        exact .inr rfl
      · simp
      · simp only [Bool.and_eq_true, Option.isNone_iff_eq_none] at h
        simp [h.2]
    · exact hs1.effects

/-- Leaving main power the device enters Off or Vault, but not from Lockdown, and not from Off with Lockdown latched. -/
theorem leaveMain_moves {m : Mode} (h : KeepsWf s t) (hm : m = .off ∨ m = .vault) :
    (leaveMain m t).mode = s.mode ∨ ((leaveMain m t).mode = m ∧ m ≠ .lockdown ∧
      (m = .off ∨ s.tmp.lock.isSome = false ∨ (s.mode ≠ .off ∧ s.mode ≠ .lockdown))) := by
  rcases leaveMain_mode m t with e | ⟨e, hlock, hoff⟩
  · exact .inl (e.trans h.2.2.2.1)
  · rw [h.2.2.2.1] at hlock hoff
    rw [h.2.2.2.2.1] at hoff
    refine .inr ⟨e, by rcases hm with rfl | rfl <;> decide, .inr ?_⟩
    by_cases hl : s.tmp.lock.isSome = true
    · exact .inr ⟨fun k => hoff ⟨k, hl⟩, hlock⟩
    · exact .inl (by simpa using hl)

theorem execBatteryAbsent_effects (b : Bool) (s : State) : Answers (Effects (.batteryAbsent b) s) (execBatteryAbsent b s) := by
  unfold execBatteryAbsent
  extract_lets s1
  have hs1 : Keeps s s1 := State.mPwr_keeps _ s
  clear_value s1
  refine answers_next.2 ?_
  split
  · exact hs1.effects
  · split
    · split
      · exact (hs1.trans (journalJudge_keeps _)).effects
      · exact hs1.effects
    · have hlost : Keeps s (loseAo s1) := hs1.trans (loseAo_keeps s1)
      refine KeepsButMode.effects (hlost.butMode.trans (leaveMain_keepsButMode _ _)) ?_
      refine (leaveMain_moves hlost.wf (.inl rfl)).imp_right fun h => ?_
      rw [h.1]
      exact ⟨.inr ⟨b, rfl⟩, h.2⟩

theorem execMainPowerLost_effects (s : State) : Answers (Effects .mainPowerLost s) (execMainPowerLost s) := by
  unfold execMainPowerLost
  refine answers_next.2 ?_
  split
  · exact Keeps.rfl'.effects
  · extract_lets up torn s1 s2
    have hup : KeepsWf s ((clearVolatile (interrupted (s.mBoot torn))).mToll fun k => { k with owed := owedUses s }) := by
      have hold := (State.mBoot_keeps torn s).wf.trans (interrupted_keepsWf _)
      obtain ⟨hqueue, hclk, hfuses, hlock, harray⟩ := clearVolatile_keepsButMode (interrupted (s.mBoot torn))
      have hclear : Keeps (interrupted (s.mBoot torn)) (clearVolatile (interrupted (s.mBoot torn))) :=
        ⟨hqueue, hclk, hfuses, clearVolatile_mode _, hlock, harray⟩
      exact hold.trans (hclear.trans (State.mToll_keeps _ _)).wf
    have hs1 : KeepsWf s s1 := by
      unfold s1
      split
      · exact hup
      · exact .rfl'
    have hs2 : KeepsWf s s2 := hs1.trans ((State.mPwr_keeps _ _).trans (State.mRoot_keeps _ _)).wf
    clear_value s2
    have hstore : WritesStore .mainPowerLost s := .inr (.inr (.inr (.inl rfl)))
    have hleave (m : Mode) (x : State) (h : KeepsWf s x) (hm : m = .off ∨ m = .vault)
        (henter : Enters .mainPowerLost s m) : Effects .mainPowerLost s (leaveMain m x) := by
      have hmoves := leaveMain_moves h hm
      have hkeeps := h.butMode.trans (leaveMain_keepsButMode m x).wf
      have hlatch : LatchKept s (leaveMain m x) := .of_mode hkeeps.1.2.2.2 (hmoves.imp_right fun k => by rw [k.1]; exact k.2)
      exact { queue := hkeeps.1.1, fuses := .of_eq hkeeps.1.2.2.1, locked := fun hl => .inr (hlatch.locked hl),
              inv := hlatch.inv, mode := hmoves.imp_right fun k => by rw [k.1]; exact henter, form := hkeeps.2,
              store := .inr hstore }
    split
    · exact hleave .off _ (hs2.trans (loseAo_keeps s2).wf) (.inl rfl) (.inl rfl)
    · exact hleave .vault _ hs2 (.inr rfl) (.inl rfl)

/-! Commit points. -/

theorem commits_effects (h : KeepsWfButMode s t) (hmode : s.mode.Commits t.mode) (hc : WritesStore c s) : Effects c s t := by
  refine h.effects (hmode.imp_right fun k => ?_) (.inr hc)
  rcases k with ⟨e, k | k | k⟩ | ⟨e, k | k | k⟩ <;> simp [e, k, Enters]

theorem execCommitPoint_effects (slot : PealSlot) (s : State) :
    Answers (Effects (.commitPoint slot) s) (execCommitPoint slot s) := by
  have hc : WritesStore (.commitPoint slot) s := .inl ⟨slot, .inl rfl⟩
  have hcommit (x : State) (h : Keeps s x) : Effects (.commitPoint slot) s (commitPeal slot none x) :=
    commits_effects (h.wf.butMode.trans (commitPeal_keepsWf _ _ _)) (h.commits.trans (commitPeal_commits _ _ _)) hc
  have hleave : Keeps s (leaveResume slot s) := leaveResume_keeps _ s
  dsimp only [execCommitPoint, answers_next]
  split
  · exact Keeps.rfl'.effects
  · split
    · exact Keeps.rfl'.effects
    · split
      · exact (failPeal_keeps _ _ _ _).effects
      next q _ _ =>
        split
        · exact hcommit _ hleave
        · split
          · exact Keeps.effects (.ite _ (hleave.trans (beginRecord_keeps _ _ _)) .rfl')
          · split
            · split
              · exact Keeps.rfl'.effects
              · exact Keeps.effects (.ite _ (State.mClap_keeps _ s)
                  (hleave.trans ((State.mClap_keeps _ _).trans (State.mPeal_keeps _ _ _))))
            · split
              · exact (holdDirty_keeps _ _ _).effects
              · exact hcommit _ hleave

theorem execStewardRecordWriteComplete_effects (slot : PealSlot) (s : State) :
    Answers (Effects (.stewardRecordWriteComplete slot) s) (execStewardRecordWriteComplete slot s) := by
  have hgo := closeGoesOn_keeps (recordWritten slot s)
  exact commits_effects ((recordWritten_keepsWf slot s).trans hgo.wf.butMode)
    ((recordWritten_commits slot s).trans hgo.commits) (.inl ⟨slot, .inr rfl⟩)

theorem execGroupRecordComplete_effects (s : State) :
    Answers (Effects .groupRecordComplete s) (execGroupRecordComplete s) := by
  dsimp only [execGroupRecordComplete, answers_next]
  split
  · exact Keeps.rfl'.effects
  · split
    · exact Keeps.rfl'.effects
    next r _ =>
      have hgo := closeGoesOn_keeps (groupWritten r s)
      exact commits_effects ((groupWritten_keepsWf r s).trans hgo.wf.butMode)
        ((groupWritten_commits r s).trans hgo.commits) (.inr (.inl rfl))

/-! The Snare, the fuses' own commands and the memory. -/

theorem execSnareSensorOutOfRange_effects (ids : BitVec 22) (s : State) :
    Answers (Effects c s) (execSnareSensorOutOfRange ids s) :=
  (snareEvent_keepsLittle 1 ids s).effects (snareEvent_grows 1 ids s) (snareEvent_latch 1 ids s).1
    (snareEvent_latch 1 ids s).2

theorem execSnareSelfCheck_effects (fails : BitVec 22) (s : State) :
    Answers (Effects c s) (execSnareSelfCheck fails s) := by
  dsimp only [execSnareSelfCheck, answers_next]
  split
  · exact (selfCheck_keepsLittle fails s).effects (selfCheck_grows fails s) (selfCheck_latch fails s).1
      (selfCheck_latch fails s).2
  · exact Keeps.rfl'.effects

theorem execPatrolScrub_effects (found : ScrubFinding) (s : State) : Answers (Effects c s) (execPatrolScrub found s) := by
  dsimp only [execPatrolScrub, answers_next]
  split
  · exact Keeps.rfl'.effects
  · split
    · exact (State.mMem_keeps _ s).effects
    · exact (correctedError_keeps _ s).effects
    next line owner =>
      split
      · exact Keeps.rfl'.effects
      · have hfault := integrityFault_keepsStore line.toNat owner s
        exact hfault.little.effects (.of_eq hfault.2.2.1) (integrityFault_latch _ _ s).1 (integrityFault_latch _ _ s).2

theorem execScrapOnlyPolicyToken_effects (sig : Bool) (s : State) :
    Answers (Effects c s) (execScrapOnlyPolicyToken sig s) := by
  have haccept : Effects c s (lcResult 1 (lcSeqInc (s.mFuses fun f => { f with scrapOnly := true }))) := by
    have hfuses : s.fuses.Grows { s.fuses with scrapOnly := true } :=
      Fuses.grows_of_lcFuse_eq rfl rfl rfl rfl (fun _ => rfl) (.inl rfl) fun h => ⟨le_rfl, h⟩
    exact KeepsLittle.effects ⟨rfl, rfl, rfl⟩ hfuses (.of_mode rfl (.inl rfl)) (.inl rfl)
  unfold execScrapOnlyPolicyToken token lcCommand
  split
  · exact Keeps.rfl'.effects
  · refine answers_next.2 ?_
    split
    · exact Keeps.rfl'.effects
    · split
      · exact (lcRefuse_keeps _ _ _).effects
      · dsimp only
        split
        · exact (lcRefuse_keeps _ _ _).effects
        · exact haccept

theorem execWipeVerificationComplete_effects (ok : Bool) (s : State) :
    Answers (Effects c s) (execWipeVerificationComplete ok s) := by
  dsimp only [execWipeVerificationComplete, answers_next]
  split
  · exact Keeps.rfl'.effects
  next e _ =>
    split
    · exact Keeps.rfl'.effects
    · split
      · exact ((State.mLc_keeps _ s).trans (lcWrite_keeps _ _ _)).effects
      · obtain ⟨hqueue, hclk, hmode, hlock, harray⟩ := wipeScope_keeps e.scope s
        have hwipe : Effects c s (wipeScope e.scope s) :=
          KeepsLittle.effects ⟨hqueue, hclk, harray⟩ (wipeScope_grows e.scope s) (.of_mode hlock (.inl hmode)) (.inl hmode)
        exact (hwipe.trans_keeps (State.mLc_keeps _ _)).trans_keeps (whenDo_keeps _ _ _ fun s => raiseDev_keeps _ s)

/-- The modes that the end of a transition enters are among those that its commands may. -/
theorem booted_enters (h : t.mode = .lockdown ∨ t.mode = .rest ∨ t.mode = .ready) :
    Enters .fuseGroupProgramComplete s t.mode := by
  rcases h with e | e | e <;> rw [e] <;> simp [Enters]

theorem fusesProgrammed_mode (e : LcEntry) (s : State) :
    (s.lockdownInv = true → (fusesProgrammed e s).lockdownInv = true) ∧ ToBooted s (fusesProgrammed e s) := by
  unfold fusesProgrammed
  extract_lets s1
  split
  · exact completeTransition_mode .eolScrap s1
  · have hwrite := (State.mLc_keeps (fun l => { l with wiped := false, verified := false }) s1).trans (lcWrite_keeps 4 e _)
    exact ⟨hwrite.latchKept.inv, .inl hwrite.2.2.2.1⟩

theorem scrapEnd_boot (s : State) : (scrapEnd s).boot = s.boot := by
  unfold scrapEnd
  dsimp only
  split <;> rfl

theorem enter_boot (m : Mode) (s : State) : (s.enter m).boot = s.boot := by
  unfold State.enter
  split <;> rfl

theorem withdrawSurge_boot (s : State) : (withdrawSurge s).boot = s.boot := by
  unfold withdrawSurge
  dsimp only
  split
  · exact enter_boot _ _
  · rfl

theorem dropLink_boot (s : State) : (dropLink s).boot = s.boot := by
  unfold dropLink toRest
  have hwork : (discardWork (s.mFe fun e => { e with linkL0 := false })).boot = s.boot := by
    rw [discardWork_pealWork]
    rfl
  split
  · rw [enter_boot, withdrawSurge_boot]
    exact hwork
  · exact hwork

theorem toReady_boot (s : State) : (toReady s).boot = s.boot := by
  unfold toReady
  split
  · exact enter_boot _ _
  · rfl

/-- Neither the fuses nor the end of a transition touch the boot report that a held power-up sequence resumes with. -/
theorem completeTransition_resume (x : LcState) (s : State) : (completeTransition x s).boot.resume = s.boot.resume := by
  unfold completeTransition
  extract_lets s1 s2 s3
  have hs2 : s2.boot = s.boot := by
    unfold s2
    split <;> rfl
  clear_value s2
  have hs3 : s3.boot.resume = s.boot.resume := by
    rw [← hs2]
    unfold s3
    rw [State.mBoot_boot, enter_boot]
    rfl
  split
  · split
    · rwa [scrapEnd_boot, dropLink_boot]
    · rwa [toReady_boot]
  · rw [hs2]

theorem fusesProgrammed_resume (e : LcEntry) (s : State) : (fusesProgrammed e s).boot.resume = s.boot.resume := by
  unfold fusesProgrammed
  extract_lets s1
  split
  · exact completeTransition_resume _ s1
  · rfl

theorem execFuseGroupProgramComplete_effects (s : State) :
    Answers (Effects .fuseGroupProgramComplete s) (execFuseGroupProgramComplete s) := by
  dsimp only [execFuseGroupProgramComplete, answers_next]
  split
  · exact Keeps.rfl'.effects
  next e _ =>
    split
    · exact Keeps.rfl'.effects
    next hcond =>
      have hpending : s.lc.pending = true := by
        simp only [Bool.or_eq_true, Bool.not_eq_true', not_or, Bool.not_eq_false] at hcond
        exact hcond.1.1.2
      have hmode := fusesProgrammed_mode e s
      have hgo := transitionGoesOn_mode (fusesProgrammed e s)
      exact {
        queue := (transitionGoesOn_keeps _).1.trans (fusesProgrammed_keeps e s).1
        fuses := (fusesProgrammed_grows e s).trans (.of_eq (transitionGoesOn_fuses _))
        locked := fun _ => .inl (.inr ⟨hpending, .inl rfl⟩)
        inv := hgo.1.inv ∘ hmode.1
        mode := (hmode.2.trans hgo.2).imp_right booted_enters
        form := fun w => (transitionGoesOn_keeps _).2.2.2 (by rw [(fusesProgrammed_keeps e s).2]; exact w)
        store := by
          by_cases hresume : s.boot.resume = none
          · refine .inl ?_
            rw [transitionGoesOn, fusesProgrammed_resume, hresume]
            exact (fusesProgrammed_keeps e s).2
          · exact .inr (.inr (.inr (.inr (.inr (.inr (.inr (.inr ⟨hresume, rfl⟩))))))) }

/-! Resets and the ends of store commands. -/

theorem booted_effects (hqueue : KeepsQueue s t) (hboot : BootedMode t)
    (hlock : s.locked = true → Unlatches c s ∨ t.locked = true) (hfuses : s.fuses.Grows t.fuses)
    (hc : ∃ r, c = .powerOnReset r ∨ c = .warmReset r ∨ c = .recoveryReset r) : Effects c s t :=
  { queue := hqueue.1, fuses := hfuses, locked := hlock, inv := fun _ => hboot.inv,
    mode := by
      rcases hboot with h | h
      · rw [h.1]; exact .inr trivial
      · rw [h.1]; exact .inr (.inr (.inr (.inr (.inr hc))))
    form := hqueue.2, store := .inr (.inr (.inr (.inr (.inr (.inl hc))))) }

theorem execPowerOnReset_effects (r : BootReport) (s : State) :
    Answers (Effects (.powerOnReset r) s) (execPowerOnReset r s) := by
  have h := deviceReset_booted 0 r s
  dsimp only [execPowerOnReset, answers_next]
  split
  · exact booted_effects (deviceReset_keeps 0 r s) h.1 (fun hl => .inr (h.2.1 hl)) h.2.2 ⟨r, .inl rfl⟩
  · exact Keeps.rfl'.effects

theorem execWarmReset_effects (r : BootReport) (s : State) : Answers (Effects (.warmReset r) s) (execWarmReset r s) := by
  have h := deviceReset_booted 1 r { s with pwr := { s.pwr with aoHeld := true } }
  dsimp only [execWarmReset, answers_next]
  split
  · exact booted_effects (deviceReset_keeps 1 r { s with pwr := { s.pwr with aoHeld := true } }) h.1
      (fun hl => .inr (h.2.1 hl)) h.2.2 ⟨r, .inr (.inl rfl)⟩
  · exact Keeps.rfl'.effects

theorem execRecoveryReset_effects (r : BootReport) (s : State) :
    Answers (Effects (.recoveryReset r) s) (execRecoveryReset r s) := by
  unfold execRecoveryReset
  refine answers_next.2 ?_
  split
  · exact Keeps.rfl'.effects
  · split
    · exact Keeps.rfl'.effects
    · extract_lets s1
      have h := deviceReset_booted 2 r (s1.mPwr fun p => { p with gongN := true, aoHeld := true })
      exact booted_effects (deviceReset_keeps 2 r (s1.mPwr fun p => { p with gongN := true, aoHeld := true })) h.1
        (fun _ => .inl (.inl ⟨r, rfl⟩)) h.2.2 ⟨r, .inr (.inr rfl)⟩

/-- The end of a store command does its requester's work, of which a life-cycle entry's leaves the transition pending, and
then what waited for the store goes on. -/
theorem execNvCommandComplete_cases (r : NvResult) (s : State) :
    execNvCommandComplete r s = .next s ∨
      ∃ (x : NvCmd) (y : State), KeepsWf s y ∧ (∀ e, x.work = .lifeCycle e → y.lc.pending = s.lc.pending) ∧
        execNvCommandComplete r s = .next (afterStore x.work y) := by
  unfold execNvCommandComplete
  split
  · exact .inl rfl
  next x _ =>
    extract_lets bad need w s1
    split
    · exact .inl rfl
    · have hs1 : Keeps s s1 ∧ s1.lc = s.lc := ⟨⟨rfl, rfl, rfl, rfl, rfl, rfl⟩, rfl⟩
      clear_value s1
      refine .inr ⟨x, _, .trans ?_ (nextCommand_keeps _).wf, fun e he => ?_, rfl⟩
      · split
        · have hfail : Keeps s (loseWrite x (raiseDev .nvWriteFail (s1.mNv fun n =>
              { n with writeFails := if n.writeFails = 0xFFFFFFFF then n.writeFails else n.writeFails + 1 }))) := by
            refine hs1.1.trans (Keeps.trans ?_ (loseWrite_keeps _ _))
            exact Keeps.trans ⟨rfl, rfl, rfl, rfl, rfl, rfl⟩ (raiseDev_keeps _ _)
          exact hfail.wf.trans (workFailed_keepsWf _ _)
        · have hput : KeepsWf s (s1.mNv (·.put w.1 w.2)) := hs1.1.wf.trans (State.mNv_keepsWf _ _ storePut_wf)
          have hremap := foldl_keeps (fun s p => remap p s) (fun s p => remap_keeps p s) need (s1.mNv (·.put w.1 w.2))
          exact (hput.trans hremap.wf).trans (workDone_keepsWf _ _)
      · rw [he]
        split
        · refine (congrArg LifeCycle.pending (State.mNv_lc _ _)).trans ((workEnds_lc_pending e _).2.trans ?_)
          rw [loseWrite_lc, raiseDev_lc, State.mNv_lc, hs1.2]
        · refine (congrArg LifeCycle.pending (State.mNv_lc _ _)).trans ((workEnds_lc_pending e _).1.trans ?_)
          rw [foldl_remap_lc, State.mNv_lc, hs1.2]

theorem execNvCommandComplete_effects (r : NvResult) (s : State) :
    Answers (Effects (.nvCommandComplete r) s) (execNvCommandComplete r s) := by
  rcases execNvCommandComplete_cases r s with h | ⟨x, y, hy, hpending, h⟩
  · rw [h]
    exact Keeps.rfl'.effects
  · have hstore := afterStore_mode x.work y
    have hqueue := afterStore_keeps x.work y
    rw [h]
    exact {
      queue := hqueue.1.trans hy.1
      fuses := .trans (.of_eq hy.2.2.1) (afterStore_grows _ _)
      locked := fun hl => by
        by_cases hp : s.lc.pending = true
        · exact .inl (.inr ⟨hp, .inr ⟨r, rfl⟩⟩)
        · refine .inr (hstore.1 (hy.latchKept.locked hl) fun e he => ?_)
          rw [hpending e he]
          simpa using hp
      inv := hstore.2.1 ∘ hy.latchKept.inv
      mode := by
        refine (ToBooted.trans (.inl hy.2.2.2.1) hstore.2.2).imp_right fun h => ?_
        rcases h with e | e | e <;> rw [e] <;> simp [Enters]
      form := hqueue.2 ∘ hy.2.2.2.2.2
      store := .inr (.inr (.inr (.inl ⟨r, rfl⟩))) }

/-! Noise windows. -/

/-- Nothing that `Keeps` names changes but by the end of a power-up sequence that waited. -/
abbrev KeepsOrBoots (s t : State) : Prop :=
  Keeps s t ∨ (s.boot.awaitNoise ≠ none ∧ (t.mode = s.mode ∨ (t.mode = .rest ∧ s.tmp.lock.isSome = false)))

theorem bootGoesOn_orBoots (s : State) : KeepsOrBoots s (bootGoesOn s) := by
  by_cases h : s.boot.awaitNoise = none
  · exact .inl (bootGoesOn_keeps_of_none s h)
  · exact .inr ⟨h, (bootGoesOn_mode s).imp_right fun k => ⟨k.1, k.2.2⟩⟩

theorem KeepsOrBoots.before (h : Keeps s t) (ha : KeepsAwait s t) (k : KeepsOrBoots t u) : KeepsOrBoots s u :=
  k.imp h.trans fun ⟨hawait, hmode⟩ => ⟨ha ▸ hawait, by rwa [← h.2.2.2.1, ← h.2.2.2.2.1]⟩

theorem KeepsOrBoots.after (h : KeepsOrBoots s t) (k : Keeps t u) : KeepsOrBoots s u :=
  h.imp (·.trans k) fun ⟨hawait, hmode⟩ => ⟨hawait, by rwa [k.2.2.2.1]⟩

theorem sourceLost_keeps (k : BitVec 2) (st : SrcState) (s : State) : Keeps s (sourceLost k st s) := by
  unfold sourceLost
  dsimp only
  (repeat' split) <;> simp [Keeps]

theorem startWindow_orBoots (k : BitVec 2) (pass : Bool) (s : State) : KeepsOrBoots s (startWindow k pass s) := by
  unfold startWindow
  extract_lets n s1
  split
  · exact .inl .rfl'
  · split
    · split
      · exact .inl (State.mSource_keeps _ _ s)
      · exact .before (State.mSource_keeps _ _ s) rfl (bootGoesOn_orBoots _)
    · have hs1 : Keeps s s1 := (State.mSource_keeps _ _ s).trans (raiseDev_keeps _ _)
      exact .inl (.ite _ hs1 (hs1.trans (sourceLost_keeps _ _ _)))

theorem healthyWindow_orBoots (k : BitVec 2) (pass : Bool) (w : BitVec 1024) (s : State) :
    KeepsOrBoots s (healthyWindow k pass w s) := by
  unfold healthyWindow
  extract_lets fs s1
  split
  · split
    · exact .inl .rfl'
    · refine .after (.before ?_ ?_ (bootGoesOn_orBoots _)) ((serveChallenge_keeps _).trans (serveClosing_keeps _))
      · exact (addPool_keeps _ s).trans ((instantiateWaiting_keeps _).trans (startRekey_keeps _))
      · exact (startRekey_await _).trans (instantiateWaiting_await _)
  · have hs1 : Keeps s s1 := (State.mSource_keeps _ _ s).trans (raiseDev_keeps _ _)
    exact .inl (.ite _ (hs1.trans (sourceLost_keeps _ _ _)) hs1)

theorem execNoiseWindowComplete_effects (src : BitVec 2) (samples : BitVec 1024) (s : State) :
    Answers (Effects (.noiseWindowComplete src samples) s) (execNoiseWindowComplete src samples s) := by
  have hc (h : s.boot.awaitNoise ≠ none) : WritesStore (.noiseWindowComplete src samples) s :=
    .inr (.inr (.inr (.inr (.inr (.inl ⟨h, src, samples, rfl⟩)))))
  have hboots (t : State) (h : KeepsWfButMode s t) (k : KeepsOrBoots s t) :
      Effects (.noiseWindowComplete src samples) s t := by
    rcases k with k | ⟨hawait, hmode⟩
    · exact k.effects
    · refine h.effects (hmode.imp_right fun m => ?_) (.inr (hc hawait))
      rw [m.1]
      exact ⟨.inr (.inr (.inr (.inl ⟨src, samples, rfl, hawait⟩))), by decide, .inl m.2⟩
  unfold execNoiseWindowComplete
  extract_lets w s1
  have hs1 : Keeps s s1 ∧ KeepsAwait s s1 := ⟨State.mSource_keeps _ _ s, rfl⟩
  clear_value s1
  refine answers_next.2 ?_
  split
  · exact Keeps.rfl'.effects
  · split
    · split
      · exact Keeps.rfl'.effects
      · exact hboots _ (hs1.1.wf.butMode.trans (startWindow_keepsWf _ _ _)) (.before hs1.1 hs1.2 (startWindow_orBoots _ _ _))
    · exact hboots _ (hs1.1.wf.butMode.trans (healthyWindow_keepsWf _ _ _ _))
        (.before hs1.1 hs1.2 (healthyWindow_orBoots _ _ _ _))
    · exact Keeps.rfl'.effects
    · exact Keeps.rfl'.effects

theorem activated_mode (s : State) :
    (activated s).mode = s.mode ∨ ((activated s).mode = .ready ∧ s.mode = .maintenance) := by
  unfold activated
  extract_lets s1
  have hs1 : Keeps s s1 := (State.mBoot_keeps _ s).trans (fwEnd_keeps _ _)
  split
  next h =>
    have hconfirm := confirmFw_keepsWf (s1.enter .ready)
    exact .inr ⟨hconfirm.2.2.2.1.trans (State.enter_mode _ _), h⟩
  · exact .inl hs1.2.2.2.1

theorem execStewardRestartComplete_effects (bodyA bodyB : Bool) (s : State) :
    Answers (Effects (.stewardRestartComplete bodyA bodyB) s) (execStewardRestartComplete bodyA bodyB s) := by
  unfold execStewardRestartComplete
  refine answers_next.2 ?_
  split
  · exact Keeps.rfl'.effects
  · split
    next isB _ =>
      extract_lets s1
      have hs1 : Keeps s s1 ∧ s1.boot.activating = s.boot.activating := by
        refine ⟨startSteward_keeps isB s, ?_⟩
        unfold s1 startSteward whenDo
        dsimp only
        split
        · rw [raiseDev_feOnly]
          simp [Boot.mSlot]
          split <;> rfl
        · simp [Boot.mSlot]
          split <;> rfl
      split
      next hact =>
        have hstore : WritesStore (.stewardRestartComplete bodyA bodyB) s :=
          .inr (.inr (.inr (.inr (.inr (.inr (.inl ⟨hs1.2 ▸ hact, bodyA, bodyB, rfl⟩))))))
        refine (hs1.1.wf.butMode.trans (activated_keepsWf s1)).effects ?_ (.inr hstore)
        rcases activated_mode s1 with h | ⟨h, hmaint⟩
        · exact .inl (h.trans hs1.1.2.2.2.1)
        · rw [hs1.1.2.2.2.1] at hmaint
          rw [h]
          exact .inr ⟨by simp [Enters, hmaint], by decide, .inr (by simp [hmaint])⟩
      · exact hs1.1.effects
    · exact (rest_effects (dropLink_keepsButMode s) (dropLink_mode s)).trans_keeps (State.mBoot_keeps _ _)

end

end Sys2Proof.Machine
end

section
/-! The invariants that every command keeps (O3, O56 to O59). -/
namespace Sys2Proof.Machine

/-- Every command answers a next state, and does no more to the queue, the fuses, the latch, the mode and the store than
`Effects` says. -/
theorem exec_effects (c : Instr) (s : State) : Answers (Effects c s) (exec c s) := by
  cases c with
  | admissionDecision => exact execAdmissionDecision_effects _ s
  | commitPoint => exact execCommitPoint_effects _ s
  | completionPost => exact execCompletionPost_effects _ _ s
  | groupRecordComplete => exact execGroupRecordComplete_effects s
  | stewardRecordWriteComplete => exact execStewardRecordWriteComplete_effects _ s
  | linkEntersL0 => exact execLinkEntersL0_effects s
  | linkLeavesL0 => exact execLinkLeavesL0_effects s
  | perstAssert => exact execPerstAssert_effects s
  | functionReady => exact execFunctionReady_effects s
  | refillBoundary => exact execRefillBoundary_effects _ _ _ _ s
  | clockGateTimer => exact execClockGateTimer_effects _ s
  | noiseWindowComplete => exact execNoiseWindowComplete_effects _ _ s
  | nvCommandComplete => exact execNvCommandComplete_effects _ s
  | powerOnReset => exact execPowerOnReset_effects _ s
  | mainPowerLost => exact execMainPowerLost_effects s
  | vaultEntry => exact execVaultEntry_effects s
  | batteryAbsent => exact execBatteryAbsent_effects _ s
  | warmReset => exact execWarmReset_effects _ s
  | stewardRestartComplete => exact execStewardRestartComplete_effects _ _ s
  | snareSensorOutOfRange => exact execSnareSensorOutOfRange_effects _ s
  | snareSelfCheck => exact execSnareSelfCheck_effects _ s
  | fuseGroupProgramComplete => exact execFuseGroupProgramComplete_effects s
  | wipeVerificationComplete => exact execWipeVerificationComplete_effects _ s
  | recoveryReset => exact execRecoveryReset_effects _ s
  | scrapOnlyPolicyToken => exact execScrapOnlyPolicyToken_effects _ s
  | patrolScrub => exact execPatrolScrub_effects _ s
  | _ => exact (exec_keeps_of_quiet _ s rfl).mono fun _ h => Keeps.effects h

/-- Settles O3: no command reports a fault or a refusal, and the queue is among what every command keeps. -/
theorem everyCommandIsCarriedOut : Obligations.EveryCommandIsCarriedOut := by
  unfold Obligations.EveryCommandIsCarriedOut
  intro c s
  obtain ⟨t, ht, h⟩ := (exec_effects c s).exists_next
  exact ⟨t, ht, h.queue⟩

/-- Settles O56: programming only adds bits, and so does every command. -/
theorem fusesNeverReturn : Obligations.FusesNeverReturn := by
  unfold Obligations.FusesNeverReturn
  intro c s t hok ht
  exact ((exec_effects c s).of_eq ht).fuses hok

/-- Settles O57: only the recovery reset and the end of a pending transition clear the latch, and each mode a command enters
follows the latch it leaves. -/
theorem lockdownIsLatched : Obligations.LockdownIsLatched := by
  unfold Obligations.LockdownIsLatched
  intro c s t ht
  have h := (exec_effects c s).of_eq ht
  refine ⟨fun hlocked hrecovery htransition => ?_, h.inv⟩
  rcases h.locked hlocked with (⟨r, hc⟩ | ⟨hpending, hc | ⟨r, hc⟩⟩) | hl
  · exact absurd hc (hrecovery r)
  · exact absurd hc (htransition hpending).1
  · exact absurd hc ((htransition hpending).2 r)
  · exact hl

/-- Settles O58: the mode a command leaves is the one before, or one that Table 1-7 lets it enter. -/
theorem modesAreEnteredByTheirTriggers : Obligations.ModesAreEnteredByTheirTriggers := by
  unfold Obligations.ModesAreEnteredByTheirTriggers
  intro c s t ht hne
  have h : Enters c s t.mode := ((exec_effects c s).of_eq ht).mode.resolve_left hne
  refine ⟨?_, ?_, ?_, ?_, ?_, ?_, ?_⟩ <;>
  · intro hmode
    rw [hmode] at h
    exact h

/-- Settles O59: the store's form is kept by every command, and its array is the same after every command that may not write. -/
theorem storeStaysCanonical : Obligations.StoreStaysCanonical := by
  unfold Obligations.StoreStaysCanonical
  intro c s t ht
  have h := (exec_effects c s).of_eq ht
  refine ⟨h.form, fun a hne => h.store.resolve_left fun e => hne ?_⟩
  rw [State.storeByte, State.storeByte, e]

end Sys2Proof.Machine
end

section
/-! Admission's reservations (O19). -/
namespace Sys2Proof.Machine

theorem sendMsix_cqs (fn : Fn) (v : Nat) (s : State) : (sendMsix fn v s).fe.cqs = s.fe.cqs := by
  unfold sendMsix
  (repeat' split) <;> rfl

theorem eventMessage_cqs (fn : Fn) (s : State) : (eventMessage fn s).fe.cqs = s.fe.cqs := by
  unfold eventMessage
  (repeat' split)
  · rfl
  · rfl
  · exact sendMsix_cqs _ _ _
  · exact sendMsix_cqs _ _ _

theorem raiseDev_cqs (e : DevEvent) (s : State) : (raiseDev e s).fe.cqs = s.fe.cqs := by
  unfold raiseDev
  dsimp only
  split
  · exact eventMessage_cqs 0 _
  · rfl

/-- A changed completion ring reads as changed, unless it reads as one that was never set up. -/
theorem State.cq_mCq {q : CqNo} {f : CplRing → CplRing} {s : State} (h : f (s.cq q) ≠ CplRing.init) :
    (s.mCq q f).cq q = f (s.cq q) := smGet_set_of_ne_default h _ _

/-- What an admission changes once its completion entry is reserved. -/
def reservedState (c : Cand) (s : State) (q : CqNo) : State :=
  (((s.mCq q fun x => { x with reserved := x.reserved + 1 }).mClap fun k =>
    { k with staging := k.staging + stagingFor c.maxOut,
             granulesCrit := if c.cls = 0 then k.granulesCrit + granulesFor c.maxOut else k.granulesCrit,
             granulesOther := if c.cls = 0 then k.granulesOther else k.granulesOther + granulesFor c.maxOut }).mGov
    fun g => { g with level := signed32 (s.gov.level - c.tokens) })

theorem reserveFor_eq {c : Cand} {s : State} {q : CqNo} (h : boundCq s c.w.ring = some q) :
    reserveFor c s = whenDo (0 ≤ s.gov.level && signed32 (s.gov.level - c.tokens) < 0) (raiseDev .govCapOverrun)
      (reservedState c s q) := by
  simp only [reserveFor, h, reservedState]

/-- The overrun event leaves all but the front end's event registers as the reservations made them. -/
theorem reserveFor_reserved {c : Cand} {s : State} {q : CqNo} (h : boundCq s c.w.ring = some q) :
    FeOnly (reservedState c s q) (reserveFor c s) ∧ (reserveFor c s).fe.cqs = (reservedState c s q).fe.cqs := by
  rw [reserveFor_eq h]
  unfold whenDo
  split
  · exact ⟨raiseDev_feOnly _ _, raiseDev_cqs _ _⟩
  · exact ⟨rfl, rfl⟩

/-- Settles O19: the reservations are made one by one, and the overrun event touches none of them. -/
theorem admittedPealTakesItsReservations : Obligations.AdmittedPealTakesItsReservations := by
  unfold Obligations.AdmittedPealTakesItsReservations
  intro c s q hbound
  obtain ⟨hfe, hcqs⟩ := reserveFor_reserved hbound
  have hgov : (reserveFor c s).gov = (reservedState c s q).gov := by rw [hfe]
  have hclap : (reserveFor c s).clap = (reservedState c s q).clap := by rw [hfe]
  have hcq : (reserveFor c s).cq q = { s.cq q with reserved := (s.cq q).reserved + 1 } := by
    have hne : { s.cq q with reserved := (s.cq q).reserved + 1 } ≠ CplRing.init := fun e =>
      Nat.succ_ne_zero _ (congrArg CplRing.reserved e)
    unfold State.cq at hne ⊢
    rw [hcqs]
    exact State.cq_mCq (q := q) (s := s) (f := fun x => { x with reserved := x.reserved + 1 }) hne
  rw [hgov, hclap, hcq]
  refine ⟨rfl, rfl, ?_, fun hcls => ?_, rfl, rfl, ?_⟩
  · by_cases hcls : c.cls = 0
    · simp only [reservedState, State.mGov_clap, State.mClap_clap, State.mCq, State.mFe_clap, if_pos hcls]
      omega
    · simp only [reservedState, State.mGov_clap, State.mClap_clap, State.mCq, State.mFe_clap, if_neg hcls]
      omega
  · simp only [reservedState, State.mGov_clap, State.mClap_clap, State.mCq, State.mFe_clap, if_neg hcls]
  · rw [← hgov, ← hclap, hfe]
    rfl

end Sys2Proof.Machine
end

section
/-! Miscompares: the spare settles them, and the engine that differs is retired (O23). -/
namespace Sys2Proof.Machine

/-! The list of a cluster's engines. -/

theorem getD_modAt_self {α : Type} {n : Nat} {l : List α} (h : n < l.length) (f : α → α) (d : α) :
    (modAt n f l).getD n d = f (l.getD n d) := by
  simp [modAt, List.getD, h]

theorem getD_modAt_ne {α : Type} {m n : Nat} (h : m ≠ n) (f : α → α) (l : List α) (d : α) :
    (modAt n f l).getD m d = l.getD m d := by
  simp [modAt, List.getD, h.symm]

section
variable {s t : State} {c : ClusterNo}

theorem State.cluster_mCluster (h : s.clusters.length = 16) (f : Cluster → Cluster) :
    (s.mCluster c f).cluster c = f (s.cluster c) :=
  getD_modAt_self (h ▸ c.isLt) f _

theorem raiseDev_clusters (e : DevEvent) (s : State) : (raiseDev e s).clusters = s.clusters := by
  rw [raiseDev_feOnly e s]

theorem raiseDev_health (e : DevEvent) (s : State) : (raiseDev e s).health = s.health := by
  rw [raiseDev_feOnly e s]

/-- A retired engine. -/
def EngineRec.retire (cause : RetireCause) (e : EngineRec) : EngineRec :=
  { e.cleared with role := .retired, cause := cause, held := [], selfTest := none, testPaused := false }

/-- A spare that takes a retired engine's place, and its contexts. -/
def EngineRec.promote (now : Nat) (held : List HeldJob) (e : EngineRec) : EngineRec :=
  { e with role := .active, held := held, selfTest := none, testPaused := false, idleSince := now }

/-- The retirement of an active symmetric engine whose cluster has a spare, step by step. -/
theorem retireEngine_eq {n m : Nat} (cause : RetireCause)
    (hrole : ((s.cluster c).se.getD n EngineRec.init).role = .active)
    (hspare : (s.cluster c).se.findIdx? (·.role == .spare) = some m) :
    retireEngine c false n cause s = renameSe c n m ((nvQueue 5 (.retirement (16 * c.toNat + n))
      (raiseDev .engineRetired ((s.mEng c false n (EngineRec.retire cause)).mHealth fun h =>
        { h with lifetime := smMod 0 (16 * c.toNat + n) (· + 1) h.lifetime }))).mEng c false m
          (EngineRec.promote s.clk.now ((s.cluster c).se.getD n EngineRec.init).held)) := by
  unfold retireEngine
  dsimp only [Cluster.eng, whenDo]
  simp only [Bool.false_eq_true, if_false, hspare, hrole, ne_eq, not_true_eq_false]
  rfl

theorem retireEngine_se {n m : Nat} (cause : RetireCause) (hlen : s.clusters.length = 16)
    (hrole : ((s.cluster c).se.getD n EngineRec.init).role = .active)
    (hspare : (s.cluster c).se.findIdx? (·.role == .spare) = some m) :
    ((retireEngine c false n cause s).cluster c).se =
      modAt m (EngineRec.promote s.clk.now ((s.cluster c).se.getD n EngineRec.init).held)
        (modAt n (EngineRec.retire cause) (s.cluster c).se) := by
  rw [retireEngine_eq cause hrole hspare]
  have hcluster (x : State) (h : x.clusters = (s.mEng c false n (EngineRec.retire cause)).clusters) (f : EngineRec → EngineRec) :
      ((x.mEng c false m f).cluster c).se = modAt m f (modAt n (EngineRec.retire cause) (s.cluster c).se) := by
    have hx : x.clusters.length = 16 := by simpa [h, State.mEng, State.mCluster, modAt] using hlen
    have hxc : x.cluster c = (s.mEng c false n (EngineRec.retire cause)).cluster c := by
      rw [State.cluster, h]
      rfl
    unfold State.mEng at hxc ⊢
    rw [State.cluster_mCluster hx, hxc, State.cluster_mCluster hlen]
    rfl
  refine hcluster _ ?_ _
  exact raiseDev_clusters _ _

end

theorem roles_ne {l : List EngineRec} {n m : Nat} (hrole : (l.getD n EngineRec.init).role = .active)
    (hspare : l.findIdx? (·.role == .spare) = some m) : m < l.length ∧ m ≠ n := by
  obtain ⟨hlt, hm, _⟩ := List.findIdx?_eq_some_iff_getElem.1 hspare
  refine ⟨hlt, fun e => ?_⟩
  subst e
  simp [List.getD, hlt] at hrole
  simp [hrole] at hm

/-- The tie-break's verdict stands for its segment, and its last one is the step's. -/
theorem decided_eq (now : Nat) (t : TieRec) (b : Prop) [Decidable b] (ok : Bool) (out : Bytes) :
    StepRun.decided now t (if b then some ok else none) out = fun r =>
      { r with phase := .running, tie := none, started := now, agreed := r.agreed ++ [(t.segment, out)],
               agreedOk := if b then some ok else r.agreedOk } := by
  funext r
  by_cases h : b <;> simp [StepRun.decided, h]

/-- Settles O23: with a verdict the spare's output stands and the loser is retired, and without one nothing is; the retired
engine's place is the spare's. -/
theorem miscomparesRetireAnEngine : Obligations.MiscomparesRetireAnEngine := by
  unfold Obligations.MiscomparesRetireAnEngine
  refine ⟨?_, ?_⟩
  · intro slot step s q st a b m out ok x hq hst ha hb hphase htie hfrozen hfirst hspare hdoomed
    have hany : (s.cluster q.cluster).se.any (·.role == .spare) = true := by
      obtain ⟨hlt, hm, _⟩ := List.findIdx?_eq_some_iff_getElem.1 hspare
      exact List.any_eq_true.2 ⟨_, List.getElem_mem hlt, hm⟩
    have hrun (res : TieResult) : exec (.tieBreakComplete slot step res) s = .next (match res with
        | .first out ok => tieWon slot step.toNat q st x b out ok s
        | .second out ok => tieWon slot step.toNat q st x a out ok s
        | .neither =>
          resumeTest q.cluster (failStep slot step.toNat st (St.engineFault, 1) (raiseDev .noMajority (s.mHealth fun h =>
            { h with noMajority := if h.noMajority = 0xFFFFFFFF then h.noMajority else h.noMajority + 1 })))) := by
      change execTieBreakComplete slot step res s = _
      simp only [execTieBreakComplete, hq, hst, ha, hb, htie, hphase, hfrozen, hfirst, hany, hdoomed]
      simp <;> rfl
    have hwon (loser : Nat) : ∃ u, u = occupy q.cluster false m slot step.toNat
        ((retireEngine q.cluster false loser .tieBreak (attribute_ q.cluster loser s)).mRun slot step.toNat fun r =>
          { r with phase := .running, tie := none, started := s.clk.now,
                   agreed := r.agreed ++ [(x.segment, out)],
                   agreedOk := if verifies st.op.toNat && x.segment + 1 = segments s q step.toNat st then some ok
                     else r.agreedOk }) ∧
        tieWon slot step.toNat q st x loser out ok s =
          if (u.cluster q.cluster).se.any (·.role == .spare) then u else endTies q.cluster u := by
      refine ⟨_, rfl, ?_⟩
      simp only [tieWon, hspare, decided_eq]
    refine ⟨fun res loser hres => ?_, hrun .neither⟩
    obtain ⟨u, hu, htie⟩ := hwon loser
    refine ⟨u, hu, ?_⟩
    rw [← htie, hrun]
    rcases hres with ⟨rfl, rfl⟩ | ⟨rfl, rfl⟩ <;> rfl
  · intro c n m cause s hlen hrole hn hspare
    obtain ⟨hm, hne⟩ := roles_ne hrole hspare
    have hse := retireEngine_se cause hlen hrole hspare
    dsimp only
    rw [hse, getD_modAt_ne hne.symm, getD_modAt_self hn, getD_modAt_self (by simpa [modAt] using hm)]
    refine ⟨rfl, rfl, rfl, ?_, ?_⟩
    · rw [retireEngine_eq cause hrole hspare]
      change (raiseDev .engineRetired _).fe.devFlags.getLsbD 19 = true
      rw [(raiseDev_dev _ _).1]
      simp [DevEvent.num]
    · rw [retireEngine_eq cause hrole hspare]
      change smGet 0 (raiseDev .engineRetired _).health.lifetime _ = _
      rw [raiseDev_health]
      exact smGet_set_of_ne_default (Nat.succ_ne_zero _) _ _

end Sys2Proof.Machine
end

section
/-! The commit of a peal without an effect of its own: one transaction (O28), of its own peal alone (O29). -/
namespace Sys2Proof.Machine

theorem State.peal_mPeal (p : PealSlot) (f : Peal → Peal) (s : State) : (s.mPeal p f).peal p = (s.peal p).map f := by
  unfold State.mPeal State.peal
  split
  next h => simp [h, smFind_insert]
  next h => simp [h]

theorem State.peal_mPeal_ne {p r : PealSlot} (h : r ≠ p) (f : Peal → Peal) (s : State) :
    (s.mPeal p f).peal r = s.peal r := by
  unfold State.mPeal State.peal
  split
  · exact smFind_insert_ne (fun e => h (BitVec.eq_of_toNat_eq e)) _ _
  · rfl

/-- The journal entries agree but for their flags. -/
def JEntry.Same (a b : JEntry) : Prop :=
  b.seq = a.seq ∧ b.tag = a.tag ∧ b.tenant = a.tenant ∧ b.pealId = a.pealId ∧ b.toll = a.toll

/-- What stays of a commit that has been taken: the count, the counters, the journal's entries but for their flags, and that
the peal stands committed; and no other peal is touched. -/
structure CommitKept (p : PealSlot) (s t : State) : Prop where
  count : t.clap.count = s.clap.count
  epoch : t.clap.epoch = s.clap.epoch
  counters : t.toll.counters = s.toll.counters
  journal : ∀ e ∈ s.clap.journal, ∃ e' ∈ t.clap.journal, e.Same e'
  own : ∀ q, s.peal p = some q → ∃ q', t.peal p = some q' ∧ q'.phase = q.phase ∧ q'.journalSeq = q.journalSeq ∧
    q'.committedAt = q.committedAt
  others : ∀ r, r ≠ p → t.peal r = s.peal r
  tenants : t.tenants = s.tenants
  tables : t.tables = s.tables

section
variable {p : PealSlot} {s t u : State}

theorem CommitKept.trans (h : CommitKept p s t) (k : CommitKept p t u) : CommitKept p s u where
  count := k.count.trans h.count
  epoch := k.epoch.trans h.epoch
  counters := k.counters.trans h.counters
  journal e he := by
    obtain ⟨e', he', hsame⟩ := h.journal e he
    obtain ⟨e'', he'', hsame'⟩ := k.journal e' he'
    obtain ⟨h1, h2, h3, h4, h5⟩ := hsame
    obtain ⟨k1, k2, k3, k4, k5⟩ := hsame'
    exact ⟨e'', he'', k1.trans h1, k2.trans h2, k3.trans h3, k4.trans h4, k5.trans h5⟩
  own q hq := by
    obtain ⟨q', hq', h1, h2, h3⟩ := h.own q hq
    obtain ⟨q'', hq'', k1, k2, k3⟩ := k.own q' hq'
    exact ⟨q'', hq'', k1.trans h1, k2.trans h2, k3.trans h3⟩
  others r hr := (k.others r hr).trans (h.others r hr)
  tenants := k.tenants.trans h.tenants
  tables := k.tables.trans h.tables

/-- A change of neither the journal, nor a counter, nor a peal. -/
theorem CommitKept.of_eq (hclap : t.clap = s.clap) (htoll : t.toll.counters = s.toll.counters)
    (hpeals : t.peals = s.peals) (htenants : t.tenants = s.tenants) (htables : t.tables = s.tables) : CommitKept p s t where
  count := by rw [hclap]
  epoch := by rw [hclap]
  counters := htoll
  journal e he := ⟨e, hclap ▸ he, rfl, rfl, rfl, rfl, rfl⟩
  own q hq := ⟨q, (congrArg (smFind p.toNat) hpeals).trans hq, rfl, rfl, rfl⟩
  others r _ := congrArg (smFind r.toNat) hpeals
  tenants := htenants
  tables := htables

theorem FeOnly.commitKept (h : FeOnly s t) : CommitKept p s t := by
  rw [h]
  exact .of_eq rfl rfl rfl rfl rfl

theorem setJournalFlag_commitKept (seq : Nat) (bits : BitVec 8) (s : State) :
    CommitKept p s (setJournalFlag seq bits s) where
  count := rfl
  epoch := rfl
  counters := rfl
  journal e he := by
    refine ⟨_, List.mem_map_of_mem he, ?_⟩
    split <;> exact ⟨rfl, rfl, rfl, rfl, rfl⟩
  own q hq := ⟨q, hq, rfl, rfl, rfl⟩
  others _ _ := rfl
  tenants := rfl
  tables := rfl

theorem noteSuppressed_commitKept (r : PealSlot) (s : State) : CommitKept p s (noteSuppressed r s) := by
  unfold noteSuppressed
  split
  · exact .of_eq rfl rfl rfl rfl rfl
  · split
    · exact (setJournalFlag_commitKept _ _ s).trans (FeOnly.commitKept rfl)
    · exact .of_eq rfl rfl rfl rfl rfl

/-- A change of the peal's own record that leaves its commit. -/
theorem State.mPeal_commitKept (f : Peal → Peal) (hf : ∀ q, (f q).phase = q.phase ∧ (f q).journalSeq = q.journalSeq ∧
    (f q).committedAt = q.committedAt) (s : State) : CommitKept p s (s.mPeal p f) where
  count := by unfold State.mPeal; split <;> rfl
  epoch := by unfold State.mPeal; split <;> rfl
  counters := by unfold State.mPeal; split <;> rfl
  journal e he := ⟨e, by unfold State.mPeal; split <;> exact he, rfl, rfl, rfl, rfl, rfl⟩
  own q hq := ⟨f q, by rw [State.peal_mPeal, hq]; rfl, hf q⟩
  others r hr := State.peal_mPeal_ne hr f s
  tenants := by unfold State.mPeal; split <;> rfl
  tables := by unfold State.mPeal; split <;> rfl

theorem unreserve_commitKept (q : Peal) (c : CqNo) (s : State) : CommitKept p s (unreserve q c s) := by
  unfold unreserve
  split <;> exact .of_eq rfl rfl rfl rfl rfl

theorem suppressBroken_commitKept (s : State) : CommitKept p s (suppressBroken p s) := by
  unfold suppressBroken
  split
  · exact .of_eq rfl rfl rfl rfl rfl
  · split
    · exact .of_eq rfl rfl rfl rfl rfl
    · extract_lets s1 s2
      have hs1 : CommitKept p s s1 :=
        (State.mPeal_commitKept (fun q => { q with suppressed := true, cplHeld := false })
          (fun q => ⟨rfl, rfl, rfl⟩) s).trans (noteSuppressed_commitKept _ _)
      have hs2 : CommitKept p s s2 := by
        unfold s2
        split
        · exact hs1.trans (unreserve_commitKept _ _ _)
        · exact hs1
      exact hs2.trans (FeOnly.commitKept rfl)

theorem startDelta_commitKept (final atLeastOne : Bool) (s : State) : CommitKept p s (startDelta final atLeastOne s) := by
  unfold startDelta
  dsimp only
  split <;> exact .of_eq rfl rfl rfl rfl rfl

theorem deltaIfDue_commitKept (s : State) : CommitKept p s (deltaIfDue s) := by
  unfold deltaIfDue
  split
  · exact startDelta_commitKept _ _ s
  · exact .of_eq rfl rfl rfl rfl rfl

theorem replicate_commitKept (e : JEntry) (l : List LedgerEntry) (s : State) : CommitKept p s (replicate e l s) := by
  unfold replicate xlSend
  (repeat' split) <;> exact .of_eq rfl rfl rfl rfl rfl

end

/-! The charges touch the key store alone. -/

/-- Nothing but the key store differs. -/
abbrev KsOnly (s t : State) : Prop := t = { s with ks := t.ks }

section
variable {s t u : State}

theorem KsOnly.trans (h : KsOnly s t) (k : KsOnly t u) : KsOnly s u := by
  rw [KsOnly, h] at k
  exact k

theorem foldl_ksOnly {α : Type} (f : State → α → State) (h : ∀ s a, KsOnly s (f s a)) (l : List α) (s : State) :
    KsOnly s (l.foldl f s) := by
  induction l generalizing s with
  | nil => rfl
  | cons a l ih => exact (h s a).trans (ih _)

theorem State.mRec_ksOnly (k : Nat) (f : KeyRec → KeyRec) (s : State) : KsOnly s (s.mRec k f) := by
  unfold State.mRec
  split <;> rfl

theorem State.mSpace_ksOnly (k : Nat) (f : CounterSpace → CounterSpace) (s : State) : KsOnly s (s.mSpace k f) := by
  unfold State.mSpace
  split <;> rfl

theorem chargeUse_ksOnly (k : Nat) (s : State) : KsOnly s (chargeUse k s) := by
  unfold chargeUse
  split
  · rfl
  · extract_lets s1
    have hs1 : KsOnly s s1 := State.mRec_ksOnly _ _ s
    split
    · exact hs1.trans rfl
    · exact hs1

theorem chargeAll_ksOnly (q : Peal) (s : State) : KsOnly s (chargeAll q s) := by
  refine KsOnly.trans (foldl_ksOnly _ (fun s k => ?_) q.keys s) (foldl_ksOnly _ (fun s r => ?_) q.steps _)
  · split
    · exact chargeUse_ksOnly _ s
    · rfl
  · split
    · exact (State.mSpace_ksOnly _ _ s).trans rfl
    · rfl

theorem returnHolds_ksOnly (q : Peal) (s : State) : KsOnly s (returnHolds q s) := by
  refine KsOnly.trans (foldl_ksOnly _ (fun s k => ?_) q.keys s) (foldl_ksOnly _ (fun s r => ?_) q.steps _)
  · split
    · exact State.mRec_ksOnly _ _ s
    · rfl
  · split
    · exact State.mSpace_ksOnly _ _ s
    · rfl

end

/-! The commit itself. -/

section
variable {p : PealSlot} {s : State} {q : Peal}

/-- The instant of the commit: the entry is in the journal, the counter is charged, and the peal stands committed. -/
def committed (p : PealSlot) (q : Peal) (s : State) : State :=
  (chargeAll q (tollIncrement q.fn q.toll ((noteLate (q.journalEntry s (BitVec.ofNat 64 (nextSeq s).toNat))
    (writeJournal (q.journalEntry s) s)).mToll fun k =>
      { k with lastOwn := BitVec.ofNat 64 (nextSeq s).toNat }))).mPeal p (Peal.atCommit s.clk.now (some (nextSeq s).toNat))

theorem commitTail_commitKept (b : Prop) [Decidable b] {x y : State} (h : CommitKept p x y) :
    CommitKept p x (deltaIfDue (if b then noteSuppressed p y else suppressBroken p y)) := by
  refine .trans ?_ (deltaIfDue_commitKept _)
  split
  · exact h.trans (noteSuppressed_commitKept _ _)
  · exact h.trans (suppressBroken_commitKept _)

/-- After that instant a commit without an effect leaves what `CommitKept` names. -/
theorem commitPeal_commitKept (hq : s.peal p = some q) (hro : q.readOnly = false) (heff : q.effect = .none) :
    CommitKept p (committed p q s) (commitPeal p none s) := by
  unfold commitPeal
  simp only [hq, hro, heff, applyEffect, storedBefore, noteStored, storeTenant, effectTenant, List.foldl_nil,
    Bool.false_eq_true, if_false]
  exact commitTail_commitKept _ (replicate_commitKept _ _ _)

theorem mem_lastN {α : Type} {n : Nat} {l : List α} {a : α} (h : 0 < n) : a ∈ lastN n (l ++ [a]) := by
  cases n with
  | zero => cases h
  | succ n => simp [lastN]

theorem noteLate_clap (e : JEntry) (s : State) :
    (noteLate e s).clap.journal = s.clap.journal ∧ (noteLate e s).clap.count = s.clap.count ∧
      (noteLate e s).clap.epoch = s.clap.epoch ∧ (noteLate e s).toll = s.toll ∧ (noteLate e s).peals = s.peals := by
  unfold noteLate
  split <;> exact ⟨rfl, rfl, rfl, rfl, rfl⟩

/-- The bank takes the entry, and with a count that does not wrap the next sequence of the same epoch. -/
theorem writeJournal_eq (f : BitVec 64 → JEntry) (h : s.clap.count.toNat + 1 < 2 ^ 32) :
    writeJournal f s = s.mClap (Clapper.put (f (nextSeq s)) false) := by
  have hwrap : (s.clap.count.toNat == 0xFFFFFFFF) = false := by
    simp only [beq_eq_false_iff_ne]
    omega
  simp [writeJournal, hwrap]

theorem tollIncrement_frame (fn : Fn) (cls : BitVec 8) (s : State) :
    tollIncrement fn cls s = { s with toll := (tollIncrement fn cls s).toll } := by
  unfold tollIncrement
  split <;> rfl

theorem satInc64_ne_zero (c : BitVec 64) : satInc64 c ≠ 0 := by
  unfold satInc64
  split <;> bv_omega

theorem tollIncrement_counters {cls : BitVec 8} (fn : Fn) (h : cls.toNat < 16) (s : State) :
    smGet 0 (tollIncrement fn cls s).toll.counters (tollIndex fn cls) =
      satInc64 (smGet 0 s.toll.counters (tollIndex fn cls)) := by
  rw [tollIncrement, if_neg (by omega)]
  exact smGet_set_of_ne_default (satInc64_ne_zero _) _ _

/-- What the instant of the commit has done. -/
theorem committed_spec (hq : s.peal p = some q) (hcount : s.clap.count.toNat + 1 < 2 ^ 32) :
    q.journalEntry s (nextSeq s) ∈ (committed p q s).clap.journal ∧
      (committed p q s).clap.count = s.clap.count + 1 ∧ (committed p q s).clap.epoch = s.clap.epoch ∧
      (q.toll.toNat < 16 → smGet 0 (committed p q s).toll.counters (tollIndex q.fn q.toll) =
        satInc64 (smGet 0 s.toll.counters (tollIndex q.fn q.toll))) ∧
      (committed p q s).peal p = some (q.atCommit s.clk.now (some (nextSeq s).toNat)) := by
  obtain ⟨hjournal, hcnt, hepoch, htoll, hpeals⟩ :=
    noteLate_clap (q.journalEntry s (BitVec.ofNat 64 (nextSeq s).toNat)) (writeJournal (q.journalEntry s) s)
  unfold committed
  generalize noteLate _ _ = x at hjournal hcnt hepoch htoll hpeals ⊢
  rw [writeJournal_eq _ hcount] at hjournal hcnt hepoch htoll hpeals
  have hcharge (f : Peal → Peal) (y : State) : ((chargeAll q y).mPeal p f).clap = y.clap ∧
      ((chargeAll q y).mPeal p f).toll = y.toll ∧ ((chargeAll q y).mPeal p f).peal p = (y.peal p).map f := by
    rw [State.peal_mPeal, chargeAll_ksOnly q y]
    refine ⟨?_, ?_, rfl⟩ <;>
    · unfold State.mPeal
      split <;> rfl
  obtain ⟨hcclap, hctoll, hcpeal⟩ := hcharge (Peal.atCommit s.clk.now (some (nextSeq s).toNat))
    (tollIncrement q.fn q.toll (x.mToll fun k => { k with lastOwn := BitVec.ofNat 64 (nextSeq s).toNat }))
  rw [hcclap, hctoll, hcpeal]
  refine ⟨?_, ?_, ?_, fun htoll16 => ?_, ?_⟩
  · rw [tollIncrement_frame]
    change _ ∈ x.clap.journal
    rw [hjournal]
    exact mem_lastN (by decide)
  · rw [tollIncrement_frame]
    exact hcnt
  · rw [tollIncrement_frame]
    exact hepoch
  · rw [tollIncrement_counters q.fn htoll16]
    change satInc64 (smGet 0 x.toll.counters _) = _
    rw [htoll]
    rfl
  · rw [tollIncrement_frame]
    change (smFind p.toNat x.peals).map _ = _
    rw [hpeals]
    change (s.peal p).map _ = _
    rw [hq]
    rfl

/-- It takes the peal's own record and no other peal's, and no tenant's. -/
theorem committed_others (r : PealSlot) (h : r ≠ p) :
    (committed p q s).peal r = s.peal r ∧ (committed p q s).tenants = s.tenants ∧
      (committed p q s).tables = s.tables := by
  have hwork : PealWork s (writeJournal (q.journalEntry s) s) := by
    unfold writeJournal
    dsimp only
    split <;> rfl
  have hpeals : (writeJournal (q.journalEntry s) s).peals = s.peals := by
    unfold writeJournal
    dsimp only
    split <;> rfl
  unfold committed
  rw [State.peal_mPeal_ne h, State.mPeal_pealWork, chargeAll_ksOnly, tollIncrement_frame]
  unfold noteLate
  split
  · refine ⟨congrArg (smFind r.toNat) hpeals, ?_, ?_⟩ <;>
    · rw [hwork]
      rfl
  · refine ⟨congrArg (smFind r.toNat) hpeals, ?_, ?_⟩ <;>
    · rw [hwork]
      rfl

theorem commitPeal_keeps_of_none (hq : s.peal p = some q) (heff : q.effect = .none) : Keeps s (commitPeal p none s) := by
  unfold commitPeal
  simp only [hq, heff, applyEffect, storedBefore, noteStored, storeTenant, effectTenant, List.foldl_nil]
  (repeat' split) <;> simp [Keeps]

end

/-- Settles O28: all of it happens at the instant of the commit, and what follows it in the same step leaves it. -/
theorem commitIsOneTransaction : Obligations.CommitIsOneTransaction := by
  unfold Obligations.CommitIsOneTransaction
  intro p s q hq hro heff hcount t
  have hkept : CommitKept p (committed p q s) t := commitPeal_commitKept hq hro heff
  obtain ⟨hentry, hcnt, hepoch, hcounter, hpeal⟩ := committed_spec hq hcount
  refine ⟨?_, hkept.count.trans hcnt, hkept.epoch.trans hepoch, fun htoll => ?_, ?_⟩
  · obtain ⟨e, he, hseq, htag, htenant, hid, htoll⟩ := hkept.journal _ hentry
    exact ⟨e, he, hseq, htag, htenant, hid, htoll⟩
  · rw [hkept.counters]
    exact hcounter htoll
  · obtain ⟨q', hq', hphase, hseq, hat⟩ := hkept.own _ hpeal
    exact ⟨q', hq', hphase, hseq, hat⟩

/-- Settles O29: the charges are the key store's, and the records written are the peal's own. -/
theorem commitChangesNoOtherPeal : Obligations.CommitChangesNoOtherPeal := by
  unfold Obligations.CommitChangesNoOtherPeal
  intro p r s q hq heff hne t
  have hkeeps : Keeps s t := commitPeal_keeps_of_none hq heff
  have hothers : t.peal r = s.peal r ∧ t.tenants = s.tenants ∧ t.tables = s.tables := by
    cases hro : q.readOnly with
    | true =>
      have ht : t = (returnHolds q s).mPeal p (Peal.atCommit s.clk.now none) := by
        simp only [t, commitPeal, hq, hro, heff, applyEffect, if_true]
      rw [ht, State.peal_mPeal_ne hne, State.mPeal_pealWork, returnHolds_ksOnly]
      exact ⟨rfl, rfl, rfl⟩
    | false =>
      have hkept : CommitKept p (committed p q s) t := commitPeal_commitKept hq hro heff
      obtain ⟨hpeal, htenants, htables⟩ := committed_others (q := q) (s := s) r hne
      exact ⟨(hkept.others r hne).trans hpeal, hkept.tenants.trans htenants, hkept.tables.trans htables⟩
  refine ⟨hothers.1, hothers.2.1, hothers.2.2, fun a => ?_, hkeeps.2.2.1, hkeeps.2.2.2.1⟩
  rw [State.storeByte, State.storeByte, hkeeps.2.2.2.2.2]

end Sys2Proof.Machine
end

section
/-! The store's commands: what their requesters' work leaves open of the power-up sequence, and that all but the root records'
keeps the store's array (O34). -/
namespace Sys2Proof.Machine

section
variable {s t u : State}

theorem PealWork.await (h : PealWork s t) : KeepsAwait s t := by
  rw [KeepsAwait, h]

theorem foldl_await {α : Type} (f : State → α → State) (h : ∀ s a, KeepsAwait s (f s a)) (l : List α) (s : State) :
    KeepsAwait s (l.foldl f s) := by
  induction l generalizing s with
  | nil => rfl
  | cons a l ih => exact (ih _).trans (h s a)

theorem nvQueue_await (cls : Nat) (w : NvWork) (s : State) : KeepsAwait s (nvQueue cls w s) := rfl

theorem storeDone_await (p : Option PealSlot) (s : State) : KeepsAwait s (storeDone p s) := by
  unfold storeDone
  split
  · exact (State.mPeal_pealWork _ _ s).await
  · rfl

theorem startDelta_await (final atLeastOne : Bool) (s : State) : KeepsAwait s (startDelta final atLeastOne s) := by
  unfold startDelta
  dsimp only
  split <;> rfl

theorem writeBase_await (copyA : Bool) (c : BaseCopy) (s : State) : KeepsAwait s (writeBase copyA c s) :=
  foldl_await _ (fun s _ => nvQueue_await _ _ s) _ s

theorem startBase_await (s : State) : KeepsAwait s (startBase s) :=
  (writeBase_await _ _ _).trans (foldl_await _ (fun s _ => nvQueue_await _ _ s) _ s)

theorem baseAgain_await (copyA : Bool) (c : BaseCopy) (s : State) : KeepsAwait s (baseAgain copyA c s) := by
  unfold baseAgain
  split <;> simp [KeepsAwait, dropBase, startBase_await, writeBase_await]

theorem baseIfDue_await (s : State) : KeepsAwait s (baseIfDue s) := by
  unfold baseIfDue
  dsimp only
  split
  · exact startBase_await s
  · rfl

theorem clearTollWait_await (s : State) : KeepsAwait s (clearTollWait s) := by
  refine foldl_await _ (fun s c => ?_) _ _
  unfold raiseOrWait
  dsimp only
  (repeat' split)
  · rfl
  · exact startDelta_await _ _ _
  · rfl

theorem serveStatements_await (seq : BitVec 64) (s : State) : KeepsAwait s (serveStatements seq s) := by
  unfold serveStatements
  extract_lets ready s1
  have hs1 : KeepsAwait s s1 := foldl_await _ (fun s (w : PealSlot × BitVec 64) => storeDone_await (some w.1) s) _ _
  split
  · exact hs1
  · exact (startDelta_await _ _ _).trans hs1

theorem journalSwitch_await (s : State) : KeepsAwait s (journalSwitch s) := by
  unfold journalSwitch
  (repeat' split)
  · rfl
  · rfl
  · exact startDelta_await _ _ _
  · rfl
  · rfl

theorem tollClear_await (s : State) : KeepsAwait s (tollClear s) := by
  unfold tollClear
  (repeat' split)
  · exact startDelta_await _ _ _
  · rfl
  · rfl

theorem deltaIfDue_await (s : State) : KeepsAwait s (deltaIfDue s) := by
  unfold deltaIfDue
  split
  · exact startDelta_await _ _ s
  · rfl

theorem deltaWritten_await (r : LogRec) (s : State) : KeepsAwait s (deltaWritten r s) := by
  unfold deltaWritten
  extract_lets s1 s2 s3
  have hs2 : KeepsAwait s s2 := by
    unfold s2
    split <;> rfl
  have hs3 : KeepsAwait s2 s3 := by
    unfold s3 whenDo
    split <;> rfl
  refine (tollClear_await _).trans ((deltaIfDue_await _).trans ((journalSwitch_await _).trans ?_))
  exact (serveStatements_await _ _).trans ((baseIfDue_await _).trans ((clearTollWait_await _).trans (hs3.trans hs2)))

theorem cellWritten_await (k h : Nat) (s : State) : KeepsAwait s (cellWritten k h s) := by
  have hspace (f : CounterSpace → CounterSpace) (s : State) : KeepsAwait s (s.mSpace k f) := by
    rw [KeepsAwait, State.mSpace_ksOnly]
  have hsend (ty : BitVec 8) (l : Bytes) (s : State) : KeepsAwait s (xlSendAcked ty l s).2 := by
    unfold xlSendAcked xlSend
    dsimp only
    (repeat' split) <;> rfl
  unfold cellWritten
  dsimp only
  split
  · exact hspace _ _
  · exact (hsend _ _ _).trans (hspace _ _)

theorem partnerCellWritten_await (k h : Nat) (f : BitVec 64) (s : State) : KeepsAwait s (partnerCellWritten k h f s) := by
  unfold partnerCellWritten
  dsimp only
  rw [KeepsAwait, State.mPair_boot, State.mRec_ksOnly, State.mSpace_ksOnly]
  rfl

theorem lockRecorded_await (s : State) : KeepsAwait s (lockRecorded s) := by
  unfold lockRecorded
  split
  · rfl
  · split <;> rfl

theorem responseWritten_await (x : BitVec 44) (y : BitVec 4) (s : State) : KeepsAwait s (responseWritten x y s) := by
  simp [KeepsAwait, responseWritten, latchEntry]

theorem rootCopyWritten_await (lost : Bool) (s : State) : KeepsAwait s (rootCopyWritten lost s) := by
  unfold rootCopyWritten
  split
  · rfl
  · simp [KeepsAwait, placeRecord]

theorem rootCopyEnds_await (second : Bool) (s : State) : KeepsAwait s (rootCopyEnds second s) := by
  unfold rootCopyEnds
  (repeat' split) <;> simp [KeepsAwait, nvQueue_await]

/-- What a store command was for leaves what the power-up sequence waits for, whether it ended well or not. -/
theorem workDone_await (w : NvWork) (s : State) : KeepsAwait s (workDone w s) := by
  cases w with
  | deltaRec r =>
    dsimp only [workDone]
    split
    · exact deltaWritten_await r s
    · rfl
  | groupRec r =>
    dsimp only [workDone]
    split
    · exact congrArg Boot.awaitNoise (State.mClap_boot _ _)
    · rfl
  | baseRec copyA c i =>
    dsimp only [workDone, pruneLog]
    split
    · exact congrArg Boot.awaitNoise (State.mToll_boot _ _)
    · simp [KeepsAwait]
  | sealCount p => simp [KeepsAwait, workDone, storeDone_await, raiseDev_await]
  | cell k h => exact cellWritten_await k h s
  | partnerCell k h f => exact partnerCellWritten_await k h f s
  | lockRecord => simp [KeepsAwait, workDone, lockRecorded_await, State.noteWritten]
  | rootCopy second => simp [KeepsAwait, workDone, rootCopyEnds_await, rootCopyWritten_await]
  | response t p => simp [KeepsAwait, workDone, responseWritten_await, State.noteWritten]
  | closing bs i n =>
    dsimp only [workDone]
    split
    · exact congrArg Boot.awaitNoise (State.mToll_boot _ _)
    · rfl
  | tollState p => exact storeDone_await p s
  | tollImage p _ => exact storeDone_await p s
  | stewardRecord p _ => exact storeDone_await (some p) s
  | sealEntry p _ e => simp [KeepsAwait, workDone, storeDone_await]
  | cellRewrite k p => simp [KeepsAwait, workDone, storeDone_await]
  | revocation k p => simp [KeepsAwait, workDone, storeDone_await, revocationEnds, nvQueue_await]
  | tollMark => simp [KeepsAwait, workDone]
  | powerFail => simp [KeepsAwait, workDone]
  | setHome | ledgerCheckpoint | vtimeCheckpoint | epoch | wipe => rfl
  | lifeCycle => simp [KeepsAwait, workDone]
  | tamperLog => simp [KeepsAwait, workDone, copyLatch]
  | recoveryKey => simp [KeepsAwait, workDone, State.noteWritten]
  | roleMap => simp [KeepsAwait, workDone, State.noteWritten]
  | retirement => simp [KeepsAwait, workDone, State.noteWritten]

theorem workFailed_await (w : NvWork) (s : State) : KeepsAwait s (workFailed w s) := by
  have hspace (k : Nat) (f : CounterSpace → CounterSpace) (s : State) : KeepsAwait s (s.mSpace k f) := by
    rw [KeepsAwait, State.mSpace_ksOnly]
  have hexhaust (k : Nat) (s : State) : KeepsAwait s (exhaustCell k s) := rfl
  cases w with
  | cell k h => simp [KeepsAwait, workFailed, hexhaust, hspace]
  | partnerCell k h f => simp [KeepsAwait, workFailed, hexhaust]
  | cellRewrite k p => simp [KeepsAwait, workFailed, storeDone_await, hexhaust]
  | deltaRec r =>
    dsimp only [workFailed]
    split
    · simp [KeepsAwait, startDelta_await, raiseDev_await]
    · rfl
  | baseRec copyA c i => simp [KeepsAwait, workFailed, baseAgain_await, raiseDev_await]
  | ledgerCheckpoint => simp [KeepsAwait, workFailed, startBase_await, raiseDev_await, dropBase]
  | groupRec | tollState | tollMark | sealCount | sealEntry | tollImage | closing =>
    simp [KeepsAwait, workFailed, nvQueue_await, raiseDev_await]
  | powerFail last l => exact workDone_await (.powerFail last l) s
  | setHome | epoch | vtimeCheckpoint | wipe => rfl
  | revocation k p => exact workDone_await (.revocation k p) s
  | stewardRecord p i => exact (storeDone_await _ _).trans (State.mPeal_pealWork _ _ s).await
  | lifeCycle e => exact workDone_await (.lifeCycle e) s
  | tamperLog | recoveryKey | roleMap | retirement => simp [KeepsAwait, workFailed, State.noteLost, copyLatch]
  | lockRecord =>
    dsimp only [workFailed]
    split <;> simp [KeepsAwait, State.noteLost, lockRecorded_await]
  | response x y => simp [KeepsAwait, workFailed, State.noteLost, responseWritten_await]
  | rootCopy second => simp [KeepsAwait, workFailed, rootCopyEnds_await, rootCopyWritten_await]

/-- Of the requesters' work only a root record's changes the array, when its writer comes to write the other copy. -/
theorem workDone_keeps {w : NvWork} (h : ∀ b, w ≠ .rootCopy b) (s : State) : Keeps s (workDone w s) := by
  cases w with
  | rootCopy b => exact absurd rfl (h b)
  | deltaRec | groupRec | baseRec | closing => dsimp only [workDone]; (repeat' split) <;> simp [Keeps]
  | _ => simp [Keeps, workDone]

theorem workFailed_keeps {w : NvWork} (h : ∀ b, w ≠ .rootCopy b) (s : State) : Keeps s (workFailed w s) := by
  cases w with
  | rootCopy b => exact absurd rfl (h b)
  | powerFail last l => exact workDone_keeps (fun b => by simp) s
  | lifeCycle e => simp [Keeps, workFailed, workDone]
  | deltaRec | lockRecord => dsimp only [workFailed]; split <;> simp [Keeps]
  | _ => simp [Keeps, workFailed]

theorem drawFor_await (u : DrawUser) (i n : Nat) (s : State) : KeepsAwait s (drawFor u i n s).2 := by
  have hafter : KeepsAwait s (drawAfter u i n false s).2 := by
    unfold drawAfter
    split
    · rfl
    · exact draw_await _ _ _ s
  have hexpire (h : HeldDraw) (t : State) : KeepsAwait t (expireHold h t) := by
    unfold expireHold
    dsimp only
    split <;> simp [KeepsAwait, raiseFn_await, raiseDev_await, unholdFor]
  unfold drawFor
  generalize drawAfter u i n false s = x at hafter ⊢
  split
  next s1 =>
    split
    · split
      · exact (hexpire _ s1).trans hafter
      · exact hafter
    · exact (congrArg Boot.awaitNoise (State.mRng_boot _ _)).trans hafter
  next s1 _ => exact (congrArg Boot.awaitNoise (State.mRng_boot _ _)).trans hafter

theorem writeClosing_await (seq : Nat) (sig : Option Bytes) (s : State) : KeepsAwait s (writeClosing seq sig s) := by
  have hlog (k : BitVec 8) (n : BitVec 32) (x : Bytes) (s : State) : KeepsAwait s (sealLogAdd none k n x s) := rfl
  unfold writeClosing
  extract_lets bs n s1
  refine (foldl_await _ (fun s _ => nvQueue_await _ _ s) _ _).trans ?_
  simp [s1, hlog, useStatement]

theorem closeGoesOn_await (s : State) : KeepsAwait s (closeGoesOn s) := by
  have hmark : KeepsAwait s (markReady (stmtSeq s) s).2 := by
    unfold markReady
    (repeat' split) <;> rfl
  unfold closeGoesOn
  extract_lets seq
  split
  · rfl
  · generalize hx : markReady seq s = x at hmark ⊢
    split
    · exact hmark
    next s1 =>
      split
      · exact (writeClosing_await _ _ _).trans hmark
      · have hdraw := drawFor_await .closing (instI 3) signDraw s1
        generalize drawFor .closing (instI 3) signDraw s1 = y at hdraw ⊢
        split
        · exact (writeClosing_await _ _ _).trans (hdraw.trans hmark)
        · exact hdraw.trans hmark
        · exact (writeClosing_await _ _ _).trans (hdraw.trans hmark)

theorem closed_await (s : State) : KeepsAwait s (closed s) := by
  unfold closed lcWrite
  (repeat' split) <;> rfl

/-- What follows the end of a store command for neither a life-cycle entry nor a root record, with no power-up sequence
waiting. -/
theorem afterStore_keeps_of_ne {w : NvWork} (hlc : ∀ e, w ≠ .lifeCycle e) (s : State) (h : s.boot.awaitNoise = none) :
    Keeps s (afterStore w s) := by
  unfold afterStore
  split
  next e => exact absurd rfl (hlc e)
  next =>
    have hclosed : Keeps s (closed (closeGoesOn s)) := (closeGoesOn_keeps s).trans (closed_keeps _)
    exact hclosed.trans (bootGoesOn_keeps_of_none _ (((closed_await _).trans (closeGoesOn_await s)).trans h))

end

theorem remap_await (p : Nat) (s : State) : KeepsAwait s (remap p s) := by
  unfold remap whenDo
  dsimp only
  split <;> simp [KeepsAwait, raiseDev_await]

theorem loseWrite_await (x : NvCmd) (s : State) : KeepsAwait s (loseWrite x s) := by
  unfold loseWrite
  split
  · rfl
  · rfl
  · rfl
  · extract_lets w
    split
    all_goals split <;> rfl

theorem raiseDev_nv (e : DevEvent) (s : State) : (raiseDev e s).nv = s.nv := by
  rw [raiseDev_feOnly e s]

/-- A write that fails is counted, and its words are lost until the next reset. -/
theorem failedWrite_keeps (c : NvCmd) (u : State) :
    Keeps u (loseWrite c (raiseDev .nvWriteFail (u.mNv fun n => { n with
      writeFails := if n.writeFails = 0xFFFFFFFF then n.writeFails else n.writeFails + 1 }))) ∧
    KeepsAwait u (loseWrite c (raiseDev .nvWriteFail (u.mNv fun n => { n with
      writeFails := if n.writeFails = 0xFFFFFFFF then n.writeFails else n.writeFails + 1 }))) := by
  have hcount : Keeps u (u.mNv fun n => { n with
      writeFails := if n.writeFails = 0xFFFFFFFF then n.writeFails else n.writeFails + 1 }) :=
    ⟨rfl, rfl, rfl, rfl, rfl, rfl⟩
  exact ⟨hcount.trans ((raiseDev_keeps _ _).trans (loseWrite_keeps _ _)),
    (loseWrite_await _ _).trans (raiseDev_await _ _)⟩

theorem latchEntry_table (n : TamperEntry) (s : State) :
    (latchEntry n s).tmp.response = s.tmp.response ∧ (latchEntry n s).tmp.polarity = s.tmp.polarity := by
  simp only [latchEntry, State.mTmp_tmp]
  (repeat' split) <;> exact ⟨rfl, rfl⟩

/-- Settles O34: the end of a store command by its branches; and outside a life-cycle entry and a root record nothing but its
own words changes in the array. -/
theorem storeCommandsAndTimers : Obligations.StoreCommandsAndTimers := by
  unfold Obligations.StoreCommandsAndTimers
  refine ⟨?_, ?_, ?_, ?_⟩
  · intro s c res hc hheld hgood hres addr bs u hwrites hu
    obtain ⟨hdone, hremapped, hspare⟩ := hres
    have hrun : exec (.nvCommandComplete res) s = .next (afterStore c.work (nextCommand (
        if res = .noSpare || s.nv.spares.toNat < (remapPages c res s).length then
          workFailed c.work (loseWrite c (raiseDev .nvWriteFail (u.mNv fun n => { n with
            writeFails := if n.writeFails = 0xFFFFFFFF then n.writeFails else n.writeFails + 1 })))
        else workDone c.work ((remapPages c res s).foldl (fun s p => remap p s) (u.mNv (·.put addr bs)))))) := by
      have hbad : ((res == .remapped && s.nv.spares = 0) || (res == .noSpare && s.nv.spares ≠ 0) ||
          (c.cls == 1 && res ≠ .done)) = false := by
        cases res <;> simp_all
      change execNvCommandComplete res s = _
      simp only [execNvCommandComplete, hc, hheld, hgood, hwrites, hbad, hu]
      rfl
    refine ⟨fun hne hlen => ?_, fun hfew => ?_, fun t ht hlc hroot hawait => ?_⟩
    · rw [hrun, if_neg (by simp [hne]; omega)]
    · rw [hrun, if_pos (by simpa using hfew)]
    · have hu0 : Keeps s u ∧ KeepsAwait s u := by
        rw [hu]
        exact ⟨⟨rfl, rfl, rfl, rfl, rfl, rfl⟩, rfl⟩
      have hend (x y : State) (hxy : Keeps x y) (hx : KeepsAwait s x) (hy : KeepsAwait x y) :
          Keeps x (afterStore c.work (nextCommand y)) :=
        (hxy.trans (nextCommand_keeps y)).trans (afterStore_keeps_of_ne hlc _ (((rfl.trans hy).trans hx).trans hawait))
      rw [hrun] at ht
      injection ht with ht
      split at ht
      · have hlost := failedWrite_keeps c u
        have hall := (hu0.1.trans hlost.1).trans
          (hend _ _ (workFailed_keeps hroot _) (hlost.2.trans hu0.2) (workFailed_await _ _))
        rw [ht] at hall
        exact ⟨hall.2.2.1, hall.2.2.2.1, fun a _ => by rw [State.storeByte, State.storeByte, hall.2.2.2.2.2]⟩
      · have hput : (u.mNv (·.put addr bs)).fuses = s.fuses ∧ (u.mNv (·.put addr bs)).mode = s.mode ∧
            (u.mNv (·.put addr bs)).nv.array = storePut addr bs s.nv.array := by
          rw [hu]
          exact ⟨rfl, rfl, rfl⟩
        have hremap := foldl_keeps (fun s p => remap p s) (fun s p => remap_keeps p s) (remapPages c res s)
          (u.mNv (·.put addr bs))
        have hremapAwait : KeepsAwait s ((remapPages c res s).foldl (fun s p => remap p s) (u.mNv (·.put addr bs))) :=
          (foldl_await _ (fun s p => remap_await p s) _ _).trans hu0.2
        have hall := hremap.trans (hend _ _ (workDone_keeps hroot _) hremapAwait (workDone_await _ _))
        rw [ht] at hall
        refine ⟨hall.2.2.1.trans hput.1, hall.2.2.2.1.trans hput.2.1, fun a ha => ?_⟩
        rw [State.storeByte, State.storeByte, hall.2.2.2.2.2, hput.2.2]
        exact storePut_outside _ ha
  · intro u p addr bs
    have hnv : (remap p u).nv = { u.nv with
        spares := u.nv.spares - 1, remapped := u.nv.remapped + 1, wear := smInsert p 1 u.nv.wear } := by
      unfold remap whenDo
      dsimp only
      split <;> simp [raiseDev_nv]
    rw [hnv]
    exact ⟨rfl, rfl, rfl, rfl, fun hwf i hi => storePut_inside hwf hi⟩
  · intro u c k h v x y
    refine ⟨fun i e he hk => ?_, (loseWrite_keeps c u).2.2.2.2.2, rfl, rfl, rfl, rfl, ?_, fun hun => ?_⟩
    · obtain ⟨e', _, he'⟩ := List.mem_map.1 he
      split at he'
      · obtain ⟨_, rfl⟩ := Prod.mk.inj he'
        rfl
      next hne => exact absurd (he' ▸ hk) hne
    · exact latchEntry_table _ _
    · have hnv : ((workFailed (.response x y) u).nv.unstored) = [.response u.tmp.response u.tmp.polarity] := by
        change u.nv.unstored ++ _ = _
        rw [hun]
        rfl
      simp only [restoreUnstored, hnv, List.foldr_cons, List.foldr_nil, Unstored.restore]
      exact ⟨rfl, rfl⟩
  · intro s
    refine ⟨fun hgap => ?_, fun hdirty hjournal htime hpf hmain => ?_, fun hmain hwanted hjournal => ?_, fun hmain htime => ?_⟩
    · change execStewardCommandGapExpire s = _
      rw [execStewardCommandGapExpire, if_pos hgap]
      rfl
    · have hcount : dirtyCount s ≠ 0 := by
        unfold dirtyCount
        rcases hdirty with h | ⟨e, he, hd⟩
        · have := List.length_pos_iff.2 h
          omega
        · have := List.length_pos_of_mem (List.mem_filter (p := fun e => e.2.dirty).2 ⟨he, hd⟩)
          omega
      change execTollDeltaRecordTimer s = _
      rw [execTollDeltaRecordTimer, if_neg (by simp [hcount, hjournal, htime, hpf, hmain])]
    · change execJournalModeBatteryTimer s = _
      simp only [execJournalModeBatteryTimer, hmain, hwanted, hjournal, journalJudge, State.mToll]
      rfl
    · change execVaultTimeCheckpoint s = _
      rw [execVaultTimeCheckpoint, if_pos (by simpa [hmain] using htime)]

end Sys2Proof.Machine
end

section
/-! The refill boundary and the governor's tables (O35). -/
namespace Sys2Proof.Machine

/-- The number whose bits below `n` are those that `on` chooses. -/
def chosenBits (on : Nat → Bool) (n : Nat) : Nat := (((List.range n).filter on).map (2 ^ ·)).sum

theorem chosenBits_succ (on : Nat → Bool) (n : Nat) :
    chosenBits on (n + 1) = chosenBits on n + if on n then 2 ^ n else 0 := by
  cases h : on n <;> simp [chosenBits, List.range_succ, h]

theorem chosenBits_spec (on : Nat → Bool) (n : Nat) :
    chosenBits on n < 2 ^ n ∧ ∀ i, (chosenBits on n).testBit i = (decide (i < n) && on i) := by
  induction n with
  | zero => exact ⟨Nat.zero_lt_one, fun i => by simp [chosenBits]⟩
  | succ n ih =>
    obtain ⟨hlt, hbits⟩ := ih
    rw [chosenBits_succ, pow_succ]
    refine ⟨by split <;> omega, fun i => ?_⟩
    rcases Nat.lt_trichotomy i n with h | rfl | h
    · split
      · rw [Nat.add_comm, Nat.testBit_two_pow_add_gt h, hbits]
        simp [h, Nat.lt_succ_of_lt h]
      · rw [Nat.add_zero, hbits]
        simp [h, Nat.lt_succ_of_lt h]
    · split
      next hon => rw [Nat.add_comm, Nat.testBit_two_pow_add_eq, hbits]; simp [hon]
      next hon => rw [Nat.add_zero, hbits]; simp [hon]
    · rw [Nat.testBit_lt_two_pow]
      · simp; omega
      · have hpow : 2 ^ (n + 1) ≤ 2 ^ i := Nat.pow_le_pow_right (by decide) h
        rw [pow_succ] at hpow
        split <;> omega

theorem measuresAt_bit (h i : Nat) (old : BitVec 7) (hi : i < 7) :
    (measuresAt h old).getLsbD i = (decide (h < (measureTable.getD i (0, 0)).1) ||
      (old.getLsbD i && decide (h < (measureTable.getD i (0, 0)).2))) := by
  have hbits := (chosenBits_spec (fun i => decide (h < (measureTable.getD i (0, 0)).1) ||
    (old.getLsbD i && decide (h < (measureTable.getD i (0, 0)).2))) 7).2 i
  change (BitVec.ofNat 7 (chosenBits _ 7)).getLsbD i = _
  rw [BitVec.getLsbD_ofNat]
  simpa [hi] using hbits

theorem raiseDev_gov (e : DevEvent) (s : State) : (raiseDev e s).gov = s.gov := by
  rw [raiseDev_feOnly e s]

/-- The level, its limits and the overrun's event at a refill. -/
theorem refill_spec (base : BitVec 16) (s : State) :
    (refill base s).gov.level = max (min (s.gov.level + (s.gov.settle + 100 * (s.gov.watts.toNat : Int) -
        (base.toNat : Int)) / 10) (1000 * (s.gov.watts.toNat : Int))) (-(2 ^ 31)) ∧
      (refill base s).gov.depth = 1000 * s.gov.watts.toNat ∧
      (0 ≤ s.gov.level → (refill base s).gov.level < 0 → (refill base s).fe.devFlags.getLsbD 7 = true) := by
  unfold refill
  extract_lets g d tenths l new
  have hnew : new = max (min (s.gov.level + (s.gov.settle + 100 * (s.gov.watts.toNat : Int) -
      (base.toNat : Int)) / 10) (1000 * (s.gov.watts.toNat : Int))) (-(2 ^ 31)) := by
    simp [new, signed32, l, d, tenths, g]
  rw [← hnew]
  unfold whenDo
  split
  · rw [raiseDev_gov, (raiseDev_dev _ _).1]
    exact ⟨rfl, rfl, fun _ _ => by simp [DevEvent.num]⟩
  next hfits =>
    refine ⟨rfl, rfl, fun hlevel hneg => absurd ?_ hfits⟩
    change new < 0 at hneg
    simpa [g] using ⟨hlevel, hneg⟩

theorem not_early {s : State} (hmain : onMain s = true) (hdue : s.gov.boundaryAt + 10000 ≤ s.clk.now) :
    ¬ (!onMain s || s.clk.now < s.gov.boundaryAt + us 10) = true := by
  rw [Bool.or_eq_true, decide_eq_true_eq, hmain, not_or, Nat.not_lt]
  exact ⟨Bool.false_ne_true, hdue⟩

/-- Settles O35: the boundary by its definition, and each table by its thresholds. -/
theorem refillBoundaryAndItsTables : Obligations.RefillBoundaryAndItsTables := by
  unfold Obligations.RefillBoundaryAndItsTables
  refine ⟨fun base package temps waited s hmain hdue hwaited => ?_, fun h i old hi => ?_, fun tj old hold => ?_⟩
  · obtain ⟨hlevel, hdepth, hover⟩ := refill_spec base s
    refine ⟨_, _, rfl, hlevel, hdepth, hover, rfl, ?_⟩
    change execRefillBoundary base package temps () s = _
    rw [execRefillBoundary, if_neg (not_early hmain hdue), hwaited]
  · rw [measuresAt_bit h i old hi]
    interval_cases i <;> simp [measureTable]
  · unfold thermalAt
    dsimp only
    interval_cases old <;> simp only [Nat.reduceLeDiff, if_true, if_false, decide_eq_true_eq] <;> split_ifs <;> simp <;> omega

end Sys2Proof.Machine
end

section
/-! How an operation of an admin peal ends it (O38). -/
namespace Sys2Proof.Machine

section
variable {p : PealSlot} {s : State} {q : Peal}

theorem Peal.firstFail_eq_none (h : ∀ r ∈ q.steps, r.fail = none) : q.firstFail = none := by
  simp only [Peal.firstFail, Peal.run, List.find?_eq_none, List.mem_range]
  intro i hi
  simpa [hi] using h _ (List.getElem_mem hi)

theorem Peal.earlyFail_eq_none (h : q.firstFail = none) : q.earlyFail = none := by
  simp only [Peal.firstFail, Peal.earlyFail, List.find?_eq_none, List.mem_range] at h ⊢
  exact fun i hi hfail => h i hi (Bool.and_eq_true_iff.1 hfail).1

theorem Peal.firstFail_eq_zero (hsteps : q.steps ≠ []) (hfail : (q.run 0).fail.isSome = true) : q.firstFail = some 0 := by
  obtain ⟨n, hn⟩ := Nat.exists_eq_succ_of_ne_zero fun h => hsteps (List.length_eq_zero_iff.1 h)
  rw [Peal.firstFail, hn, Nat.succ_eq_add_one, List.range_succ_eq_map]
  exact List.find?_cons_of_pos hfail

theorem Peal.run_phase_of_ended (h : ∀ r ∈ q.steps, r.phase = .ended) {i : Nat} (hi : i < q.steps.length) :
    (q.run i).phase = .ended := by
  simpa [Peal.run, hi] using h _ (List.getElem_mem hi)

theorem dualJudge_of_not_dualRun (hq : s.peal p = some q) (hdual : q.dualRun = false) : dualJudge p s = s := by
  simp [dualJudge, hq, Peal.dualPending, hdual]

theorem stopIdle_of_ended (h : ∀ r ∈ q.steps, r.phase = .ended) (above : Option Nat) : stopIdle p q above s = s := by
  unfold stopIdle
  refine List.foldlRecOn (List.range q.steps.length) _ (motive := (· = s)) rfl ?_
  rintro _ rfl i hi
  simp [Peal.run_phase_of_ended h (List.mem_range.1 hi)]

/-- A running peal whose steps have all ended, none of them failed, is sealed. -/
theorem settle_of_passed (hq : s.peal p = some q) (hphase : q.phase = .running) (habort : q.abort = none)
    (hended : ∀ r ∈ q.steps, r.phase = .ended) (hfail : q.firstFail = none) :
    settle p s = dualJudge p (s.mPeal p fun q => { q with sealedAt := some (q.sealedAt.getD s.clk.now) }) := by
  simp [settle, hq, hphase, habort, Peal.earlyFail_eq_none hfail, hfail, List.all_eq_true.2 fun r hr => beq_iff_eq.2 (hended r hr)]

/-- A running peal whose steps have all ended fails as the first of them that failed. -/
theorem settle_of_failed {j : Nat} (hq : s.peal p = some q) (hphase : q.phase = .running) (habort : q.abort = none)
    (hended : ∀ r ∈ q.steps, r.phase = .ended) (hfail : q.firstFail = some j) :
    settle p s = failPeal p ((q.run j).fail.getD (0, 0)) (some j) s := by
  have hall : q.steps.all (·.phase == .ended) = true := List.all_eq_true.2 fun r hr => beq_iff_eq.2 (hended r hr)
  cases hearly : q.earlyFail with
  | none => simp [settle, hq, hphase, habort, hearly, hfail, hall]
  | some k => simp [settle, hq, hphase, habort, hearly, stopIdle_of_ended hended, hfail, hall]

theorem returnHolds_peals (q : Peal) (s : State) : (returnHolds q s).peals = s.peals := by
  rw [returnHolds_ksOnly q s]

theorem withdrawWrite_peals (p : PealSlot) (s : State) : (withdrawWrite p s).peals = s.peals := by
  unfold withdrawWrite
  dsimp only
  split_ifs <;> simp only [State.mNv_peals, State.mClap_peals, State.mToll_peals]

theorem leaveQueues_peals (p : PealSlot) (s : State) : (leaveQueues p s).peals = s.peals := by
  simp [leaveQueues, withdrawWrite_peals]

/-- What the end of a failed peal leaves in its entry. -/
def Peal.endedAs (st : Stat) (step : Option Nat) (q : Peal) : Peal :=
  { q with phase := .failed, status := st.1, sub := st.2, failStep := step.map (BitVec.ofNat 5 ·),
           granules := 0, staging := 0, opOut := [], effect := .none,
           keys := q.keys.map fun k => { k with reserved := false },
           steps := q.steps.map fun r =>
             { r with phase := .ended, out := [], masked := Shares.none, tie := none, agreed := [], reserved := none,
                      nonce := [], drawn := [], handed := [] } }

theorem endPeal_peal (hq : s.peal p = some q) (st : Stat) (step : Option Nat) :
    (endPeal p st step s).peal p = some (q.endedAs st step) := by
  have hpeals (x : State) : (dropOuts p.toNat (leaveQueues p (freeHold q (returnHolds q x)))).peals = x.peals :=
    by simp [dropOuts, freeHold, leaveQueues_peals, returnHolds_peals]
  have hown := State.peal_mPeal p (Peal.endedAs st step) s
  rw [hq] at hown
  simp only [endPeal, hq]
  exact (congrArg (smFind p.toNat) (hpeals _)).trans hown

theorem failPeal_peal (hq : s.peal p = some q) (hdual : q.dualRun = false) (st : Stat) (step : Option Nat) :
    (failPeal p st step s).peal p = some (q.endedAs st step) := by
  rw [failPeal, dualJudge_of_not_dualRun (endPeal_peal hq st step) hdual, endPeal_peal hq st step]

end

/-- The peal whose operation has given `out` and `e`, every step of it ended. -/
def Peal.opEnded (out : Bytes) (e : Effect) (q : Peal) : Peal :=
  { q with opDone := true, opOut := out, effect := e, steps := q.steps.map fun r => { r with phase := .ended } }

theorem Peal.opEnded_steps (out : Bytes) (e : Effect) (q : Peal) : ∀ r ∈ (q.opEnded out e).steps, r.phase = .ended := by
  simp [Peal.opEnded]

/-- The peal whose operation has failed with `st` at its first step. -/
def Peal.opFailed (st : Stat) (q : Peal) : Peal :=
  { q with opDone := true, opOut := [], effect := .none,
           steps := modAt 0 (fun r => { r with fail := some st }) (q.steps.map fun r => { r with phase := .ended }) }

theorem Peal.opFailed_steps (st : Stat) (q : Peal) : ∀ r ∈ (q.opFailed st).steps, r.phase = .ended := by
  unfold Peal.opFailed
  cases q.steps <;> simp [modAt]

theorem Peal.opFailed_run (st : Stat) (q : Peal) (h : q.steps ≠ []) : ((q.opFailed st).run 0).fail = some st := by
  obtain ⟨r, rs, hrs⟩ := List.exists_cons_of_ne_nil h
  simp [Peal.opFailed, Peal.run, hrs, modAt]

theorem State.mPeal_own {p : PealSlot} {s : State} {q : Peal} (hq : s.peal p = some q) (f : Peal → Peal) :
    (s.mPeal p f).peal p = some (f q) := by
  rw [State.peal_mPeal, hq, Option.map_some]

theorem State.mPeal_eq (p : PealSlot) (f : Peal → Peal) (s : State) : s.mPeal p f = { s with peals := (s.mPeal p f).peals } := by
  unfold State.mPeal
  split <;> rfl

/-- Settles O38: an operation leaves each step ended, so `settle` seals its peal or ends it with the operation's status. -/
theorem adminOperationSealsItsPeal : Obligations.AdminOperationSealsItsPeal := by
  unfold Obligations.AdminOperationSealsItsPeal
  intro slot s q out e st hq hphase habort hdual hsteps hfail
  constructor
  · have hown := State.mPeal_own hq (Peal.opEnded out e)
    have hpass : opPass slot out e s = (s.mPeal slot (Peal.opEnded out e)).mPeal slot
        fun q => { q with sealedAt := some (q.sealedAt.getD s.clk.now) } := by
      have hnone : (q.opEnded out e).firstFail = none :=
        Peal.firstFail_eq_none (by simpa [Peal.opEnded] using hfail)
      refine (settle_of_passed hown hphase habort (Peal.opEnded_steps out e q) hnone).trans ?_
      rw [State.mPeal_clk]
      exact dualJudge_of_not_dualRun (State.mPeal_own hown _) hdual
    rw [hpass]
    refine ⟨_, State.mPeal_own hown _, rfl, rfl, rfl, rfl, hphase, Peal.opEnded_steps out e q, ?_⟩
    rw [State.mPeal_eq, State.mPeal_eq]
  · have hown := State.mPeal_own hq (Peal.opFailed st)
    have hrun := Peal.opFailed_run st q hsteps
    have hfirst : (q.opFailed st).firstFail = some 0 :=
      Peal.firstFail_eq_zero (by simpa [Peal.opFailed, modAt] using hsteps) (by rw [hrun]; rfl)
    have hopFail : opFail slot st 0 s = failPeal slot st (some 0) (s.mPeal slot (Peal.opFailed st)) := by
      refine (settle_of_failed hown hphase habort (Peal.opFailed_steps st q) hfirst).trans ?_
      rw [hrun]
      rfl
    rw [hopFail]
    exact ⟨_, failPeal_peal hown hdual _ _, rfl, rfl, rfl, rfl, rfl, rfl⟩

end Sys2Proof.Machine
end

section
/-! The user region: its writes, its windows' new pages, and the store command that changes its words (O43). -/
namespace Sys2Proof.Machine

/-- What one more page does to the runs found so far, the last of them in front. -/
def addPage (l : List (Nat × Nat)) (p : Nat) : List (Nat × Nat) :=
  match l with
  | (a, n) :: rest => if p = a + n && n < 16 then (a, n + 1) :: rest else (p, 1) :: l
  | [] => [(p, 1)]

theorem pageRuns_eq (ps : List Nat) : pageRuns ps = (ps.foldl addPage []).reverse := rfl

/-- The runs hold a page: one of them reaches over it. -/
def Runs (l : List (Nat × Nat)) (x : Nat) : Prop := ∃ r ∈ l, r.1 ≤ x ∧ x < r.1 + r.2

theorem runs_cons (r : Nat × Nat) (l : List (Nat × Nat)) (x : Nat) :
    Runs (r :: l) x ↔ (r.1 ≤ x ∧ x < r.1 + r.2) ∨ Runs l x := by
  simp [Runs]

theorem addPage_runs (l : List (Nat × Nat)) (p x : Nat) : Runs (addPage l p) x ↔ Runs l x ∨ x = p := by
  have hone : (p ≤ x ∧ x < p + 1) ↔ x = p := by omega
  unfold addPage
  split
  next a n rest =>
    split
    next h =>
      have hp := of_decide_eq_true (Bool.and_eq_true_iff.1 h).1
      have hlonger : (a ≤ x ∧ x < a + (n + 1)) ↔ (a ≤ x ∧ x < a + n) ∨ x = p := by omega
      rw [runs_cons, runs_cons, hlonger, or_right_comm]
    · rw [runs_cons, hone, or_comm]
  · rw [runs_cons, hone, or_comm]

theorem addPage_length (l : List (Nat × Nat)) (p : Nat) (h : ∀ r ∈ l, 1 ≤ r.2 ∧ r.2 ≤ 16) :
    ∀ r ∈ addPage l p, 1 ≤ r.2 ∧ r.2 ≤ 16 := by
  unfold addPage
  split
  next a n rest =>
    obtain ⟨hhead, hrest⟩ := List.forall_mem_cons.1 h
    split
    next hp =>
      have hn := of_decide_eq_true (Bool.and_eq_true_iff.1 hp).2
      exact List.forall_mem_cons.2 ⟨⟨by omega, by omega⟩, hrest⟩
    · exact List.forall_mem_cons.2 ⟨⟨Nat.le_refl 1, by simp⟩, h⟩
  · exact List.forall_mem_cons.2 ⟨⟨Nat.le_refl 1, by simp⟩, h⟩

theorem foldl_addPage (ps : List Nat) (l : List (Nat × Nat)) (hl : ∀ r ∈ l, 1 ≤ r.2 ∧ r.2 ≤ 16) :
    (∀ x, Runs (ps.foldl addPage l) x ↔ Runs l x ∨ x ∈ ps) ∧ ∀ r ∈ ps.foldl addPage l, 1 ≤ r.2 ∧ r.2 ≤ 16 := by
  induction ps generalizing l with
  | nil => exact ⟨fun x => by simp, hl⟩
  | cons p ps ih =>
    obtain ⟨hruns, hlen⟩ := ih (addPage l p) (addPage_length l p hl)
    refine ⟨fun x => ?_, hlen⟩
    rw [List.foldl_cons, hruns, addPage_runs, List.mem_cons, or_assoc]

/-- The runs of pages hold the pages given and no others, each of them at most 16 pages. -/
theorem pageRuns_spec (ps : List Nat) :
    (∀ x, x ∈ ps ↔ ∃ r ∈ pageRuns ps, r.1 ≤ x ∧ x < r.1 + r.2) ∧ ∀ r ∈ pageRuns ps, 1 ≤ r.2 ∧ r.2 ≤ 16 := by
  obtain ⟨hruns, hlen⟩ := foldl_addPage ps [] (by simp)
  simp only [pageRuns_eq, List.mem_reverse]
  refine ⟨fun x => ?_, hlen⟩
  have hx := hruns x
  simp only [Runs, List.not_mem_nil, false_and, exists_false, false_or] at hx
  exact hx.symm

/-- A store command that ends as done, for neither a life-cycle entry nor a root record and with no power-up sequence
waiting, writes its words and nothing else of the store. -/
theorem storeCommand_done {s : State} {c : NvCmd} (hc : s.nv.current = some c) (hheld : s.nv.held = false)
    (hgood : s.pwr.mainGood = true) (hspare : (remapPages c .done s).length ≤ s.nv.spares.toNat)
    (hlc : ∀ e, c.work ≠ .lifeCycle e) (hroot : ∀ b, c.work ≠ .rootCopy b) (hawait : s.boot.awaitNoise = none) :
    ∃ t, exec (.nvCommandComplete .done) s = .next t ∧ t.fuses = s.fuses ∧ t.mode = s.mode ∧
      t.nv.array = storePut (c.data.writes s.nv.array).1 (c.data.writes s.nv.array).2 s.nv.array := by
  have hends := (storeCommandsAndTimers.1 s c .done hc hheld hgood ⟨.inl rfl, nofun, nofun⟩ _ _ _ rfl rfl).1 nofun hspare
  refine ⟨_, hends, ?_⟩
  set u := (s.mNv fun n => { n with
    current := none, gapUntil := if c.cls = 5 then s.clk.now + 200000 else n.gapUntil,
    wear := (c.data.pages s.nv.array).foldl (fun m p => smMod 0 p (· + 1) m) n.wear }).mNv
      (·.put (c.data.writes s.nv.array).1 (c.data.writes s.nv.array).2) with hu
  have hremap := foldl_keeps (fun s p => remap p s) (fun s p => remap_keeps p s) (remapPages c .done s) u
  have hwork := (workDone_keeps hroot ((remapPages c .done s).foldl (fun s p => remap p s) u)).trans (nextCommand_keeps _)
  have hawaits : (nextCommand (workDone c.work ((remapPages c .done s).foldl (fun s p => remap p s) u))).boot.awaitNoise =
      none :=
    (workDone_await _ _).trans ((foldl_await _ (fun s p => remap_await p s) _ u).trans hawait)
  have hall := (hremap.trans hwork).trans (afterStore_keeps_of_ne hlc _ hawaits)
  exact ⟨hall.2.2.1.trans rfl, hall.2.2.2.1.trans rfl, hall.2.2.2.2.2.trans rfl⟩

/-- Settles O43: a user write by its checks, the runs of a window's new pages by their fold, and the words by the store
command's end. -/
theorem userWriteChangesItsWordsOnly : Obligations.UserWriteChangesItsWordsOnly := by
  unfold Obligations.UserWriteChangesItsWordsOnly
  refine ⟨fun slot s q hq hready => ⟨fun w n hlen hop hzero hn hpos hmax hwin hw hpages => ⟨?_, rfl⟩, ?_⟩, ?_, ?_⟩
  · change execUserRegionWrite slot s = _
    have hlong : ¬ q.inputBytes.length < 24 := by omega
    have hform : ¬ (opByte q ≠ 2 || !zeroAt q.inputBytes 1 1 || n = 0 || 256 < n || q.inputBytes.length ≠ 8 + 16 * n) = true := by
      have hop2 : opByte q = 2 := hop
      simpa [hop2, hzero, hlen] using ⟨Nat.ne_of_gt hpos, hmax⟩
    have hrange : userRange q (le q.inputBytes 4 4) n = some (w, n) := by
      rw [userRange, if_pos hwin, hw]
    have hfew : ¬ 16 < (w + n - 1) / 16 - w / 16 + 1 := by omega
    simp only [execUserRegionWrite, runAdmin, hq, hready, if_true, hn, if_neg hlong, if_neg hform, hrange, if_neg hfew]
  · intro hfn hlen hop ht hz hz' hpage hend hclash
    change execSetUserWindow slot s = _
    have hlong : ¬ (q.inputBytes.length ≠ 16) := by omega
    have hform : ¬ (q.inputBytes.getD 1 0 = 0 || !zeroAt q.inputBytes 2 2 || !zeroAt q.inputBytes 8 8 ||
        2047 < le q.inputBytes 4 2 || 2048 < le q.inputBytes 6 2) = true := by
      have hcount : le q.inputBytes 6 2 ≤ 2048 := by omega
      simpa [-List.getD_eq_getElem?_getD, hz, hz', hpage, hcount] using ht
    have hfree : ¬ (le q.inputBytes 6 2 ≠ 0 && (2048 < le q.inputBytes 4 2 + le q.inputBytes 6 2 ||
        windowClash s (q.inputBytes.getD 1 0).toNat (le q.inputBytes 4 2) (le q.inputBytes 6 2))) = true := by
      simpa [-List.getD_eq_getElem?_getD, hend] using fun _ => hclash
    have hop3 : ¬ opByte q ≠ 3 := not_not.2 hop
    simp only [execSetUserWindow, runAdmin, hq, hready, if_true, if_neg hlong, if_neg hop3, if_neg (not_not.2 hfn), if_neg hform,
      if_neg hfree]
  · intro t page count s i p n ps
    exact ⟨fun h => by simp only [effectData, h], pageRuns_spec ps⟩
  · intro s addr bs c hwf hc hcls hwork hdata hheld hgood hawait hworn
    have hspare : (remapPages c .done s).length ≤ s.nv.spares.toNat := by
      simpa only [remapPages, if_neg hcls, decide_true, Bool.true_or, if_true] using hworn
    obtain ⟨t, ht, hfuses, hmode, harray⟩ := storeCommand_done hc hheld hgood hspare
      (by rcases hwork with ⟨_, _, h⟩ | ⟨_, _, h⟩ <;> simp [h])
      (by rcases hwork with ⟨_, _, h⟩ | ⟨_, _, h⟩ <;> simp [h]) hawait
    rw [hdata] at harray
    change t.nv.array = storePut addr bs s.nv.array at harray
    refine ⟨t, ht, hfuses, hmode, ?_, fun a => ?_⟩
    · rw [NvStore.wf, harray]
      exact storePut_wf hwf
    · rw [State.storeByte, harray]
      split
      next h =>
        obtain ⟨i, rfl⟩ := Nat.exists_eq_add_of_le h.1
        rw [Nat.add_sub_cancel_left]
        exact storePut_inside hwf (by omega)
      next h => exact storePut_outside _ (by omega)

end Sys2Proof.Machine
end

section
/-! Sealing and unsealing: the commands they queue, and the seal's spread counter (O46). -/
namespace Sys2Proof.Machine

/-! A spread counter's increment. -/

theorem leNat_natLe (k n : Nat) : leNat (natLe k n) = n % 256 ^ k := by
  induction k generalizing n with
  | zero => simp [natLe, leNat, Nat.mod_one]
  | succ k ih =>
    rw [natLe, leNat, ih, BitVec.toNat_ofNat]
    change n % 256 + 256 * (n / 256 % 256 ^ k) = n % 256 ^ (k + 1)
    rw [Nat.pow_succ', Nat.mod_mul]

theorem le_withCrc_low (n : Nat) (h : n < 2 ^ 64) (more : Bytes) : le (withCrc (natLe 8 n ++ zeros 4) more) 0 8 = n := by
  have hslice : slice (withCrc (natLe 8 n ++ zeros 4) more) 0 8 = natLe 8 n := by
    rw [slice, withCrc, List.drop_zero, List.append_assoc]
    exact List.take_left' (natLe_length 8 n)
  rw [le, hslice, leNat_natLe, Nat.mod_eq_of_lt (by simpa using h)]

theorem withCrc_length (n : Nat) (more : Bytes) : (withCrc (natLe 8 n ++ zeros 4) more).length = 16 := by
  simp [withCrc, zeros]

theorem crcOk_withCrc (bs more : Bytes) (h : bs.length = 12) : crcOk (withCrc bs more) more = true := by
  have htake : (withCrc bs more).take 12 = bs := List.take_left' h
  have hslice : slice (withCrc bs more) 12 4 = natLe 4 (crc32 (bs ++ more)).toNat := by
    rw [slice, withCrc, List.drop_left' h]
    exact List.take_of_length_le (by simp)
  rw [crcOk, htake, le, hslice, leNat_natLe, Nat.mod_eq_of_lt (by simpa using (crc32 (bs ++ more)).isLt), beq_self_eq_true]

/-- The greatest of a list's numbers bounds each of them. -/
theorem foldl_max_le_iff (l : List Nat) (a b : Nat) : l.foldl max a ≤ b ↔ a ≤ b ∧ ∀ x ∈ l, x ≤ b := by
  induction l generalizing a with
  | nil => simp
  | cons x l ih => simp [ih, and_assoc]

theorem spreadCell_lt (l : List (Option Nat)) (h : l.length = 8) : spreadCell l < 8 := by
  have hidx {p : Option Nat → Bool} {i : Nat} (hi : l.findIdx? p = some i) : i < 8 := by
    obtain ⟨hlt, _⟩ := List.findIdx?_eq_some_iff_getElem.1 hi
    exact h ▸ hlt
  unfold spreadCell
  dsimp only
  split
  next i hi => exact hidx hi
  · cases hf : l.findIdx? (· == some ((l.filterMap id).foldl min ((l.filterMap id).headD 0))) with
    | none => exact Nat.zero_lt_succ 7
    | some i => exact hidx hf

/-- The word an increment writes is the counter's new cell, and every other cell reads as before. -/
theorem spreadRead_inc {m : List Host.Cell} {c : Nat × Nat} (hwf : arrayWf m = true) (hstride : 16 ≤ c.2)
    (hlt : spreadValue m c + 1 < 2 ^ 64) :
    spreadRead (spreadInc c m) c = (spreadRead m c).set (spreadCell (spreadRead m c)) (some (spreadValue m c + 1)) := by
  have hlen (m : List Host.Cell) : (spreadRead m c).length = 8 := by simp [spreadRead]
  refine List.ext_getElem (by simp [hlen]) fun i h1 h2 => ?_
  rw [List.getElem_set]
  split
  next hi =>
    have hput : storeGet (spreadInc c m) (c.1 + c.2 * i) 16 =
        withCrc (natLe 8 (spreadValue m c + 1) ++ zeros 4) (natLe 4 (c.1 + c.2 * i)) := by
      have hback := storeGet_put (addr := (spreadWrite m c).1) (bs := (spreadWrite m c).2) hwf
      simp only [spreadWrite, withCrc_length, hi] at hback
      simpa only [spreadInc, spreadWrite, hi] using hback
    simp only [spreadRead, List.getElem_map, List.getElem_range, hput]
    rw [if_pos (crcOk_withCrc _ _ (by simp [zeros])), le_withCrc_low _ hlt]
  next hi =>
    have hother : storeGet (spreadInc c m) (c.1 + c.2 * i) 16 = storeGet m (c.1 + c.2 * i) 16 := by
      refine List.map_congr_left fun k hk => storePut_outside m ?_
      have hk16 := List.mem_range.1 hk
      simp only [spreadWrite, withCrc_length]
      rcases Nat.lt_or_gt_of_ne hi with h | h
      · have := Nat.mul_le_mul_left c.2 (Nat.succ_le_of_lt h)
        rw [Nat.mul_succ] at this
        omega
      · have := Nat.mul_le_mul_left c.2 (Nat.succ_le_of_lt h)
        rw [Nat.mul_succ] at this
        omega
    simp only [spreadRead, List.getElem_map, List.getElem_range, hother]

theorem spreadValue_le_iff (m : List Host.Cell) (c : Nat × Nat) (b : Nat) :
    spreadValue m c ≤ b ↔ ∀ x, some x ∈ spreadRead m c → x ≤ b := by
  simp [spreadValue, foldl_max_le_iff]

theorem spreadValue_inc {m : List Host.Cell} {c : Nat × Nat} (hwf : arrayWf m = true) (hstride : 16 ≤ c.2)
    (hlt : spreadValue m c + 1 < 2 ^ 64) : spreadValue (spreadInc c m) c = spreadValue m c + 1 := by
  have hlen : (spreadRead m c).length = 8 := by simp [spreadRead]
  have hcell := spreadCell_lt (spreadRead m c) hlen
  apply Nat.le_antisymm
  · rw [spreadValue_le_iff, spreadRead_inc hwf hstride hlt]
    intro x hx
    rcases List.mem_or_eq_of_mem_set hx with hx | hx
    · exact Nat.le_succ_of_le ((spreadValue_le_iff m c _).1 (Nat.le_refl _) x hx)
    · exact Nat.le_of_eq (Option.some.inj hx)
  · refine (spreadValue_le_iff _ c _).1 (Nat.le_refl _) _ ?_
    rw [spreadRead_inc hwf hstride hlt]
    exact List.mem_set (by rwa [hlen]) _

/-! The store's queue. -/

/-- A command that waits, or is in progress. -/
def NvStore.Holds (n : NvStore) (c : NvCmd) : Prop := c ∈ n.queue ++ n.current.toList

theorem kick_holds {n : NvStore} {c : NvCmd} (now : Nat) (h : n.Holds c) : (NvStore.kick now n).Holds c := by
  unfold NvStore.kick
  dsimp only
  split
  · exact h
  next hfree =>
    have hnone : n.current = none := by simpa using hfree
    have hqueue : c ∈ n.queue := by simpa [NvStore.Holds, hnone] using h
    split
    · exact List.mem_append_left _ hqueue
    · split
      next d _ =>
        by_cases hd : c = d
        · exact List.mem_append_right _ (by simp [hd])
        · exact List.mem_append_left _ ((List.mem_erase_of_ne hd).2 hqueue)
      · exact h

theorem nvQueue_holds (cls : Nat) (w : NvWork) (s : State) :
    (nvQueue cls w s).nv.Holds { cls := cls, work := w, data := w.data s } :=
  kick_holds _ (List.mem_append_left _ (List.mem_append_right _ (List.mem_singleton_self _)))

theorem nvQueue_holds_of {s : State} {c : NvCmd} (cls : Nat) (w : NvWork) (h : s.nv.Holds c) :
    (nvQueue cls w s).nv.Holds c := by
  refine kick_holds _ ?_
  rcases List.mem_append.1 h with h | h
  · exact List.mem_append_left _ (List.mem_append_left _ h)
  · exact List.mem_append_right _ h

theorem awaitStore_nv (p : PealSlot) (n : Nat) (s : State) : (awaitStore p n s).nv = s.nv := State.mPeal_nv s p _

theorem tollWrite_holds (p : PealSlot) (w : NvWork) (s : State) :
    ∃ c, (tollWrite (some p) w s).nv.Holds c ∧ c.cls = 3 ∧ c.work = w :=
  ⟨_, nvQueue_holds 3 w _, rfl, rfl⟩

theorem tollWrite_holds_of {s : State} {c : NvCmd} (p : PealSlot) (w : NvWork) (h : s.nv.Holds c) :
    (tollWrite (some p) w s).nv.Holds c :=
  nvQueue_holds_of 3 w (awaitStore_nv p 1 s ▸ h)

theorem tollWrite_toll (p : PealSlot) (w : NvWork) (s : State) : (tollWrite (some p) w s).toll = s.toll :=
  State.mPeal_toll s p _

theorem tollWrite_clk (p : PealSlot) (w : NvWork) (s : State) : (tollWrite (some p) w s).clk = s.clk :=
  State.mPeal_clk s p _

/-- What a seal event queues, and what of the Toll it leaves. -/
theorem sealEvent_spec (p : PealSlot) (kind : BitVec 8) (extra : Bytes) (s : State) :
    (∀ w, (w = .tollState (some p) ∨ w = .sealCount (some p) ∨ w = .sealEntry (some p) s.toll.sealAt
        { kind := kind, events := s.toll.sealEvents + 1, vtime := s.clk.vtime, sealId := s.toll.sealId,
          extra := fit 16 (extra.take 16) }) →
      ∃ c, (sealEvent p kind extra s).nv.Holds c ∧ c.cls = 3 ∧ c.work = w) ∧
    (sealEvent p kind extra s).toll = { s.toll with sealAt := (s.toll.sealAt + 1) % 48 } := by
  obtain ⟨u, hu⟩ : ∃ u, u = tollWrite (some p) (.sealCount (some p)) (tollStateWrite p s) := ⟨_, rfl⟩
  have htoll : u.toll = s.toll := by rw [hu, tollWrite_toll, tollStateWrite, tollWrite_toll]
  have hclk : u.clk = s.clk := by rw [hu, tollWrite_clk, tollStateWrite, tollWrite_clk]
  have hlog : sealEvent p kind extra s = tollWrite (some p) (.sealEntry (some p) s.toll.sealAt
      { kind := kind, events := s.toll.sealEvents + 1, vtime := s.clk.vtime, sealId := s.toll.sealId,
        extra := fit 16 (extra.take 16) }) (u.mToll fun k => { k with sealAt := (k.sealAt + 1) % 48 }) := by
    simp only [sealEvent, sealLogAdd, ← hu, htoll, hclk]
  rw [hlog]
  constructor
  · rintro w (rfl | rfl | rfl)
    · obtain ⟨c, hc, hrest⟩ := tollWrite_holds p (.tollState (some p)) s
      refine ⟨c, tollWrite_holds_of p _ ?_, hrest⟩
      rw [State.mToll_nv, hu]
      exact tollWrite_holds_of p _ hc
    · obtain ⟨c, hc, hrest⟩ := tollWrite_holds p (.sealCount (some p)) (tollStateWrite p s)
      refine ⟨c, tollWrite_holds_of p _ ?_, hrest⟩
      rw [State.mToll_nv, hu]
      exact hc
    · exact tollWrite_holds p _ _
  · rw [tollWrite_toll, State.mToll_toll, htoll]

theorem storeDone_toll (p : Option PealSlot) (s : State) : (storeDone p s).toll = s.toll := by
  unfold storeDone
  split
  · exact State.mPeal_toll s _ _
  · rfl

theorem storeDone_fe (p : Option PealSlot) (s : State) : (storeDone p s).fe = s.fe := by
  unfold storeDone
  split
  · exact State.mPeal_fe s _ _
  · rfl

theorem raiseDev_toll (e : DevEvent) (s : State) : (raiseDev e s).toll = s.toll := by
  rw [raiseDev_feOnly e s]

/-- The seal or its absence is set, the event of it queued, and nothing else of the Toll or the store is changed yet. -/
theorem sealChange_spec (p : PealSlot) (kind : BitVec 8) (on : Bool) (id : Bytes) (s : State) :
    (∀ w, (w = .tollState (some p) ∨ w = .sealCount (some p) ∨ w = .sealEntry (some p) s.toll.sealAt
        { kind := kind, events := s.toll.sealEvents + 1, vtime := s.clk.vtime, sealId := id, extra := zeros 16 }) →
      ∃ c ∈ (sealEvent p kind [] (s.mToll fun k => { k with sealed_ := on, sealId := id })).nv.queue ++
          (sealEvent p kind [] (s.mToll fun k => { k with sealed_ := on, sealId := id })).nv.current.toList,
        c.cls = 3 ∧ c.work = w) ∧
    (sealEvent p kind [] (s.mToll fun k => { k with sealed_ := on, sealId := id })).toll =
      { s.toll with sealed_ := on, sealId := id, sealAt := (s.toll.sealAt + 1) % 48 } ∧
    (∀ a, (sealEvent p kind [] (s.mToll fun k => { k with sealed_ := on, sealId := id })).storeByte a = s.storeByte a) ∧
    (sealEvent p kind [] (s.mToll fun k => { k with sealed_ := on, sealId := id })).fuses = s.fuses ∧
    (sealEvent p kind [] (s.mToll fun k => { k with sealed_ := on, sealId := id })).mode = s.mode := by
  obtain ⟨hqueued, htoll⟩ := sealEvent_spec p kind [] (s.mToll fun k => { k with sealed_ := on, sealId := id })
  have hkeeps := sealEvent_keeps p kind [] (s.mToll fun k => { k with sealed_ := on, sealId := id })
  exact ⟨hqueued, htoll, fun a => congrArg (smGet 0 · a) hkeeps.2.2.2.2.2, hkeeps.2.2.1, hkeeps.2.2.2.1⟩

/-- Settles O46: both effects are one seal event after the change, and an increment's word is the counter's greatest cell. -/
theorem tollEffectsAtTheCommitPoint : Obligations.TollEffectsAtTheCommitPoint := by
  unfold Obligations.TollEffectsAtTheCommitPoint
  refine ⟨fun slot s id forced e t x he ht hx => ?_, fun p i x s => ⟨?_, ?_, ?_, rfl⟩, fun m c hwf hc hlt => ?_⟩
  · rcases he with rfl | rfl
    · rw [if_pos rfl] at hx
      obtain ⟨hqueued, htoll, hkeeps⟩ := sealChange_spec slot 1 true id s
      have hid : t.toll.sealId = id := by
        rw [ht]
        exact congrArg Toll.sealId htoll
      rw [ht, hx, hid]
      refine ⟨fun _ => ?_, nofun, ?_⟩ <;> simp only [applyEffect, htoll]
      · exact ⟨trivial, trivial⟩
      · exact ⟨hqueued, trivial, trivial, trivial, hkeeps⟩
    · rw [if_neg nofun] at hx
      obtain ⟨hqueued, htoll, hkeeps⟩ := sealChange_spec slot (if forced then 3 else 2) false (zeros 32) s
      have hid : t.toll.sealId = zeros 32 := by
        rw [ht]
        exact congrArg Toll.sealId htoll
      rw [ht, hx, hid]
      refine ⟨nofun, fun _ => ?_, ?_⟩ <;> simp only [applyEffect, htoll]
      · exact ⟨trivial, trivial⟩
      · exact ⟨hqueued, trivial, trivial, trivial, hkeeps⟩
  · rw [workDone, storeDone_toll, raiseDev_toll]
    rfl
  · rw [workDone, storeDone_fe, (raiseDev_dev _ _).1]
    simp [DevEvent.num]
  · rw [workDone, storeDone_toll]
    rfl
  · have hstride : 16 ≤ c.2 := by
      simp only [List.mem_cons, List.not_mem_nil, or_false] at hc
      rcases hc with rfl | rfl | rfl | rfl <;> decide
    exact ⟨spreadValue_inc hwf hstride hlt, rfl⟩

end Sys2Proof.Machine
end

section
/-! The Snare: its sensors, its responses and the Gong (O49). -/
namespace Sys2Proof.Machine

section
variable {s : State}

theorem raiseDev_tmp (e : DevEvent) (s : State) : (raiseDev e s).tmp = s.tmp := by
  rw [raiseDev_feOnly e s]

theorem raiseDev_pwr (e : DevEvent) (s : State) : (raiseDev e s).pwr = s.pwr := by
  rw [raiseDev_feOnly e s]

theorem latchEntry_sensors (n : TamperEntry) (s : State) :
    (latchEntry n s).tmp.sensors = s.tmp.sensors ∧ (latchEntry n s).tmp.clear = s.tmp.clear ∧
      (latchEntry n s).fe = s.fe := by
  simp only [latchEntry, State.mTmp_tmp]
  (repeat' split) <;> exact ⟨rfl, rfl, rfl⟩

theorem noteSensor_spec (st : BitVec 2) (s : State) (n : Nat) :
    (noteSensor st s n).fe.devFlags.getLsbD DevEvent.tmpEvent.num = true ∧ (noteSensor st s n).tmp.clear = false ∧
      (noteSensor st s n).tmp.sensors.length = s.tmp.sensors.length := by
  unfold noteSensor
  extract_lets up
  obtain ⟨hsensors, hclear, hfe⟩ := latchEntry_sensors (eventEntry s n (responseNow s n))
    (raiseDev .tmpEvent (s.mTmp fun t => { t with sensors := modAt n up t.sensors, clear := false }))
  rw [hsensors, hclear, hfe, raiseDev_tmp, (raiseDev_dev _ _).1]
  exact ⟨by simp [DevEvent.num], rfl, List.length_modify _ _ _⟩

/-! The responses. -/

/-- The strongest response of the sensors. -/
def topResponse (ns : List Nat) (s : State) : Nat := (ns.map (responseNow s)).foldl max 0

theorem topResponse_le_iff (ns : List Nat) (s : State) (b : Nat) : topResponse ns s ≤ b ↔ ∀ n ∈ ns, responseNow s n ≤ b := by
  simp [topResponse, foldl_max_le_iff]

theorem topResponse_single (n : Nat) (s : State) : topResponse [n] s = responseNow s n := by
  simp [topResponse]

theorem respond_of_top_zero {ns : List Nat} (h : topResponse ns s = 0) : respond ns s = s := by
  simp only [topResponse] at h
  simp [respond, h]

/-- A response no stronger than that of the Lockdown in force is logged only. -/
theorem respond_of_not_stronger {ns : List Nat} {l : LockLatch} (hl : s.tmp.lock = some l)
    (h : topResponse ns s ≤ l.response.toNat) : respond ns s = s := by
  simp only [topResponse] at h
  simp [respond, hl, Nat.not_lt.2 h]

/-- The response of one sensor with no Lockdown in force. -/
theorem respond_single {n : Nat} (hlock : s.tmp.lock = none) (hpos : responseNow s n ≠ 0) :
    respond [n] s = if responseNow s n = 1 then s.mTmp fun t => { t with throttle := true, throttleAt := s.clk.now }
      else latchLockdown (BitVec.ofNat 5 n) (BitVec.ofNat 2 (responseNow s n))
        (if responseNow s n = 3 then gong s else s) := by
  simp [respond, hlock, hpos]

theorem enter_tmp (m : Mode) (s : State) : (s.enter m).tmp = s.tmp := by
  unfold State.enter
  split <;> rfl

theorem latchLockdown_lock (cause : BitVec 5) (resp : BitVec 2) (h : s.tmp.lock = none) :
    (latchLockdown cause resp s).tmp.lock =
        some { cause := cause, response := resp, onBattery := !s.pwr.mainGood, vtime := s.clk.vtime } ∧
      (s.mode ≠ .off → (latchLockdown cause resp s).mode = .lockdown) := by
  refine ⟨?_, fun hmode => ?_⟩
  · simp only [latchLockdown, h]
    split
    · rw [(enterLockdown_keepsButMode _).2.2.2.1, State.mPwr_tmp, raiseDev_tmp]
      rfl
    · split
      · rw [raiseDev_tmp]
        rfl
      · rw [enter_tmp, raiseDev_tmp]
        rfl
  · rcases latchLockdown_mode cause resp s with ⟨hsame, hl | hoff⟩ | hdone
    · simp [State.locked, h] at hl
    · exact absurd hoff hmode
    · exact hdone

/-- The response of a sensor now: its two table bits on main power, and on battery what R410 makes of them. -/
theorem responseNow_eq {n : Nat} (hn : n < 22) : responseNow s n =
    (if s.pwr.mainGood then (s.tmp.response.extractLsb' (2 * n) 2).toNat
     else if 11 ≤ n ∧ n ≤ 17 then 3
     else if (s.tmp.response.extractLsb' (2 * n) 2).toNat = 1 then 0
     else (s.tmp.response.extractLsb' (2 * n) 2).toNat) := by
  simp [responseNow, snareResponse, hn]

/-! The Gong. -/

theorem tollFinal_pwr (s : State) : (tollFinal s).pwr = s.pwr := by
  unfold tollFinal startDelta
  dsimp only
  (repeat' split) <;> rfl

theorem tollFinal_tmp (s : State) : (tollFinal s).tmp = s.tmp := by
  unfold tollFinal startDelta
  dsimp only
  (repeat' split) <;> rfl

/-- What the Gong changes before the next root epoch is programmed. -/
def gongCleared (s : State) : State :=
  zeroiseRest (zeroiseVault (tollFinal (raiseDev .tmpZeroise
    ((s.mPwr fun p => { p with gongN := false }).mTmp fun t => { t with zeroised := true }))))

theorem gongCleared_pwr (s : State) : (gongCleared s).pwr = { s.pwr with gongN := false } := by
  simp [gongCleared, zeroiseRest, zeroiseVault, gateAll, tollFinal_pwr, raiseDev_pwr]

theorem stepEpoch_fuses (s : State) : (stepEpoch s).fuses =
    if s.pwr.mainGood = true ∨ s.pwr.reservoir = true then { s.fuses with epoch := min 32 (s.fuses.epoch + 1) }
    else s.fuses := by
  unfold stepEpoch
  by_cases hmain : s.pwr.mainGood = true
  · simp [hmain, State.mFuses]
  · by_cases hres : s.pwr.reservoir = true <;> simp [hmain, hres, State.mFuses, State.mPwr]

theorem stepEpoch_eq (s : State) : stepEpoch s = { s with fuses := (stepEpoch s).fuses, pwr := (stepEpoch s).pwr } ∧
    (stepEpoch s).pwr.gongN = s.pwr.gongN := by
  unfold stepEpoch
  (repeat' split) <;> exact ⟨rfl, rfl⟩

/-- What the Gong's clearing has emptied, and what it leaves. -/
theorem gongCleared_spec (s : State) : (gongCleared s).tmp.zeroised = true ∧ (gongCleared s).root.vault = none ∧
    (gongCleared s).root.present = false ∧ (gongCleared s).ks.recs = [] ∧ (gongCleared s).ks.ledger = [] ∧
    (gongCleared s).tables = [] ∧ (gongCleared s).sessions = [] ∧ (gongCleared s).clap.journal = [] ∧
    (gongCleared s).mem.key = none ∧ (gongCleared s).rng.pool = [] ∧ (gongCleared s).fuses = s.fuses := by
  obtain ⟨u, hu⟩ : ∃ u, u = tollFinal (raiseDev .tmpZeroise
      ((s.mPwr fun p => { p with gongN := false }).mTmp fun t => { t with zeroised := true })) := ⟨_, rfl⟩
  have htmp : u.tmp.zeroised = true := by
    rw [hu, tollFinal_tmp, raiseDev_tmp]
    rfl
  have hfuses : u.fuses = s.fuses := by
    rw [hu]
    exact ((tollFinal_keeps _).2.2.1).trans ((raiseDev_keeps _ _).2.2.1.trans rfl)
  rw [gongCleared, ← hu]
  exact ⟨htmp, rfl, rfl, rfl, rfl, rfl, rfl, rfl, rfl, rfl,
    ((zeroiseRest_keeps _).2.2.1).trans (((zeroiseVault_keeps _).2.2.1).trans hfuses)⟩

/-- After its clearing and the fuse, the Gong starts the next epoch and gives the bank up. -/
theorem gong_eq (s : State) : ∃ nv clap toll, gong s = { stepEpoch (gongCleared s) with nv := nv, clap := clap, toll := toll } ∧
    clap.journal = (stepEpoch (gongCleared s)).clap.journal ∧ toll.bankValid = false := by
  have hgong : gong s = (if onMain s then newEpoch (stepEpoch (gongCleared s))
      else stepEpoch (gongCleared s)).mToll fun k => { k with
        bankValid := false, counters := if onMain s then k.counters else [] } := rfl
  rw [hgong]
  split <;> exact ⟨_, _, _, rfl, rfl, rfl⟩

theorem gong_spec (s : State) : (gong s).pwr.gongN = false ∧ (gong s).tmp.zeroised = true ∧ (gong s).root.vault = none ∧
    (gong s).root.present = false ∧ (gong s).ks.recs = [] ∧ (gong s).ks.ledger = [] ∧ (gong s).tables = [] ∧
    (gong s).sessions = [] ∧ (gong s).clap.journal = [] ∧ (gong s).mem.key = none ∧ (gong s).rng.pool = [] ∧
    (gong s).toll.bankValid = false ∧ (gong s).fuses =
      (if s.pwr.mainGood = true ∨ s.pwr.reservoir = true then
        { s.fuses with epoch := min 32 (s.fuses.epoch + 1) } else s.fuses) ∧
    ∀ a, (gong s).storeByte a = s.storeByte a := by
  have hstore (a : Nat) : (gong s).storeByte a = s.storeByte a := congrArg (smGet 0 · a) (gong_keepsButFuses s).2.2.2.2
  obtain ⟨nv, clap, toll, hgong, hjournal, hbank⟩ := gong_eq s
  obtain ⟨hstep, hgongN⟩ := stepEpoch_eq (gongCleared s)
  have hfuses := stepEpoch_fuses (gongCleared s)
  obtain ⟨hzeroised, hvault, hpresent, hrecs, hledger, htables, hsessions, hclap, hkey, hpool, hburnt⟩ := gongCleared_spec s
  rw [gongCleared_pwr] at hgongN hfuses
  rw [hburnt] at hfuses
  refine ⟨?_, ?_, ?_, ?_, ?_, ?_, ?_, ?_, ?_, ?_, ?_, ?_, ?_, hstore⟩ <;> rw [hgong]
  · exact hgongN
  · rw [hstep]; exact hzeroised
  · rw [hstep]; exact hvault
  · rw [hstep]; exact hpresent
  · rw [hstep]; exact hrecs
  · rw [hstep]; exact hledger
  · rw [hstep]; exact htables
  · rw [hstep]; exact hsessions
  · exact hjournal.trans ((congrArg (fun x => x.clap.journal) hstep).trans hclap)
  · rw [hstep]; exact hkey
  · rw [hstep]; exact hpool
  · exact hbank
  · exact hfuses

end

/-- Settles O49: each sensor's response by the strongest of the list, and the Gong by what it clears before its fuse. -/
theorem snareEventsAndResponses : Obligations.SnareEventsAndResponses := by
  unfold Obligations.SnareEventsAndResponses
  intro s
  refine ⟨fun ids ns hon hns hne => ?_, fun st n => noteSensor_spec st s n, fun ns h => ?_, fun ns l hl h => ?_,
    fun n hn hlock => ⟨fun h => ?_, fun h => ?_, fun h => ?_⟩, fun n hn => responseNow_eq hn,
    fun cause resp hlock => ?_, ?_, ?_, ?_, ?_, ?_, ?_, ?_⟩
  · change execSnareSensorOutOfRange ids s = _
    rw [execSnareSensorOutOfRange, snareEvent, ← hns, if_neg (by simpa [hon] using hne)]
  · exact respond_of_top_zero (Nat.le_zero.1 ((topResponse_le_iff _ _ _).2 fun n hn => Nat.le_of_eq (h n hn)))
  · exact respond_of_not_stronger hl ((topResponse_le_iff _ _ _).2 h)
  · rw [respond_single hlock (by simp [h]), if_pos h]
  · rw [respond_single hlock (by simp [h]), if_neg (by simp [h]), if_neg (by simp [h]), h]
    rfl
  · rw [respond_single hlock (by simp [h]), if_neg (by simp [h]), if_pos h, h]
    rfl
  · exact ⟨_, (latchLockdown_lock cause resp hlock).1, rfl, rfl, rfl, rfl, (latchLockdown_lock cause resp hlock).2⟩
  · exact gong_spec s
  · intro fails hmain
    refine ⟨?_, fun i x hx => ?_⟩
    · change execSnareSelfCheck fails s = _
      rw [execSnareSelfCheck, if_pos hmain, selfCheck]
    · have hone := congrArg (Option.map fun x => if !fails.getLsbD i && x.state = 2 then { x with state := 0 } else x) hx
      simpa [passCheck, State.mTmp, List.getElem?_mapIdx] using hone
  · intro hmain hlatch hnv
    change execTamperLogCopy s = _
    rw [execTamperLogCopy, if_pos (by simp [hmain, hlatch, hnv])]
  · exact ⟨rfl, rfl⟩
  · intro hon hdue
    change execThrottleExpire s = _
    rw [execThrottleExpire, if_pos (by simpa [hon, sec] using hdue)]
  · intro hon hall
    change execSensorsClearTimer s = _
    rw [execSensorsClearTimer, if_neg (by simpa [hon] using hall)]
  · intro hbus hmode
    have hwritable : snareWritable s = true := by simp [snareWritable, hmode]
    refine ⟨fun hfloors hbusy => ?_, fun hlc hlow => ?_⟩
    · have hok : floorsOk s = true := by
        rw [floorsOk, Bool.or_eq_true]
        exact .inr (List.all_eq_true.2 fun n hn => decide_eq_true (hfloors n (List.mem_range.1 hn)))
      change execTmpCommitGo s = _
      rw [execTmpCommitGo, hbus, hwritable, hok, hbusy]
      rfl
    · obtain ⟨n, hn, hlow⟩ := hlow
      have hbad : floorsOk s = false := by
        simp only [floorsOk, hlc, Bool.or_eq_false_iff, List.all_eq_false]
        exact ⟨⟨rfl, rfl⟩, n, List.mem_range.2 hn, by simpa using hlow⟩
      change execTmpCommitGo s = _
      rw [execTmpCommitGo, hbus, hwritable, hbad]
      rfl

end Sys2Proof.Machine
end

section
/-! The supplies and the resets, and a write that they cut short (O55). -/
namespace Sys2Proof.Machine

/-! What an interruption of the store's commands leaves. -/

/-- The root secret, the Toll, the Clapper and the supplies are as they were. -/
abbrev KeepsVault (s t : State) : Prop := t.root = s.root ∧ t.toll = s.toll ∧ t.clap = s.clap ∧ t.pwr = s.pwr

section
variable {s t u : State}

theorem KeepsVault.trans (h : KeepsVault s t) (k : KeepsVault t u) : KeepsVault s u :=
  ⟨k.1.trans h.1, k.2.1.trans h.2.1, k.2.2.1.trans h.2.2.1, k.2.2.2.trans h.2.2.2⟩

theorem foldl_keepsVault {α : Type} (f : State → α → State) (h : ∀ s a, KeepsVault s (f s a)) (l : List α) (s : State) :
    KeepsVault s (l.foldl f s) := by
  induction l generalizing s with
  | nil => exact ⟨rfl, rfl, rfl, rfl⟩
  | cons a l ih => exact (h s a).trans (ih _)

theorem keepWhole_keepsVault (s : State) (c : NvCmd) : KeepsVault s (keepWhole s c) ∧ (keepWhole s c).nv = s.nv := by
  unfold keepWhole
  (repeat' split) <;> exact ⟨⟨rfl, rfl, rfl, rfl⟩, rfl⟩

/-- A role map or a retirement count whose write has not ended is old again. -/
def oldAgain (c : NvCmd) (s : State) : State :=
  match c.work with
  | .roleMap old => Unstored.restore s (.roles old)
  | .retirement e => Unstored.restore s (.retirement e)
  | _ => s

theorem oldAgain_keepsVault (c : NvCmd) (s : State) : KeepsVault s (oldAgain c s) ∧ (oldAgain c s).nv = s.nv := by
  unfold oldAgain
  split <;> exact ⟨⟨rfl, rfl, rfl, rfl⟩, rfl⟩

theorem foldr_oldAgain (l : List NvCmd) (s : State) :
    KeepsVault s (l.foldr oldAgain s) ∧ (l.foldr oldAgain s).nv = s.nv := by
  induction l with
  | nil => exact ⟨⟨rfl, rfl, rfl, rfl⟩, rfl⟩
  | cons c l ih =>
    have h := oldAgain_keepsVault c (l.foldr oldAgain s)
    exact ⟨ih.1.trans h.1, h.2.trans ih.2⟩

theorem foldl_keepWhole (l : List NvCmd) (s : State) :
    KeepsVault s (l.foldl keepWhole s) ∧ (l.foldl keepWhole s).nv = s.nv := by
  induction l generalizing s with
  | nil => exact ⟨⟨rfl, rfl, rfl, rfl⟩, rfl⟩
  | cons c l ih =>
    have h := keepWhole_keepsVault s c
    exact ⟨h.1.trans (ih _).1, (ih _).2.trans h.2⟩

/-- The commands of the store cut off, those in progress and those stopped. -/
def cutAll (s : State) : State :=
  s.nv.current.toList.foldl (cutOff false) (s.nv.stopped.toList.foldl (cutOff true) s)

theorem interrupted_eq (s : State) : interrupted s =
    (nvAll s).foldr oldAgain ((s.nv.current.toList ++ s.nv.stopped.toList).foldl keepWhole (cutAll s)) := by
  unfold interrupted cutAll oldAgain
  rfl

theorem cutAll_keepsVault (s : State) : KeepsVault s (cutAll s) :=
  (foldl_keepsVault (cutOff true) (fun _ _ => ⟨rfl, rfl, rfl, rfl⟩) _ s).trans
    (foldl_keepsVault (cutOff false) (fun _ _ => ⟨rfl, rfl, rfl, rfl⟩) _ _)

/-- An interruption changes the store's array as its commands are cut off, and no root secret, counter or journal. -/
theorem interrupted_spec (s : State) : KeepsVault s (interrupted s) ∧ (interrupted s).nv.array = (cutAll s).nv.array := by
  have hwhole := foldl_keepWhole (s.nv.current.toList ++ s.nv.stopped.toList) (cutAll s)
  have hold := foldr_oldAgain (nvAll s) ((s.nv.current.toList ++ s.nv.stopped.toList).foldl keepWhole (cutAll s))
  rw [interrupted_eq]
  exact ⟨(cutAll_keepsVault s).trans (hwhole.1.trans hold.1), congrArg NvStore.array (hold.2.trans hwhole.2)⟩

end

/-! A write cut short, R361. -/

/-- A byte of a write of `m` words, of which `n` are whole: those are new, each bit of the next is old or new, or old where
the write had stopped at a boundary, and every other byte of the array is old. -/
def TornByte (arr arr' : List Host.Cell) (addr m n : Nat) (bs : Bytes) (whole : Bool) (a : Nat) : Prop :=
  (addr ≤ a → a < addr + 16 * n → smGet 0 arr' a = bs.getD (a - addr) 0) ∧
  (addr + 16 * n ≤ a → a < addr + 16 * n + 16 → n < m → ∀ b,
    (smGet 0 arr' a).getLsbD b = (smGet 0 arr a).getLsbD b ∨
    (whole = false ∧ (smGet 0 arr' a).getLsbD b = (bs.getD (a - addr) 0).getLsbD b)) ∧
  ((a < addr ∨ addr + 16 * n + 16 ≤ a ∨ addr + 16 * m ≤ a) → smGet 0 arr' a = smGet 0 arr a)

theorem mixedBytes_bit (old new pick : Bytes) {i : Nat} (hi : i < new.length) (b : Nat) :
    ((mixedBytes old new pick).getD i 0).getLsbD b = (old.getD i 0).getLsbD b ∨
      ((mixedBytes old new pick).getD i 0).getLsbD b = (new.getD i 0).getLsbD b := by
  have hget : (mixedBytes old new pick).getD i 0 =
      (old.getD i 0 &&& pick.getD i 0) ||| (new.getD i 0 &&& ~~~pick.getD i 0) := by
    simp [mixedBytes, hi]
  rw [hget]
  by_cases hb : b < 8
  · simp only [BitVec.getLsbD_or, BitVec.getLsbD_and, BitVec.getLsbD_not, hb, decide_true, Bool.true_and]
    cases (pick.getD i 0).getLsbD b <;> simp
  · simp [BitVec.getLsbD_of_ge _ _ (Nat.le_of_not_lt hb)]

theorem tearWrite_torn {addr m n : Nat} {bs pick : Bytes} {arr : List Host.Cell} (whole : Bool) (hwf : arrayWf arr = true)
    (hlen : bs.length = 16 * m) (hn : n ≤ m) (a : Nat) :
    TornByte arr (tearWrite addr bs n whole pick arr) addr m n bs whole a := by
  have htake : (bs.take (16 * n)).length = 16 * n := by simp [hlen]; omega
  have hword : ((bs.drop (16 * n)).take 16).length = min 16 (16 * m - 16 * n) := by simp [hlen]
  have hmixed : (mixedBytes (storeGet arr (addr + 16 * n) 16) ((bs.drop (16 * n)).take 16) pick).length =
      min 16 (16 * m - 16 * n) := by simp [mixedBytes, hlen]
  have hnew (ha : addr ≤ a) (h : a < addr + 16 * n) :
      smGet 0 (storePut addr (bs.take (16 * n)) arr) a = bs.getD (a - addr) 0 := by
    obtain ⟨i, rfl⟩ := Nat.exists_eq_add_of_le ha
    have hi : i < 16 * n := by omega
    rw [storePut_inside hwf (by omega), Nat.add_sub_cancel_left]
    simp [List.getD_eq_getElem?_getD, hi]
  have hold (h : a < addr ∨ addr + 16 * n ≤ a) : smGet 0 (storePut addr (bs.take (16 * n)) arr) a = smGet 0 arr a :=
    storePut_outside arr (by rw [htake]; exact h)
  unfold tearWrite
  dsimp only
  split
  next hw =>
    refine ⟨hnew, fun ha _ _ b => .inl ?_, fun h => ?_⟩
    · rw [hold (.inr ha)]
    · exact hold (by omega)
  next hw =>
    refine ⟨fun ha h => ?_, fun ha h hm b => ?_, fun h => ?_⟩
    · rw [storePut_outside _ (.inl h)]
      exact hnew ha h
    · obtain ⟨i, rfl⟩ := Nat.exists_eq_add_of_le ha
      have hi : i < 16 := by omega
      have hiw : i < ((bs.drop (16 * n)).take 16).length := by omega
      have hbyte : ((bs.drop (16 * n)).take 16).getD i 0 = bs.getD (addr + 16 * n + i - addr) 0 := by
        have hidx : addr + 16 * n + i - addr = 16 * n + i := by omega
        simp [hidx, hi, List.getD_eq_getElem?_getD]
      have hbefore : (storeGet arr (addr + 16 * n) 16).getD i 0 = smGet 0 arr (addr + 16 * n + i) := by
        simp [storeGet, hi]
      rw [storePut_inside (storePut_wf hwf) (by omega), ← hbyte, ← hbefore]
      exact (mixedBytes_bit _ _ _ hiw b).imp_right fun h => ⟨by simpa using hw, h⟩
    · rw [storePut_outside _ (by rw [hmixed]; omega)]
      exact hold (by omega)


/-- The one command of the store that is cut off, in progress or stopped, leaves its write torn. -/
theorem cutAll_torn {s : State} {cmd : NvCmd} {addr m : Nat} {bs : Bytes} {whole : Bool} (hwf : s.nv.wf = true)
    (hcmd : (s.nv.current = some cmd ∧ s.nv.stopped = none ∧ whole = false) ∨
      (s.nv.current = none ∧ s.nv.stopped = some cmd ∧ whole = true))
    (hdata : cmd.data = .words addr bs) (hlen : bs.length = 16 * m) :
    ∃ n, n ≤ m ∧ ∀ a, TornByte s.nv.array (cutAll s).nv.array addr m n bs whole a := by
  have hcut : cutAll s = cutOff whole s cmd := by
    rcases hcmd with ⟨hcur, hstop, rfl⟩ | ⟨hcur, hstop, rfl⟩ <;> simp [cutAll, hcur, hstop]
  have hm : bs.length / 16 = m := by omega
  have hle : Config.openCount s.rng.calls % (m + 1) ≤ m := Nat.le_of_lt_succ (Nat.mod_lt _ (Nat.succ_pos m))
  refine ⟨_, hle, fun a => ?_⟩
  have htorn := fun pick => tearWrite_torn (addr := addr) (pick := pick) whole hwf hlen hle a
  rw [hcut]
  simp only [cutOff, hdata, NvData.openBytes, NvData.writes, State.mNv_nv, State.mRng_nv, hm]
  exact htorn _

/-! The supplies. -/

section
variable {s t : State}

/-- Main power lost takes the device to Vault or Off, and leaves a Lockdown. -/
theorem leaveMain_eq_ite (m : Mode) (s : State) :
    (leaveMain m s).mode = if s.mode = .lockdown ∨ (s.mode = .off ∧ s.locked = true) then s.mode else m := by
  unfold leaveMain State.locked
  split
  next h => rw [if_pos (by simpa using h)]
  next h => rw [if_neg (by simpa using h), State.enter_mode]

theorem leaveMain_frame (m : Mode) (s : State) : leaveMain m s = { s with
    mode := (leaveMain m s).mode, pwr := { s.pwr with modeAt := (leaveMain m s).pwr.modeAt } } := by
  unfold leaveMain State.enter
  (repeat' split) <;> rfl

theorem replaceSeed_frame (s : State) : replaceSeed s = { s with rng := (replaceSeed s).rng } := by
  unfold replaceSeed
  split <;> rfl

theorem kick_held (now : Nat) (n : NvStore) : (NvStore.kick now n).held = n.held := by
  unfold NvStore.kick
  dsimp only
  (repeat' split) <;> rfl

/-- The final record of a power failure starts where no other is being written. -/
theorem startDelta_final (h : s.toll.writing = none) : (startDelta true true s).toll.writing.isSome = true ∧
    (startDelta true true s).clap.stopped = s.clap.stopped ∧ (startDelta true true s).nv.held = s.nv.held ∧
    ∃ w, (startDelta true true s).toll.writing = some w ∧ w.final = true := by
  have hwords : deltaWords s true ≠ [] := by
    unfold deltaWords
    dsimp only
    split
    · simp
    next hne => simpa using hne
  unfold startDelta
  extract_lets ws r
  rw [if_neg (by simp [ws, h, hwords])]
  exact ⟨rfl, rfl, kick_held _ _, r, rfl, rfl⟩

/-- The machine at a power-fail warning: the clusters gated, the store held, the carried seed replaced. -/
def warned (s : State) : State :=
  holdStore (replaceSeed ((newClock s.gov.surge s).mPwr fun p => { p with pfwarn := true, pfGated := true }))

theorem warned_spec (s : State) : (warned s).clap = s.clap ∧ (warned s).toll = s.toll ∧
    (warned s).pwr = { s.pwr with pfwarn := true, pfGated := true } ∧ (warned s).nv = (holdStore s).nv ∧
    Keeps s (warned s) := by
  refine ⟨?_, ?_, ?_, ?_, ?_⟩
  · rw [warned, holdStore, State.mNv_clap, replaceSeed_frame]
    rfl
  · rw [warned, holdStore, State.mNv_toll, replaceSeed_frame]
    rfl
  · rw [warned, holdStore, State.mNv_pwr, replaceSeed_frame]
    rfl
  · rw [warned, holdStore, holdStore, State.mNv_nv, replaceSeed_frame]
    rfl
  · have hclock : Keeps s ((newClock s.gov.surge s).mPwr fun p => { p with pfwarn := true, pfGated := true }) :=
      (newClock_keeps _ s).trans (State.mPwr_keeps _ _)
    exact hclock.trans ((replaceSeed_keeps _).trans (holdStore_keeps _))

theorem clearVolatile_vault (s : State) :
    (clearVolatile s).root.vault = if s.root.forming.isSome then none else s.root.vault := rfl

theorem clearVolatile_kept (s : State) : (clearVolatile s).toll.counters = s.toll.counters ∧
    (clearVolatile s).clap.journal = s.clap.journal := ⟨rfl, rfl⟩

theorem clearVolatile_cleared (s : State) :
    (clearVolatile s).peals = [] ∧ (clearVolatile s).tables = [] ∧ (clearVolatile s).ks.recs = [] := ⟨rfl, rfl, rfl⟩

/-- The volatile state as a loss of main power finds it, its store commands cut off. -/
def mainCut (f : Boot → Boot) (s : State) : State := clearVolatile (interrupted (s.mBoot f))

theorem mainCut_keepsButStore (f : Boot → Boot) (s : State) :
    (mainCut f s).mode = s.mode ∧ (mainCut f s).fuses = s.fuses ∧ (mainCut f s).tmp.lock = s.tmp.lock := by
  have hcut := (State.mBoot_keeps f s).wf.trans (interrupted_keepsWf (s.mBoot f))
  have hclear := clearVolatile_keepsButMode (interrupted (s.mBoot f))
  exact ⟨(clearVolatile_mode _).trans hcut.2.2.2.1, hclear.2.2.1.trans hcut.2.2.1, hclear.2.2.2.1.trans hcut.2.2.2.2.1⟩

theorem mainCut_array (f : Boot → Boot) (s : State) : (mainCut f s).nv.array = (cutAll (s.mBoot f)).nv.array :=
  (clearVolatile_keepsButMode _).2.2.2.2.trans (interrupted_spec (s.mBoot f)).2

theorem mainCut_vault (f : Boot → Boot) (s : State) (h : s.root.forming = none) :
    (mainCut f s).root.vault = s.root.vault := by
  have hroot : (interrupted (s.mBoot f)).root = s.root := (interrupted_spec (s.mBoot f)).1.1
  rw [mainCut, clearVolatile_vault, hroot, h]
  rfl

theorem mainCut_kept (f : Boot → Boot) (s : State) : (mainCut f s).toll.counters = s.toll.counters ∧
    (mainCut f s).clap.journal = s.clap.journal := by
  obtain ⟨_, htoll, hclap, _⟩ := (interrupted_spec (s.mBoot f)).1
  obtain ⟨hcounters, hjournal⟩ := clearVolatile_kept (interrupted (s.mBoot f))
  exact ⟨hcounters.trans (congrArg Toll.counters htoll), hjournal.trans (congrArg Clapper.journal hclap)⟩

theorem mainCut_cleared (f : Boot → Boot) (s : State) :
    (mainCut f s).peals = [] ∧ (mainCut f s).tables = [] ∧ (mainCut f s).ks.recs = [] := clearVolatile_cleared _

theorem cutAll_of_free (s : State) (hcur : s.nv.current = none) (hstop : s.nv.stopped = none) : cutAll s = s := by
  simp [cutAll, hcur, hstop]

theorem loseAo_spec (s : State) : (loseAo s).root.vault = none ∧ (loseAo s).toll.bankValid = false ∧
    (loseAo s).pwr = { s.pwr with aoHeld := false } := ⟨rfl, rfl, rfl⟩

/-- The machine a loss of main power leaves, before its mode is judged: what was volatile is cut where it was up. -/
structure PowerLost (s y : State) : Prop where
  mainGood : y.pwr.mainGood = false
  aoHeld : noBattery s = true → y.pwr.aoHeld = false
  mode : y.mode = s.mode
  fuses : y.fuses = s.fuses
  lock : y.tmp.lock = s.tmp.lock
  vault : s.root.forming = none → y.root.vault = s.root.vault
  counters : y.toll.counters = s.toll.counters
  journal : y.clap.journal = s.clap.journal
  cleared : onMain s = true → y.peals = [] ∧ y.tables = [] ∧ y.ks.recs = []
  cut : onMain s = true → ∃ f : Boot → Boot, y.nv.array = (cutAll (s.mBoot f)).nv.array
  idle : onMain s = false → y.nv.array = s.nv.array

/-- The supplies without main power. -/
def withoutMain (s x : State) : State :=
  (x.mPwr fun p => { p with mainGood := false, aoHeld := s.pwr.aoHeld && !noBattery s }).mRoot fun r =>
    { r with lastReshare := s.clk.vtime.toNat }

theorem withoutMain_powerLost (f : Boot → Boot) (owed : SMap LedgerEntry) (s : State) : PowerLost s (withoutMain s
    (if onMain s then (mainCut f s).mToll (fun k => { k with owed := owed }) else s)) := by
  have hheld (h : noBattery s = true) : (s.pwr.aoHeld && !noBattery s) = false := by simp [h]
  by_cases hup : onMain s = true
  · rw [if_pos hup]
    obtain ⟨hmode, hfuses, hlock⟩ := mainCut_keepsButStore f s
    obtain ⟨hcounters, hjournal⟩ := mainCut_kept f s
    exact ⟨rfl, hheld, hmode, hfuses, hlock, mainCut_vault f s, hcounters, hjournal, fun _ => mainCut_cleared f s,
      fun _ => ⟨f, mainCut_array f s⟩, fun h => absurd hup (by simp [h])⟩
  · rw [if_neg hup]
    exact ⟨rfl, hheld, rfl, rfl, rfl, fun _ => rfl, rfl, rfl, fun h => absurd h hup, fun h => absurd h hup, fun _ => rfl⟩

theorem execMainPowerLost_cases (h : s.pwr.mainGood = true) : ∃ y, PowerLost s y ∧
    exec .mainPowerLost s = .next (if noBattery s then leaveMain .off (loseAo y) else leaveMain .vault y) := by
  refine ⟨_, withoutMain_powerLost
    (fun b => if b.fwBusy && !b.activating then b.mSlot (!b.slotB) (fun _ => FwSlot.empty) else b) (owedUses s) s, ?_⟩
  change execMainPowerLost s = _
  rw [execMainPowerLost, if_neg (by simp [h])]
  rfl

/-- Leaving main power changes the mode and its instant only. -/
theorem leaveMain_fields (m : Mode) (y : State) : (leaveMain m y).pwr.mainGood = y.pwr.mainGood ∧
    (leaveMain m y).pwr.aoHeld = y.pwr.aoHeld ∧ (leaveMain m y).root = y.root ∧ (leaveMain m y).toll = y.toll ∧
    (leaveMain m y).clap = y.clap ∧ (leaveMain m y).peals = y.peals ∧ (leaveMain m y).tables = y.tables ∧
    (leaveMain m y).ks = y.ks ∧ (leaveMain m y).fuses = y.fuses ∧ (leaveMain m y).tmp = y.tmp ∧
    (leaveMain m y).nv = y.nv := by
  rw [leaveMain_frame]
  exact ⟨rfl, rfl, rfl, rfl, rfl, rfl, rfl, rfl, rfl, rfl, rfl⟩

theorem leaveMain_batteries (m : Mode) (y : State) : (leaveMain m y).pwr.battA = y.pwr.battA ∧
    (leaveMain m y).pwr.battB = y.pwr.battB := by
  rw [leaveMain_frame]
  exact ⟨rfl, rfl⟩

theorem journalJudge_pwr (s : State) : (journalJudge s).pwr = s.pwr := by
  have hdelta (f a : Bool) (s : State) : (startDelta f a s).pwr = s.pwr := by
    unfold startDelta
    dsimp only
    split <;> rfl
  have hswitch (s : State) : (journalSwitch s).pwr = s.pwr := by
    unfold journalSwitch
    (repeat' split) <;> simp [hdelta]
  exact hswitch _

theorem loseAo_fields (y : State) : (loseAo y).mode = y.mode ∧ (loseAo y).tmp.lock = y.tmp.lock ∧
    (loseAo y).pwr.mainGood = y.pwr.mainGood ∧ (loseAo y).peals = y.peals ∧ (loseAo y).tables = y.tables ∧
    (loseAo y).ks.recs = y.ks.recs ∧ (loseAo y).fuses = y.fuses ∧ (loseAo y).nv = y.nv := by
  simp [loseAo, zeroiseVault]

/-- A store with nothing to cut off, or of a machine that was not up, is as it was. -/
theorem PowerLost.array_eq {y : State} (h : PowerLost s y)
    (hidle : (s.nv.current = none ∧ s.nv.stopped = none) ∨ onMain s = false) : y.nv.array = s.nv.array := by
  by_cases hup : onMain s = true
  · obtain ⟨f, hf⟩ := h.cut hup
    obtain ⟨hcur, hstop⟩ := hidle.resolve_right (by simp [hup])
    rw [hf, cutAll_of_free (s.mBoot f) hcur hstop]
    rfl
  · exact h.idle (by simpa using hup)

/-- What every loss of main power does, with a battery or without one. -/
theorem leaveMain_lost {y z : State} (hy : PowerLost s y) (hmode : z.mode = y.mode) (hlock : z.tmp.lock = y.tmp.lock)
    (hmain : z.pwr.mainGood = y.pwr.mainGood) (hpeals : z.peals = y.peals) (htables : z.tables = y.tables)
    (hrecs : z.ks.recs = y.ks.recs) (hfuses : z.fuses = y.fuses) (hnv : z.nv = y.nv) (m : Mode) :
    (leaveMain m z).pwr.mainGood = false ∧
      (leaveMain m z).mode = (if s.mode = .lockdown ∨ (s.mode = .off ∧ s.locked = true) then s.mode else m) ∧
      (onMain s = true → (leaveMain m z).peals = [] ∧ (leaveMain m z).tables = [] ∧ (leaveMain m z).ks.recs = []) ∧
      (leaveMain m z).fuses = s.fuses ∧ (leaveMain m z).tmp.lock = s.tmp.lock ∧
      (leaveMain m z).nv.array = y.nv.array := by
  obtain ⟨kmain, _, _, _, _, kpeals, ktables, kks, kfuses, ktmp, knv⟩ := leaveMain_fields m z
  have hz : z.mode = s.mode ∧ z.locked = s.locked := by
    exact ⟨hmode.trans hy.mode, congrArg Option.isSome (hlock.trans hy.lock)⟩
  refine ⟨kmain.trans (hmain.trans hy.mainGood), ?_, fun hup => ?_, kfuses.trans (hfuses.trans hy.fuses), ?_, ?_⟩
  · rw [leaveMain_eq_ite, hz.1, hz.2]
  · obtain ⟨cpeals, ctables, crecs⟩ := hy.cleared hup
    exact ⟨kpeals.trans (hpeals.trans cpeals), ktables.trans (htables.trans ctables), by rw [kks, hrecs, crecs]⟩
  · rw [ktmp, hlock, hy.lock]
  · rw [knv, hnv]

end

/-- Settles O55: each command by its branches, the words of a write cut short by `tearWrite`, and the boot by the mode it
ends in. -/
theorem suppliesAndResets : Obligations.SuppliesAndResets := by
  unfold Obligations.SuppliesAndResets
  intro s r
  refine ⟨fun hmain hpf hbat => ?_, fun hmain hpf hbat hjournal hwriting => ?_, fun hmain hpf => ?_, fun hmain => ?_,
    fun hgood => ?_, fun hmode hmain hbat => ?_, fun b => ⟨rfl, ?_⟩, fun hgood hreset hstage => ?_, fun hgood hstage => ?_,
    fun t0 hrec hdue hmain => ?_, ?_, fun cause => ?_⟩
  · change ∃ t, execPfwarnAssert s = .next t ∧ _
    obtain ⟨hclap, _, hpwr, hnv, hkeeps⟩ := warned_spec s
    have hrun : execPfwarnAssert s = .next (warned s) := by
      rw [execPfwarnAssert, if_neg (by simp [hmain, hpf])]
      exact congrArg Host.Outcome.next (if_pos (by simp [hbat]))
    rw [hrun]
    refine ⟨_, rfl, ?_, ?_, ?_, fun cmd hcur hcls => ?_, fun h => ?_, hclap, hkeeps⟩
    · rw [hpwr]
    · rw [hpwr]
    · rw [hnv]
      rfl
    · rw [hnv]
      simp [holdStore, State.mNv, hcur, hcls]
    · rw [hnv]
      rcases h with h | ⟨cmd, h, hcls⟩
      · simp [holdStore, State.mNv, h]
      · simp [holdStore, State.mNv, h, hcls]
  · change ∃ t, execPfwarnAssert s = .next t ∧ _
    obtain ⟨_, htoll, hpwr, hnv, hkeeps⟩ := warned_spec s
    obtain ⟨u, hu⟩ : ∃ u, u = (warned s).mClap fun c => { c with stopped := true } := ⟨_, rfl⟩
    have hwriting' : u.toll.writing = none := by
      rw [hu, State.mClap_toll, htoll, hwriting]
    have hrun : execPfwarnAssert s = .next (startDelta true true (abandonDelta u)) := by
      rw [execPfwarnAssert, if_neg (by simp [hmain, hpf]), hu]
      refine congrArg Host.Outcome.next ((if_neg (by simp [hbat])).trans ?_)
      exact if_neg (by simp [hjournal])
    have hheld : u.nv.held = true := by
      rw [hu, State.mClap_nv, hnv]
      rfl
    have habandon : abandonDelta u = u := by simp [abandonDelta, hwriting']
    rw [hrun, habandon]
    obtain ⟨hstarted, hstopped, hholds, hfinal⟩ := startDelta_final (s := u) hwriting'
    refine ⟨_, rfl, ?_, hholds.trans hheld, hfinal, ?_⟩
    · rw [hstopped, hu]
      rfl
    · refine (hkeeps.trans ?_).trans (startDelta_keeps _ _ u)
      rw [hu]
      exact State.mClap_keeps _ _
  · change ∃ t, execPfwarnDeassert s = .next t ∧ _
    rw [execPfwarnDeassert, if_neg (by simp [hmain, hpf])]
    extract_lets resume s1
    have hs1 : Keeps s s1 := ((Keeps.ite _ (resumeCourses_keeps s) .rfl').trans (State.mPwr_keeps _ _)).trans (State.mClap_keeps _ _)
    have hs1clap : s1.clap.stopped = ((if s.pwr.pfGated then resumeCourses s else s).clap.stopped && finalOpen s) := rfl
    refine ⟨_, rfl, rfl, rfl, kick_held _ _, fun hfinal => ?_, hs1.trans ?_⟩
    · rw [State.mNv_clap, hs1clap, hfinal, Bool.and_false]
    · exact ⟨rfl, rfl, rfl, rfl, rfl, kick_user _ _⟩
  · change execMainPowerGood s = _
    rw [execMainPowerGood, hmain]
    rfl
  · obtain ⟨y, hy, hrun⟩ := execMainPowerLost_cases hgood
    have hstore (t : State) (harray : t.nv.array = y.nv.array) :
        (((s.nv.current = none ∧ s.nv.stopped = none) ∨ onMain s = false) → ∀ a, t.storeByte a = s.storeByte a) ∧
        (∀ (cmd : NvCmd) (addr m : Nat) (bs : Bytes) (whole : Bool), onMain s = true → s.nv.wf = true →
          ((s.nv.current = some cmd ∧ s.nv.stopped = none ∧ whole = false) ∨
           (s.nv.current = none ∧ s.nv.stopped = some cmd ∧ whole = true)) →
          cmd.data = .words addr bs → bs.length = 16 * m →
          ∃ n, n ≤ m ∧ ∀ a, TornByte s.nv.array t.nv.array addr m n bs whole a) := by
      refine ⟨fun hidle a => ?_, fun cmd addr m bs whole hup hwf hcmd hdata hlen => ?_⟩
      · rw [State.storeByte, State.storeByte, harray, hy.array_eq hidle]
      · obtain ⟨f, hf⟩ := hy.cut hup
        rw [harray, hf]
        exact cutAll_torn (s := s.mBoot f) hwf hcmd hdata hlen
    by_cases hbat : noBattery s = true
    · obtain ⟨lmode, llock, lmain, lpeals, ltables, lrecs, lfuses, lnv⟩ := loseAo_fields y
      obtain ⟨lvault, lbank, lpwr⟩ := loseAo_spec y
      obtain ⟨tmain, tmode, tcleared, tfuses, tlock, tarray⟩ :=
        leaveMain_lost hy lmode llock lmain lpeals ltables lrecs lfuses lnv .off
      obtain ⟨_, kheld, kroot, ktoll, _⟩ := leaveMain_fields .off (loseAo y)
      refine ⟨_, hrun.trans (by rw [if_pos hbat]), tmain, ?_, fun _ => ⟨?_, ?_, ?_⟩, fun h => ?_, tcleared, tfuses, tlock,
        hstore _ tarray⟩
      · rw [tmode, if_pos hbat]
      · rw [kroot, lvault]
      · rw [ktoll, lbank]
      · rw [kheld, lpwr]
      · simp [hbat] at h
    · obtain ⟨tmain, tmode, tcleared, tfuses, tlock, tarray⟩ :=
        leaveMain_lost hy rfl rfl rfl rfl rfl rfl rfl rfl .vault
      obtain ⟨_, _, kroot, ktoll, kclap, _⟩ := leaveMain_fields .vault y
      refine ⟨_, hrun.trans (by rw [if_neg hbat]), tmain, ?_, fun h => absurd h hbat, fun _ => ⟨fun hforming => ?_, ?_, ?_⟩,
        tcleared, tfuses, tlock, hstore _ tarray⟩
      · rw [tmode, if_neg hbat]
      · rw [kroot, hy.vault hforming]
      · rw [ktoll, hy.counters]
      · rw [kclap, hy.journal]
  · change ∃ t, execVaultEntry s = .next t ∧ _
    rw [execVaultEntry, if_neg (by rcases hmode with h | h <;> simp [h, hmain, hbat])]
    dsimp only
    by_cases h : s.mode = .off ∧ s.locked = false
    · rw [if_pos (by simpa [State.locked] using h), State.enter, if_neg (by simp [h.1]), if_pos h]
      exact ⟨_, rfl, rfl, rfl, rfl⟩
    · rw [if_neg (by simpa [State.locked] using h), if_neg h]
      exact ⟨_, rfl, rfl, rfl, rfl⟩
  · obtain ⟨u, hu⟩ : ∃ u, u = s.mPwr fun p => { p with
        battA := p.battA && b, battB := p.battB && !b, battASince := if b then p.battASince else none,
        battBSince := if b then none else p.battBSince } := ⟨_, rfl⟩
    have hrun : exec (.batteryAbsent b) s = .next (if !noBattery u then u
        else if s.pwr.mainGood then (if onMain s then journalJudge u else u) else leaveMain .off (loseAo u)) := by
      rw [hu]
      rfl
    have hmode : u.mode = s.mode := by rw [hu]; rfl
    have hbatteries : u.pwr.battA = (s.pwr.battA && b) ∧ u.pwr.battB = (s.pwr.battB && !b) := by rw [hu]; exact ⟨rfl, rfl⟩
    have hnone (t : State) (ha : t.pwr.battA = u.pwr.battA) (hb : t.pwr.battB = u.pwr.battB) : noBattery t = noBattery u := by
      rw [noBattery, noBattery, ha, hb]
    by_cases hbat : noBattery u = true
    · rw [if_neg (by simp [hbat])] at hrun
      by_cases hgood : s.pwr.mainGood = true
      · rw [if_pos hgood] at hrun
        have hkept (t : State) (ht : t = if onMain s then journalJudge u else u) : t.mode = u.mode ∧ t.pwr = u.pwr := by
          rw [ht]
          split
          · exact ⟨(journalJudge_keeps u).2.2.2.1, journalJudge_pwr u⟩
          · exact ⟨rfl, rfl⟩
        obtain ⟨hm, hp⟩ := hkept _ rfl
        refine ⟨_, hrun, ?_, ?_, fun _ h => absurd hgood (by simp [h]), fun _ => hm.trans hmode⟩
        · rw [hp, hbatteries.1]
        · rw [hp, hbatteries.2]
      · rw [if_neg hgood] at hrun
        obtain ⟨lmode, llock, _⟩ := loseAo_fields u
        obtain ⟨lvault, lbank, lpwr⟩ := loseAo_spec u
        obtain ⟨_, _, kroot, ktoll, _⟩ := leaveMain_fields .off (loseAo u)
        obtain ⟨ka, kb⟩ := leaveMain_batteries .off (loseAo u)
        have hgone : noBattery (leaveMain .off (loseAo u)) = true := by
          rw [hnone _ (by rw [ka, lpwr]) (by rw [kb, lpwr]), hbat]
        refine ⟨_, hrun, ?_, ?_, fun _ _ => ⟨?_, ?_, ?_⟩, fun h => ?_⟩
        · rw [ka, lpwr, hbatteries.1]
        · rw [kb, lpwr, hbatteries.2]
        · rw [leaveMain_eq_ite, lmode, hmode]
          by_cases hl : s.mode = .lockdown
          · simp [hl]
          · by_cases ho : s.mode = .off <;> simp [hl, ho]
        · rw [kroot, lvault]
        · rw [ktoll, lbank]
        · rcases h with h | h
          · exact absurd hgone (by simp [h])
          · exact absurd h hgood
    · rw [if_pos (by simpa using hbat)] at hrun
      exact ⟨u, hrun, hbatteries.1, hbatteries.2, fun h => absurd h hbat, fun _ => hmode⟩
  · change execPowerOnReset r s = _
    rw [execPowerOnReset, if_pos (by simp [hgood, hreset, hstage])]
  · change execWarmReset r s = _
    rw [execWarmReset, if_pos (by simpa [hgood] using hstage)]
    rfl
  · change execRecoveryReset r s = _
    have hwait : ¬ (s.clk.now < t0 + ms 8 || !onMain s) = true := by
      rw [Bool.or_eq_true, decide_eq_true_eq, hmain, not_or, Nat.not_lt]
      exact ⟨hdue, Bool.false_ne_true⟩
    simp only [execRecoveryReset, hrec, if_neg hwait]
  · refine ⟨rfl, rfl, rfl, rfl, rfl, rfl, rfl, rfl, ?_⟩
    have hkeeps := clearVolatile_keepsButMode s
    exact ⟨hkeeps.1, hkeeps.2.1, hkeeps.2.2.1, clearVolatile_mode s, hkeeps.2.2.2.1, hkeeps.2.2.2.2⟩
  · obtain ⟨hbooted, hlatched, _⟩ := deviceReset_booted cause r s
    refine ⟨?_, fun h => ?_, rfl⟩
    · exact hbooted.elim (fun h => .inr h.1) (fun h => .inl h.1)
    · rcases hbooted with ⟨hmode, _⟩ | ⟨_, hfree⟩
      · exact hmode
      · exact absurd ((hlatched h).symm.trans hfree) (by simp)

end Sys2Proof.Machine
end

section
/-! The step itself, and the rings and their doorbells (O1, O2, O4, O5, O7 to O10, O12, O32, O60). -/
namespace Sys2Proof.Machine

/-- Settles O1: it is how `step` is defined. -/
theorem stepRunsTheFrontCommand : Obligations.StepRunsTheFrontCommand := by
  unfold Obligations.StepRunsTheFrontCommand
  intro c rest s
  rfl

/-- The clock one cycle later. -/
def cycled (s : State) : Clock :=
  if 1000000000 ≤ s.clk.phase + 32768 then
    { s.clk with now := s.clk.now + 1, phase := s.clk.phase + 32768 - 1000000000,
                 vtime := if aoRuns s then s.clk.vtime + 1 else s.clk.vtime }
  else { s.clk with now := s.clk.now + 1, phase := s.clk.phase + 32768 }

theorem tick_eq (s : State) : tick s = { s with clk := cycled s } := by
  simp only [tick, State.mClk, cycled]

theorem cycled_spec (s : State) (h : s.clk.phase < 1000000000) :
    (cycled s).now = s.clk.now + 1 ∧ (cycled s).phase < 1000000000 ∧
      ((s.clk.phase + 32768 < 1000000000 ∧ (cycled s).phase = s.clk.phase + 32768 ∧ (cycled s).vtime = s.clk.vtime) ∨
       (1000000000 ≤ s.clk.phase + 32768 ∧ (cycled s).phase + 1000000000 = s.clk.phase + 32768 ∧
        (cycled s).vtime = if aoRuns s then s.clk.vtime + 1 else s.clk.vtime)) := by
  unfold cycled
  split
  next hwhole => exact ⟨rfl, by dsimp only; omega, .inr ⟨hwhole, by dsimp only; omega, rfl⟩⟩
  next hpart => exact ⟨rfl, by dsimp only; omega, .inl ⟨by omega, rfl, rfl⟩⟩

theorem modeSettle_of_resting {s : State} (hready : s.mode ≠ .ready) (hserve : s.mode ≠ .serve) : modeSettle s = s := by
  simp [modeSettle, serveToReady, hready, hserve]

theorem lockdownForce_of_none {s : State} (h : s.fe.lockdownAt = none) : lockdownForce s = s := by
  simp [lockdownForce, h]

/-- Settles O2: what follows the cycle acts in Ready and Serve and at a Lockdown's end only. -/
theorem emptyQueuePassesOneCycle : Obligations.EmptyQueuePassesOneCycle := by
  unfold Obligations.EmptyQueuePassesOneCycle
  intro s hempty hphase
  have hstep : step s = .next (lockdownForce (modeSettle { s with clk := cycled s })) := by
    simp only [step, hempty, tick_eq]
  refine ⟨cycled s, hstep, fun hready hserve hnone => ?_, cycled_spec s hphase⟩
  rw [hstep, modeSettle_of_resting (s := { s with clk := cycled s }) hready hserve,
      lockdownForce_of_none (s := { s with clk := cycled s }) hnone]

/-- Settles O60: of the reset state, which is given in full. -/
theorem resetHoldsTheInvariants : Obligations.ResetHoldsTheInvariants := by
  unfold Obligations.ResetHoldsTheInvariants
  refine ⟨rfl, rfl, rfl, rfl, rfl, fun a => rfl, rfl, rfl, rfl⟩

theorem setWidth_sub_one (o : BitVec 17) (h : o ≠ 0) : (o - 1).setWidth 64 = o.setWidth 64 - 1 := by
  have hpos : o.toNat ≠ 0 := fun e => h (BitVec.eq_of_toNat_eq e)
  change (o - 1#17).setWidth 64 = o.setWidth 64 - 1#64
  apply BitVec.eq_of_toNat_eq
  simp only [BitVec.toNat_setWidth, BitVec.toNat_sub, BitVec.toNat_ofNat]
  omega

theorem setWidth_add_ofNat (o : BitVec 17) (n : Nat) (h : n + o.toNat < 2 ^ 17) :
    (o + BitVec.ofNat 17 n).setWidth 64 = o.setWidth 64 + BitVec.ofNat 64 n := by
  apply BitVec.eq_of_toNat_eq
  simp only [BitVec.toNat_setWidth, BitVec.toNat_add, BitVec.toNat_ofNat]
  omega

/-- Settles O32: a credit that returns moves from OUTSTANDING to one of the counters. -/
theorem returnedCreditIsCountedOnce : Obligations.ReturnedCreditIsCountedOnce := by
  unfold Obligations.ReturnedCreditIsCountedOnce
  intro q supp now tail n
  refine ⟨fun h => ?_, fun h => by rw [SubRing.credit, if_pos h], fun h => ?_⟩
  · have hcredit : q.credit supp = { q with
        outstanding := q.outstanding - 1, posted := q.posted + (if supp then 0 else 1),
        suppressed := q.suppressed + (if supp then 1 else 0) } := by
      rw [SubRing.credit, if_neg h]
      cases supp <;> simp
    rw [hcredit]
    refine ⟨rfl, rfl, rfl, rfl, ?_⟩
    rw [setWidth_sub_one _ h]
    cases supp <;> simp only [Bool.false_eq_true, if_true, if_false] <;> ring
  · simp only [SubRing.accept, setWidth_add_ofNat _ _ h]
    ring

section
variable {s : State} {fn : Fn} {r : SqNo}

theorem slotValue_of_word {acc : Acc} (h : acc = .full ∨ acc = .low) (data : BitVec 64) :
    slotValue acc data = some (data.toNat % 2 ^ 32) := by
  rcases h with rfl | rfl <;> rfl

theorem slotValue_of_part {acc : Acc} (h : acc = .high ∨ acc = .other) (data : BitVec 64) : slotValue acc data = none := by
  rcases h with rfl | rfl <;> rfl

/-- A doorbell write within the ring slots of a page, by a function that has reported. -/
theorem exec_doorbell (off : BitVec 17) (acc : Acc) (data : BitVec 64) (hon : barsOn s fn = true)
    (hrep : s.fe.reported = true) (hoff : off.toNat < 0x10000) (hpage : off.toNat % 0x1000 < 0x200)
    (hring : sqOf s fn (64 * (off.toNat / 0x1000) + off.toNat % 0x1000 / 8) = some r) :
    exec (.submissionDoorbellWrite fn off acc data) s = .next (match slotAt off.toNat acc data with
      | some v => doorbell fn r v s
      | none => raiseFn fn .dbMalformed s) := by
  change execSubmissionDoorbellWrite fn off acc data s = _
  have hhead : (decide (0x10000 ≤ off.toNat) && decide (off.toNat < 0x11000)) = false := by simp; omega
  have hres : (decide (0x11000 ≤ off.toNat) || decide (0x200 ≤ off.toNat % 0x1000)) = false := by simp; omega
  simp only [execSubmissionDoorbellWrite, hhead, hon, hrep, hres, hring]
  cases slotAt off.toNat acc data <;> rfl

end

/-- Settles O4: a doorbell whose value no test of `doorbell` refuses. -/
theorem doorbellAcceptsDescriptors : Obligations.DoorbellAcceptsDescriptors := by
  unfold Obligations.DoorbellAcceptsDescriptors
  intro fn off acc data s r tail n hon hrep hoff hpage halign hring hacc hdata htail htail17 hstate hn hfree
  have hslot : slotAt off.toNat acc data = some tail := by
    rw [slotAt, if_pos halign, slotValue_of_word hacc, hdata]
  have hmod : tail % 2 ^ 17 = tail := Nat.mod_eq_of_lt htail17
  have hwell : ¬ (2 * (s.sq r).size ≤ tail || tail / 2 ^ 17 ≠ 0) = true := by
    rw [Nat.div_eq_of_lt htail17]
    simp
    omega
  have hroom : ¬ (s.sq r).free < n := by
    rw [SubRing.free]
    omega
  rw [exec_doorbell off acc data hon hrep hoff hpage hring, hslot]
  simp only [doorbell, hmod, ← hn, if_neg (not_not.2 hstate), if_neg hwell, if_neg hroom]
  rfl

/-- Settles O5: the write is refused before its ring is looked at, or `doorbell` refuses its value. -/
theorem doorbellIgnoredByName : Obligations.DoorbellIgnoredByName := by
  unfold Obligations.DoorbellIgnoredByName
  intro fn off acc data s r v hon
  refine ⟨fun hrep hwhere => ?_, fun hoff hpage hring hv => ⟨fun hrep => ?_, fun hrep hbad => ?_, fun halign => ?_⟩⟩
  · have hhead : (decide (0x10000 ≤ off.toNat) && decide (off.toNat < 0x11000)) = false := by simp; omega
    change execSubmissionDoorbellWrite fn off acc data s = _
    simp only [execSubmissionDoorbellWrite, hhead, hon, hrep]
    by_cases hres : (decide (0x11000 ≤ off.toNat) || decide (0x200 ≤ off.toNat % 0x1000)) = true
    · simp only [hres]
      rfl
    · have hnone : sqOf s fn (64 * (off.toNat / 0x1000) + off.toNat % 0x1000 / 8) = none := by
        rw [Bool.or_eq_true, decide_eq_true_eq, decide_eq_true_eq, not_or] at hres
        exact ((hwhere.resolve_left hres.1).2).resolve_left hres.2
      simp only [Bool.not_eq_true] at hres
      simp only [hres, hnone]
      rfl
  · have hhead : (decide (0x10000 ≤ off.toNat) && decide (off.toNat < 0x11000)) = false := by simp; omega
    change execSubmissionDoorbellWrite fn off acc data s = _
    simp only [execSubmissionDoorbellWrite, hhead, hon, hrep]
    rfl
  · have hslot : slotAt off.toNat acc data = none := by
      unfold slotAt
      split
      next halign =>
        rw [← or_assoc] at hbad
        exact slotValue_of_part (hbad.resolve_right (not_not.2 halign)) data
      next => rfl
    rw [exec_doorbell off acc data hon hrep hoff hpage hring, hslot]
  · have hrun (hrep : s.fe.reported = true) (hacc : acc = .full ∨ acc = .low) :
        exec (.submissionDoorbellWrite fn off acc data) s = .next (doorbell fn r v s) := by
      rw [exec_doorbell off acc data hon hrep hoff hpage hring, slotAt, if_pos halign, slotValue_of_word hacc, hv]
    refine ⟨fun hrep hacc hstate => ?_, fun hrep hacc hstate hbad => ?_, fun hrep hacc hstate hlow hlow17 hover hne => ?_⟩
    · rw [hrun hrep hacc, doorbell, if_pos hstate]
      rfl
    · have hmal : (2 * (s.sq r).size ≤ v % 2 ^ 17 || v / 2 ^ 17 ≠ 0) = true := by
        rw [Bool.or_eq_true, decide_eq_true_eq, decide_eq_true_eq]
        omega
      simp only [hrun hrep hacc, doorbell, if_neg (not_not.2 hstate), if_pos hmal]
      rfl
    · have hmod : v % 2 ^ 17 = v := Nat.mod_eq_of_lt hlow17
      have hwell : ¬ (2 * (s.sq r).size ≤ v || v / 2 ^ 17 ≠ 0) = true := by
        rw [Bool.or_eq_true, decide_eq_true_eq, decide_eq_true_eq]
        omega
      have hroom : (s.sq r).free < (v + 2 * (s.sq r).size - (s.sq r).tail.toNat) % (2 * (s.sq r).size) := by
        rw [SubRing.free]
        omega
      simp only [hrun hrep hacc, doorbell, hmod, if_neg (not_not.2 hstate), if_neg hwell, if_neg hne, if_pos hroom]
      rfl

/-- Settles O7: a head within POSTED, and one past it. -/
theorem headWriteFreesEntries : Obligations.HeadWriteFreesEntries := by
  unfold Obligations.HeadWriteFreesEntries
  intro fn cq acc data s c head n hon hrep hring hacc hdata hhead hhead17 hn
  have hrun : exec (.completionHeadWrite fn cq acc data) s = .next (headWrite fn c head s) := by
    change execCompletionHeadWrite fn cq acc data s = _
    have hidx : (0x10000 + 8 * cq.toNat) % 0x1000 / 8 = cq.toNat := by omega
    have hslot : slotAt (0x10000 + 8 * cq.toNat) acc data = some head := by
      rw [slotAt, if_pos (by omega), slotValue_of_word hacc, hdata]
    simp only [execCompletionHeadWrite, headSlot, hon, hrep, hidx, hring, hslot]
    rfl
  have hmod : head % 2 ^ 17 = head := Nat.mod_eq_of_lt hhead17
  have hwell : ¬ (2 * (s.cq c).size ≤ head || head / 2 ^ 17 ≠ 0) = true := by
    rw [Bool.or_eq_true, decide_eq_true_eq, decide_eq_true_eq]
    omega
  rw [hrun]
  simp only [headWrite, hmod, ← hn, if_neg hwell]
  refine ⟨fun hfits => ?_, fun hpast => ?_⟩
  · rw [if_neg (Nat.not_lt.2 hfits)]
    rfl
  · rw [if_pos hpast]
    rfl

section
variable {s : State} {fn : Fn}

/-- The state as a fetch finds its ring, its slot read. -/
def slotRead (fn : Fn) (ring : SqNo) (s : State) : State :=
  readSlot fn (s.sq ring) ((s.mFe fun e => { e with lastFetch := ring.toNat }).mSq ring SubRing.fetched)

/-- A fetch whose turn it is, by the state of its ring. -/
theorem exec_descriptorFetch {ring : SqNo} (desc : BitVec 512) (howner : sqOwner s ring = some fn)
    (hturn : fetchTurn s ring = true) : exec (.descriptorFetch ring desc) s = .next (
      if (s.sq ring).state = .resetting then
        completeFetched fn ring ((s.sq ring).oldest s.clk.now) (parseDesc (sriOf s fn) desc)
          (St.flushed, if s.mode = .lockdown then 3 else 1) (slotRead fn ring s)
      else if 0 < (s.sq ring).roleLost then
        completeFetched fn ring ((s.sq ring).oldest s.clk.now) (parseDesc (sriOf s fn) desc) (St.flushed, 2) (slotRead fn ring s)
      else match checks12 (sriOf s fn) (parseDesc (sriOf s fn) desc) with
        | some st => completeFetched fn ring ((s.sq ring).oldest s.clk.now) (parseDesc (sriOf s fn) desc) st (slotRead fn ring s)
        | none => noteCauses ((slotRead fn ring s).mFe fun e => { e with nextOrder := e.nextOrder + 1, waiting := e.waiting ++
            [{ fn := fn, ring := ring, raw := desc, accepted := (s.sq ring).oldest s.clk.now, order := e.nextOrder,
               withheld := [], cause := none }] })) := by
  have howner' : sqOwner (s.mFe fun e => { e with lastFetch := ring.toNat }) ring = some fn := howner
  have hturn' : ¬ (!fetchTurn s ring) = true := by simp [hturn]
  change execDescriptorFetch ring desc s = _
  simp only [execDescriptorFetch, howner', if_neg hturn']
  rfl

end

/-- Settles O8: a fetch by its ring's state, in the states that the turn allows. -/
theorem fetchedDescriptorWaits : Obligations.FetchedDescriptorWaits := by
  unfold Obligations.FetchedDescriptorWaits
  intro ring desc s fn howner
  refine ⟨fun hturn => ?_, ?_, ?_⟩
  · change execDescriptorFetch ring desc s = _
    have howner' : sqOwner (s.mFe fun e => { e with lastFetch := ring.toNat }) ring = some fn := howner
    simp only [execDescriptorFetch, howner', hturn]
    rfl
  · rintro u rfl hturn
    have hcan := (Bool.and_eq_true_iff.1 hturn).1
    simp only [canFetch, howner, Bool.and_eq_true, Bool.or_eq_true, decide_eq_true_eq, beq_iff_eq] at hcan
    obtain ⟨⟨hleft, hdma⟩, hstates⟩ := hcan
    have hrun := exec_descriptorFetch desc howner hturn
    refine ⟨hleft, hdma, fun hstate hrole => ?_, fun hstate hrole => ?_, fun hstate => ?_⟩
    · have hroom := (hstates.resolve_left (by simp [hstate])).2.resolve_left (by simp [hrole])
      rw [if_neg (by simp [hstate]), if_neg (by simp [hrole])] at hrun
      refine ⟨hroom.1, hroom.2, fun hok => ?_, fun st hbad => ?_⟩
      · simp only [hok] at hrun
        exact hrun
      · simp only [hbad] at hrun
        exact hrun
    · rw [if_neg (by simp [hstate]), if_pos (Nat.pos_of_ne_zero hrole)] at hrun
      exact hrun
    · rw [if_pos hstate] at hrun
      exact hrun
  · intro hstate hleft hdma
    change execDescriptorFetchError ring s = _
    simp only [execDescriptorFetchError, howner]
    rw [if_neg (by simpa [hdma] using hleft), if_pos hstate]

/-- Agreeing in the four bits from 16 on is agreeing under the mask of the locked fields. -/
theorem and_F0000_eq_iff (x y : BitVec 20) : x &&& 0xF0000 = y &&& 0xF0000 ↔ x.extractLsb' 16 4 = y.extractLsb' 16 4 := by
  constructor <;> intro h <;> refine BitVec.eq_of_getLsbD_eq fun i hi => ?_
  · have hbit := congrArg (·.getLsbD (16 + i)) h
    interval_cases i <;> simpa using hbit
  · have hbit := congrArg (·.getLsbD (i - 16)) h
    interval_cases i <;> simp at hbit ⊢ <;> exact hbit

theorem cfgWrite_locked (old : BitVec 20) (d : BitVec 64) :
    cfgWrite true old (d.setWidth 32) = (d.setWidth 20 &&& 0x3FFF) ||| (old &&& 0xF0000) := by
  have hmask : (0xF3FFF : BitVec 20) &&& 0x3FFF = 0x3FFF := by decide
  simp only [cfgWrite, if_true, BitVec.setWidth_setWidth_of_le d (show 20 ≤ 32 by decide), BitVec.and_assoc]
  rw [hmask]

theorem cfgWrite_unlocked (old : BitVec 20) (d : BitVec 64) :
    cfgWrite false old (d.setWidth 32) = d.setWidth 20 &&& 0xF3FFF := by
  simp only [cfgWrite, Bool.false_eq_true, if_false, BitVec.setWidth_setWidth_of_le d (show 20 ≤ 32 by decide)]

theorem cfgClash_locked (old : BitVec 20) (d : BitVec 64) :
    cfgClash true old (d.setWidth 32) = decide (¬ d.extractLsb' 16 4 = old.extractLsb' 16 4) := by
  have hfield : (d.setWidth 20).extractLsb' 16 4 = d.extractLsb' 16 4 := by
    refine BitVec.eq_of_getLsbD_eq fun i hi => ?_
    interval_cases i <;> simp
  simp only [cfgClash, Bool.true_and, BitVec.setWidth_setWidth_of_le d (show 20 ≤ 32 by decide), ne_eq, and_F0000_eq_iff, hfield]

theorem cfgClash_unlocked (old : BitVec 20) (d : BitVec 32) : cfgClash false old d = false := rfl

/-- Settles O9: by the kind of the selected ring and its state. -/
theorem ringWindowWrites : Obligations.RingWindowWrites := by
  unfold Obligations.RingWindowWrites
  intro fn d32 d p s hon
  refine ⟨?_, fun hsel => ?_, fun r hsel => ?_, fun c hsel => ?_⟩
  · change atSetup fn _ s = _
    rw [atSetup, if_pos hon]
  · change execRingParameterWrite fn p d s = _
    simp only [execRingParameterWrite, atSetup, if_pos hon, hsel]
    rfl
  · have hrun (p : RingParam) : exec (.ringParameterWrite fn p d) s = .next (subParam fn r p d s) := by
      change execRingParameterWrite fn p d s = _
      simp only [execRingParameterWrite, atSetup, if_pos hon, hsel]
    refine ⟨fun h => ?_, fun h => ⟨?_, ?_, ?_, fun hlock => ?_, fun hlock => ?_⟩⟩
    · rw [hrun, subParam.eq_def, if_pos h]
    · rw [hrun, subParam, if_neg (not_not.2 h)]
    · rw [hrun, subParam, if_neg (not_not.2 h)]
    · rw [hrun, subParam, if_neg (not_not.2 h)]
    · rw [hrun, subParam, if_neg (not_not.2 h)]
      simp only [hlock, cfgWrite_locked, cfgClash_locked, whenDo, decide_eq_true_eq, ite_not]
    · rw [hrun, subParam, if_neg (not_not.2 h)]
      simp only [hlock, cfgWrite_unlocked, cfgClash_unlocked, whenDo, Bool.false_eq_true, if_false]
  · have hrun (p : RingParam) : exec (.ringParameterWrite fn p d) s = .next (cplParam c p d s) := by
      change execRingParameterWrite fn p d s = _
      simp only [execRingParameterWrite, atSetup, if_pos hon, hsel]
    refine ⟨fun h => ?_, fun h => ⟨?_, ?_, ?_, ?_⟩⟩
    · rw [hrun, cplParam.eq_def, if_pos h]
    · rw [hrun, cplParam, if_neg (not_not.2 h)]
    · rw [hrun, cplParam, if_neg (not_not.2 h)]
    · rw [hrun, cplParam, if_neg (not_not.2 h), BitVec.setWidth_eq_extractLsb' (by decide)]
    · rw [hrun, cplParam, if_neg (not_not.2 h), BitVec.setWidth_eq_extractLsb' (by decide)]

/-- Settles O10: by the kind of the selected ring. -/
theorem ringCommandsChangeState : Obligations.RingCommandsChangeState := by
  unfold Obligations.RingCommandsChangeState
  intro fn s hon
  have hup : busOn s fn = true ∧ s.mode ≠ .lockdown := by simpa [setupOn] using hon
  have henable : exec (.ringEnable fn) s = .next (enableRing fn s) := by
    change execRingEnable fn s = _
    rw [execRingEnable, if_neg (by simp [hup.1]), if_neg hup.2]
  refine ⟨fun r hsel => ⟨?_, ?_⟩, fun c hsel => ⟨?_, ?_, fun st => rfl⟩⟩
  · simp only [henable, enableRing, hsel]
    rfl
  · change execRingDisable fn s = _
    simp only [execRingDisable, atSetup, if_pos hon, hsel]
    rfl
  · simp only [henable, enableRing, hsel]
    rfl
  · change execRingDisable fn s = _
    simp only [execRingDisable, atSetup, if_pos hon, hsel]
    rfl

section
variable {s : State} {r : SqNo}

theorem flushWaiting_of_none (h : ∀ w ∈ s.fe.waiting, w.ring ≠ r) : flushWaiting r s = s := by
  have hnone : s.fe.waiting.filter (·.ring == r) = [] := List.filter_eq_nil_iff.2 fun w hw => by simpa using h w hw
  rw [flushWaiting, hnone, List.foldl_nil]

theorem abortRing_of_none (h : ∀ e ∈ s.peals, e.2.ring ≠ r) : abortRing r s = s := by
  have hnone : s.peals.filter (fun e => e.2.ring == r) = [] := List.filter_eq_nil_iff.2 fun e he => by simpa using h e he
  rw [abortRing, hnone, List.foldl_nil]

theorem State.sq_mSq {f : SubRing → SubRing} (h : f (s.sq r) ≠ SubRing.init) : (s.mSq r f).sq r = f (s.sq r) :=
  smGet_set_of_ne_default h _ _

theorem State.mSq_congr {f g : SubRing → SubRing} (h : f (s.sq r) = g (s.sq r)) : s.mSq r f = s.mSq r g := by
  simp only [State.mSq, State.mFe, smMod]
  rw [show f (smGet SubRing.init s.fe.sqs r.toNat) = g (smGet SubRing.init s.fe.sqs r.toNat) from h]

/-- A ring that a queue reset has set draining. -/
def resettingAs (abort : Bool) (q : SubRing) : SubRing := { q with state := .resetting, abort := abort }

theorem resettingAs_ne_init (abort : Bool) (q : SubRing) : resettingAs abort q ≠ SubRing.init := by
  intro h
  have hstate := congrArg SubRing.state h
  simp [resettingAs, SubRing.init] at hstate

/-- A queue reset of a ring with none of its descriptors waiting or admitted. -/
theorem resetRing_of_enabled {fn : Fn} (abort : Bool) (hsel : selected s fn = .sub r) (hstate : (s.sq r).state = .enabled)
    (hwait : ∀ w ∈ s.fe.waiting, w.ring ≠ r) (hpeals : ∀ e ∈ s.peals, e.2.ring ≠ r) :
    resetRing fn abort s = (s.mSq r (resettingAs abort)).mSq r SubRing.drain := by
  have hflush : flushWaiting r (s.mSq r (resettingAs abort)) = s.mSq r (resettingAs abort) := flushWaiting_of_none hwait
  have habort : abortRing r (s.mSq r (resettingAs abort)) = s.mSq r (resettingAs abort) := abortRing_of_none hpeals
  have hstart : s.mSq r (fun q => { q with state := .resetting, abort := abort }) = s.mSq r (resettingAs abort) := rfl
  simp only [resetRing, hsel, resetSub, hstate, hstart, hflush, whenDo, habort, ite_self]

theorem drain_of_idle {abort : Bool} (h : (s.sq r).outstanding = 0) :
    (s.mSq r (resettingAs abort)).mSq r SubRing.drain = (s.mSq r (resettingAs abort)).mSq r SubRing.drained := by
  refine State.mSq_congr ?_
  rw [State.sq_mSq (resettingAs_ne_init abort _)]
  exact if_pos ⟨rfl, h⟩

theorem drain_of_outstanding {abort : Bool} (h : (s.sq r).outstanding ≠ 0) :
    ((s.mSq r (resettingAs abort)).mSq r SubRing.drain).sq r = resettingAs abort (s.sq r) := by
  have hq := State.sq_mSq (s := s) (r := r) (resettingAs_ne_init abort _)
  have hdrain : SubRing.drain (resettingAs abort (s.sq r)) = resettingAs abort (s.sq r) := if_neg fun e => h e.2
  rw [State.sq_mSq (by rw [hq, hdrain]; exact resettingAs_ne_init abort _), hq, hdrain]

end

/-- Settles O12: with nothing to flush or abort, the reset ring drains at once or stays as it was set. -/
theorem ringResetStartsDraining : Obligations.RingResetStartsDraining := by
  unfold Obligations.RingResetStartsDraining
  intro fn s hon
  have hreset : exec (.ringReset fn) s = .next (resetRing fn false s) := by
    change atSetup fn _ s = _
    rw [atSetup, if_pos hon]
  have hresetAbort : exec (.ringResetAbort fn) s = .next (resetRing fn true s) := by
    change atSetup fn _ s = _
    rw [atSetup, if_pos hon]
  rw [hreset, hresetAbort]
  refine ⟨fun r hsel hstate hwait hpeals => ?_, fun c hsel hstate hbound => ?_⟩
  · rw [resetRing_of_enabled false hsel hstate hwait hpeals, resetRing_of_enabled true hsel hstate hwait hpeals]
    refine ⟨fun h => ?_, fun h => ?_⟩
    · rw [drain_of_idle h, drain_of_idle h]
      exact ⟨rfl, rfl⟩
    · exact ⟨_, _, rfl, rfl, drain_of_outstanding h, drain_of_outstanding h, rfl, rfl⟩
  · have hcpl (abort : Bool) : resetRing fn abort s = clearCq c .disabled s := by
      simp only [resetRing, hsel, resetCpl]
      rw [if_pos ⟨hstate, hbound⟩]
    rw [hcpl, hcpl]
    exact ⟨rfl, rfl⟩

end Sys2Proof.Machine
end

section
/-! The functions' set-up and event registers (O13, O15). -/
namespace Sys2Proof.Machine

section
variable {fn : Fn} {s : State}

/-- The highest version offered, of those supported. -/
theorem sriChoice_of_offer (offer : BitVec 3) (h : offer ≠ 0) :
    sriChoice offer = if offer.getLsbD 2 then 0x21 else if offer.getLsbD 1 then 0x20 else 0x12 := by
  revert h
  revert offer
  decide

theorem sriChoice_ne_zero (offer : BitVec 3) (h : offer ≠ 0) : sriChoice offer ≠ 0 := by
  revert h
  revert offer
  decide

/-- What a credit snapshot latches. -/
theorem exec_creditSnapshot (hon : setupOn s fn = true) (d : BitVec 32) {picked : Option (List SubRing)}
    (hpicked : (if d.getLsbD 16 then
      (if s.fe.sqAssign.any fun e => e.2.valid && e.2.fn == fn then some (ringsOf s fn) else none)
      else (sqOf s fn (d.extractLsb' 0 10).toNat).map fun r => [s.sq r]) = picked) :
    exec (.creditSnapshot fn d) s = .next (s.mFunc fn fun f => { f with
      snapRing := d.extractLsb' 0 10, snapScope := d.getLsbD 16,
      snapConsumed := (picked.getD []).foldl (fun a q => a + q.consumed) 0,
      snapPosted := (picked.getD []).foldl (fun a q => a + q.posted) 0,
      snapSuppressed := (picked.getD []).foldl (fun a q => a + q.suppressed) 0,
      snapOutstanding := BitVec.ofNat 17 (min 0x1FFFF ((picked.getD []).map (·.outstanding.toNat)).sum),
      snapValid := picked.isSome }) := by
  change execCreditSnapshot fn d s = _
  rw [execCreditSnapshot, atSetup_of_setupOn hon]
  dsimp only
  rw [hpicked]
  cases picked <;> rfl

end

/-- Settles O13: each register under the conditions of its function's rings. -/
theorem functionSetupWrites : Obligations.FunctionSetupWrites := by
  unfold Obligations.FunctionSetupWrites
  refine ⟨fun fn d32 d s hon => ⟨fun hdis hoff => ?_, fun hdis hoff => ?_, fun hdis => ?_, fun hdis => ⟨?_, ?_⟩,
    fun hdis b => ?_, ?_, ?_⟩, fun fn d s hon => ⟨fun hscope r hr => ?_, fun hscope hr => ?_, fun hscope hany => ?_,
    fun hscope hnone => ?_, fun r hsel => ?_, fun hsel => ?_, fun c hsel => ?_⟩⟩
  · change execSriOfferWrite fn d32 s = _
    rw [execSriOfferWrite, atSetup_of_setupOn hon, if_neg (by simp [hdis])]
    simp only [whenDo, beq_iff_eq, if_neg (sriChoice_ne_zero _ hoff)]
    rw [sriChoice_of_offer _ hoff]
    simp
  · change execSriOfferWrite fn d32 s = _
    rw [execSriOfferWrite, atSetup_of_setupOn hon, if_neg (by simp [hdis])]
    simp only [hoff]
    rfl
  · change execSriOfferWrite fn d32 s = _
    rw [execSriOfferWrite, atSetup_of_setupOn hon, if_pos (by simp [hdis])]
  · change execHktRegisterWrite fn false d s = _
    rw [execHktRegisterWrite, atSetup_of_setupOn hon, if_neg (by simp [hdis])]
    rfl
  · change execHktRegisterWrite fn true d s = _
    rw [execHktRegisterWrite, atSetup_of_setupOn hon, if_neg (by simp [hdis]), BitVec.setWidth_eq_extractLsb' (by decide)]
    rfl
  · change execHktRegisterWrite fn b d s = _
    rw [execHktRegisterWrite, atSetup_of_setupOn hon, if_pos (by simp [hdis])]
  · exact atSetup_of_setupOn hon _
  · exact atSetup_of_setupOn hon _
  · have hmin : min 0x1FFFF (s.sq r).outstanding.toNat = (s.sq r).outstanding.toNat := by omega
    have hout : BitVec.ofNat 17 (min 0x1FFFF (([s.sq r].map (·.outstanding.toNat)).sum)) = (s.sq r).outstanding := by
      rw [List.map_singleton, List.sum_singleton, hmin, BitVec.ofNat_toNat, BitVec.setWidth_eq]
    rw [exec_creditSnapshot hon d (picked := some [s.sq r]) (by rw [hscope, hr]; rfl), hscope]
    simp only [Option.getD_some, hout, List.foldl_cons, List.foldl_nil, zero_add]
    rfl
  · rw [exec_creditSnapshot hon d (picked := none) (by rw [hscope, hr]; rfl), hscope]
    rfl
  · obtain ⟨e, he, hvalid, hfn⟩ := hany
    have hany : (s.fe.sqAssign.any fun e => e.2.valid && e.2.fn == fn) = true :=
      List.any_eq_true.2 ⟨e, he, by simp [hvalid, hfn]⟩
    rw [exec_creditSnapshot hon d (picked := some (ringsOf s fn)) (by simp only [hscope, hany, if_true]), hscope]
    rfl
  · have hany : (s.fe.sqAssign.any fun e => e.2.valid && e.2.fn == fn) = false :=
      List.any_eq_false.2 fun e he => by
        by_cases hv : e.2.valid = true
        · simp [hv, hnone e he hv]
        · simp [hv]
    rw [exec_creditSnapshot hon d (picked := none) (by simp only [hscope, hany, if_true]; rfl), hscope]
    rfl
  · change execCqIrqEnableWrite fn d s = _
    rw [execCqIrqEnableWrite, atSetup_of_setupOn hon]
    simp only [hsel]
  · change execCqIrqEnableWrite fn d s = _
    rw [execCqIrqEnableWrite, atSetup_of_setupOn hon]
    simp only [hsel, refuseRing]
  · change execCqIrqEnableWrite fn d s = _
    rw [execCqIrqEnableWrite, atSetup_of_setupOn hon]
    simp only [hsel]
    rfl

/-! Register writes. -/

section
variable {s : State}

/-- A write that reaches the device's registers, by the register's place and the width. -/
theorem exec_deviceWrite (o : BitVec 18) {n : BitVec 4} (d : BitVec 64) (hn : n = 4 ∨ n = 8) (hbus : busOn s 0 = true)
    (hmode : s.mode ≠ .lockdown ∨ lockdownOff o.toNat = true) (halign : o.toNat % n.toNat = 0) (hlow : 0x20000 ≤ o.toNat) :
    exec (.registerWrite 0 o n d) s = .next (
      if 0x28200 ≤ o.toNat ∧ o.toNat < 0x28400 then lcDataPut (o.toNat - 0x28200) (natLe n.toNat d.toNat) s
      else if n = 4 then devWrite32 o.toNat (d.setWidth 32) s else devWrite64 o.toNat d s) := by
  change execRegisterWrite 0 o n d s = _
  have hopen : ¬ (!busOn s 0 || (s.mode = .lockdown && !((0 : Fn) = 0 && lockdownOff o.toNat)) ||
      (n.toNat ≠ 4 && n.toNat ≠ 8) || o.toNat % n.toNat ≠ 0) = true := by
    have hb : (!busOn s 0) = false := by rw [hbus]; rfl
    rw [hb]
    rcases hn with rfl | rfl <;> rcases hmode with h | h <;> simp [h] <;> exact halign
  rw [execRegisterWrite, if_neg hopen, if_neg (Nat.not_lt.2 hlow), if_neg (not_not.2 rfl)]
  simp only [Bool.and_eq_true, decide_eq_true_eq]
  rcases hn with rfl | rfl <;> rfl

theorem extractLsb'_setWidth32 (d : BitVec 64) {i n : Nat} (h : i + n ≤ 32) :
    (d.setWidth 32).extractLsb' i n = d.extractLsb' i n := by
  refine BitVec.eq_of_getLsbD_eq fun j hj => ?_
  have hlow : i + j < 32 := by omega
  simp [hj, hlow]

/-- A 4-byte write of a device register outside Lockdown. -/
theorem exec_devWrite32 (o : BitVec 18) (d : BitVec 64) (hbus : busOn s 0 = true)
    (hmode : s.mode ≠ .lockdown ∨ lockdownOff o.toNat = true) (halign : o.toNat % 4 = 0) (hlow : 0x20000 ≤ o.toNat)
    (hdata : ¬ (0x28200 ≤ o.toNat ∧ o.toNat < 0x28400)) :
    exec (.registerWrite 0 o 4 d) s = .next (devWrite32 o.toNat (d.setWidth 32) s) := by
  rw [exec_deviceWrite o d (.inl rfl) hbus hmode halign hlow, if_neg hdata, if_pos rfl]

end

/-- Settles O15: the event registers by their definitions, and each register of the window by its place. -/
theorem registerWritesSetTheirFields : Obligations.RegisterWritesSetTheirFields := by
  unfold Obligations.RegisterWritesSetTheirFields
  refine ⟨fun fn d v s => ⟨fun hon => ⟨?_, ?_⟩, fun hon => ⟨?_, ?_⟩, fun t0 hsent hdue htime => ?_, fun hbus hv => ?_⟩,
    fun fn d s => ⟨fun hbus hmode => ?_, fun hbus hmode => ⟨?_, ?_, ?_, ?_, ?_, ?_⟩, fun hbus => ⟨?_, ?_, ?_, fun hw => ?_, fun hw => ?_⟩,
      fun hbus hw => ?_, fun o n hbus hn halign ho => ?_, fun off x hbus hoff hx => ?_⟩⟩
  · change execEventFlagClear fn false d s = _
    rw [execEventFlagClear, if_neg (by simp [hon]), if_neg (by simp), BitVec.setWidth_eq_extractLsb' (by decide)]
    rfl
  · change execEventEnableWrite fn false d s = _
    have hmask : (d.setWidth 17 &&& (if fn = 0 then 0x1FFFF else 0x1FBFF : BitVec 17)) =
        if fn = 0 then d.extractLsb' 0 17 else d.extractLsb' 0 17 &&& ~~~(1#17 <<< 10) := by
      rw [BitVec.setWidth_eq_extractLsb' (by decide)]
      split
      · exact BitVec.and_allOnes
      · rfl
    rw [execEventEnableWrite, if_neg (by simp [hon]), if_neg (by simp), hmask]
    simp only [whenDo, decide_eq_true_eq]
  · change execEventFlagClear 0 true d s = _
    rw [execEventFlagClear, if_neg (by simpa using hon), if_pos rfl, BitVec.setWidth_eq_extractLsb' (by decide)]
    rfl
  · change execEventEnableWrite 0 true d s = _
    rw [execEventEnableWrite, if_neg (by simpa using hon), if_pos rfl, BitVec.setWidth_eq_extractLsb' (by decide)]
    simp only [whenDo, decide_eq_true_eq]
  · change execEventMessageInterval fn s = _
    simp only [execEventMessageInterval, hsent]
    rw [if_neg (by simpa [hdue, us] using htime)]
  · change execMsixVectorUnmask fn v s = _
    rw [execMsixVectorUnmask, if_neg (by simpa [hbus] using hv)]
  · have hopen : ¬ (!busOn s fn || (s.mode = .lockdown && !(fn = 0 && lockdownOff (0xAC : BitVec 18).toNat)) ||
        ((4 : BitVec 4).toNat ≠ 4 && (4 : BitVec 4).toNat ≠ 8) || (0xAC : BitVec 18).toNat % (4 : BitVec 4).toNat ≠ 0) = true := by
      simp [hbus, hmode]
    have hfields : (d.setWidth 32).extractLsb' 0 4 = d.extractLsb' 0 4 ∧ (d.setWidth 32).extractLsb' 8 8 = d.extractLsb' 8 8 :=
      ⟨extractLsb'_setWidth32 d (by decide), extractLsb'_setWidth32 d (by decide)⟩
    change execRegisterWrite fn 0xAC 4 d s = _
    rw [execRegisterWrite, if_neg hopen, if_pos (by decide), if_pos (by decide), fnWrite, if_pos (by decide), hfields.1, hfields.2]
  · rw [exec_devWrite32 _ d hbus (.inl hmode) (by decide) (by decide) (by decide), ← extractLsb'_setWidth32 d (by decide)]
    rfl
  · rw [exec_deviceWrite _ d (.inr rfl) hbus (.inl hmode) (by decide) (by decide)]
    rfl
  · rw [exec_devWrite32 _ d hbus (.inl hmode) (by decide) (by decide) (by decide), ← extractLsb'_setWidth32 d (by decide),
      ← extractLsb'_setWidth32 d (show 10 + 16 ≤ 32 by decide)]
    rfl
  · rw [exec_devWrite32 _ d hbus (.inl hmode) (by decide) (by decide) (by decide), ← extractLsb'_setWidth32 d (by decide)]
    rfl
  · rw [exec_devWrite32 _ d hbus (.inl hmode) (by decide) (by decide) (by decide), ← extractLsb'_setWidth32 d (by decide)]
    rfl
  · rw [exec_devWrite32 _ d hbus (.inl hmode) (by decide) (by decide) (by decide), ← extractLsb'_setWidth32 d (by decide)]
    rfl
  · rw [exec_devWrite32 _ d hbus (.inr rfl) (by decide) (by decide) (by decide), ← extractLsb'_setWidth32 d (by decide)]
    rfl
  · rw [exec_devWrite32 _ d hbus (.inr rfl) (by decide) (by decide) (by decide), ← extractLsb'_setWidth32 d (by decide)]
    rfl
  · rw [exec_devWrite32 _ d hbus (.inr rfl) (by decide) (by decide) (by decide), ← extractLsb'_setWidth32 d (by decide)]
    rfl
  · rw [exec_deviceWrite _ d (.inr rfl) hbus (.inr rfl) (by decide) (by decide), ← BitVec.setWidth_eq_extractLsb' (by decide)]
    exact congrArg Host.Outcome.next (if_pos hw)
  · rw [exec_deviceWrite _ d (.inr rfl) hbus (.inr rfl) (by decide) (by decide)]
    exact congrArg Host.Outcome.next (if_neg (show ¬ snareWritable s = true by simp [hw]))
  · rw [exec_devWrite32 _ d hbus (.inr rfl) (by decide) (by decide) (by decide), ← extractLsb'_setWidth32 d (by decide)]
    exact congrArg Host.Outcome.next (if_pos hw)
  · have hoff : (0x28200 + BitVec.ofNat 18 o : BitVec 18).toNat = 0x28200 + o := by
      change (0x28200#18 + BitVec.ofNat 18 o).toNat = _
      rw [BitVec.toNat_add, BitVec.toNat_ofNat, BitVec.toNat_ofNat]
      omega
    have hmod : (0x28200 + o) % n.toNat = 0 := by
      have hwidth : n.toNat = 4 ∨ n.toNat = 8 := by
        rcases hn with rfl | rfl
        · exact .inl rfl
        · exact .inr rfl
      rcases hwidth with h | h <;> rw [h] at halign ⊢ <;> omega
    have hlen : (natLe n.toNat d.toNat).length = n.toNat := natLe_length _ _
    rw [exec_deviceWrite _ d hn hbus (.inr (by simp [lockdownOff]; omega)) (by rw [hoff, hmod]) (by rw [hoff]; omega),
      if_pos (by rw [hoff]; omega), hoff, Nat.add_sub_cancel_left, lcDataPut, hlen]
  · change execRegisterLowHalfRead fn off s = _
    rw [execRegisterLowHalfRead, if_neg (by simp [hbus, hoff]), hx]

end Sys2Proof.Machine
end

section
/-! Configuration space: bus mastering, D-states, function-level reset, the link and PERST_N (O16, O17). -/
namespace Sys2Proof.Machine

/-! What of the front end's port a change leaves. -/

/-- The waiting descriptors, VF Enable, what the link's state is, and the flag of a failed memory line. -/
def FrontEnd.port (e : FrontEnd) : List Waiting × Bool × Bool × Bool × Bool × Bool × Bool :=
  (e.waiting, e.vfEnable, e.linkL0, e.perstAsserted, e.cfgReady, e.reported, e.devFlags.getLsbD DevEvent.memIntegrity.num)

/-- The port is as it was. -/
abbrev KeepsPort (s t : State) : Prop := t.fe.port = s.fe.port

section
variable {s t u : State}

theorem KeepsPort.trans (h : KeepsPort s t) (k : KeepsPort t u) : KeepsPort s u := Eq.trans k h

theorem KeepsPort.ite {c : Prop} [Decidable c] (h : KeepsPort s t) (k : KeepsPort s u) :
    KeepsPort s (if c then t else u) := by
  split
  · exact h
  · exact k

theorem KeepsPort.of_fe (h : t.fe = s.fe) : KeepsPort s t := congrArg FrontEnd.port h

theorem foldl_port {α : Type} (f : State → α → State) (h : ∀ s a, KeepsPort s (f s a)) (l : List α) (s : State) :
    KeepsPort s (l.foldl f s) := by
  induction l generalizing s with
  | nil => rfl
  | cons a l ih => exact (h s a).trans (ih _)

theorem sendMsix_port (fn : Fn) (v : Nat) (s : State) : KeepsPort s (sendMsix fn v s) := by
  unfold sendMsix
  (repeat' split) <;> rfl

theorem eventMessage_port (fn : Fn) (s : State) : KeepsPort s (eventMessage fn s) := by
  unfold eventMessage
  (repeat' split)
  · rfl
  · rfl
  · exact sendMsix_port _ _ _
  · exact sendMsix_port _ _ _

/-- An event other than a failed line's. -/
theorem raiseDev_port {e : DevEvent} (he : e.num ≠ DevEvent.memIntegrity.num) (s : State) : KeepsPort s (raiseDev e s) := by
  have hbit : (((1 <<< e.num : Nat)) : BitVec 39).getLsbD DevEvent.memIntegrity.num = false := by
    rw [Nat.one_shiftLeft]
    change (BitVec.ofNat 39 (2 ^ e.num)).getLsbD _ = false
    rw [BitVec.getLsbD_ofNat, Nat.testBit_two_pow_of_ne he, Bool.and_false]
  have hflagged : KeepsPort s (s.mFe fun x =>
      { x with devFlags := x.devFlags ||| (1 <<< e.num), devCount := smMod 0 e.num satInc16 x.devCount,
               devSet := (if x.devSetAt = s.clk.now then x.devSet else 0) ||| (1 <<< e.num), devSetAt := s.clk.now }) := by
    simp only [KeepsPort, FrontEnd.port, State.mFe_fe, BitVec.getLsbD_or, hbit, Bool.or_false]
  exact .ite (hflagged.trans (eventMessage_port 0 _)) hflagged

theorem chimeCheck_port (fn : Fn) (c : CqNo) (s : State) : KeepsPort s (chimeCheck fn c s) := by
  have hnote (v : Nat) (t : State) : KeepsPort t (noteChime fn v t) := by
    unfold noteChime
    split
    · rfl
    · simp only [KeepsPort, State.mFe_fe]
      split <;> rfl
  refine .ite (.trans ?_ (sendMsix_port _ _ _)) rfl
  exact .trans (t := s.mCq c fun q => { q with pending := [] }) rfl (hnote _ _)

theorem lockdownCqs_port (s : State) : KeepsPort s (lockdownCqs s) := by
  unfold lockdownCqs
  split <;> rfl

theorem drainOne_port (s : State) (r : ReadyCpl) : KeepsPort s (drainOne s r) := by
  have hcredit (b : Bool) (r : SqNo) (t : State) : KeepsPort t (returnCredit b r t) := rfl
  have hpost (fn : Fn) (c : CqNo) (x : Cpl) (t : State) : KeepsPort t (postCpl fn c x t) :=
    .trans (t := (t.mFe _).mCq c _) rfl (chimeCheck_port _ _ _)
  unfold drainOne
  dsimp only
  (repeat' split)
  · exact hcredit _ _ _
  · exact hcredit _ _ _
  · exact (hpost _ _ _ _).trans ((hcredit _ _ _).trans (lockdownCqs_port _))
  · exact (hpost _ _ _ _).trans ((hcredit _ _ _).trans (lockdownCqs_port _))
  · rfl

theorem drainReady_port (s : State) : KeepsPort s (drainReady s) :=
  .trans (t := s.mFe fun e => { e with ready := [] }) rfl (foldl_port _ drainOne_port _ _)

theorem releaseMsix_port (fn : Fn) (s : State) : KeepsPort s (releaseMsix fn s) := by
  unfold releaseMsix
  split <;> rfl

/-! A peal that is dropped. -/

theorem returnHolds_port (q : Peal) (s : State) : KeepsPort s (returnHolds q s) := by
  rw [KeepsPort, returnHolds_ksOnly]

theorem withdrawWrite_port (p : PealSlot) (s : State) : KeepsPort s (withdrawWrite p s) := by
  unfold withdrawWrite
  dsimp only
  split_ifs <;> exact .of_fe (by simp only [State.mNv_fe, State.mClap_fe, State.mToll_fe])

theorem leaveQueues_port (p : PealSlot) (s : State) : KeepsPort s (leaveQueues p s) := by
  simpa [KeepsPort, leaveQueues] using withdrawWrite_port p s

theorem endPeal_port (p : PealSlot) (st : Stat) (step : Option Nat) (s : State) : KeepsPort s (endPeal p st step s) := by
  have hfree (q : Peal) (t : State) : KeepsPort t (freeHold q t) := rfl
  have hdrop (n : Nat) (t : State) : KeepsPort t (dropOuts n t) := rfl
  unfold endPeal
  split
  · rfl
  next q _ =>
    have hpeal := KeepsPort.of_fe (State.mPeal_fe s p (Peal.endedAs st step))
    exact hpeal.trans ((returnHolds_port q _).trans ((hfree q _).trans ((leaveQueues_port p _).trans (hdrop _ _))))

theorem dualJudge_port (p : PealSlot) (s : State) : KeepsPort s (dualJudge p s) := by
  have hpeal (f : Peal → Peal) (t : State) : KeepsPort t (t.mPeal p f) := .of_fe (State.mPeal_fe t p f)
  unfold dualJudge
  split
  · rfl
  · refine .ite rfl ?_
    split
    · rfl
    · extract_lets s1 s2
      have hs1 : KeepsPort s s1 := hpeal _ s
      have hs2 : KeepsPort s s2 := hs1.trans ((KeepsPort.of_fe (State.mPair_fe _ _)).trans (raiseDev_port (by decide) _))
      exact .ite hs1 (.ite (hs2.trans (hpeal _ _)) (hs2.trans (endPeal_port _ _ _ _)))

theorem failPeal_port (p : PealSlot) (st : Stat) (step : Option Nat) (s : State) : KeepsPort s (failPeal p st step s) :=
  (endPeal_port p st step s).trans (dualJudge_port p _)

theorem stopIdle_port (p : PealSlot) (q : Peal) (above : Option Nat) (s : State) : KeepsPort s (stopIdle p q above s) := by
  refine foldl_port _ (fun s i => ?_) _ s
  dsimp only
  refine .ite ?_ rfl
  exact (KeepsPort.of_fe (State.mPeal_fe s p _)).trans rfl

theorem settle_port (p : PealSlot) (s : State) : KeepsPort s (settle p s) := by
  unfold settle
  split
  · rfl
  · refine .ite rfl ?_
    split
    · exact .ite (stopIdle_port _ _ _ s) ((stopIdle_port _ _ _ s).trans (failPeal_port _ _ _ _))
    · split
      · exact .ite ((stopIdle_port _ _ _ s).trans (failPeal_port _ _ _ _)) (stopIdle_port _ _ _ s)
      · refine .ite rfl ?_
        split
        · exact failPeal_port _ _ _ s
        · exact (KeepsPort.of_fe (State.mPeal_fe s p _)).trans (dualJudge_port _ _)

theorem abortPeal_port (cause : AbortCause) (p : PealSlot) (s : State) : KeepsPort s (abortPeal cause p s) := by
  unfold abortPeal
  split
  · rfl
  · exact .ite (((KeepsPort.of_fe (State.mPeal_fe s p _)).trans (leaveQueues_port _ _)).trans (settle_port _ _)) rfl

theorem noteSuppressed_port (p : PealSlot) (s : State) : KeepsPort s (noteSuppressed p s) := by
  unfold noteSuppressed
  (repeat' split) <;> rfl

theorem flrPeal_port (s : State) (e : Nat × Peal) : KeepsPort s (flrPeal s e) := by
  have habort := abortPeal_port .flr (BitVec.ofNat 12 e.1) s
  have hpeal (f : Peal → Peal) := KeepsPort.of_fe (State.mPeal_fe s (BitVec.ofNat 12 e.1) f)
  unfold flrPeal
  split
  · exact habort
  · exact habort
  · exact .ite (hpeal _) habort
  · exact .ite rfl ((hpeal _).trans (noteSuppressed_port _ _))
  · exact hpeal _

theorem dropPeal_port (s : State) (e : Nat × Peal) : KeepsPort s (dropPeal s e) := by
  have habort := abortPeal_port .linkLoss (BitVec.ofNat 12 e.1) s
  have hpeal (f : Peal → Peal) := KeepsPort.of_fe (State.mPeal_fe s (BitVec.ofNat 12 e.1) f)
  unfold dropPeal
  split
  · exact habort
  · exact habort
  · exact .ite (hpeal _) habort
  · exact hpeal _

end

/-! Function-level reset. -/

section
variable {s : State} {fn : Fn}

theorem flrOn_port (hit : Fn → Bool) (s : State) :
    (flrOn hit s).fe.port = { s.fe with waiting := s.fe.waiting.filter (!hit ·.fn) }.port :=
  foldl_port flrPeal flrPeal_port _ _

theorem func_mapFuncs (f : Nat → Func → Func) (s : State) (fn : Fn) :
    (mapFuncs f s).func fn = Func.init ∨ ∃ x : Func, (mapFuncs f s).func fn = f fn.toNat x :=
  smGet_smMap_eq_default_or Func.init f s.fe.funcs fn.toNat

/-- A function that an FLR hits has its reset values, but for what Table 18-11 keeps. -/
theorem flrOn_func {hit : Fn → Bool} (h : hit fn = true) :
    (flrOn hit s).func fn = Func.init ∨ ∃ f : Func, (flrOn hit s).func fn = f.afterFlr fn.toNat := by
  refine (func_mapFuncs _ _ fn).imp_right fun ⟨f, hf⟩ => ⟨f, hf.trans ?_⟩
  rw [BitVec.ofNat_toNat, BitVec.setWidth_eq, if_pos h]

theorem flrOn_cleared {hit : Fn → Bool} (h : hit fn = true) : ((flrOn hit s).func fn).bme = false ∧
    ((flrOn hit s).func fn).sriActive = 0 ∧ ((flrOn hit s).func fn).evtFlags = 0 := by
  rcases flrOn_func (s := s) h with e | ⟨f, e⟩ <;> rw [e] <;> exact ⟨rfl, rfl, rfl⟩

/-- An FLR ends with its function held in reset. -/
theorem held_func (t : State) : (t.mFunc fn fun f => { f with flr := true }).func fn = { t.func fn with flr := true } := by
  refine State.func_mFunc fun h => ?_
  have hflr := congrArg Func.flr h
  simp [Func.init] at hflr

/-- What an FLR of the functions hit, one of them in reset from then on, leaves of that function. -/
theorem flr_spec {hit : Fn → Bool} (h : hit fn = true) (x : State) (hfuncs : x.fe.funcs = (flrOn hit s).fe.funcs)
    (hwait : x.fe.waiting = (flrOn hit s).fe.waiting) :
    ((x.mFunc fn fun f => { f with flr := true }).func fn).flr = true ∧
      ((x.mFunc fn fun f => { f with flr := true }).func fn).bme = false ∧
      ((x.mFunc fn fun f => { f with flr := true }).func fn).sriActive = 0 ∧
      ((x.mFunc fn fun f => { f with flr := true }).func fn).evtFlags = 0 ∧
      ∀ w ∈ (x.mFunc fn fun f => { f with flr := true }).fe.waiting, w.fn ≠ fn := by
  have hfunc : x.func fn = (flrOn hit s).func fn := by rw [State.func, hfuncs, State.func]
  obtain ⟨hbme, hsri, hflags⟩ := flrOn_cleared (s := s) h
  rw [held_func, hfunc]
  refine ⟨rfl, hbme, hsri, hflags, fun w hw hfn => ?_⟩
  have hport : (flrOn hit s).fe.waiting = s.fe.waiting.filter (!hit ·.fn) := congrArg Prod.fst (flrOn_port hit s)
  have hmem : w ∈ s.fe.waiting.filter (!hit ·.fn) := by
    rw [← hport, ← hwait]
    exact hw
  have hout := (List.mem_filter.1 hmem).2
  rw [hfn, h] at hout
  simp at hout

theorem flrOn_vfEnable (hit : Fn → Bool) (s : State) : (flrOn hit s).fe.vfEnable = s.fe.vfEnable :=
  congrArg (·.2.1) (flrOn_port hit s)

theorem vfVectors_field (n : BitVec 8) : (n.setWidth 32).extractLsb' 0 7 = n.setWidth 7 := by
  rw [← BitVec.setWidth_eq_extractLsb' (by decide), BitVec.setWidth_setWidth_of_le n (by decide)]

theorem exec_functionLevelReset (hon : configOn s fn = true) : exec (.functionLevelReset fn) s = .next
    ((if fn = 0 then (flrOn (fun _ => true) s).mFe fun e => { e with vfEnable := false } else flrOn (· == fn) s).mFunc fn
      fun f => { f with flr := true }) := by
  change execFunctionLevelReset fn s = _
  rw [execFunctionLevelReset, if_neg (by simp [hon])]

end

/-- Settles O16: each write where configuration space answers; an FLR by what it leaves of its function. -/
theorem configurationWrites : Obligations.ConfigurationWrites := by
  unfold Obligations.ConfigurationWrites
  intro fn on n s
  refine ⟨fun hon => ⟨?_, ?_⟩, fun hon hvf => ?_, fun hon hvf => ⟨?_, ?_⟩, fun hon => ⟨fun hvf hlow hhigh hne => ?_, fun h => ?_⟩,
    fun hon => ⟨fun hfn => ?_, fun hfn => ?_, ?_⟩, fun hflr => ?_⟩
  · change execBusMasterEnableWrite fn on s = _
    rw [execBusMasterEnableWrite, if_neg (by simp [hon]), busBack]
  · change execPowerStateWrite fn on s = _
    rw [execPowerStateWrite, if_neg (by simp [hon]), busBack]
  · change execVfEnableWrite on n s = _
    rw [execVfEnableWrite, if_neg (by simpa using hon), if_neg (by simp [hvf])]
  · change execVfEnableWrite true n s = _
    rw [execVfEnableWrite, if_neg (by simpa using hon), if_pos hvf, if_pos rfl]
  · change execVfEnableWrite false n s = _
    rw [execVfEnableWrite, if_neg (by simpa using hon), if_pos hvf, if_neg (by simp)]
  · have hnat : (n.setWidth 7).toNat = n.toNat := by
      rw [BitVec.toNat_setWidth, Nat.mod_eq_of_lt (by omega)]
    have hpos : n.setWidth 7 ≠ 0 := fun h => by
      rw [h] at hnat
      exact absurd hlow (by simp [← hnat])
    have hvalid : ¬ (s.fe.vfEnable || n.setWidth 7 = 0 || 64 < (n.setWidth 7).toNat || s.fe.vfVectors = n.setWidth 7) = true := by
      simpa only [hvf, hnat, Bool.false_or, Bool.or_eq_true, decide_eq_true_eq, not_or, Nat.not_lt] using ⟨⟨hpos, hhigh⟩, hne⟩
    change execVfVectorsWrite (n.setWidth 32) s = _
    rw [execVfVectorsWrite, atSetup_of_setupOn hon]
    simp only [vfVectors_field, if_neg hvalid]
  · have hkeep : (s.fe.vfEnable || n.setWidth 7 = 0 || 64 < (n.setWidth 7).toNat || s.fe.vfVectors = n.setWidth 7) = true := by
      simp only [Bool.or_eq_true, decide_eq_true_eq]
      rcases h with h | rfl | ⟨hlow, hhigh⟩
      · exact .inl (.inl (.inl h))
      · exact .inl (.inl (.inr rfl))
      · refine .inl (.inr ?_)
        rw [BitVec.toNat_setWidth, Nat.mod_eq_of_lt (by omega)]
        exact hlow
    change execVfVectorsWrite (n.setWidth 32) s = _
    rw [execVfVectorsWrite, atSetup_of_setupOn hon]
    simp only [vfVectors_field, if_pos hkeep]
  · rw [exec_functionLevelReset hon, if_neg hfn]
  · subst hfn
    rw [exec_functionLevelReset hon, if_pos rfl]
  · refine ⟨_, exec_functionLevelReset hon, ?_⟩
    by_cases hfn : fn = 0
    · rw [if_pos hfn, if_pos hfn]
      obtain ⟨h1, h2, h3, h4, h5⟩ := flr_spec (s := s) (fn := fn) (hit := fun _ => true) rfl
        ((flrOn (fun _ => true) s).mFe fun e => { e with vfEnable := false }) rfl rfl
      exact ⟨h1, h2, h3, h4, h5, rfl⟩
    · rw [if_neg hfn, if_neg hfn]
      obtain ⟨h1, h2, h3, h4, h5⟩ := flr_spec (s := s) (fn := fn) (hit := (· == fn)) (beq_self_eq_true fn) (flrOn (· == fn) s) rfl rfl
      exact ⟨h1, h2, h3, h4, h5, flrOn_vfEnable (· == fn) s⟩
  · change execFlrComplete fn s = _
    rw [execFlrComplete, if_pos hflr]

/-! The link. -/

section
variable {s : State}

theorem sq_disabled_of_smMap {t : State} {f : Nat → SubRing → SubRing} {m : SMap SubRing}
    (ht : t.fe.sqs = smMap SubRing.init f m) (h : ∀ k q, (f k q).state = .disabled) (r : SqNo) :
    (t.sq r).state = .disabled := by
  rw [State.sq, ht]
  rcases smGet_smMap_eq_default_or SubRing.init f m r.toNat with e | ⟨q, e⟩
  · rw [e]
    rfl
  · rw [e, h]

theorem cq_disabled_of_smMap {t : State} {f : Nat → CplRing → CplRing} {m : SMap CplRing}
    (ht : t.fe.cqs = smMap CplRing.init f m) (h : ∀ k q, (f k q).state = .disabled) (c : CqNo) :
    (t.cq c).state = .disabled := by
  rw [State.cq, ht]
  rcases smGet_smMap_eq_default_or CplRing.init f m c.toNat with e | ⟨q, e⟩
  · rw [e]
    rfl
  · rw [e, h]

theorem wiped_disabled (s : State) : (∀ r : SqNo, ((wipeRings (fun _ => true) s).sq r).state = .disabled) ∧
    ∀ c : CqNo, ((wipeRings (fun _ => true) s).cq c).state = .disabled := by
  have hsqs : ∃ f, (wipeRings (fun _ => true) s).fe.sqs = smMap SubRing.init f s.fe.sqs ∧
      ∀ k q, (f k q).state = .disabled := by
    unfold wipeRings
    refine ⟨_, by simp only [State.mFe_fe]; rfl, fun k q => ?_⟩
    split
    · rfl
    next h => exact absurd (by split <;> rfl) h
  have hcqs : ∃ f, (wipeRings (fun _ => true) s).fe.cqs = smMap CplRing.init f s.fe.cqs ∧
      ∀ k q, (f k q).state = .disabled := by
    unfold wipeRings
    refine ⟨_, by simp only [State.mFe_fe]; rfl, fun k q => ?_⟩
    split
    · rfl
    next h => exact absurd (by split <;> rfl) h
  obtain ⟨_, hsq, hdis⟩ := hsqs
  obtain ⟨_, hcq, hdis'⟩ := hcqs
  exact ⟨sq_disabled_of_smMap hsq hdis, cq_disabled_of_smMap hcq hdis'⟩

theorem enter_fe (m : Mode) (s : State) : (s.enter m).fe = s.fe := by
  unfold State.enter
  split <;> rfl

theorem toRest_fe (s : State) : (toRest s).fe = s.fe := by
  have hsurge : (withdrawSurge s).fe = s.fe := by
    unfold withdrawSurge
    dsimp only
    split
    · rw [enter_fe]
      rfl
    · rfl
  unfold toRest
  split
  · rw [enter_fe, hsurge]
  · rfl

/-- The link out of L0: its port, its rings and the mode. -/
theorem dropLink_spec (s : State) : (dropLink s).fe.port = { s.fe with linkL0 := false, waiting := [] }.port ∧
    (∀ r : SqNo, ((dropLink s).sq r).state = .disabled) ∧ (∀ c : CqNo, ((dropLink s).cq c).state = .disabled) ∧
    (dropLink s).mode = (if s.mode.working then .rest else s.mode) := by
  have hfe : (dropLink s).fe = (discardWork (s.mFe fun e => { e with linkL0 := false })).fe := toRest_fe _
  refine ⟨?_, fun r => ?_, fun c => ?_, dropLink_mode s⟩
  · rw [hfe]
    exact foldl_port dropPeal dropPeal_port _ _
  · rw [State.sq, hfe]
    exact (wiped_disabled _).1 r
  · rw [State.cq, hfe]
    exact (wiped_disabled _).2 c

theorem perstSettled_of {t0 : Nat} (hperst : s.fe.perstAsserted = false) (hrel : s.fe.perstReleasedAt = some t0)
    (hdue : t0 + 20000000 ≤ s.clk.now) : perstSettled s = true := by
  have hms : ms 20 = 20000000 := by simp [ms]
  simp only [perstSettled, hperst, hrel, hms, Bool.not_false, Bool.true_and]
  exact decide_eq_true hdue

theorem toReady_eq_ite (s : State) : (toReady s).mode =
    if s.mode = .rest ∧ s.fe.linkL0 = true ∧ s.fe.reported = true then .ready else s.mode := by
  unfold toReady
  split
  next h => rw [State.enter_mode, if_pos (by simpa [and_assoc] using h)]
  next h => rw [if_neg (by simpa [and_assoc] using h)]

theorem toReady_port (s : State) : KeepsPort s (toReady s) := by
  unfold toReady State.enter
  (repeat' split) <;> rfl

end

/-- Settles O17: by what each leaves of the front end's port, and the mode. -/
theorem linkAndPcieReset : Obligations.LinkAndPcieReset := by
  unfold Obligations.LinkAndPcieReset
  intro s
  refine ⟨fun hdown hmain hperst hheld => ?_, fun hup => ?_, fun hperst hreset hmain => ?_, fun hperst => ?_,
    fun t0 hperst hrel hdue hmain hstage => ⟨fun hheld => ?_, ?_⟩⟩
  · obtain ⟨u, hu⟩ : ∃ u, u = toReady (s.mFe fun e => { e with linkL0 := true }) := ⟨_, rfl⟩
    have hrun : exec .linkEntersL0 s =
        .next (drainReady ((u.fe.funcs.map (·.1)).foldl (fun s k => releaseMsix (BitVec.ofNat 8 k) s) u)) := by
      change execLinkEntersL0 s = _
      rw [execLinkEntersL0, if_neg (by simp [hdown, hmain, hperst, hheld]), hu]
    have hrest := foldl_port (fun s k => releaseMsix (BitVec.ofNat 8 k) s) (fun s k => releaseMsix_port _ s)
      (u.fe.funcs.map (·.1)) u
    have hkeeps := (foldl_keeps (fun s k => releaseMsix (BitVec.ofNat 8 k) s) (fun s k => releaseMsix_keeps _ s)
      (u.fe.funcs.map (·.1)) u).trans (drainReady_keeps _)
    have hport : KeepsPort (s.mFe fun e => { e with linkL0 := true }) (drainReady _) :=
      (hu ▸ toReady_port _).trans (hrest.trans (drainReady_port _))
    refine ⟨_, hrun, congrArg (·.2.2.1) hport, ?_⟩
    rw [hkeeps.2.2.2.1, hu, toReady_eq_ite]
    simp
  · obtain ⟨hport, hsq, hcq, hmode⟩ := dropLink_spec s
    have hrun : exec .linkLeavesL0 s = .next (dropLink s) := by
      change execLinkLeavesL0 s = _
      rw [execLinkLeavesL0, if_pos hup]
    exact ⟨_, hrun, congrArg (·.2.2.1) hport, congrArg (·.1) hport, hsq, hcq, hmode⟩
  · obtain ⟨hport, _, _, _⟩ := dropLink_spec (s.mFe fun e => { e with perstAsserted := true, perstReleasedAt := none })
    have hrun : exec .perstAssert s = .next ((pcieReset (s.mFe fun e => { e with perstAsserted := true, perstReleasedAt := none })).mBoot
        fun b => { b with cause := if b.stage = 7 || b.stage = 0xF then 3 else b.cause }) := by
      change execPerstAssert s = _
      rw [execPerstAssert, if_neg (by simp [hperst]), if_neg (by simp [hreset, hmain])]
    refine ⟨_, hrun, congrArg (·.2.2.2.1) hport, congrArg (·.2.2.1) hport, rfl, rfl, rfl, ?_⟩
    rw [State.mBoot_mode, pcieReset_mode]
    rfl
  · change execPerstRelease s = _
    rw [execPerstRelease, if_pos hperst]
  · have hsettled := perstSettled_of hperst hrel hdue
    change execConfigSpaceReady s = _
    rw [execConfigSpaceReady, if_pos (by simp [hsettled, hmain, hstage, hheld])]
  · have hsettled := perstSettled_of hperst hrel hdue
    have hrun : exec .functionReady s = .next (toReady (s.mFe fun e => { e with cfgReady := true, reported := true })) := by
      change execFunctionReady s = _
      rw [execFunctionReady, if_pos (by simp [hsettled, hmain, hstage])]
    have hport := toReady_port (s.mFe fun e => { e with cfgReady := true, reported := true })
    refine ⟨_, hrun, congrArg (·.2.2.2.2.2.1) hport, congrArg (·.2.2.2.2.1) hport, ?_⟩
    rw [toReady_eq_ite]
    simp

end Sys2Proof.Machine
end

section
/-! Admission, what arrives for a peal, and the issue of a step (O18, O20, O21). -/
namespace Sys2Proof.Machine

/-! The decision about a waiting descriptor (O18): the equation of each branch. -/

theorem exec_admissionDecision {order : Nat} {s : State} {w : Waiting}
    (hfind : s.fe.waiting.find? (·.order == order) = some w) :
    exec (.admissionDecision order) s = .next (noteCauses (decideWaiting w s)) := by
  change execAdmissionDecision order s = _
  simp only [execAdmissionDecision, hfind]

theorem decideWaiting_of_lost {s : State} {w : Waiting} (hdec : deciding s = true) (hfn : w.fn ≠ 0)
    (hrole : s.pair.roles.getLsbD w.fn.toNat = false) : decideWaiting w s = refuseWaiting w (St.flushed, 2) s := by
  rw [decideWaiting, if_neg (by simp [hdec]), if_pos (by simpa [hrole] using hfn)]

/-- With the role held, the checks decide first. -/
theorem decideWaiting_of_held {s : State} {w : Waiting} (hdec : deciding s = true)
    (hrole : w.fn = 0 ∨ s.pair.roles.getLsbD w.fn.toNat = true) :
    (∀ st, candOf s w = .inl st → decideWaiting w s = refuseWaiting w st s) ∧
    (∀ c, candOf s w = .inr c → w.fn ≠ 0 → s.mode = .maintenance →
      decideWaiting w s = refuseWaiting w (St.refused, 5) s) := by
  have hkept : ¬ (w.fn ≠ 0 && !s.pair.roles.getLsbD w.fn.toNat) = true := by
    rcases hrole with h | h <;> simp [h]
  refine ⟨fun st hst => ?_, fun c hc hfn hm => ?_⟩
  · rw [decideWaiting, if_neg (by simp [hdec]), if_neg hkept]
    simp only [hst]
  · rw [decideWaiting, if_neg (by simp [hdec]), if_neg hkept]
    simp only [hc]
    rw [if_pos (by simpa [hm] using hfn)]

/-- What a decision does with a candidate that is not refused: it enters, or the decision notes what withholds it. -/
def grantOrHold (w : Waiting) (c : Cand) (held : Option (BitVec 3)) (free : Option PealSlot) (s : State) : State :=
  match held, c.cluster, free with
  | none, some n, some p => admitPeal { c with w := w.note s.clk.now none } n p s
  | h, _, _ =>
    setWaiting (w.note s.clk.now h) (whenDo (c.cls.toNat ≤ 1 && (h == some 3 || h == some 4))
      (State.mGov fun g => { g with waited := true }) s)

theorem decideWaiting_of_candidate {s : State} {w : Waiting} {c : Cand} (hdec : deciding s = true)
    (hrole : w.fn = 0 ∨ s.pair.roles.getLsbD w.fn.toNat = true) (hc : candOf s w = .inr c)
    (hm : w.fn = 0 ∨ s.mode ≠ .maintenance) :
    (∀ st, refusal (noteDecision (candidates s) s) c (withheldBy (noteDecision (candidates s) s) (candidates s) c) = some st →
      decideWaiting w s = refuseWaiting w st (noteDecision (candidates s) s)) ∧
    (refusal (noteDecision (candidates s) s) c (withheldBy (noteDecision (candidates s) s) (candidates s) c) = none →
      decideWaiting w s = grantOrHold w c (withheldBy (noteDecision (candidates s) s) (candidates s) c)
        (freeSlot (noteDecision (candidates s) s)) (noteDecision (candidates s) s)) := by
  have hkept : ¬ (w.fn ≠ 0 && !s.pair.roles.getLsbD w.fn.toNat) = true := by
    rcases hrole with h | h <;> simp [h]
  have hwork : ¬ (s.mode = .maintenance && w.fn ≠ 0) = true := by
    rcases hm with h | h <;> simp [h]
  constructor
  · intro st hst
    rw [decideWaiting, if_neg (by simp [hdec]), if_neg hkept]
    simp only [hc]
    rw [if_neg hwork, hst]
  · intro hnone
    rw [decideWaiting, if_neg (by simp [hdec]), if_neg hkept]
    simp only [hc]
    rw [if_neg hwork, hnone]
    rfl

theorem withheldBy_of_cause {u : State} {all : List Cand} {c : Cand} {k : BitVec 3} (h : c.cause u = some k) :
    withheldBy u all c = some k := by
  simp only [withheldBy, h]

theorem withheldBy_of_turn {u : State} {all : List Cand} {c x : Cand} (h : c.cause u = none)
    (hturn : turn u all = some x) (hsame : x.w.order = c.w.order) : withheldBy u all c = none := by
  simp [withheldBy, h, hturn, hsame]

theorem refusal_eq_none {u : State} {c : Cand} (hwait : c.d.noWait = false) (hdual : c.d.dual = false)
    (hlate : deadlineMissed u c = false) (held : Option (BitVec 3)) : refusal u c held = none := by
  simp [refusal, hwait, hdual, hlate]

theorem refusal_of_hot {u : State} {c : Cand} (hhot : c.thermalFails u = true) (hwait : c.d.noWait = true)
    (held : Option (BitVec 3)) : refusal u c held = some (St.refused, 3) := by
  rw [refusal, if_pos hhot, if_pos hwait]
  rfl

theorem grantOrHold_some (w : Waiting) (c : Cand) (k : BitVec 3) (free : Option PealSlot) (u : State) :
    grantOrHold w c (some k) free u = setWaiting (w.note u.clk.now (some k))
      (if c.cls.toNat ≤ 1 ∧ (k = 3 ∨ k = 4) then u.mGov fun g => { g with waited := true } else u) := by
  simp [grantOrHold, whenDo]

/-- Settles O18: by the branch of the decision; a candidate's own obstacle decides what withholds it. -/
theorem admissionGivesAnEntry : Obligations.AdmissionGivesAnEntry := by
  unfold Obligations.AdmissionGivesAnEntry
  intro order s w hdec hfind
  rw [exec_admissionDecision hfind]
  refine ⟨fun hfn hrole => by rw [decideWaiting_of_lost hdec hfn hrole], fun hrole => ?_⟩
  obtain ⟨hfail, hmaint⟩ := decideWaiting_of_held hdec hrole
  refine ⟨fun st hst => by rw [hfail st hst], fun c hc => ⟨fun hfn hm => by rw [hmaint c hc hfn hm], ?_⟩⟩
  rintro hm u rfl
  obtain ⟨hrefused, hpassed⟩ := decideWaiting_of_candidate hdec hrole hc hm
  refine ⟨fun x n p hcause hturn hsame hnone hcluster hslot => ?_, fun held hwait hdual hlate =>
    refusal_eq_none hwait hdual hlate held, fun k hcause hnone => ?_, fun hhot hwait => ?_⟩
  · have hheld := withheldBy_of_turn hcause hturn hsame
    rw [hheld] at hpassed
    rw [hpassed hnone]
    simp only [grantOrHold, hcluster, hslot]
  · have hheld := withheldBy_of_cause (all := candidates s) hcause
    rw [hheld] at hpassed
    rw [hpassed hnone, grantOrHold_some]
  · rw [hrefused _ (refusal_of_hot hhot hwait _)]

/-! What arrives for a peal (O20). -/

/-- What the parse of a request makes of its input, read into `u`. -/
def parseGiven (slot : PealSlot) (q : Peal) (given : Bytes) (u : State) : State :=
  if q.parsed then u.mPeal slot fun q => { q with input := some given }
  else match q.fmts.find? (·.id == q.entry.reqFmt) with
    | none => u.mPeal slot fun q => { q with input := some given, parsed := true }
    | some f =>
      match runParse f.consts given [] f.instrs with
      | some fs => u.mPeal slot fun q => { q with input := some given, parsed := true, fields := fs }
      | none => keysSettle slot (u.mPeal slot fun q => { q with input := some given, parseFail := true })

section Parse
variable {slot : PealSlot} {s : State} {q : Peal} (hq : s.peal slot = some q) (hrun : q.phase = .running)
  (habort : q.abort = none) (hlists : q.listsRead = true) (hentry : q.entryReady = true)
include hq hrun habort hlists hentry

theorem exec_requestParse_given {given bytes : Bytes} (hgiven : q.input = some given) (hopen : q.parsed = false) :
    exec (.requestParse slot bytes) s = .next (parseGiven slot q given s) := by
  change execRequestParse slot bytes s = _
  simp only [execRequestParse, hq, hgiven]
  rw [if_neg (by simp [hrun, habort, hlists, hentry, hopen])]
  rfl

theorem exec_requestParse_read {bytes : Bytes} (hnone : q.input = none) (hdma : canDma s q.fn = true) :
    exec (.requestParse slot bytes) s = .next (parseGiven slot q (fit q.desc.inLen bytes)
      (forwardDual slot (fit q.desc.inLen bytes) ((bufRanges q.desc.inMode q.desc.inAddr (q.inSgl.getD [])
        q.desc.inLen).foldl (fun s r => hostRead q.fn r.1 r.2 s) s))) := by
  change execRequestParse slot bytes s = _
  simp only [execRequestParse, hq, hnone]
  rw [if_neg (by simp [hrun, habort, hlists, hentry, hdma])]
  rfl

end Parse

/-- Settles O20: by the branch of each command; what the guards ask is among the hypotheses. -/
theorem whatArrivesForAPeal : Obligations.WhatArrivesForAPeal := by
  unfold Obligations.WhatArrivesForAPeal
  intro slot s q hq hrun habort
  refine ⟨fun out l hmode hnew hlen hdma => ?_, fun hdma hopen => ?_, fun bytes given u hlists hentry hinput => ?_,
    fun hentry => ⟨?_, ?_⟩, fun handle => ?_, fun fn handle rd f mask u hf hdma hfresh => ⟨fun st hst => ?_, fun r hr => ?_⟩⟩
  · change execSglListRead slot out l s = _
    simp only [execSglListRead, hq]
    rw [if_neg (by simp [hrun, habort, hmode, hnew, hlen, hdma]), hlen]
  · change execInputReadError slot s = _
    simp only [execInputReadError, hq]
    rw [if_neg (by rcases hopen with h | h <;> simp [hrun, hdma, h])]
  · have hexec : exec (.requestParse slot bytes) s = .next (parseGiven slot q given u) := by
      rcases hinput with ⟨hgiven, hopen, rfl⟩ | ⟨hnone, hdma, rfl, rfl⟩
      · exact exec_requestParse_given hq hrun habort hlists hentry hgiven hopen
      · exact exec_requestParse_read hq hrun habort hlists hentry hnone hdma
    refine ⟨fun hp => ?_, fun hp hf => ?_, fun f fs hp hf hpass => ?_, fun f hp hf hfault => ?_⟩
    · rw [hexec, parseGiven, if_pos hp]
    · rw [hexec, parseGiven, if_neg (by simp [hp])]
      simp only [hf]
    · rw [hexec, parseGiven, if_neg (by simp [hp])]
      simp only [hf, hpass]
    · rw [hexec, parseGiven, if_neg (by simp [hp])]
      simp only [hf, hfault]
  · change execPealEntryFetchComplete slot true s = _
    simp only [execPealEntryFetchComplete, hq]
    rw [if_neg (by simp [hrun, hentry]), if_neg (by simp)]
  · change execPealEntryFetchComplete slot false s = _
    simp only [execPealEntryFetchComplete, hq]
    rw [if_neg (by simp [hrun, hentry]), if_pos (by simp)]
  · change execTier2PageInComplete slot handle s = _
    simp only [execTier2PageInComplete, hq]
    rw [if_neg (by simp [hrun, habort])]
  · change execTier3FetchComplete fn handle rd s = _
    simp only [execTier3FetchComplete, hf]
    rw [if_neg (by simp [hdma])]
    simp only [hfresh, hst, whenDo]
    simp
  · refine ⟨_, rfl, ?_⟩
    change execTier3FetchComplete fn handle rd s = _
    simp only [execTier3FetchComplete, hf]
    rw [if_neg (by simp [hdma])]
    simp only [hfresh, hr]

/-! The issue of a step (O21). -/

theorem Peal.modRun_congr {i : Nat} {q : Peal} {f g : StepRun → StepRun} (h : f (q.run i) = g (q.run i)) :
    q.modRun i f = q.modRun i g := by
  have hsteps : modAt i f q.steps = modAt i g q.steps := by
    refine List.ext_getElem? fun j => ?_
    rw [modAt, modAt, List.getElem?_modify, List.getElem?_modify]
    by_cases hij : i = j
    · subst hij
      cases hget : q.steps[i]? with
      | none => rfl
      | some r =>
        have hrun : q.run i = r := by simp [Peal.run, List.getD, hget]
        simpa [hrun] using h
    · simp [hij]
  rw [Peal.modRun, Peal.modRun, hsteps]

theorem State.mPeal_congr {p : PealSlot} {s : State} {q : Peal} (hq : s.peal p = some q) {f g : Peal → Peal}
    (h : f q = g q) : s.mPeal p f = s.mPeal p g := by
  have hfind : smFind p.toNat s.peals = some q := hq
  simp only [State.mPeal, hfind, h]

theorem State.mRun_congr {p : PealSlot} {i : Nat} {s : State} {q : Peal} (hq : s.peal p = some q)
    {f g : StepRun → StepRun} (h : f (q.run i) = g (q.run i)) : s.mRun p i f = s.mRun p i g :=
  State.mPeal_congr hq (Peal.modRun_congr h)

/-- A step whose inputs pass and that draws nothing is seated as it is. -/
theorem startStep_of_plain {p : PealSlot} {i : Nat} {l : List Engine} {s : State} {q : Peal} {st : StepDef}
    (hq : s.peal p = some q) (hst : q.stepDef i = some st) (hwait : (q.run i).phase = .waiting)
    (hpass : inputFault s (q.live s p) st = none) (hgen : generates st = false) (hlen : drawLen q st = 0) :
    startStep p i l s = seatStep p i q.cluster l [] s := by
  simp only [startStep, hq, hst]
  rw [if_neg (by rw [hwait]; decide)]
  simp [hpass, hgen, drawAndSeat, hlen, drawSome]

/-- Settles O21: by the engines chosen; a step that waited and draws nothing is seated. -/
theorem issuedStepRunsOnItsEngines : Obligations.IssuedStepRunsOnItsEngines := by
  unfold Obligations.IssuedStepRunsOnItsEngines
  intro slot step s q st k hq hst hk hissue hready hlower
  have hguard : ¬ (!canIssue s q.cluster || !q.stepReady step.toNat || q.lowerReady step.toNat k) = true := by
    simp [hissue, hready, hlower]
  refine ⟨fun l hl => ?_, fun hnone => ?_⟩
  · have hexec : exec (.stepIssue slot step) s = .next (startStep slot step.toNat l s) := by
      change execStepIssue slot step s = _
      simp only [execStepIssue, hq, hst, hk]
      rw [if_neg hguard, hl]
    refine ⟨hexec, fun hwait hpass hgen hlen => ?_⟩
    rw [hexec, startStep_of_plain hq hst hwait hpass hgen hlen, seatStep]
    congr 3
    refine State.mRun_congr hq ?_
    simp [hwait]
  · change execStepIssue slot step s = _
    simp only [execStepIssue, hq, hst, hk]
    rw [if_neg hguard, hnone]

end Sys2Proof.Machine
end

section
/-! The end of a running step (O22). -/
namespace Sys2Proof.Machine

/-! The outcomes of a step that is done, each by its branch. -/

section Done
variable {p : PealSlot} {i : Nat} {q : Peal} {st : StepDef} {s : State}

theorem patchSegments_nil (out : Bytes) : patchSegments out [] = out := rfl

theorem endDone_of_half (hcomb : combined st.op.toNat = true) (hsecond : (q.run i).second.isSome = true) :
    endDone p i q st s = endVerify p i q st (halfOk s q i st) s := by
  rw [endDone, if_pos (by simp [hcomb, hsecond])]

/-- A step that no verification half follows is done with its own operation. -/
theorem endDone_of_whole (hwhole : combined st.op.toNat = false ∨ (q.run i).second = none) :
    endDone p i q st s =
      if dryRun s q st then endZero p i q st s
      else if st.op = 0x60 then endFormat p i q st s
      else if st.op = 0x68 then endStep p i (fun r => { r with out := r.drawn, shadow := stepShadow q st }) s
      else if zeroSignature q st (workKey s q i) (stepInputs q st).1 (q.run i).drawn then redraw p i q st s
      else match computed s q i st with
        | .inl fl => failStep p i st fl s
        | .inr x => endResult p i q st x s := by
  rw [endDone, if_neg (by rcases hwhole with h | h <;> simp [h])] <;> rfl

/-- Where no tie-break has settled a segment, a result stands as it is. -/
theorem endResult_of_untied {x : StepResult} (hagreed : (q.run i).agreed = []) (hok : (q.run i).agreedOk = none) :
    endResult p i q st x s =
      if verifies st.op.toNat && x.verdict ≠ .valid then endGuardFail p i q st (x.verdict == .malformed) x.out s
      else if combined st.op.toNat then
        freeEngines q.cluster p i (q.run i) ((noteCourse p i s).mRun p i fun r =>
          { r with phase := .verifyWait, out := x.out.take (outBound q st), shadow := stepShadow q st,
                   handed := stepDigest s q st })
      else
        endStep p i (fun r => { r.give q st x.out (clusterBytes q.cluster x.out.length (keepKey p i q st x.key s)).1 with
            shadow := stepShadow q st, handed := if (releaseOp st.op.toNat).isSome then stepDigest s q st else [] })
          (clusterBytes q.cluster x.out.length (keepKey p i q st x.key s)).2 := by
  simp only [endResult, hagreed, hok, patchSegments_nil]

end Done

theorem countUp_eq (c : BitVec 32) :
    (if c = 0xFFFFFFFF then c else c + 1) = if c = 0xFFFFFFFF then 0xFFFFFFFF else c + 1 := by
  split
  next hfull => exact hfull
  next => rfl

/-! A miscompare that waits for the spare. -/

theorem clusterBytes_peal (c : ClusterNo) (n : Nat) (s : State) (p : PealSlot) :
    (clusterBytes c n s).2.peal p = s.peal p := by
  unfold clusterBytes
  split <;> rfl

theorem clusterBytes_health (c : ClusterNo) (n : Nat) (s : State) : (clusterBytes c n s).2.health = s.health := by
  unfold clusterBytes
  split <;> rfl

theorem Peal.run_modRun_self {q : Peal} {i : Nat} (hi : i < q.steps.length) (f : StepRun → StepRun) :
    (q.modRun i f).run i = f (q.run i) :=
  getD_modAt_self hi f _

/-- Noting the course of a step keeps its peal's steps in number. -/
theorem noteCourse_spec (p : PealSlot) (i : Nat) {s : State} {q : Peal} (hq : s.peal p = some q) :
    ∃ q', (noteCourse p i s).peal p = some q' ∧ q'.steps.length = q.steps.length ∧ (noteCourse p i s).health = s.health := by
  simp only [noteCourse, hq]
  split
  · exact ⟨q, hq, rfl, rfl⟩
  · split
    · exact ⟨q, hq, rfl, rfl⟩
    · refine ⟨_, State.mPeal_own ((clusterBytes_peal ..).trans hq) _, by simp [Peal.modRun, modAt], ?_⟩
      rw [State.mRun, State.mPeal_eq]
      exact clusterBytes_health ..

theorem lt_length_of_running {q : Peal} {i : Nat} (h : (q.run i).phase = .running) : i < q.steps.length := by
  by_contra hge
  have hinit : q.run i = StepRun.init := by simp [Peal.run, List.getD, Nat.le_of_not_lt hge]
  rw [hinit] at h
  exact absurd h (by decide)

/-- With a spare in the cluster the step waits for it with the segment, and the miscompare is counted. -/
theorem miscompare_with_spare {p : PealSlot} {i seg : Nat} {q : Peal} {st : StepDef} {s : State} (hq : s.peal p = some q)
    (hi : i < q.steps.length) (hspare : (s.cluster q.cluster).se.any (·.role == .spare) = true) :
    ∃ q' x, (miscompare p i q st seg s).peal p = some q' ∧ (q'.run i).phase = .tieBreak ∧ (q'.run i).tie = some x ∧
      x.segment = seg ∧ x.at_ = s.clk.now ∧ x.input = segmentInput st (stepInputs q st).1 seg ∧
      (miscompare p i q st seg s).health = { s.health with
        miscompares := if s.health.miscompares = 0xFFFFFFFF then 0xFFFFFFFF else s.health.miscompares + 1 } := by
  rw [miscompare, if_pos hspare]
  obtain ⟨q1, hq1, hlen, hhealth⟩ := noteCourse_spec p i (s := s.mHealth fun h => { h with
    miscompares := if h.miscompares = 0xFFFFFFFF then h.miscompares else h.miscompares + 1 }) hq
  have hi1 : i < q1.steps.length := hlen ▸ hi
  refine ⟨_, _, State.mPeal_own ((clusterBytes_peal ..).trans hq1) _, congrArg StepRun.phase (Peal.run_modRun_self hi1 _),
    congrArg StepRun.tie (Peal.run_modRun_self hi1 _), rfl, rfl, rfl, ?_⟩
  change ((clusterBytes _ _ _).2.mPeal p _).health = _
  rw [State.mPeal_eq]
  change (clusterBytes _ _ _).2.health = _
  rw [clusterBytes_health, hhealth]
  simp only [← countUp_eq]
  rfl

/-- Settles O22: by what the engine tells and the branch its step takes. -/
theorem runningStepEnds : Obligations.RunningStepEnds := by
  unfold Obligations.RunningStepEnds
  intro slot step s q st hq hst hrun hstep hfrozen
  refine ⟨fun hdoom hpreds => ?_, fun hdoom isPk n c hjob => ?_⟩
  · have hexec (res : EngineResult) : exec (.stepEnd slot step res) s = .next (endRunning slot step.toNat q st res s) := by
      change execStepEnd slot step res s = _
      simp only [execStepEnd, hq, hst]
      rw [if_neg]
      have hall : (dataPreds st).all (fun d => (q.run d).phase == .ended) = true := by
        simpa [List.all_eq_true] using hpreds
      simp [hrun, hstep, hfrozen, hdoom, hall]
    have hdone : exec (.stepEnd slot step .done) s = .next (endDone slot step.toNat q st s) := hexec .done
    have hmis (n : Nat) (seg : BitVec 12) (hse : (q.run step.toNat).second = some (.se n))
        (hseg : seg.toNat < segments s q step.toNat st) (hago : ∀ x ∈ (q.run step.toNat).agreed, x.1 < seg.toNat) :
        exec (.stepEnd slot step (.miscompare seg)) s = .next (miscompare slot step.toNat q st seg.toNat s) := by
      have hall : (q.run step.toNat).agreed.all (·.1 < seg.toNat) = true := by
        simpa [List.all_eq_true] using hago
      rw [hexec]
      simp only [endRunning, hse, hall]
      rw [if_pos (by simp [hseg])]
    refine ⟨fun hwhole => ⟨fun hdry => ?_, fun hwet => ⟨fun hfmt => ?_, fun hrandom => ?_, fun hfmt hrandom hnonce =>
      ⟨fun fl hfl => ?_, fun x hx hagreed hok => ?_⟩⟩⟩, fun hcomb hsecond => ?_, fun n seg hse hseg hago => ⟨fun hspare => ?_, fun hnone => ?_⟩⟩
    · rw [hdone, endDone_of_whole hwhole, if_pos hdry]
      rfl
    · rw [hdone, endDone_of_whole hwhole, if_neg (by simp [hwet]), if_pos hfmt]
    · rw [hdone, endDone_of_whole hwhole, if_neg (by simp [hwet]), if_neg (by rw [hrandom]; decide), if_pos hrandom]
    · rw [hdone, endDone_of_whole hwhole, if_neg (by simp [hwet]), if_neg hfmt, if_neg hrandom, if_neg (by simp [hnonce]), hfl]
    · have hresult : exec (.stepEnd slot step .done) s = .next (endResult slot step.toNat q st x s) := by
        rw [hdone, endDone_of_whole hwhole, if_neg (by simp [hwet]), if_neg hfmt, if_neg hrandom, if_neg (by simp [hnonce]), hx]
      rw [hresult, endResult_of_untied hagreed hok]
      refine ⟨fun hver hbad => ?_, fun hgood hcomb => ?_, fun hgood hcomb hand mask u hhand hbytes => ?_⟩
      · rw [if_pos (by simp [hver, hbad])]
      · rw [if_neg (by rcases hgood with h | h <;> simp [h]), if_pos hcomb]
      · rw [if_neg (by rcases hgood with h | h <;> simp [h]), if_neg (by simp [hcomb]), hbytes, ← hhand]
        refine ⟨fun hplain => ?_, fun hsens => ?_⟩
        · simp only [StepRun.give, hplain]
          rfl
        · simp only [StepRun.give, hsens]
          rfl
    · have hfail (u : State) (hu : u = releaseFailed (q.run step.toNat).engine (q.run step.toNat).second
          (failStep slot step.toNat st (St.engineFault, 2) s)) : endVerify slot step.toNat q st false s = u := by
        rw [hu]; rfl
      refine ⟨fun hok => ?_, fun u hu => ⟨fun hbad => ?_, ?_⟩⟩
      · rw [hdone, endDone_of_half hcomb hsecond, hok]
        rfl
      · rw [hdone, endDone_of_half hcomb hsecond, hbad, hfail u hu]
      · rw [hexec]
        change Host.Outcome.next (endFaulty slot step.toNat q st s) = _
        rw [endFaulty, if_pos hcomb, if_pos hsecond, hfail u hu]
    · have hlive : exec (.stepEnd slot step (.miscompare seg)) s = .next (miscompare slot step.toNat q st seg.toNat s) :=
        hmis n seg hse hseg hago
      obtain ⟨q', x, hq', hphase, htie, hseg', hat, hin, hhealth⟩ :=
        miscompare_with_spare (seg := seg.toNat) (st := st) hq (lt_length_of_running hstep) hspare
      exact ⟨_, q', x, hlive, hq', hphase, htie, hseg', hat, hin, hhealth⟩
    · rw [hmis n seg hse hseg hago, miscompare, if_neg (by simp [hnone])]
      simp only [← countUp_eq]
      rfl
  · change execJobAbandon c isPk n s = _
    simp only [execJobAbandon, hjob, hq]
    rw [if_neg (by simp [hrun, hdoom, hfrozen])]
    rfl

end Sys2Proof.Machine
end

section
/-! Suspended and parked jobs, self-tests and counter cells (O24, O25). -/
namespace Sys2Proof.Machine

/-! The most blocks left, of the first engine that has them (R233). -/

/-- The better of the best so far and engine `n`, which is no better with as many blocks. -/
def keepMost (f : Nat → Option Nat) (acc : Option (Nat × Nat)) (n : Nat) : Option (Nat × Nat) :=
  match f n, acc with
  | some b, some (b', m) => if b' < b then some (b, n) else some (b', m)
  | some b, none => some (b, n)
  | none, acc => acc

/-- What has been found of the first `k` engines: none that is eligible, or one with the most blocks, the first such. -/
def IsMost (f : Nat → Option Nat) (k : Nat) : Option (Nat × Nat) → Prop
  | none => ∀ n < k, f n = none
  | some (b, m) => f m = some b ∧ ∀ n b', n < k → f n = some b' → b' ≤ b ∧ (b' = b → m ≤ n)

theorem keepMost_isMost {f : Nat → Option Nat} {k : Nat} {acc : Option (Nat × Nat)} (h : IsMost f k acc)
    (hlt : ∀ b m, acc = some (b, m) → m < k) :
    IsMost f (k + 1) (keepMost f acc k) ∧ ∀ b m, keepMost f acc k = some (b, m) → m < k + 1 := by
  unfold keepMost
  cases hf : f k with
  | none =>
    cases acc with
    | none =>
      refine ⟨fun n hn => ?_, nofun⟩
      rcases Nat.lt_succ_iff_lt_or_eq.1 hn with hn | rfl
      · exact h n hn
      · exact hf
    | some x =>
      obtain ⟨b, m⟩ := x
      refine ⟨⟨h.1, fun n b' hn hb' => ?_⟩, fun b' m' e => Nat.lt_succ_of_lt (hlt b' m' e)⟩
      rcases Nat.lt_succ_iff_lt_or_eq.1 hn with hn | rfl
      · exact h.2 n b' hn hb'
      · rw [hf] at hb'
        exact absurd hb' nofun
  | some b =>
    cases acc with
    | none =>
      refine ⟨⟨hf, fun n b' hn hb' => ?_⟩, fun b' m' e => ?_⟩
      · rcases Nat.lt_succ_iff_lt_or_eq.1 hn with hn | rfl
        · rw [h n hn] at hb'
          exact absurd hb' nofun
        · rw [hf] at hb'
          cases hb'
          exact ⟨Nat.le_refl _, fun _ => Nat.le_refl _⟩
      · cases e
        exact Nat.lt_succ_self _
    | some x =>
      obtain ⟨b0, m0⟩ := x
      have hm0 := hlt b0 m0 rfl
      dsimp only
      split
      next hmore =>
        refine ⟨⟨hf, fun n b' hn hb' => ?_⟩, fun b' m' e => ?_⟩
        · rcases Nat.lt_succ_iff_lt_or_eq.1 hn with hn | rfl
          · have := (h.2 n b' hn hb').1
            omega
          · rw [hf] at hb'
            cases hb'
            exact ⟨Nat.le_refl _, fun _ => Nat.le_refl _⟩
        · cases e
          exact Nat.lt_succ_self _
      next hless =>
        refine ⟨⟨h.1, fun n b' hn hb' => ?_⟩, fun b' m' e => ?_⟩
        · rcases Nat.lt_succ_iff_lt_or_eq.1 hn with hn | rfl
          · exact h.2 n b' hn hb'
          · rw [hf] at hb'
            cases hb'
            omega
        · cases e
          omega

theorem foldl_keepMost_isMost (f : Nat → Option Nat) (k : Nat) :
    IsMost f k ((List.range k).foldl (keepMost f) none) ∧
      ∀ b m, (List.range k).foldl (keepMost f) none = some (b, m) → m < k := by
  induction k with
  | zero => exact ⟨fun n hn => absurd hn (Nat.not_lt_zero n), nofun⟩
  | succ k ih =>
    rw [List.range_succ, List.foldl_append]
    exact keepMost_isMost ih.1 ih.2

theorem rimshotVictim_eq (s : State) (q : Peal) :
    rimshotVictim s q = ((List.range 5).foldl (keepMost (eligibleBlocks s q)) none).map (·.2) := by
  unfold rimshotVictim keepMost
  rfl

theorem eligibleBlocks_ge {s : State} {q : Peal} {n b : Nat} (h : eligibleBlocks s q n = some b) : 64 ≤ b := by
  unfold eligibleBlocks at h
  split at h
  · exact absurd h nofun
  split at h
  · exact absurd h nofun
  split at h
  · exact absurd h nofun
  dsimp only at h
  split at h
  next hok =>
    cases h
    simp only [Bool.and_eq_true, decide_eq_true_eq] at hok
    exact hok.1.1.2
  next => exact absurd h nofun

/-- Settles O24: the guard of each command, and for the engine chosen the fold that keeps the most blocks. -/
theorem rimshotAndPreemption : Obligations.RimshotAndPreemption := by
  unfold Obligations.RimshotAndPreemption
  intro s slot vp step q v st vst vi hq hv hst hvst hissue
  refine ⟨fun se hjob hcls hready hkind hnone hvictim => ?_, fun m hm => ?_, fun se h l hheld hslot hstep hcrit hfree => ?_,
    fun pk lmask kmask u u2 hjob hvictim hahead hl hk => ?_, fun pk h l hheld hjob htest => ?_⟩
  · change execRimshotSuspend slot step se () s = _
    simp only [execRimshotSuspend, hq, hst, hjob, hv, hvst]
    rw [if_neg (by simp [hcls, hissue, hready, hkind, hnone, hvictim])]
  · rw [rimshotVictim_eq] at hm
    obtain ⟨⟨b, m'⟩, hbest, rfl⟩ := Option.map_eq_some_iff.1 hm
    have hmost := (foldl_keepMost_isMost (eligibleBlocks s q) 5).1
    rw [hbest] at hmost
    exact ⟨b, hmost.1, eligibleBlocks_ge hmost.1, hmost.2⟩
  · subst hslot hstep
    change execRimshotResume q.cluster se s = _
    simp only [execRimshotResume, hheld, hv]
    rw [if_neg]
    · rfl
    · simp only [hissue, hcrit, Bool.not_true, Bool.false_or, Bool.not_eq_true', Bool.not_eq_false, List.all_eq_true]
      intro n hn
      obtain ⟨hjob, x, y, hx, hxs, hxi⟩ := hfree n hn
      simp [hjob, hx, hxs, hxi]
  · change execPkPreemptPark slot step pk () s = _
    simp only [execPkPreemptPark, hq, hjob]
    rw [if_neg (by simp [hissue, hvictim, hahead])]
    simp only [hl, hk]
  · change execPkJobResume q.cluster pk s = _
    simp only [execPkJobResume, hheld]
    rw [if_neg (by simp [hjob, htest, hissue])]
    rfl

/-- Settles O25: by the guards of each command. -/
theorem selfTestsAndCounterCells : Obligations.SelfTestsAndCounterCells := by
  unfold Obligations.SelfTestsAndCounterCells
  refine ⟨fun c pk isPk n s => ⟨fun htest hrole hjob => ⟨?_, ?_⟩, fun hspare => ⟨fun hin hgate hstate hmain hties => ?_,
    fun htest => ⟨?_, ?_⟩⟩⟩, fun fn handle s sp h top hsp hwr hstored hpair htop => ?_⟩
  · change execReleaseVerifySelfTestComplete c pk true s = _
    rw [execReleaseVerifySelfTestComplete, if_neg (by simpa [hrole, hjob] using Option.isSome_iff_ne_none.1 htest), if_pos rfl]
  · change execReleaseVerifySelfTestComplete c pk false s = _
    rw [execReleaseVerifySelfTestComplete, if_neg (by simpa [hrole, hjob] using Option.isSome_iff_ne_none.1 htest), if_neg (by simp)]
  · change execSpareSelfTest c isPk s = _
    simp only [execSpareSelfTest, hspare]
    rw [if_neg]
    rcases hstate with h | h <;> rcases hties with h' | h' <;> simp [hin, hgate, hmain, h, h']
  · change execSpareSelfTestComplete c isPk true s = _
    simp only [execSpareSelfTestComplete, hspare]
    rw [if_neg (by simpa using Option.isSome_iff_ne_none.1 htest), if_pos (by simp)]
  · change execSpareSelfTestComplete c isPk false s = _
    simp only [execSpareSelfTestComplete, hspare]
    rw [if_neg (by simpa using Option.isSome_iff_ne_none.1 htest), if_neg (by simp)]
    cases isPk <;> rfl
  · change execCounterCellWriteComplete fn handle s = _
    simp only [execCounterCellWriteComplete, hsp, hwr]
    rw [if_neg (by rcases hpair with h | h | h <;> simp [hstored, h])]
    subst htop
    cases cellOf s (keyNo fn handle.toNat) <;> rfl

end Sys2Proof.Machine
end

section
/-! Commit points, records, completions and refused writes (O26, O30, O31, O33). -/
namespace Sys2Proof.Machine

theorem exec_commitPoint {slot : PealSlot} {s : State} {q : Peal} (hq : s.peal slot = some q)
    (hready : commitReady s slot = true) :
    (∀ st, effectLapse s q.effect = some st → exec (.commitPoint slot) s = .next (failPeal slot st none s)) ∧
    (effectLapse s q.effect = none → exec (.commitPoint slot) s = .next (
      if q.readOnly then commitPeal slot none (leaveResume slot s)
      else if 0 < stewardWrites s q then
        if s.boot.stewardUp then beginRecord slot (stewardWrites s q) (leaveResume slot s) else s
      else if s.toll.journal then
        if s.toll.journalNext.isSome then s
        else if 255 < groupWords s (s.clap.group ++ [slot]) then s.mClap fun c => { c with groupFull := true }
        else ((leaveResume slot s).mClap fun c => { c with
            group := c.group ++ [slot]
            groupSince := if c.group.isEmpty && c.late.isEmpty then s.clk.now else c.groupSince }).mPeal slot
          fun q => { q with phase := .grouped }
      else if 255 < dirtyCount s + newDirty s q then holdDirty slot q s
      else commitPeal slot none (leaveResume slot s))) := by
  constructor
  · intro st hst
    change execCommitPoint slot s = _
    simp only [execCommitPoint, hq]
    rw [if_neg (by simp [hready]), hst]
  · intro hnone
    change execCommitPoint slot s = _
    simp only [execCommitPoint, hq]
    rw [if_neg (by simp [hready]), hnone]

/-- Settles O26: by the chain of conditions that ends in the commit. -/
theorem commitPointTakesOneCommit : Obligations.CommitPointTakesOneCommit := by
  unfold Obligations.CommitPointTakesOneCommit
  intro slot s q hq hready
  obtain ⟨hlapse, hkept⟩ := exec_commitPoint hq hready
  refine ⟨hlapse, fun hnone hread => by rw [hkept hnone, if_pos hread], fun hnone hwrite => ?_⟩
  rw [hkept hnone, if_neg (by simp [hwrite])]
  refine ⟨fun hsome hup => ?_, fun hzero hj hnext hfit => ?_, fun hzero hj hnext hlong => ?_, fun hzero hj hdirty hwait => ?_,
    fun hzero hj hclean => ?_⟩
  · rw [if_pos hsome, if_pos hup]
  · rw [if_neg (by omega), if_pos hj, if_neg (by simp [hnext]), if_neg (by omega)]
    have hsince : (s.clap.group.isEmpty && s.clap.late.isEmpty) = true ↔ s.clap.group = [] ∧ s.clap.late = [] := by
      simp
    simp only [leaveResume, State.mClap, hsince]
  · rw [if_neg (by omega), if_pos hj, if_neg (by simp [hnext]), if_pos hlong]
  · rw [if_neg (by omega), if_neg (by simp [hj]), if_pos hdirty, holdDirty, if_neg (by simp [hwait])]
  · rw [if_neg (by omega), if_neg (by simp [hj]), if_neg (Nat.not_lt.2 hclean)]

/-! Written records and groups (O30). -/

theorem exec_recordWritten {slot : PealSlot} {s : State} {q : Peal} (hq : s.peal slot = some q)
    (hphase : q.phase = .writing) (hwait : q.storeWait = 0) (hgroup : s.clap.writing.contains slot = false)
    (hroom : (s.peals.filter fun e => e.2.phase == .committed).length < 255) (hcool : s.gov.thermal ≠ 3) :
    (∀ st, effectLapse s q.effect = some st → recordWritten slot s = failPeal slot st none s) ∧
    (effectLapse s q.effect = none → recordWritten slot s =
      if !s.toll.journal && 255 < dirtyCount s + newDirty s q then holdDirty slot q s
      else tollClear (commitPeal slot none s)) := by
  have hguard : ¬ (q.phase ≠ .writing || q.storeWait ≠ 0 || s.clap.writing.contains slot || 255 ≤ committedWaiting s ||
      tripped s) = true := by
    have hnear : ¬ 255 ≤ committedWaiting s := Nat.not_le.2 hroom
    have htrip : tripped s = false := by simpa [tripped] using hcool
    rw [hgroup]
    simp [hphase, hwait, hnear, htrip]
  constructor
  · intro st hst
    simp only [recordWritten, hq]
    rw [if_neg hguard, hst]
  · intro hnone
    simp only [recordWritten, hq]
    rw [if_neg hguard, hnone]

theorem commitGroup_append (g : List PealSlot) (p : PealSlot) (seq : BitVec 64) (s : State) :
    commitGroup (g ++ [p]) seq s = commitPeal p (some (seq.toNat + g.length)) (commitGroup g seq s) := by
  have hstart : ∀ (l : List Nat) (u : State), (∀ i ∈ l, i < g.length) →
      l.foldl (fun s i => match (g ++ [p])[i]? with | some p => commitPeal p (some (seq.toNat + i)) s | none => s) u =
        l.foldl (fun s i => match g[i]? with | some p => commitPeal p (some (seq.toNat + i)) s | none => s) u := by
    intro l
    induction l with
    | nil => exact fun u h => rfl
    | cons i l ih =>
      intro u h
      rw [List.foldl_cons, List.foldl_cons, List.getElem?_append_left (h i List.mem_cons_self)]
      exact ih _ fun j hj => h j (List.mem_cons_of_mem _ hj)
  have hlen : (g ++ [p]).length = g.length + 1 := by simp
  rw [commitGroup, hlen, List.range_succ, List.foldl_append]
  have hg := hstart (List.range g.length) s fun i hi => List.mem_range.1 hi
  have hlast : (g ++ [p])[g.length]? = some p := by simp
  simp only [List.foldl_cons, List.foldl_nil, hlast]
  exact congrArg _ hg

theorem markWriting_phase (g : List PealSlot) {s : State} {p : PealSlot} {q : Peal}
    (hin : p ∈ g ∨ ∀ q', s.peal p = some q' → q'.phase = .writing)
    (hq : (g.foldl (fun s p => s.mPeal p fun q => { q with phase := .writing }) s).peal p = some q) :
    q.phase = .writing := by
  induction g generalizing s with
  | nil => exact (hin.resolve_left List.not_mem_nil) q hq
  | cons x g ih =>
    refine ih ?_ hq
    by_cases hx : p = x
    · right
      intro q' hq'
      subst hx
      rw [State.peal_mPeal] at hq'
      obtain ⟨q0, -, rfl⟩ := Option.map_eq_some_iff.1 hq'
      rfl
    · rcases hin with hin | hin
      · exact .inl ((List.mem_cons.1 hin).resolve_left hx)
      · right
        intro q' hq'
        rw [State.peal_mPeal_ne hx] at hq'
        exact hin q' hq'

/-- Settles O30: by the guards of each command; a group's record commits its peals in order. -/
theorem recordsAndGroupsCommit : Obligations.RecordsAndGroupsCommit := by
  unfold Obligations.RecordsAndGroupsCommit
  rintro slot s q n rfl
  refine ⟨fun hq hphase hwait hgroup hroom hcool => ?_, fun hopen hidle hwarn hroom hdue => ⟨?_, ?_, ?_, fun p hp q' hq' => ?_⟩,
    fun r r1 seq u hdone hwr hroom hseq hr1 => ?_, fun p g seq => ⟨rfl, rfl, commitGroup_append g p seq s⟩⟩
  · obtain ⟨hlapse, hkept⟩ := exec_recordWritten hq hphase hwait hgroup hroom hcool
    have hexec : exec (.stewardRecordWriteComplete slot) s = .next (closeGoesOn (recordWritten slot s)) := rfl
    refine ⟨fun st hst => by rw [hexec, hlapse st hst], fun hnone hclean => ?_, fun hnone hj hdirty => ?_⟩
    · rw [hexec, hkept hnone, if_neg]
      rcases hclean with h | h
      · simp [h]
      · simp [Nat.not_lt.2 h]
    · rw [hexec, hkept hnone, if_pos (by simp [hj, hdirty])]
      rfl
  · have hdue' : (s.clap.groupSince + ms 2 ≤ s.clk.now || s.clap.groupFull || s.toll.journalNext = some false) = true := by
      have h2 : ms 2 = 2000000 := by simp [ms]
      rw [h2]
      rcases hdue with h | h | h <;> simp [h]
    have hroom' : ¬ 255 < committedWaiting s + s.clap.group.length := Nat.not_lt.2 hroom
    change execJournalGroupClose s = _
    rw [execJournalGroupClose, if_neg, if_pos hdue']
    rcases hopen with h | h <;> simp [h, hidle, hwarn, hroom']
  · rfl
  · rfl
  · exact markWriting_phase s.clap.group (s := s) (.inl hp) hq'
  · have hexec : exec .groupRecordComplete s = .next (closeGoesOn (groupWritten r s)) := by
      have hroom' : ¬ 255 < committedWaiting s + s.clap.writing.length := Nat.not_lt.2 hroom
      change execGroupRecordComplete s = _
      rw [execGroupRecordComplete, if_neg (by simp [hdone, hroom']), hwr]
    rw [hexec, hr1, groupWritten]
    simp only [hseq]
    rfl

/-! Completions (O31) and the host's refusals (O33). -/

/-- The output of a peal that committed is written whole where the host took it. -/
theorem writeOutput_of_taken {q : Peal} (hphase : q.phase = .committed) (hfault : q.outFault = false) (s : State) :
    writeOutput q s = s.mFe fun e => { e with bus := e.bus ++ q.outWrites } := by
  rw [writeOutput, if_neg (by simp [hphase])]
  simp only [hfault, Bool.false_eq_true, if_false, List.take_length]

/-- Settles O31: by the state of the completion ring that the peal's ring is bound to. -/
theorem completionIsPostedOnce : Obligations.CompletionIsPostedOnce := by
  unfold Obligations.CompletionIsPostedOnce
  intro slot spend s q c seq hq hended hcool
  have hguard : ¬ (!((q.phase == .failed && !q.dualPending) || (q.phase == .committed && mayRelease s q)) ||
      tripped s) = true := by
    have htrip : tripped s = false := by simpa [tripped] using hcool
    rcases hended with ⟨h1, h2⟩ | ⟨h1, h2⟩ <;> simp [h1, h2, htrip]
  refine ⟨fun hsupp => ?_, fun hlive hnone => ?_, fun free hfree hlive hbound => ⟨fun herr => ?_, fun hen hroom hdma => ?_,
    fun hfull => ?_, fun hphase hfault => writeOutput_of_taken hphase hfault s⟩, fun hdue => ?_⟩
  · change execCompletionPost slot spend s = _
    simp only [execCompletionPost, hq]
    rw [if_neg hguard, if_pos hsupp]
  · change execCompletionPost slot spend s = _
    simp only [execCompletionPost, hq]
    rw [if_neg hguard, if_neg (by simp [hlive]), hnone]
  · have hfree' : free = unreserve q c := funext hfree
    change execCompletionPost slot spend s = _
    simp only [execCompletionPost, hq]
    rw [if_neg hguard, if_neg (by simp [hlive]), hbound]
    dsimp only
    rw [if_pos herr, hfree']
  · have hfree' : free = unreserve q c := funext hfree
    change execCompletionPost slot spend s = _
    simp only [execCompletionPost, hq]
    rw [if_neg hguard, if_neg (by simp [hlive]), hbound]
    dsimp only
    rw [if_neg (by rw [hen]; decide), if_neg (by rcases hroom with h | h <;> simp [hdma, hen, h]), hfree']
  · change execCompletionPost slot spend s = _
    simp only [execCompletionPost, hq]
    rw [if_neg hguard, if_neg (by simp [hlive]), hbound]
    dsimp only
    rcases hfull with h | ⟨h, hheld, hzero⟩
    · rw [if_neg (by rw [h]; decide), if_pos (by simp [h])]
    · rw [if_neg (by rw [h]; decide), if_pos (by simp [h, hheld, hzero])]
  · change execJournalPostedSet seq s = _
    rw [execJournalPostedSet, if_pos]
    · rfl
    · have h1 : us 1 = 1000 := by simp [us]
      rw [h1]
      exact hdue

/-- Settles O33: by the guards of each command. -/
theorem refusedWritesOfTheHost : Obligations.RefusedWritesOfTheHost := by
  unfold Obligations.RefusedWritesOfTheHost
  intro slot s cq fn
  refine ⟨fun q n hq hphase hlive hrel hdma hout hseq => ?_, fun howner hen hdma hdue => ⟨_, rfl, ?_⟩,
    fun p l howner hpend htime hirq => ?_⟩
  · change execOutputWriteRefused slot s = _
    simp only [execOutputWriteRefused, hq]
    rw [if_neg (by simp [hphase, hlive, hrel, hdma, hout]), hseq]
  · change execCompletionWriteRefused cq s = _
    simp only [execCompletionWriteRefused, howner]
    rw [if_neg]
    rw [hdue]
    simp [hen, hdma]
  · have htime' : ¬ s.clk.now < p.at_ + us (s.cq cq).timer := Nat.not_lt.2 htime
    have hchime : (s.cq cq).chimeDue s.clk.now = true := by
      simp [CplRing.chimeDue, hpend, htime]
    change execChimeTimerExpire cq s = _
    simp only [execChimeTimerExpire, howner, hpend]
    rw [if_neg htime', chimeCheck, if_pos (by simp [hirq, hchime])]

end Sys2Proof.Machine
end

section
/-! The governor's registers, the clusters' power and the re-shares (O36). -/
namespace Sys2Proof.Machine

/-! Clusters, one of which changes. -/

theorem State.cluster_mCluster_ne {n c : ClusterNo} (h : n ≠ c) (f : Cluster → Cluster) (s : State) :
    (s.mCluster c f).cluster n = s.cluster n :=
  getD_modAt_ne (fun e => h (BitVec.eq_of_toNat_eq e)) f _ _

theorem State.mCluster_length (c : ClusterNo) (f : Cluster → Cluster) (s : State) :
    (s.mCluster c f).clusters.length = s.clusters.length := by
  simp [State.mCluster, State.mClusters, modAt]

/-- What a change of some clusters leaves: the other clusters, their number, and the rest of the machine. -/
structure ClusterChange (l : List ClusterNo) (s t : State) : Prop where
  length : t.clusters.length = s.clusters.length
  others : ∀ n, n ∉ l → t.cluster n = s.cluster n
  rest : t = { s with clusters := t.clusters }

theorem ClusterChange.rfl' {l : List ClusterNo} {s : State} : ClusterChange l s s := ⟨rfl, fun _ _ => rfl, rfl⟩

theorem ClusterChange.trans {l : List ClusterNo} {s t u : State} (h : ClusterChange l s t) (h' : ClusterChange l t u) :
    ClusterChange l s u :=
  ⟨h'.length.trans h.length, fun n hn => (h'.others n hn).trans (h.others n hn), by rw [h'.rest, h.rest]⟩

theorem mCluster_change {l : List ClusterNo} {c : ClusterNo} (hc : c ∈ l) (f : Cluster → Cluster) (s : State) :
    ClusterChange l s (s.mCluster c f) :=
  ⟨State.mCluster_length c f s, fun _ hn => State.cluster_mCluster_ne (ne_of_mem_of_not_mem hc hn).symm f s, rfl⟩

theorem foldl_mCluster_change {l m : List ClusterNo} (hm : ∀ c ∈ m, c ∈ l) (f : Cluster → Cluster) (s : State) :
    ClusterChange l s (m.foldl (fun s n => s.mCluster n f) s) := by
  induction m generalizing s with
  | nil => exact .rfl'
  | cons c m ih =>
    exact (mCluster_change (hm c List.mem_cons_self) f s).trans (ih (fun c hc => hm c (List.mem_cons_of_mem _ hc)) _)

/-- A cluster of a group to which one change is made holds it, or is as it was. -/
theorem foldl_mCluster_cluster {f : Cluster → Cluster} (hf : ∀ x, f (f x) = f x) (m : List ClusterNo) (c : ClusterNo)
    {s : State} (hlen : s.clusters.length = 16) :
    (m.foldl (fun s n => s.mCluster n f) s).cluster c = s.cluster c ∨
      (m.foldl (fun s n => s.mCluster n f) s).cluster c = f (s.cluster c) := by
  induction m generalizing s with
  | nil => exact .inl rfl
  | cons x m ih =>
    have hlen' : (s.mCluster x f).clusters.length = 16 := (State.mCluster_length x f s).trans hlen
    by_cases hx : c = x
    · subst hx
      rcases ih hlen' with h | h
      · exact .inr (h.trans (State.cluster_mCluster hlen f))
      · refine .inr (h.trans ?_)
        rw [State.cluster_mCluster hlen f, hf]
    · rcases ih hlen' with h | h
      · exact .inl (h.trans (State.cluster_mCluster_ne hx f s))
      · refine .inr (h.trans ?_)
        rw [State.cluster_mCluster_ne hx f s]

theorem mem_groupOf (c : ClusterNo) : c ∈ groupOf c := by
  have hall : ∀ c : BitVec 4, c ∈ groupOf c := by decide
  exact hall c

theorem noteIdle_change (c : ClusterNo) (s : State) : ClusterChange [c] s (noteIdle c s) := by
  unfold noteIdle
  split
  · exact mCluster_change (List.mem_singleton_self c) _ s
  · exact .rfl'

theorem noteIdle_power {c : ClusterNo} {s : State} (hlen : s.clusters.length = 16) :
    ((noteIdle c s).cluster c).state = (s.cluster c).state ∧ ((noteIdle c s).cluster c).waking = (s.cluster c).waking := by
  unfold noteIdle
  split
  · rw [State.cluster_mCluster hlen]
    exact ⟨rfl, rfl⟩
  · exact ⟨rfl, rfl⟩

/-! The re-share of the clusters' caches. -/

theorem clusterBytes_change (c : ClusterNo) (n : Nat) (s : State) :
    (clusterBytes c n s).2.clusters.length = s.clusters.length ∧
    (∀ m, m ≠ c → (clusterBytes c n s).2.cluster m = s.cluster m) ∧
    (s.clusters.length = 16 → ∃ p, (clusterBytes c n s).2.cluster c = { s.cluster c with maskPos := p }) ∧
    (clusterBytes c n s).2.ks = s.ks ∧ (clusterBytes c n s).2.peals = s.peals := by
  unfold clusterBytes
  split
  · exact ⟨State.mCluster_length _ _ _, fun m hm => State.cluster_mCluster_ne hm _ _,
      fun hlen => ⟨_, State.cluster_mCluster hlen _⟩, rfl, rfl⟩
  · exact ⟨rfl, fun _ _ => rfl, fun _ => ⟨_, rfl⟩, rfl, rfl⟩

/-- The cluster is re-shared when its turn comes: it is enabled, in service and not power-gated. -/
def Cluster.reshares (c : Cluster) : Bool := c.enabled && c.inService && (c.state == .active || c.state == .clockGated)

/-- What the first `k` re-shares leave of a state. -/
structure Reshared (k : Nat) (s t : State) : Prop where
  length : t.clusters.length = 16
  ks : t.ks = s.ks
  peals : t.peals = s.peals
  later : ∀ n : ClusterNo, k ≤ n.toNat ∨ (s.cluster n).reshares = false → t.cluster n = s.cluster n
  done : ∀ n : ClusterNo, n.toNat < k → (s.cluster n).reshares = true →
    ∃ m p, t.cluster n = { reshareCluster m (s.cluster n) with maskPos := p }

theorem reshareAll_reshared {s : State} (hlen : s.clusters.length = 16) (k : Nat) (hk : k ≤ 16) :
    Reshared k s (reshareAll k s) := by
  induction k with
  | zero => exact ⟨hlen, rfl, rfl, fun _ _ => rfl, fun n hn => absurd hn (Nat.not_lt_zero _)⟩
  | succ k ih =>
    have h := ih (by omega)
    have hk' : (BitVec.ofNat 4 k).toNat = k := by simp; omega
    have hat : (reshareAll k s).cluster (BitVec.ofNat 4 k) = s.cluster (BitVec.ofNat 4 k) := h.later _ (.inl (Nat.le_of_eq hk'.symm))
    have hne {n : ClusterNo} (hn : n.toNat ≠ k) : n ≠ BitVec.ofNat 4 k := fun e => hn (by rw [e, hk'])
    rw [reshareAll]
    dsimp only
    rw [hat]
    split
    next hdo =>
      obtain ⟨hl, hothers, hown, hks, hpeals⟩ := clusterBytes_change (BitVec.ofNat 4 k) 4096 (reshareAll k s)
      obtain ⟨p, hp⟩ := hown h.length
      have hl' := hl.trans h.length
      have hout {n : ClusterNo} (hn : n.toNat ≠ k) (f : Cluster → Cluster) :
          ((clusterBytes (BitVec.ofNat 4 k) 4096 (reshareAll k s)).2.mCluster (BitVec.ofNat 4 k) f).cluster n =
            (reshareAll k s).cluster n := by
        rw [State.cluster_mCluster_ne (hne hn), hothers n (hne hn)]
      refine ⟨(State.mCluster_length ..).trans hl', hks.trans h.ks, hpeals.trans h.peals, fun n hn => ?_, fun n hn hsome => ?_⟩
      · have hnk : n.toNat ≠ k := by
          rcases hn with hn | hn
          · omega
          · intro e
            rw [show n = BitVec.ofNat 4 k from BitVec.eq_of_toNat_eq (by rw [hk', e])] at hn
            rw [Cluster.reshares, hdo] at hn
            exact absurd hn nofun
        rw [hout hnk]
        exact h.later n (hn.imp_left Nat.le_of_succ_le)
      · by_cases hnk : n.toNat = k
        · have hn' : n = BitVec.ofNat 4 k := BitVec.eq_of_toNat_eq (by rw [hk', hnk])
          subst hn'
          rw [State.cluster_mCluster hl', hp, hat]
          exact ⟨_, _, rfl⟩
        · rw [hout hnk]
          exact h.done n (by omega) hsome
    next hskip =>
      refine ⟨h.length, h.ks, h.peals, fun n hn => h.later n (hn.imp_left Nat.le_of_succ_le), fun n hn hsome => ?_⟩
      have hnk : n.toNat ≠ k := by
        intro e
        rw [show n = BitVec.ofNat 4 k from BitVec.eq_of_toNat_eq (by rw [hk', e])] at hsome
        exact hskip hsome
      exact h.done n (by omega) hsome

/-! Two shares. -/

theorem byte_xor_xor (a b m : Byte) : (a ^^^ m) ^^^ (b ^^^ m) = a ^^^ b := by
  rw [BitVec.xor_assoc, BitVec.xor_comm b m, ← BitVec.xor_assoc m m b, BitVec.xor_self, BitVec.zero_xor]

theorem xorBytes_refresh {a b m : Bytes} (hab : a.length = b.length) (ham : a.length = m.length) :
    xorBytes (xorBytes a m) (xorBytes b m) = xorBytes a b := by
  refine List.ext_getElem (by simp [xorBytes]; omega) fun i h1 h2 => ?_
  simp only [xorBytes, List.getElem_zipWith]
  exact byte_xor_xor _ _ _

theorem Shares.value_of {v m : Bytes} (h : v.length ≤ m.length) : (Shares.of v m).value = v := by
  refine List.ext_getElem (by simp [Shares.value, Shares.of, xorBytes]; omega) fun i h1 h2 => ?_
  simp [Shares.value, Shares.of, xorBytes]

/-- A draw of fresh bytes changes the noise state only. -/
def DrawsOnly (s t : State) : Prop := ∃ g, t = { s with rng := g }

theorem DrawsOnly.trans {s t u : State} (h : DrawsOnly s t) (h' : DrawsOnly t u) : DrawsOnly s u := by
  obtain ⟨g, rfl⟩ := h
  obtain ⟨g', rfl⟩ := h'
  exact ⟨g', rfl⟩

theorem freshBytes_draws (n : Nat) (s : State) : DrawsOnly s (freshBytes n s).2 := by
  unfold freshBytes
  split <;> exact ⟨_, rfl⟩

theorem atSetup_of_on {s : State} {fn : Fn} (h : setupOn s fn = true) (f : State → State) : atSetup fn f s = .next (f s) := by
  rw [atSetup, if_pos h]

theorem exec_clusterWakeComplete {c : ClusterNo} {s : State} {t0 : Nat} (hlen : s.clusters.length = 16)
    (hwake : (s.cluster c).waking = some t0) (htime : t0 + wakeTime (s.cluster c) ≤ s.clk.now) :
    ∃ t, exec (.clusterWakeComplete c) s = .next t ∧ (t.cluster c).state = .active ∧ (t.cluster c).waking = none ∧
      (∀ n, n ∉ groupOf c → t.cluster n = s.cluster n) ∧ t = { s with clusters := t.clusters } := by
  obtain ⟨f, hf⟩ : ∃ f : Cluster → Cluster, f = fun c =>
    if c.state = .pllOff ∧ c.enabled then { c with state := .powerGated } else c := ⟨_, rfl⟩
  obtain ⟨u, hu⟩ : ∃ u : State, u = ((groupOf c).foldl (fun s n => s.mCluster n f) s).mCluster c fun c =>
    { c with state := .active, waking := none } := ⟨_, rfl⟩
  have hgroup : ClusterChange (groupOf c) s ((groupOf c).foldl (fun s n => s.mCluster n f) s) :=
    foldl_mCluster_change (fun _ h => h) f s
  have hchange : ClusterChange (groupOf c) s u := hu ▸ hgroup.trans (mCluster_change (mem_groupOf c) _ _)
  have hc := State.cluster_mCluster (c := c) (hgroup.length.trans hlen) fun c => { c with state := .active, waking := none }
  rw [← hu] at hc
  have hidle : ClusterChange (groupOf c) s (noteIdle c u) := hchange.trans
    ⟨(noteIdle_change c u).length, fun n hn => (noteIdle_change c u).others n
      (by simpa using (ne_of_mem_of_not_mem (mem_groupOf c) hn).symm), (noteIdle_change c u).rest⟩
  obtain ⟨hstate, hwaking⟩ := noteIdle_power (c := c) (hchange.length.trans hlen)
  refine ⟨noteIdle c u, ?_, by rw [hstate, hc], by rw [hwaking, hc], hidle.others, hidle.rest⟩
  change execClusterWakeComplete c s = _
  simp only [execClusterWakeComplete, hwake]
  rw [if_neg (Nat.not_lt.2 htime), hu, hf]

theorem exec_clusterGatingComplete {c : ClusterNo} {s : State} (hlen : s.clusters.length = 16)
    (hgate : (s.cluster c).gating = true) :
    ∃ t, exec (.clusterGatingComplete c) s = .next t ∧ (t.cluster c).gating = false ∧
      (t.cluster c).waking = (if (s.cluster c).wakeAfterGating then some s.clk.now else none) ∧
      ((t.cluster c).state = .powerGated ∨ ((t.cluster c).state = .pllOff ∧ (s.cluster c).wakeAfterGating = false)) ∧
      t = { s with clusters := t.clusters } := by
  obtain ⟨w, hw⟩ : ∃ w : Option Nat, w = if (s.cluster c).wakeAfterGating then some s.clk.now else none := ⟨_, rfl⟩
  obtain ⟨u, hu⟩ : ∃ u : State, u = s.mCluster c fun c =>
    { c with state := .powerGated, gating := false, wakeAfterGating := false, waking := w } := ⟨_, rfl⟩
  have hchange : ClusterChange (groupOf c) s u := hu ▸ mCluster_change (mem_groupOf c) _ _
  have hc := State.cluster_mCluster (c := c) hlen fun c =>
    { c with state := .powerGated, gating := false, wakeAfterGating := false, waking := w }
  rw [← hu] at hc
  rw [← hw]
  have hexec : exec (.clusterGatingComplete c) s = .next (if (groupOf c).all (fun n =>
        !(u.cluster n).gating && (u.cluster n).waking.isNone &&
          ((u.cluster n).state == .powerGated || (u.cluster n).state == .pllOff)) then
      (groupOf c).foldl (fun s n => s.mCluster n fun c => { c with state := .pllOff }) u else u) := by
    change execClusterGatingComplete c s = _
    rw [execClusterGatingComplete, if_neg (by simp [hgate]), hu, hw]
  rw [hexec]
  refine ⟨_, rfl, ?_⟩
  split
  next hoff =>
    have hnone : w = none := by
      have h := List.all_eq_true.1 hoff c (mem_groupOf c)
      rw [hc] at h
      simpa using h
    have hrest := hchange.trans (foldl_mCluster_change (fun _ h => h) (fun c => { c with state := .pllOff }) u)
    have hawake : (s.cluster c).wakeAfterGating = false := by
      rw [hw] at hnone
      simpa using hnone
    rcases foldl_mCluster_cluster (f := fun c => { c with state := .pllOff }) (fun _ => rfl) (groupOf c) c
      (hchange.length.trans hlen) with h | h <;> rw [h, hc]
    · exact ⟨rfl, rfl, .inl rfl, hrest.rest⟩
    · exact ⟨rfl, rfl, .inr ⟨rfl, hawake⟩, hrest.rest⟩
  next =>
    rw [hc]
    exact ⟨rfl, rfl, .inl rfl, hchange.rest⟩

/-- Where the randomness of a re-share of the root secret comes from. -/
def freshFor (n : Nat) (u : State) : Bytes × State := if u.pwr.mainGood then freshBytes n u else noiseBytes n u

/-- The re-share of the root secret, the branch keys' registers and the memory key, with fresh randomness. -/
def reshareRoot (now : Nat) (s : State) : State :=
  ((freshFor 256 (freshFor 64 s).2).2.mMem fun x =>
    { x with key := x.key.map (·.refresh ((freshFor 256 (freshFor 64 s).2).1.drop 192)) }).mRoot fun r => { r with
      vault := r.vault.map fun v => { v with secret := v.secret.refresh (freshFor 64 s).1 }
      regs := r.regs.refresh (freshFor 256 (freshFor 64 s).2).1, lastReshare := now }

theorem freshFor_draws (n : Nat) (u : State) : DrawsOnly u (freshFor n u).2 := by
  unfold freshFor
  split
  · exact freshBytes_draws n u
  · exact ⟨_, rfl⟩

theorem exec_rootSecretReshare {s : State} (hsecret : s.root.vault ≠ none ∨ s.root.regs.ident.a ≠ [])
    (hao : aoRuns s = true)
    (htime : s.root.lastReshare + (if s.pwr.mainGood then 2097152 else 33554432) ≤ s.clk.vtime.toNat)
    (hcell : s.pwr.mainGood = true ∨ cellFails s = false) :
    ∃ t m n, exec .rootSecretReshare s = .next t ∧ t.root.lastReshare = s.clk.vtime.toNat ∧
      t.root.vault = s.root.vault.map (fun v => { v with secret := v.secret.refresh m }) ∧
      t.root.regs = s.root.regs.refresh n ∧ t.mem.key = s.mem.key.map (·.refresh (n.drop 192)) ∧
      t = { s with rng := t.rng, root := t.root, mem := { s.mem with key := t.mem.key } } := by
  have hdue : ¬ ((s.root.vault.isNone && s.root.regs.ident.a.isEmpty) || !aoRuns s ||
      decide (s.clk.vtime.toNat < s.root.lastReshare + (if s.pwr.mainGood then 2097152 else 33554432))) = true := by
    have h := Nat.not_lt.2 htime
    rcases hsecret with e | e <;> simp [e, hao, h]
  have hgood : ¬ (!s.pwr.mainGood && cellFails s) = true := by
    rcases hcell with e | e <;> simp [e]
  have hexec : exec (.rootSecretReshare) s = .next (reshareRoot s.clk.vtime.toNat
      (if s.pwr.mainGood then s else (noiseBytes 128 s).2)) := by
    change execRootSecretReshare s = _
    rw [execRootSecretReshare, if_neg hdue, if_neg hgood]
    rfl
  obtain ⟨s0, hs0⟩ : ∃ s0 : State, s0 = if s.pwr.mainGood then s else (noiseBytes 128 s).2 := ⟨_, rfl⟩
  have hstart : DrawsOnly s s0 := by
    rw [hs0]
    split
    · exact ⟨s.rng, rfl⟩
    · exact ⟨_, rfl⟩
  obtain ⟨g, hdrawn⟩ := (hstart.trans (freshFor_draws 64 s0)).trans (freshFor_draws 256 _)
  have hroot : (freshFor 256 (freshFor 64 s0).2).2.root = s.root := by rw [hdrawn]
  have hmem : (freshFor 256 (freshFor 64 s0).2).2.mem = s.mem := by rw [hdrawn]
  rw [hexec, ← hs0]
  refine ⟨_, (freshFor 64 s0).1, (freshFor 256 (freshFor 64 s0).2).1, rfl, rfl, ?_, ?_, ?_, ?_⟩
  · rw [← hroot]; rfl
  · rw [← hroot]; rfl
  · rw [← hmem]; rfl
  · rw [reshareRoot, hdrawn]
    rfl

/-- Settles O36: the registers by their guards, the clusters by what each change leaves, the re-shares by the shares' value. -/
theorem governorRegistersAndGating : Obligations.GovernorRegistersAndGating := by
  unfold Obligations.GovernorRegistersAndGating
  intro d x c s
  refine ⟨fun hon => ⟨fun hlow hhigh => ?_, fun hout => ?_, ?_, ?_⟩, fun t0 hlen hwake htime => ?_, fun hidle => ?_,
    fun hidle hlen => ?_, fun hgate hlen => ?_, fun hmain hmode htime hlen => ?_, fun hsecret hao htime hcell => ?_,
    fun v m x hab ham => ⟨xorBytes_refresh hab ham, Shares.value_of⟩, fun fn handle b hb hdone => ?_⟩
  · change execGovCapWrite d s = _
    rw [execGovCapWrite, atSetup_of_on hon]
    dsimp only
    rw [if_neg (by rw [Bool.or_eq_true, decide_eq_true_eq, decide_eq_true_eq]; omega)]
  · change execGovCapWrite d s = _
    rw [execGovCapWrite, atSetup_of_on hon]
    dsimp only
    rw [if_pos (by simpa using hout)]
  · change execGovWeightWrite d s = _
    rw [execGovWeightWrite, atSetup_of_on hon]
    dsimp only
    simp only [Bool.or_eq_true, decide_eq_true_eq]
    rfl
  · change execGovTenantShareWrite x s = _
    rw [execGovTenantShareWrite, atSetup_of_on hon]
  · exact exec_clusterWakeComplete hlen hwake htime
  · change execClockGateTimer c s = _
    rw [execClockGateTimer, if_pos hidle]
  · refine ⟨_, congrArg Host.Outcome.next (if_pos hidle), ?_⟩
    have hc := State.cluster_mCluster (c := c) hlen fun c => { c.gated s.clk.now .clockGated with gating := true }
    refine ⟨by rw [hc], by rw [hc]; rfl, fun e he => ?_, fun n hn => State.cluster_mCluster_ne hn _ _, rfl⟩
    rw [hc] at he
    obtain ⟨e0, -, rfl⟩ := List.mem_map.1 he
    exact ⟨rfl, rfl⟩
  · exact exec_clusterGatingComplete hlen hgate
  · have h := reshareAll_reshared (s := s.mKs fun q => { q with reshareAt := s.clk.now }) hlen 16 (Nat.le_refl _)
    have hdue : (onMain s && s.mode ≠ .lockdown && s.ks.reshareAt + 960 ≤ s.clk.now) = true := by
      simp [hmain, hmode, htime]
    refine ⟨_, congrArg Host.Outcome.next (if_pos hdue), by rw [h.ks]; rfl, h.peals, by rw [h.ks]; rfl, fun n => ⟨?_, ?_⟩⟩
    · rintro ⟨hen, hin, hstate⟩
      have hres : (s.cluster n).reshares = true := by
        rcases hstate with e | e <;> simp [Cluster.reshares, hen, hin, e]
      obtain ⟨m, p, hn⟩ := h.done n n.isLt hres
      rw [hn]
      exact ⟨rfl, rfl, m, rfl⟩
    · intro hoff
      refine h.later n (.inr ?_)
      change (s.cluster n).reshares = false
      rcases hoff with e | e <;> simp [Cluster.reshares, e]
  · exact exec_rootSecretReshare hsecret hao htime hcell
  · change execBarrierDrainComplete fn handle s = _
    simp only [execBarrierDrainComplete, hb]
    rw [if_neg (by simp [hdone])]

end Sys2Proof.Machine
end

section
/-! The noise sources and the generators (O37). -/
namespace Sys2Proof.Machine

/-! Sources. -/

theorem State.source_mSource {k : BitVec 2} {s : State} (h : k.toNat < s.rng.sources.length) (f : NoiseSource → NoiseSource) :
    (s.mSource k f).source k = f (s.source k) :=
  getD_modAt_self h f _

/-- A source that is not as at reset is one of the device's. -/
theorem source_lt {s : State} {k : BitVec 2} (h : s.source k ≠ NoiseSource.init) : k.toNat < s.rng.sources.length := by
  by_contra hge
  exact h (by simp [State.source, List.getD, Nat.le_of_not_lt hge])

/-- A window leaves what the source has counted so far. -/
theorem windowTest_keeps (n : NoiseSource) (w : BitVec 1024) :
    (windowTest n w).2.fails = n.fails ∧ (windowTest n w).2.startFailed = n.startFailed ∧
      (windowTest n w).2.startPassed = n.startPassed := by
  simp only [windowTest]
  split <;> exact ⟨rfl, rfl, rfl⟩

theorem exec_noiseWindow {k : BitVec 2} {w : BitVec 1024} {s u : State} (hmain : onMain s = true)
    (hu : u = s.mSource k (fun _ => (windowTest (s.source k) w).2)) :
    ((s.source k).state = .healthy →
      exec (.noiseWindowComplete k w) s = .next (healthyWindow k (windowTest (s.source k) w).1 w u)) ∧
    ((s.source k).state = .starting → (s.source k).startFailed ≠ 1 →
      exec (.noiseWindowComplete k w) s = .next (startWindow k (windowTest (s.source k) w).1 u)) := by
  subst hu
  refine ⟨fun h => ?_, fun h hfresh => ?_⟩
  · change execNoiseWindowComplete k w s = _
    rw [execNoiseWindowComplete, if_neg (by simp [hmain]), h]
  · change execNoiseWindowComplete k w s = _
    rw [execNoiseWindowComplete, if_neg (by simp [hmain]), h]
    dsimp only
    rw [if_neg hfresh]

/-! A generator that is seeded. -/

theorem natBe_flatMap_length (l : List (BitVec 128)) : (blockBytes l).length = 16 * l.length := by
  simp [blockBytes, List.length_flatMap, Nat.mul_comm]

/-- The state after an update is no longer than the data it took. -/
theorem drbgUpdate_length_le (st data : Bytes) : (drbgUpdate st data).length ≤ data.length := by
  simp [drbgUpdate, xorBytes]

theorem freshBytes_length (n : Nat) (s : State) : (freshBytes n s).1.length = n := by
  unfold freshBytes
  split <;> simp [noiseBytes]

theorem freshBytes_pool (n : Nat) (s : State) :
    (freshBytes n s).2.rng.pool = s.rng.pool ∧ (freshBytes n s).2.rng.drbg = s.rng.drbg := by
  unfold freshBytes
  split <;> exact ⟨rfl, rfl⟩

/-- A generator just seeded. -/
def Drbg.seeded (state : Shares) (now : Nat) : Drbg :=
  { instantiated := true, state := state, sinceReseed := 0, reseedAt := now, limitRaised := false }

theorem seedDrbg_spec {i : Nat} {s : State} (hpool : 3 ≤ s.rng.pool.length) (hin : (s.drbg i).instantiated = true) :
    (seedDrbg i s).rng.pool = s.rng.pool.drop 3 ∧ ((seedDrbg i s).drbg i).instantiated = true ∧
      ((seedDrbg i s).drbg i).sinceReseed = 0 ∧ ((seedDrbg i s).drbg i).reseedAt = s.clk.vtime.toNat ∧
      ((seedDrbg i s).drbg i).state.value = drbgUpdate (s.drbg i).state.value (blockBytes (s.rng.pool.take 3)) := by
  obtain ⟨m, hm⟩ : ∃ m, m = freshBytes 48 (takePool 3 s).2 := ⟨_, rfl⟩
  obtain ⟨st, hst⟩ : ∃ st, st = drbgUpdate (s.drbg i).state.value (blockBytes (s.rng.pool.take 3)) := ⟨_, rfl⟩
  have heq : seedDrbg i s = m.2.mDrbg i fun _ => Drbg.seeded (Shares.of st m.1) s.clk.vtime.toNat := by
    rw [hm, hst]
    simp only [seedDrbg, hin, entropyInput, takePool]
    rfl
  have hnew : (seedDrbg i s).drbg i = Drbg.seeded (Shares.of st m.1) s.clk.vtime.toNat := by
    rw [heq]
    exact smGet_set_of_ne_default (v := Drbg.seeded _ _) (d := Drbg.none) (fun e => Bool.noConfusion (congrArg Drbg.instantiated e)) _ _
  have hlen : st.length ≤ m.1.length := by
    rw [hst, hm, freshBytes_length]
    refine (drbgUpdate_length_le _ _).trans ?_
    rw [natBe_flatMap_length, List.length_take]
    omega
  have hpool' : (seedDrbg i s).rng.pool = s.rng.pool.drop 3 := by
    rw [heq]
    change m.2.rng.pool = _
    rw [hm, (freshBytes_pool 48 _).1]
    rfl
  rw [hnew]
  exact ⟨hpool', rfl, rfl, rfl, by rw [Drbg.seeded, Shares.value_of hlen, hst]⟩

/-! The masking generators' rekey. -/

/-- What the rekey of some clusters leaves and takes. -/
structure Rekeyed (l : List Nat) (s t : State) : Prop where
  rng : t.rng = { s.rng with pool := s.rng.pool.drop l.length }
  rest : t = { s with rng := t.rng, clusters := t.clusters }
  others : ∀ n : ClusterNo, n.toNat ∉ l → t.cluster n = s.cluster n
  done : ∀ n : ClusterNo, n.toNat ∈ l →
    (t.cluster n).maskRekeys = (s.cluster n).maskRekeys + 1 ∧ (t.cluster n).maskKey.isSome = true

theorem rekeyClusters_rekeyed {l : List Nat} (hnodup : l.Nodup) (hlt : ∀ n ∈ l, n < 16) {s : State}
    (hlen : s.clusters.length = 16) : Rekeyed l s (rekeyClusters l s) := by
  induction l generalizing s with
  | nil => exact ⟨rfl, rfl, fun _ _ => rfl, fun _ h => absurd h List.not_mem_nil⟩
  | cons x l ih =>
    obtain ⟨hx, hnodup'⟩ := List.nodup_cons.1 hnodup
    have hxlt : x < 16 := hlt x List.mem_cons_self
    have hx' : (BitVec.ofNat 4 x).toNat = x := by simp; omega
    obtain ⟨f, hf⟩ : ∃ f : Cluster → Cluster, f = fun c => { c with
      maskKey := some (BitVec.ofNat 128 (beNat (takePool 1 s).1)), maskPos := 0, maskRekeys := c.maskRekeys + 1 } := ⟨_, rfl⟩
    have heq : rekeyClusters (x :: l) s = rekeyClusters l ((takePool 1 s).2.mCluster (BitVec.ofNat 4 x) f) := by
      rw [hf]; rfl
    have h := ih hnodup' (fun n hn => hlt n (List.mem_cons_of_mem _ hn)) (s := (takePool 1 s).2.mCluster (BitVec.ofNat 4 x) f)
      ((State.mCluster_length ..).trans hlen)
    rw [heq]
    refine ⟨?_, ?_, fun n hn => ?_, fun n hn => ?_⟩
    · rw [h.rng]
      simp [takePool, State.mCluster, State.mClusters, State.mRng]
    · rw [h.rest]
      rfl
    · have hne : n ≠ BitVec.ofNat 4 x := fun e => hn (by rw [e, hx']; exact List.mem_cons_self)
      rw [h.others n (fun hm => hn (List.mem_cons_of_mem _ hm)), State.cluster_mCluster_ne hne]
      rfl
    · rcases List.mem_cons.1 hn with hnx | hnl
      · have hnx' : n = BitVec.ofNat 4 x := BitVec.eq_of_toNat_eq (by rw [hnx, hx'])
        subst hnx'
        have hown := State.cluster_mCluster (s := (takePool 1 s).2) (c := BitVec.ofNat 4 x) hlen f
        rw [h.others _ (by rwa [hx']), hown, hf]
        exact ⟨rfl, rfl⟩
      · have hne : n ≠ BitVec.ofNat 4 x := fun e => hx (by rw [e, hx'] at hnl; exact hnl)
        have hd := h.done n hnl
        rw [State.cluster_mCluster_ne hne] at hd
        exact hd

theorem masked_spec (s : State) : (masked s).Nodup ∧ (∀ n ∈ masked s, n < 16) ∧
    ∀ n : ClusterNo, s.mode ≠ .lockdown → (s.cluster n).enabled = true → (s.cluster n).inService = true →
      n.toNat ∈ masked s := by
  unfold masked
  split
  next h => exact ⟨List.nodup_nil, fun _ h => absurd h List.not_mem_nil, fun _ h' => absurd h h'⟩
  next =>
    refine ⟨List.nodup_range.filter _, fun n hn => List.mem_range.1 (List.mem_of_mem_filter hn), fun n _ hen hin => ?_⟩
    refine List.mem_filter.2 ⟨List.mem_range.2 n.isLt, ?_⟩
    simp [hen, hin]

/-- Settles O37. -/
theorem noiseAndGenerators : Obligations.NoiseAndGenerators := by
  unfold Obligations.NoiseAndGenerators
  intro k w inst s u hmain hu
  obtain ⟨hhealthy, hstarting⟩ := exec_noiseWindow hmain hu
  refine ⟨fun hst hpass hrun => ?_, fun hst hfail => ?_, fun hst hfresh hthree hpass => ?_, fun hst hone htime => ?_,
    fun hpool hkat hdue => ?_, fun hlimit hpool => ?_, fun slot step h q st hheld htime hnone hq hdef v hv x hx => ?_,
    fun hrun htime hlen hpool => ?_, fun hrun htime hpool => ?_⟩
  · rw [hhealthy hst, healthyWindow, if_pos hpass, if_neg (by rw [hu]; simpa [State.mSource] using hrun)]
    rfl
  · have hk : k.toNat < s.rng.sources.length := source_lt fun e => by
      rw [e] at hst
      exact absurd hst (by decide)
    have hrecent (v : Nat) : (u.source k).recent v = (s.source k).recent v := by
      rw [hu, State.source_mSource hk, NoiseSource.recent, (windowTest_keeps _ w).1]
      rfl
    have hclk : u.clk = s.clk := by rw [hu]; rfl
    rw [hhealthy hst, healthyWindow, if_neg (by simp [hfail])]
    dsimp only
    rw [hrecent, hclk]
  · have hk : k.toNat < s.rng.sources.length := source_lt fun e => by
      rw [e] at hthree
      exact absurd hthree (by decide)
    have hsrc : u.source k = (windowTest (s.source k) w).2 := by rw [hu, State.source_mSource hk]
    obtain ⟨-, hf, hp⟩ := windowTest_keeps (s.source k) w
    rw [hstarting hst hfresh, startWindow]
    dsimp only
    rw [hsrc, hf, hp, if_neg hfresh, if_pos hpass, if_neg (by omega)]
  · have hms : ms 1 = 1000000 := by simp [ms]
    change execStartupTestRetry k s = _
    rw [execStartupTestRetry, if_pos (by rw [hms]; simp [hmain, hst, hone, htime])]
  · have hseed : canSeed s = true := by simp [canSeed, entropyInput, hpool, hkat]
    have hin : (s.drbg inst.toNat).instantiated = true := by
      rcases hdue with h | h
      · simp only [reseedDue, Bool.and_eq_true] at h
        exact h.1
      · simp only [atLimit, Bool.and_eq_true] at h
        exact h.1.2
    refine ⟨_, rfl, ?_, fun hlimit => ?_, seedDrbg_spec hpool hin⟩
    · change execDrbgScheduledReseed inst s = _
      rw [execDrbgScheduledReseed, if_pos hmain, reseedIfDue, if_pos (by rcases hdue with h | h <;> simp [h, hseed])]
    · change execDrbgReseedLimitReached inst s = _
      rw [execDrbgReseedLimitReached, if_pos (by simp [hmain, hlimit]), if_pos hseed]
  · change execDrbgReseedLimitReached inst s = _
    rw [execDrbgReseedLimitReached, if_pos (by simp [hmain, hlimit]), if_neg (by simp [canSeed, entropyInput, Nat.not_le.2 hpool])]
  · have hwho : h.who = .step slot step.toNat := by
      simpa using List.find?_some hheld
    have hexpire : expireHold h s = x := by
      rw [expireHold, unholdFor, hwho, hx, hv]
    change execDrbgHoldExpire slot step s = _
    simp only [execDrbgHoldExpire, hheld]
    rw [if_neg (by simp [holdOver, htime, hnone]), hexpire, hq]
    dsimp only
    rw [hdef]
  · obtain ⟨hnodup, hlt, hmem⟩ := masked_spec s
    obtain ⟨v, hv⟩ : ∃ v : State, v = (takePool 1 s).2.mRng fun g => { g with
      maskKey := some (BitVec.ofNat 128 (beNat (takePool 1 s).1)), maskPos := 0, maskRekeys := g.maskRekeys + 1,
      maskAt := s.clk.now } := ⟨_, rfl⟩
    have h := rekeyClusters_rekeyed hnodup hlt (s := v) (by rw [hv]; exact hlen)
    have hms : ms 10 = 10000000 := by simp [ms]
    refine ⟨rekeyClusters (masked s) v, ?_, ?_, ?_, ?_, ?_, ?_, fun n hmode hen hin => ?_, ?_⟩
    · change execMaskingGeneratorRekey s = _
      rw [execMaskingGeneratorRekey, if_neg (by rw [hms]; simp [hmain, hrun, Nat.not_lt.2 htime, Nat.not_lt.2 hpool]), hv]
      rfl
    · rw [h.rng, hv]; rfl
    · rw [h.rng, hv]; rfl
    · rw [h.rng, hv]; rfl
    · rw [h.rng, hv]; rfl
    · rw [h.rng, hv]
      exact List.drop_drop
    · have hd := h.done n (hmem n hmode hen hin)
      have hn : v.cluster n = s.cluster n := by rw [hv]; rfl
      rwa [hn] at hd
    · rw [h.rest, hv]
      rfl
  · change execCarriedSeedReplace s = _
    rw [execCarriedSeedReplace, if_pos (by simp [hmain, htime]), replaceSeed, if_neg (by simp [hrun, Nat.not_lt.2 hpool])]
    rfl

end Sys2Proof.Machine
end

section
/-! Keys: their creation and what a key peal does (O39, O40). -/
namespace Sys2Proof.Machine

/-- An operation whose peal is ready for it runs. -/
theorem runAdmin_of_ready {slot : PealSlot} {ids : List Nat} {s : State} {q : Peal} (hq : s.peal slot = some q)
    (hready : adminReady s q ids = true) (f : Peal → State → State) : runAdmin slot ids f s = .next (f q s) := by
  simp only [runAdmin, hq, hready, if_true]

/-! Generation. -/

/-- What generation does with its draws. -/
def makeDrawn (slot : PealSlot) (q : Peal) (tp : Template) (draws : List Bytes) (v : State) : State :=
  match keyDefect q.curves tp.alg tp.param (keyFromDraws q.curves tp.alg tp.param draws) with
  | some sub => opFail slot (St.inputInvalid, sub) 0 v
  | none => makeKey slot q tp (keyFromDraws q.curves tp.alg tp.param draws)
      (publicTail q.curves tp.alg tp.param (keyFromDraws q.curves tp.alg tp.param draws)) 0xFFFFFFFF 0 v

theorem generate_of_checked {slot : PealSlot} {algs : List Nat} {q : Peal} {s : State} {tp : Template}
    (h : genCheck q algs s = .inr tp) : generate slot algs q s =
      drawOn slot (genNeed q.curves q.fn.toNat (instI (4 + q.cluster.toNat)) tp.alg tp.param) (makeDrawn slot q tp)
        genFuel s := by
  simp only [generate, h]
  rfl

theorem genCheck_alg {q : Peal} {algs : List Nat} {s : State} {tp : Template} (h : genCheck q algs s = .inr tp) :
    tp.alg ∈ algs := by
  unfold genCheck at h
  split at h
  · exact absurd h nofun
  split at h
  · exact absurd h nofun
  next hin =>
    split at h
    · exact absurd h nofun
    split at h
    · exact absurd h nofun
    cases h
    simpa using hin

section Draw
variable {p : PealSlot} {need : List Bytes → Option (Nat × Nat × Bool)} {k : List Bytes → State → State} {u v : State}

theorem drawOn_of_enough (h : need (drawnSo p u) = none) (fuel : Nat) : drawOn p need k (fuel + 1) u = k (drawnSo p u) u := by
  rw [drawOn, h]

theorem drawOn_of_needed {inst n : Nat} {pr : Bool} (h : need (drawnSo p u) = some (inst, n, pr)) (fuel : Nat) :
    drawOn p need k (fuel + 1) u = match drawInTurn p 0 inst n pr u with
      | (.served bs, s1) =>
        drawOn p need k fuel ((unholdDraw p 0 s1).mPeal p fun q => { q with opDraws := q.opDraws ++ [bs] })
      | (.held, s1) => holdFor (.step p 0) inst pr s1
      | (.failed sub, s1) => deny p (St.entropyUnavailable, sub) s1 := by
  rw [drawOn, h] <;> rfl

end Draw

theorem genNeed_nil (curves : List Curve) (tenant inner alg param : Nat) :
    genNeed curves tenant inner alg param [] = some (tenant, genDraw curves alg param, true) := rfl

theorem genNeed_one {curves : List Curve} {tenant inner alg param : Nat} (halg : alg ≠ 0x30) (d : Bytes) :
    genNeed curves tenant inner alg param [d] =
      if pairDraw curves alg param = 0 then none else some (inner, pairDraw curves alg param, false) := by
  simp [genNeed, halg]

theorem genNeed_two {curves : List Curve} {tenant inner alg param : Nat} (halg : alg ≠ 0x30) (d e : Bytes) :
    genNeed curves tenant inner alg param [d, e] = none := by
  simp [genNeed, halg]

theorem generation_spec {slot : PealSlot} {s : State} {q : Peal} (hq : s.peal slot = some q) {op : Instr} {id : Nat}
    {algs : List Nat} {tp : Template} (hop : exec op s = runAdmin slot [id] (generate slot algs) s)
    (hready : adminReady s q [id] = true) (hcheck : genCheck q algs s = .inr tp) :
    exec op s = .next (drawOn slot (genNeed q.curves q.fn.toNat (instI (4 + q.cluster.toNat)) tp.alg tp.param)
        (makeDrawn slot q tp) genFuel s) ∧
      (genNeed q.curves q.fn.toNat (instI (4 + q.cluster.toNat)) tp.alg tp.param q.opDraws = none →
        exec op s = .next (makeDrawn slot q tp q.opDraws s)) := by
  have hexec : exec op s = .next (drawOn slot
      (genNeed q.curves q.fn.toNat (instI (4 + q.cluster.toNat)) tp.alg tp.param) (makeDrawn slot q tp) genFuel s) := by
    rw [hop, runAdmin_of_ready hq hready, generate_of_checked hcheck]
  refine ⟨hexec, fun hnone => ?_⟩
  have hdrawn : drawnSo slot s = q.opDraws := by simp [drawnSo, hq]
  have hfuel : genFuel = 4095 + 1 := rfl
  rw [hexec, hfuel, drawOn_of_enough (by rw [hdrawn, hnone]), hdrawn]

/-- Settles O39: generation draws until it has enough; each creation then makes its key's record. -/
theorem keysAreCreated : Obligations.KeysAreCreated := by
  unfold Obligations.KeysAreCreated
  intro slot s q hq
  refine ⟨fun op id algs tp need mk hop hready hcheck hneed hmk => ?_, fun need k fuel u v => ⟨fun hnone => ?_,
      fun inst n pr bs hsome => ⟨fun hdraw => ?_, fun hdraw => ?_, fun sub hdraw => ?_⟩⟩,
    fun tp k r hready htp hkey hderive hroot => ?_, fun b tp k u tr key hready htp hkey hb halg huse hver hunwrap husage hgood => ?_,
    fun tp key tail mask pub parent gen r r1 g u hr hg hmask hpub hr1 => ?_⟩
  · have hmk' : mk = makeDrawn slot q tp := by rw [hmk]; rfl
    have hexec : exec op s = runAdmin slot [id] (generate slot algs) s := by
      rcases hop with ⟨rfl, rfl, rfl⟩ | ⟨rfl, rfl, rfl⟩ | ⟨rfl, rfl, rfl⟩ | ⟨rfl, rfl, rfl⟩ | ⟨rfl, rfl, rfl⟩ <;> rfl
    have halg (hid : id ≠ 0xD2) : tp.alg ≠ 0x30 := by
      have hin := genCheck_alg hcheck
      intro e
      rw [e] at hin
      rcases hop with ⟨-, rfl, rfl⟩ | ⟨-, rfl, rfl⟩ | ⟨-, rfl, rfl⟩ | ⟨-, rfl, rfl⟩ | ⟨-, rfl, rfl⟩ <;> simp at hin hid
    obtain ⟨hdrawn, hdone⟩ := generation_spec hq hexec hready hcheck
    rw [hmk', hneed]
    exact ⟨hdrawn, hdone, genNeed_nil .., fun d hid => genNeed_one (halg hid) d, fun d e hid => genNeed_two (halg hid) d e⟩
  · exact drawOn_of_enough hnone fuel
  · rw [drawOn_of_needed hsome, hdraw]
  · rw [drawOn_of_needed hsome, hdraw]
  · rw [drawOn_of_needed hsome, hdraw]
    rfl
  · change execDeriveAndStore slot () s = _
    rw [execDeriveAndStore, runAdmin_of_ready hq hready]
    simp only [htp, hkey]
    rw [if_neg (by simp [hderive]), if_neg (by simp [hroot])]
  · change execImportX9143Block slot () s = _
    rw [execImportX9143Block, runAdmin_of_ready hq hready]
    simp only [htp, hkey, hb, halg, huse, if_true]
    rw [if_neg (by simp [hver])]
    simp only [hunwrap]
    rw [if_neg (by simp [husage])]
    simp only [hgood, Bool.or_eq_true, beq_iff_eq]
  · have hlen : key.length ≤ mask.length := by
      have h := freshBytes_length key.length s
      rw [hmask] at h
      exact Nat.le_of_eq h.symm
    refine ⟨by rw [hr1]; exact Shares.value_of hlen, ?_⟩
    simp only [makeKey, hr, hg, hmask, hr1, hpub]

/-! Key peals (O40). -/

/-- A pair is its two parts. -/
theorem exists_pair {α β : Type} {P : α → β → Prop} (x : α × β) (h : P x.1 x.2) : ∃ b u, (b, u) = x ∧ P b u :=
  ⟨x.1, x.2, rfl, h⟩

/-- The words of a key state policy fit, and those past the fifth are zero. -/
theorem statePolicy_fits {bs : Bytes} (hlow : ∀ i < 5, le bs (4 * i) 4 < 2 ^ 24) (hzero : ∀ i, 5 ≤ i → i < 8 → le bs (4 * i) 4 = 0) :
    ((((List.range 8).map fun i => BitVec.ofNat 32 (le bs (4 * i) 4)).drop 5).any (· ≠ 0) ||
      ((List.range 8).map fun i => BitVec.ofNat 32 (le bs (4 * i) 4)).any fun e => 2 ^ 24 ≤ e.toNat) = false := by
  have hsmall (i : Nat) (hi : i < 8) : le bs (4 * i) 4 < 2 ^ 24 := by
    by_cases h5 : i < 5
    · exact hlow i h5
    · rw [hzero i (Nat.le_of_not_lt h5) hi]
      decide
  have hrest : ((List.range 8).map fun i => BitVec.ofNat 32 (le bs (4 * i) 4)).drop 5 = [0, 0, 0] := by
    have h5 := hzero 5 (by decide) (by decide)
    have h6 := hzero 6 (by decide) (by decide)
    have h7 := hzero 7 (by decide) (by decide)
    simp only [List.range, List.range.loop, List.map_cons, List.map_nil, List.drop, h5, h6, h7]
    rfl
  rw [hrest, Bool.or_eq_false_iff]
  refine ⟨by decide, List.any_eq_false.2 fun e he => ?_⟩
  obtain ⟨i, hi, rfl⟩ := List.mem_map.1 he
  have h := hsmall i (List.mem_range.1 hi)
  rw [decide_eq_true_eq, Nat.not_le]
  exact Nat.lt_of_le_of_lt (Nat.mod_le _ _) h


theorem transitionBarred_eq_false {policy : Option (List (BitVec 32))} {st : BitVec 3} {target : Nat}
    (h : bitAt (kst policy st.toNat).2 target = true ∨ (target = 4 ∧ st ≠ 4)) :
    transitionBarred policy st.toNat target = false := by
  rcases h with h | ⟨h, hst⟩
  · simp [transitionBarred, h]
  · have hne : st.toNat ≠ 4 := fun e => hst (BitVec.eq_of_toNat_eq e)
    simp [transitionBarred, h, hne]

/-- Settles O40: by the guards of each peal's operation. -/
theorem keyPealsDoTheirOperation : Obligations.KeyPealsDoTheirOperation := by
  unfold Obligations.KeyPealsDoTheirOperation
  intro slot s q hq
  refine ⟨fun k r g hready hkey hg hle hopen hgen hroom => exists_pair _ ?_, fun k r hkey => ⟨fun hready hgen hroom => ?_,
      fun hready => ⟨fun hop => ?_, fun hop hcrit hfit => ?_⟩, fun tk tr hready htk hexp hopen hstr => exists_pair _ ?_⟩,
    fun h hh => ⟨fun hready => ?_, fun rd r hready hr => ?_,
      fun rd r mask v hready hnone hidle hdma hfresh hfetch => ⟨fun href => ?_, fun hkeep hidx => ⟨_, rfl, ?_⟩⟩⟩,
    fun hready hzero hok => ?_, fun hready hlow hzero => ?_⟩
  · change execChangeState slot s = _
    rw [execChangeState, runAdmin_of_ready hq hready]
    simp only [hkey, hg]
    rw [if_neg (by omega), if_neg (by rw [transitionBarred_eq_false hopen]; simp [hgen]), if_neg (by simp [hroom])]
  · refine ⟨{ minGen := (r.gen + 1).setWidth 31, revoked := true, barrier := none, before_ := none }, rfl, rfl, ?_⟩
    change execRevokeKey slot s = _
    rw [execRevokeKey, runAdmin_of_ready hq hready]
    simp only [hkey]
    rw [if_neg (by simp [hgen, hroom])]
  · change execPinOrUnpin slot s = _
    rw [execPinOrUnpin, runAdmin_of_ready hq hready]
    simp only [hkey]
    rw [if_pos hop]
  · change execPinOrUnpin slot s = _
    rw [execPinOrUnpin, runAdmin_of_ready hq hready]
    simp only [hkey]
    rw [if_neg (by rw [hop]; decide), if_neg (fun h => h hop), if_neg]
    rcases hfit with e | e
    · simp [hcrit, e]
    · simp [hcrit, Nat.not_lt.2 e]
  · change execExportX9143Block slot s = _
    rw [execExportX9143Block, runAdmin_of_ready hq hready]
    simp only [hkey, htk]
    rw [if_neg (by rcases hexp with e | e <;> rw [e] <;> decide), if_neg (by simp [hopen]), if_neg (by omega)]
  · change execDrop slot s = _
    rw [execDrop, runAdmin_of_ready hq hready]
    simp only [hh]
  · change execKeyReport slot rd s = _
    rw [execKeyReport, runAdmin_of_ready hq hready]
    simp only [hh, hr]
  · change execKeyReport slot rd s = _
    rw [execKeyReport, runAdmin_of_ready hq hready]
    simp only [hh, hnone]
    rw [if_neg (by simp [hidle, hdma])]
    simp only [hfresh, hfetch]
    rw [if_pos href]
  · change execKeyReport slot rd s = _
    rw [execKeyReport, runAdmin_of_ready hq hready]
    simp only [hh, hnone]
    rw [if_neg (by simp [hidle, hdma])]
    simp only [hfresh, hfetch]
    rw [if_neg (by simp [hkeep]), if_neg (by simp [hidx])]
  · change execSetAllowances slot s = _
    rw [execSetAllowances, runAdmin_of_ready hq hready]
    dsimp only
    rw [if_neg (by simpa using hzero), if_neg (by rw [hok]; decide)]
  · change execLoadKeyStatePolicy slot s = _
    rw [execLoadKeyStatePolicy, runAdmin_of_ready hq hready]
    dsimp only
    rw [if_neg (by rw [statePolicy_fits hlow hzero]; exact Bool.false_ne_true)]

end Sys2Proof.Machine
end

section
/-! Tenants, and what the device answers about itself (O41, O42). -/
namespace Sys2Proof.Machine

/-! A draw that is served. -/

theorem drawInTurn_keepsPeals (p : PealSlot) (step i n : Nat) (pr : Bool) (s : State) :
    KeepsPeals s (drawInTurn p step i n pr s).2 := by
  have hafter := drawAfter_keepsPeals (.step p step) i n pr s
  have hsend (ty : BitVec 8) (x : Bytes) (t : State) : KeepsPeals t (xlSend ty x t) := by
    unfold xlSend
    split <;> exact ⟨rfl, rfl⟩
  have hforward (bs : Bytes) (t : State) : KeepsPeals t (forwardDual p bs t) := by
    unfold forwardDual
    split
    · split
      · exact hsend _ _ t
      · exact .refl t
    · exact .refl t
  unfold drawInTurn
  generalize drawAfter (.step p step) i n pr s = x at hafter ⊢
  split
  · exact hafter.trans (hforward _ _)
  · exact hafter

/-- The state in which a served draw has been noted. -/
def noteDrawn (p : PealSlot) (bs : Bytes) (u : State) : State :=
  (unholdDraw p 0 u).mPeal p fun x => { x with opDraws := x.opDraws ++ [bs] }

section
variable {p : PealSlot} {inst n : Nat} {pr : Bool} {bs : Bytes} {s u : State} {q : Peal}

theorem noteDrawn_peal (hq : s.peal p = some q) (hdraw : drawInTurn p 0 inst n pr s = (.served bs, u)) :
    (noteDrawn p bs u).peal p = some { q with opDraws := q.opDraws ++ [bs] } := by
  have hpeals : u.peals = s.peals := by
    have h := (drawInTurn_keepsPeals p 0 inst n pr s).peals
    rwa [hdraw] at h
  refine State.mPeal_own (q := q) ?_ _
  change smFind p.toNat u.peals = some q
  rw [hpeals]
  exact hq

/-- The next draw of an operation that needs it, once served, is what the operation goes on with. -/
theorem withDraw_served {i : Nat} (hq : s.peal p = some q) (hi : q.opDraws.length = i)
    (hdraw : drawInTurn p 0 inst n pr s = (.served bs, u)) (k : Bytes → State → State) :
    withDraw p i inst n pr k s = k bs (noteDrawn p bs u) := by
  have hfirst : drawnSo p s = q.opDraws := by simp [drawnSo, hq]
  have hnext : drawnSo p (noteDrawn p bs u) = q.opDraws ++ [bs] := by simp [drawnSo, noteDrawn_peal hq hdraw]
  have hmissing : (if (drawnSo p s).length ≤ i then some (inst, n, pr) else none) = some (inst, n, pr) := by
    rw [hfirst, if_pos (Nat.le_of_eq hi)]
  have henough : (if (drawnSo p (noteDrawn p bs u)).length ≤ i then some (inst, n, pr) else none) = none := by
    rw [hnext, if_neg (by simp [hi])]
  rw [withDraw, drawOn_of_needed hmissing, hdraw]
  change drawOn p _ _ (0 + 1) (noteDrawn p bs u) = _
  rw [drawOn_of_enough henough, hnext]
  simp [← hi]

theorem withSign_served {i : Nat} (hq : s.peal p = some q) (hi : q.opDraws.length = i)
    (hdraw : drawInTurn p 0 (instI 3) 56 false s = (.served bs, u)) (key : State → Shares) (msg : Bytes)
    (k : Bytes → State → State) :
    withSign p i key msg k s = k (deviceSign (key (noteDrawn p bs u)) msg bs) (noteDrawn p bs u) :=
  withDraw_served hq hi hdraw _

end

theorem headD_eq_getD {α : Type} (l : List α) (d : α) : l.headD d = l.getD 0 d := by
  cases l <;> rfl

/-! Tenants (O41). -/

theorem openIntake_of_served {p : PealSlot} {q : Peal} {t : Fn} {method alg : BitVec 8} {nonce : Bytes} {id : Nat}
    {s u v w : State} {d m mask secret pub body : Bytes} (hq : s.peal p = some q) (hnone : q.opDraws = [])
    (hdraw : drawInTurn p 0 (instI 0) (sessionDraw method) true s = (.served d, u)) (hsecret : secret = sessionKey method d)
    (hmask : freshBytes secret.length (noteDrawn p d u) = (mask, v)) (hpub : pub = publicOf [] (sessionAlg method) 2 secret)
    (hbody : body = attestBody v 1 t (sessionRec method) id (sha384 pub) nonce)
    (hsign : drawInTurn p 0 (instI 3) 56 false v = (.served m, w)) :
    openIntake p q t method alg nonce id s = pass p q ([BitVec.ofNat 8 id] ++ zeros 7 ++ pub ++ body ++
        deviceSign (noteDrawn p m w).root.regs.attest body m)
      (.openSession { id := id, tenant := t, method := method, kekAlg := alg, opened := s.clk.vtime.toNat,
                      secret := Shares.of secret mask, parts := [] }) (noteDrawn p m w) := by
  have hv : v.peal p = some { q with opDraws := q.opDraws ++ [d] } := by
    have h := (freshBytes_keepsPeals secret.length (noteDrawn p d u)).peals
    rw [hmask] at h
    have hd := noteDrawn_peal hq hdraw
    change smFind p.toNat v.peals = _
    rw [h]
    exact hd
  rw [openIntake, withDraw_served hq (by rw [hnone]; rfl) hdraw]
  simp only [← hsecret, hmask, ← hpub, ← hbody]
  rw [withSign_served hv (by rw [hnone]; rfl) hsign]

/-- Settles O41: by the guards of each peal's operation; an intake session's two draws one after the other. -/
theorem tenantsAreAdministered : Obligations.TenantsAreAdministered := by
  unfold Obligations.TenantsAreAdministered
  intro slot s q hq
  refine ⟨fun hready htsk hzero hfn ht => ?_,
    fun t method alg id d n secret mask body pub u v w hready ht hmethod halg hm1 hm4 halg' hzero hmay hother hfree hnone hdraw
      hsecret hmask hpub hbody hsign z hz => ?_,
    fun x hx => ⟨fun i key hready hi hlen hzero hindex hnew hsig hkey hopen hnz => ?_, fun hready hall hpend => ?_⟩,
    fun b k tr key hready hfn hslot hb hzero hver husage halg hpend hunwrap hkey hstr => ?_, fun op id hop hready hfn => ?_,
    fun n t free hready htsk htarget hstate hown hzero hgen hlen hsig => ?_, fun k r g hready hslot hkek => ?_,
    fun g hg hready hzero hkcv => ?_, fun hready => ?_, fun hready hfn hmode hstate hrings => ?_, fun id => rfl⟩
  · change execCreateTenant slot s = _
    rw [execCreateTenant, runAdmin_of_ready hq hready]
    dsimp only
    have hmay : mayCreate s (q.inputBytes.getD 0 0) = true := by
      rcases ht with ⟨h0, h⟩ | ⟨h0, h, h'⟩
      · rw [mayCreate, if_neg h0, h]; rfl
      · rw [mayCreate, if_pos h0, h0, h, h']; rfl
    rw [if_neg (by rw [hfn]; decide), if_neg (by rw [htsk, hzero]; simp), if_neg (by rw [hmay]; decide)]
  · change execOpenIntakeSession slot () s = _
    rw [execOpenIntakeSession, runAdmin_of_ready hq hready]
    dsimp only
    rw [← ht, ← hmethod, ← halg]
    have hknown : [1, 2, 3, 4].contains method.toNat = true := by
      have : method.toNat = 1 ∨ method.toNat = 2 ∨ method.toNat = 3 ∨ method.toNat = 4 := by omega
      rcases this with h | h | h | h <;> rw [h] <;> decide
    have hkind : (alg == 1 || alg == 3) = true := by rcases halg' with h | h <;> rw [h] <;> decide
    rw [if_neg (by rw [hknown, hkind, hzero]; decide), if_neg (by rw [hmay, hother]; decide), hfree]
    dsimp only
    rw [openIntake_of_served hq hnone hdraw hsecret hmask hpub hbody hsign, hz]
    rfl
  · change execEnterComponent slot () () () () s = _
    rw [execEnterComponent, runAdmin_of_ready hq hready]
    have hx' : callerSession s q.fn (q.inputBytes.getD 0 0).toNat = some x := by rwa [← headD_eq_getD]
    have hpass : (if decide (3 ≤ x.method.toNat) then sigFault (intakeVerdict s x q.inputBytes) else none) = none := by
      rcases hsig with h | h
      · rw [if_neg (by simpa using h)]
      · rw [h]; exact ite_self _
    have htake : (key ++ kcvBytes (keyKcv x.kekAlg.toNat key [])).take (kekLen x.kekAlg) = key := by
      rw [← hkey, List.take_left]
    have hdrop : (key ++ kcvBytes (keyKcv x.kekAlg.toNat key [])).drop (kekLen x.kekAlg) =
        kcvBytes (keyKcv x.kekAlg.toNat key []) := by
      rw [← hkey, List.drop_left]
    dsimp only
    rw [hx', ← hi]
    dsimp only
    rw [if_neg (by rw [hzero, hindex, hnew]; simp [hlen]), hpass]
    dsimp only
    rw [hopen, htake, hdrop, if_neg (by simp), if_neg (by rw [hnz]; decide), if_neg (fun h => h rfl)]
  · change execCloseIntakeSession slot () s = _
    rw [execCloseIntakeSession, runAdmin_of_ready hq hready]
    dsimp only
    rw [hx]
    dsimp only
    rw [if_neg (by rw [hall, hpend]; decide)]
  · change execImportKek slot () s = _
    rw [execImportKek, runAdmin_of_ready hq hready]
    dsimp only
    rw [if_neg (by rw [hfn]; decide), hslot, hb]
    dsimp only
    rw [if_neg (by rw [hzero, hver, husage, halg]; decide), if_neg (by rw [hpend]; decide), hunwrap]
    dsimp only
    rw [if_neg (by rcases hkey with h | h <;> simp [kekAlgOf, h]), if_neg (Nat.not_lt.2 hstr)]
  · rcases hop with ⟨rfl, rfl⟩ | ⟨rfl, rfl⟩ | ⟨rfl, rfl⟩
    · change execCreateTenant slot s = _
      rw [execCreateTenant, runAdmin_of_ready hq hready]
      dsimp only
      rw [if_pos hfn]
      rfl
    · change execImportKek slot () s = _
      rw [execImportKek, runAdmin_of_ready hq hready]
      dsimp only
      rw [if_pos hfn]
      rfl
    · change execDestroyTenant slot s = _
      rw [execDestroyTenant, runAdmin_of_ready hq hready]
      dsimp only
      rw [if_pos (by simp only [decide_eq_true hfn, Bool.true_or])]
      rfl
  · change execRotateTableSigningKey slot () s = _
    rw [execRotateTableSigningKey, runAdmin_of_ready hq hready]
    simp only [htsk, htarget]
    have hpass : (if free then none else sigFault (ownerVerdict (s.tenant t).tskAlg (s.tenant t).tsk
        (q.inputBytes.take (8 + n)) (q.inputBytes.drop (8 + n)))) = none := by
      rcases hsig with h | h
      · rw [if_pos h]
      · rw [h]; exact ite_self _
    rw [if_neg (by rw [hzero]; decide), if_neg (by simp [hstate, hown, hgen]), if_neg (fun h => h hlen), hpass]
  · change execRewrapBlock slot s = _
    rw [execRewrapBlock, runAdmin_of_ready hq hready]
    simp only [hslot, hkek]
  · change execFinishKekRotation slot s = _
    rw [execFinishKekRotation, runAdmin_of_ready hq hready, hg]
    dsimp only
    rw [if_neg (fun h => h hzero), if_neg (fun h => h hkcv)]
  · change execAbandonPendingKek slot s = _
    rw [execAbandonPendingKek, runAdmin_of_ready hq hready]
  · change execDestroyTenant slot s = _
    rw [execDestroyTenant, runAdmin_of_ready hq hready]
    dsimp only
    rw [if_neg (by rw [hfn, hmode, decide_eq_false hstate, hrings]; decide)]

/-! What the device answers about itself (O42). -/

/-- What a page of a region has worn is no more than the region's most. -/
theorem wear_le_regionWear {s : State} {r p n : Nat} (hp : smFind p s.nv.wear = some n) (hlow : (regionPages r).1 ≤ p)
    (hhigh : p < (regionPages r).2) : n ≤ regionWear s r := by
  have hmem : n ∈ (s.nv.wear.filter fun e => decide ((regionPages r).1 ≤ e.1) && decide (e.1 < (regionPages r).2)).map (·.2) :=
    List.mem_map.2 ⟨(p, n), List.mem_filter.2 ⟨mem_of_smFind hp, by simp [hlow, hhigh]⟩, rfl⟩
  exact ((foldl_max_le_iff _ 0 _).1 (Nat.le_refl _)).2 n hmem

/-- Settles O42: by the guards of each read. -/
theorem deviceAnswersForItself : Obligations.DeviceAnswersForItself := by
  unfold Obligations.DeviceAnswersForItself
  intro slot s q hq
  refine ⟨fun hready hwho => ?_, fun hready => ?_, fun k r bs body u hready hslot hbody hnone hdraw z hz => ?_, fun hready => ?_,
    fun hready hwho => ?_, fun hready hlow hhigh => ?_, fun hready => ?_, fun hready => ?_, fun hready hlen => ?_,
    fun k tk alg r tr ik hready hslot htslot hzero hfamily hstr hik => ?_,
    fun w n hready hlen hop hzero hn hlow hhigh hfit hw hfree => ⟨?_, fun hlost => ?_⟩, fun hready hlen hop => ?_,
    fun r p n hp _ hlow hhigh => wear_le_regionWear hp hlow hhigh⟩
  · change execTenantReport slot s = _
    rw [execTenantReport, runAdmin_of_ready hq hready]
    dsimp only
    rw [if_neg (by rcases hwho with h | h <;> simp only [h] <;> simp)]
  · change execHealthReport slot s = _
    rw [execHealthReport, runAdmin_of_ready hq hready]
  · change execKeyAttestation slot s = _
    rw [execKeyAttestation, runAdmin_of_ready hq hready]
    simp only [hslot]
    rw [withSign_served hq (by rw [hnone]; rfl) hdraw, ← hbody, hz]
    rfl
  · change execCertificateChain slot s = _
    rw [execCertificateChain, runAdmin_of_ready hq hready]
  · change execLookupByTag slot s = _
    rw [execLookupByTag, runAdmin_of_ready hq hready]
    dsimp only
    rw [if_neg]
    rcases hwho with h | h | h
    · rw [h]; simp
    · rw [if_neg h]; simp
    · rw [h, ite_self]; simp
  · change execReadBySequence slot s = _
    rw [execReadBySequence, runAdmin_of_ready hq hready]
    dsimp only
    rw [if_neg (by simp; omega)]
  · change execReadBuiltinPealTable slot s = _
    rw [execReadBuiltinPealTable, runAdmin_of_ready hq hready]
  · change execReadCostTable slot s = _
    rw [execReadCostTable, runAdmin_of_ready hq hready]
  · change execReadAlgorithmPolicy slot s = _
    rw [execReadAlgorithmPolicy, runAdmin_of_ready hq hready]
    dsimp only
    rw [if_neg (fun h => h hlen)]
    rfl
  · change execDeriveInitialDukptKey slot s = _
    rw [execDeriveInitialDukptKey, runAdmin_of_ready hq hready]
    simp only [hslot, htslot]
    rcases hfamily with ⟨hf, haes, rfl⟩ | ⟨hf, haes, hmod, rfl⟩
    · have halg : initialAlg (q.inputBytes.headD 0) r.alg.toNat = r.alg.toNat := by rw [initialAlg, if_pos hf]
      rw [halg, if_neg (by rw [hf, hzero]; simp), if_neg (by rw [hf, haes]; decide), if_neg (Nat.not_lt.2 hstr), hik]
      rfl
    · have halg : initialAlg (q.inputBytes.headD 0) r.alg.toNat = 8 := by rw [initialAlg, if_neg (by rw [hf]; decide)]
      rw [halg, if_neg (by rw [hf, hzero, hmod]; decide), if_neg (by rw [hf, haes]; decide), if_neg (Nat.not_lt.2 hstr), hik]
      rfl
  · change execUserRegionRead slot s = _
    rw [execUserRegionRead, runAdmin_of_ready hq hready]
    dsimp only
    have hrange : userRange q (le q.inputBytes 4 4) n = some (w, n) := by
      rw [userRange, if_pos hfit, hw]
    rw [hn, if_neg (fun h => h hlen), if_neg (by rw [opByte, hop, hzero]; simp; omega), hrange]
    dsimp only
    rw [if_neg (by rw [hfree]; decide)]
  · rw [NvStore.seen, hlost, List.foldl_nil, storeGet]
    refine List.map_congr_left fun i _ => ?_
    rw [State.userByte, State.storeByte, Nat.add_assoc]
  · change execUserRegionStatus slot s = _
    rw [execUserRegionStatus, runAdmin_of_ready hq hready]
    dsimp only
    rw [if_neg (fun h => h hlen), if_neg (fun h => h hop)]

end Sys2Proof.Machine
end

section
/-! Tables, policies and Maintenance, and the Toll's operations (O44, O45). -/
namespace Sys2Proof.Machine

/-! Images (O44). -/

theorem tableTurn_of_turn {slot : PealSlot} {q : Peal} {kind : Nat} {s : State} (h : tableWaits s q kind = false)
    (f : State → State) : tableTurn slot q kind f s = f s := by
  rw [tableTurn, if_pos (by rw [h]; rfl)]

theorem loadTable_of_good {slot : PealSlot} {q : Peal} {s : State} {b : TableBody}
    (hhead : headerCheck s q (parseTblHeader q.inputBytes) q.inputBytes = none)
    (hsig : sigFault (imageVerdict s (parseTblHeader q.inputBytes) q.inputBytes) = none)
    (hbody : bodyCheck s (parseTblHeader q.inputBytes) (imageBody (parseTblHeader q.inputBytes) q.inputBytes) = some b) :
    loadTable slot q s = pass slot q (imageDigest (parseTblHeader q.inputBytes) q.inputBytes)
      (.loadTable (parseTblHeader q.inputBytes).tenant (parseTblHeader q.inputBytes).version
        (parseTblHeader q.inputBytes).seq (imageDigest (parseTblHeader q.inputBytes) q.inputBytes) b) s := by
  simp only [loadTable, hhead, hsig, hbody]

theorem setMaintenance_enters {s : State} (h : s.mode = .ready ∨ s.mode = .serve ∨ s.mode = .surge) :
    (setMaintenance true s).mode = .maintenance := by
  rw [setMaintenance, if_pos rfl, if_pos (by rcases h with e | e | e <;> rw [e] <;> decide)]
  exact State.enter_mode _ _

theorem setMaintenance_leaves {s : State} (h : s.mode = .maintenance) : (setMaintenance false s).mode = .ready := by
  rw [setMaintenance, if_neg (by decide), if_pos h]
  exact State.enter_mode _ _

theorem execClearOwnTable_of_turn {slot : PealSlot} {s : State} {q : Peal} {k : BitVec 8} (hq : s.peal slot = some q)
    (hready : adminReady s q [0xF4] = true) (hturn : tableWaits s q 0 = false) (hk : q.inputBytes.headD 0 = k)
    (hlow : k ≠ 0) (hhigh : k.toNat < 4)
    (hok : (if k = 1 then true else if k = 2 then crossOk (tabPeals s q.fn) [] (curvesOf s q.fn)
      else crossOk (tabPeals s q.fn) (tabFmts s q.fn) []) = true) :
    exec (.clearOwnTable slot) s = .next (pass slot q [] (.clearTable q.fn k) s) := by
  have hfour : k ≠ 4 := fun e => by rw [e] at hhigh; exact absurd hhigh (by decide)
  change execClearOwnTable slot s = _
  rw [execClearOwnTable, runAdmin_of_ready hq hready, tableTurn_of_turn hturn]
  dsimp only
  rw [opByte, hk, if_neg hfour, hok, if_neg (by rw [decide_eq_false hlow, decide_eq_false (show ¬ 4 < k.toNat by omega)]; decide)]

/-- Settles O44: by the steps of an image and the guards of each operation. -/
theorem tablesAndPoliciesChange : Obligations.TablesAndPoliciesChange := by
  unfold Obligations.TablesAndPoliciesChange
  rintro slot s q sig h bs hq rfl rfl
  refine ⟨fun hhead => ⟨fun b hsig hturn hbody => ⟨fun hready => ?_, fun hready hmode => ?_⟩, fun t hsig hready ht => ?_⟩,
    fun hready hturn => ⟨fun hk => ?_, fun hk hok => ?_, fun hk hok => ?_⟩, fun hready hlen hop hbit hzero => ?_,
    fun hready hzero => ?_, fun hready hzero hentries => ?_, fun hready => ?_,
    fun hready => ⟨fun hop hmode => ⟨?_, setMaintenance_enters hmode⟩, fun hop hmode hfw hlc => ⟨?_, setMaintenance_leaves hmode⟩⟩⟩
  · change execLoadOwnTable slot () () s = _
    rw [execLoadOwnTable, runAdmin_of_ready hq hready, tableTurn_of_turn hturn, loadTable_of_good hhead hsig hbody]
  · change execLoadTableForTenant slot () () s = _
    rw [execLoadTableForTenant, runAdmin_of_ready hq hready, if_neg (fun e => e hmode), tableTurn_of_turn hturn,
      loadTable_of_good hhead hsig hbody]
  · change execLoadCostTable slot sig s = _
    rw [execLoadCostTable, runAdmin_of_ready hq hready]
    simp only [hhead, hsig, ht]
  · exact execClearOwnTable_of_turn hq hready hturn hk (by decide) (by decide) (if_pos rfl)
  · refine execClearOwnTable_of_turn hq hready hturn hk (by decide) (by decide) ?_
    rw [if_neg (by decide), if_pos rfl, hok]
  · refine execClearOwnTable_of_turn hq hready hturn hk (by decide) (by decide) ?_
    rw [if_neg (by decide), if_neg (by decide), hok]
  · change execSetAlgorithmPolicy slot s = _
    rw [execSetAlgorithmPolicy, runAdmin_of_ready hq hready]
    dsimp only
    rw [if_neg (fun e => e hlen), if_neg (by rw [hbit, hzero, decide_eq_false (Nat.not_le.2 hop)]; decide)]
  · change execSetPermissionMap slot s = _
    rw [execSetPermissionMap, runAdmin_of_ready hq hready]
    dsimp only
    rw [if_neg (by rw [hzero]; decide)]
  · have hall : ((List.range 512).all fun i => tollEntryOk i ((q.inputBytes.drop 8).getD i 0)) = true := by
      rw [List.all_eq_true]
      intro i hi
      have h := hentries i (List.mem_range.1 hi)
      rwa [List.getD_eq_getElem?_getD, List.getElem?_drop, ← List.getD_eq_getElem?_getD]
    change execSetTollBindingMap slot s = _
    rw [execSetTollBindingMap, runAdmin_of_ready hq hready]
    dsimp only
    rw [if_neg (by rw [hzero, hall]; decide)]
  · change execEmptyCarriedJournal slot s = _
    rw [execEmptyCarriedJournal, runAdmin_of_ready hq hready]
  · change execMaintenanceEnter slot s = _
    rw [execMaintenanceEnter, runAdmin_of_ready hq hready]
    rw [opByte, hop, if_neg (by decide), if_pos (by rcases hmode with e | e | e <;> rw [e] <;> decide)]
  · change execMaintenanceExit slot s = _
    rw [execMaintenanceExit, runAdmin_of_ready hq hready]
    rw [opByte, if_neg (fun e => e hop), if_pos (by rw [hmode, hfw, hlc]; decide)]

/-! The Toll (O45). -/

section Toll
variable {slot : PealSlot} {s : State} {q : Peal} (hq : s.peal slot = some q)
include hq

theorem runToll_of_ready (hready : tollReady s q = true) (hbusy : tollBusy s (some slot) = false)
    (hahead : tollAhead s q = false) (f : Peal → State → State) : runToll slot f s = .next (f q s) := by
  simp only [runToll, hq]
  rw [if_pos (by rw [hready, hbusy, hahead]; decide)]

theorem statement_of_served {ds body : Bytes} {kind : BitVec 8} {t : Option Fn} {nonce : Bytes} {u : State}
    (hmark : stmtSeq s < s.toll.stmtHwm.toNat) (hbody : body = stmtBody s kind t (stmtSeq s) nonce)
    (hnone : q.opDraws = []) (hdraw : drawInTurn slot 0 (instI 3) 56 false s = (.served ds, u)) :
    statement slot q kind t nonce s = pass slot q (body ++ deviceSign (noteDrawn slot ds u).root.regs.toll body ds)
      (.tollStatement (stmtSeq s)) (awaitDelta slot (noteDrawn slot ds u)) := by
  simp only [statement, markReady, if_pos hmark]
  rw [withSign_served hq (by rw [hnone]; rfl) hdraw, ← hbody]

end Toll

/-- A token's field counts the seal's events so far. -/
theorem tokenFields_events {s : State} {op : BitVec 8} {bs : Bytes} (h : tokenFields s op (bs.drop 8) = true) :
    le bs 0x20 4 = s.toll.sealEvents.toNat := by
  simp only [tokenFields, Bool.and_eq_true, beq_iff_eq] at h
  obtain ⟨⟨⟨-, hevents⟩, -⟩, -⟩ := h
  rw [← hevents, le, le, slice, slice, List.drop_drop]

theorem sealOp_of_good {slot : PealSlot} {s : State} {q : Peal} {op : BitVec 8} (hfn : q.fn = 0)
    (hzero : zeroAt q.inputBytes 1 7 = true)
    (hsig : sigFault (ownerVerdict 1 (s.toll.authority.getD []) (slice q.inputBytes 8 64) (slice q.inputBytes 0x48 96)) = none)
    (hfields : tokenFields s op (q.inputBytes.drop 8) = true) (e : Effect) :
    sealOp slot q op true e s = pass slot q [] e s := by
  rw [sealOp]
  rw [if_neg (fun h => h hfn), if_neg (fun h => h (tokenFields_events hfields)), if_neg (by decide),
    if_neg (by rw [hzero, hfields]; decide), hsig]

/-- Settles O45: by the guards of each operation. -/
theorem tollPealDoesItsOperation : Obligations.TollPealDoesItsOperation := by
  unfold Obligations.TollPealDoesItsOperation
  rintro slot s q bs hq hready hbusy hahead rfl
  have hrun := runToll_of_ready hq hready hbusy hahead
  refine ⟨fun ds body kind t u hkey hmark hbody hnone hdraw z hz => ⟨fun hlen hop hwho hzero hkind ht => ?_,
      fun hlen hop hfn hzero hzero' hkind ht => ?_⟩, fun hlen hop => ?_,
    fun hfn => ⟨fun hlen hzero hsig => ⟨fun hop hfields hopen hauth => ?_, fun hop hfields hsealed => ?_⟩,
      fun hmode => ⟨fun hlen hop hsealed hzero hcount => ?_, fun hlen hop hopen hzero hpoint => ?_,
        fun sig version hsig hlen hop hopen hver => ?_⟩, fun hlen hop hset hzero => ?_⟩⟩
  · change execTenantStatement slot s = _
    rw [execTenantStatement, hrun]
    dsimp only
    rw [opByte, hop, if_neg (by rw [hlen]; decide), if_neg (by rcases hwho with h | h <;> rw [h] <;> simp),
      if_neg (by rw [hzero]; decide), if_neg (by rw [hkey]; decide), ← ht, ← hkind,
      statement_of_served hq hmark hbody hnone hdraw, hz]
    rfl
  · change execFullStatement slot s = _
    rw [execFullStatement, hrun]
    dsimp only
    rw [opByte, hop, if_neg (by rw [hlen]; decide), if_neg (by rw [hfn]; decide),
      if_neg (by rw [hzero, hzero']; decide), if_neg (by rw [hkey]; decide), ← ht, ← hkind,
      statement_of_served hq hmark hbody hnone hdraw, hz]
    rfl
  · change execTollStatusBlock slot s = _
    rw [execTollStatusBlock, hrun, opByte, if_neg (fun e => e hlen), if_pos hop]
  · change execTollSeal slot () s = _
    rw [execTollSeal, hrun]
    dsimp only
    rw [opByte, hop, if_neg (by rw [hlen]; decide), if_neg (by decide), hopen, hauth]
    exact congrArg _ (sealOp_of_good hfn hzero hsig hfields _)
  · change execUnseal slot () s = _
    rw [execUnseal, hrun]
    rw [opByte, hop, if_neg (by rw [hlen]; decide), hsealed]
    exact congrArg _ (sealOp_of_good hfn hzero hsig hfields _)
  · change execForcedUnseal slot s = _
    rw [execForcedUnseal, hrun]
    dsimp only
    rw [opByte, hop, if_neg (by rw [hlen]; decide), if_neg (fun e => e hfn), if_neg (by rw [hzero, hcount]; simp),
      if_neg (by rw [hsealed, hmode]; decide)]
  · change execSetAuthorityKey slot s = _
    rw [execSetAuthorityKey, hrun]
    dsimp only
    rw [opByte, hop, if_neg (by rw [hlen]; decide), if_neg (by rw [hfn]; decide), if_neg (by decide),
      if_neg (by rw [hopen, hmode]; decide), if_neg (by rw [hzero, hpoint]; decide)]
  · change execReplaceStoreImage slot sig version () s = _
    rw [execReplaceStoreImage, hrun]
    rw [opByte, hop, if_neg (by decide), if_neg (Nat.not_lt.2 hlen), if_neg (by rw [hfn, hopen, hmode]; decide), hsig]
    dsimp only
    rw [if_neg (Nat.not_lt.2 hver)]
  · change execSetJournalMode slot s = _
    rw [execSetJournalMode, hrun]
    dsimp only
    rw [opByte, hop, if_neg (by rw [hlen]; decide), if_neg (by rw [hfn]; decide),
      if_neg (by rw [hzero, modeSettingOk, decide_eq_true hset]; decide)]

end Sys2Proof.Machine
end

section
/-! The Xeolink and the partner (O47, O48). -/
namespace Sys2Proof.Machine

/-! The pair's control peal. -/

section Pair
variable {slot : PealSlot} {s : State} {q : Peal} (hq : s.peal slot = some q) (hready : adminReady s q [0xEF] = true)
include hq hready

theorem exec_registerPartner (hlen : q.inputBytes.length = 24) (hop : q.inputBytes.headD 0 = 1)
    (hzero : zeroAt q.inputBytes 1 7 = true) (hmode : s.mode = .maintenance) :
    exec (.registerPartner slot) s = .next (pass slot q [] (.registerPartner (slice q.inputBytes 8 16)) s) := by
  change execRegisterPartner slot s = _
  rw [execRegisterPartner, runAdmin_of_ready hq hready]
  dsimp only
  rw [if_neg (fun e => e hlen), opByte, hop, if_neg (by rw [hzero]; decide), if_neg (fun e => e hmode)]

theorem exec_setReplicationMode (hlen : q.inputBytes.length = 8) (hop : q.inputBytes.headD 0 = 2)
    (hset : (q.inputBytes.getD 1 0).toNat ≤ 1) (hzero : zeroAt q.inputBytes 2 6 = true)
    (hpartner : s.pair.partner.isSome = true) : exec (.setReplicationMode slot) s =
      .next (pass slot q [] (.replicationMode (q.inputBytes.getD 1 0 == 1)) s) := by
  change execSetReplicationMode slot s = _
  rw [execSetReplicationMode, runAdmin_of_ready hq hready]
  dsimp only
  rw [if_neg (fun e => e hlen), opByte, hop, if_neg (by rw [hzero, decide_eq_false (Nat.not_lt.2 hset)]; decide),
    if_neg (by simpa using Option.isSome_iff_ne_none.1 hpartner)]

theorem exec_transferRoles (hlen : q.inputBytes.length = 40) (hzero : zeroAt q.inputBytes 1 7 = true)
    (hop : q.inputBytes.headD 0 = 3) (hin : s.pair.inService = true) : exec (.transferRoles slot) s =
      .next (pass slot q [] (.transferRoles (BitVec.ofNat 256 (le q.inputBytes 8 32))) s) := by
  change execTransferRoles slot s = _
  rw [execTransferRoles, runAdmin_of_ready hq hready]
  rw [opByte, hop, if_neg (by rw [hlen]; decide), if_neg (by rw [hzero]; decide), if_neg (by rw [hin]; decide), roleMap]

theorem exec_takeRoles (hlen : q.inputBytes.length = 40) (hzero : zeroAt q.inputBytes 1 7 = true)
    (hop : q.inputBytes.headD 0 = 4) (hin : s.pair.inService = false) : exec (.takeRoles slot) s =
      .next (pass slot q [] (.takeRoles (BitVec.ofNat 256 (le q.inputBytes 8 32))) s) := by
  change execTakeRoles slot s = _
  rw [execTakeRoles, runAdmin_of_ready hq hready]
  rw [opByte, hop, if_neg (by rw [hlen]; decide), if_neg (by rw [hzero]; decide), if_neg (by rw [hin]; decide), roleMap]

end Pair

theorem hundredMs : ms 100 = 100000000 := by simp [ms]

/-- Settles O47: by the guards of each command. -/
theorem xeolinkComesUpAndFails : Obligations.XeolinkComesUpAndFails := by
  unfold Obligations.XeolinkComesUpAndFails
  intro s lane ok b0 b1 map serial peer
  refine ⟨fun hmain hlink h0 h1 => ?_, fun hlane => ?_, fun hmain hlane hfit htime => ?_,
    fun hlink hlanes => ⟨fun hver => ?_, fun hver hin => ?_⟩,
    fun hlink hnone hup => ⟨fun ds u hpartner hkey hshake => ⟨_, rfl, ?_⟩, fun hin => ?_⟩, fun t0 hat htime => ?_,
    fun ds u v hlink hacked hrev hhwm hsync hhold hkey hshake => ?_, rfl, fun hin htime => ?_, fun hmain => ?_,
    fun t0 hat hlink hfail htime hmain => ?_, fun slot q hq hready => ⟨exec_registerPartner hq hready,
      exec_setReplicationMode hq hready, fun hlen hzero => ⟨exec_transferRoles hq hready hlen hzero,
        exec_takeRoles hq hready hlen hzero⟩⟩⟩
  · change execXeolinkTrainingComplete b0 b1 s = _
    rw [execXeolinkTrainingComplete, if_neg (by rw [hlink, h0, h1, hmain]; decide)]
    rfl
  · change execXeolinkBlockLockLoss lane s = _
    rw [execXeolinkBlockLockLoss, if_neg (by rw [hlane]; decide)]
    cases lane <;> rfl
  · change execXeolinkLaneRetrain lane true s = _
    rw [execXeolinkLaneRetrain, if_neg (by rw [hundredMs, hlane, hfit, hmain, decide_eq_false (Nat.not_lt.2 htime)]; decide),
      if_neg (by decide)]
  · change execHello map s = _
    rw [execHello, if_neg (by rcases hlanes with h | h <;> rw [hlink, h] <;> simp)]
    dsimp only
    rw [if_neg hver]
  · change execHello map s = _
    rw [execHello, if_neg (by rcases hlanes with h | h <;> rw [hlink, h] <;> simp)]
    dsimp only
    rw [if_pos hver, if_neg (by rw [hin]; decide)]
  · change execXeolinkHandshakeComplete true ok ⟨serial, peer⟩ (!s.pair.secondary) s = _
    rw [execXeolinkHandshakeComplete, if_neg (by rw [hlink, hnone, hup]; decide), if_pos (by simp [hpartner, hkey])]
    simp only [hshake]
  · change execXeolinkHandshakeComplete false ok ⟨serial, peer⟩ b0 s = _
    rw [execXeolinkHandshakeComplete, if_neg (by rw [hlink, hnone, hup]; decide), if_neg (by simp), shakeFailed]
    rw [if_neg (by rw [hin]; decide)]
  · change execXeolinkHandshakeRetry s = _
    rw [execXeolinkHandshakeRetry, hat]
    dsimp only
    rw [if_pos (by rw [hundredMs]; exact htime)]
  · change execXeolinkRekey s = _
    rw [execXeolinkRekey]
    dsimp only
    rw [if_neg]
    · simp only [hkey, hshake]
    · simpa [hlink, hacked, hsync, hhold] using And.intro hrev hhwm
  · have hms : ms 1 = 1000000 := by simp [ms]
    change execPartnerSilenceTimeout s = _
    rw [execPartnerSilenceTimeout, if_pos (by rcases hin with h | h <;> simp [h, hms, htime])]
  · change execPeerFailNLow s = _
    rw [execPeerFailNLow, if_neg (by rw [hmain]; decide)]
  · change execPeerFailRoleTimer s = _
    rw [execPeerFailRoleTimer, hat]
    dsimp only
    rw [if_pos (by simp [hlink, hfail, htime, hmain])]

/-! A partner's frame (O48). -/

theorem frameIn_of_good {fr : Frame} {s : State} (hlink : s.pair.link = .up) (htag : fr.tagOk = true)
    (hseq : s.pair.rxSeq.toNat < fr.seq.toNat) (f : State → State) :
    frameIn fr f s = .next (f (ackTo fr.ack (s.mPair fun x => { x with rxSeq := fr.seq, lastFrameAt := s.clk.now }))) := by
  rw [frameIn, if_neg (fun e => e hlink), if_neg (by rw [htag, decide_eq_false (Nat.not_le.2 hseq)]; decide)]

theorem frameIn_of_bad {fr : Frame} {s : State} (hlink : s.pair.link = .up)
    (hbad : fr.tagOk = false ∨ fr.seq.toNat ≤ s.pair.rxSeq.toNat) (f : State → State) :
    frameIn fr f s = .next (dropFrame s) := by
  rw [frameIn, if_neg (fun e => e hlink), if_pos (by rcases hbad with h | h <;> simp [h])]

theorem dropFrame_rxSeq (s : State) : (dropFrame s).pair.rxSeq = s.pair.rxSeq := by
  unfold dropFrame
  simp only [State.mPair]
  split <;> rfl

theorem bitsAt_toNat (x : BitVec 64) (lo w : Nat) : bitsAt x.toNat lo w = x.extractLsb' lo w := by
  rw [bitsAt, BitVec.extractLsb', Nat.shiftRight_eq_div_pow]

theorem fieldNat_toNat (x : BitVec 64) (lo w : Nat) : fieldNat x.toNat lo w = (x.extractLsb' lo w).toNat := by
  rw [fieldNat, BitVec.extractLsb', Nat.shiftRight_eq_div_pow, BitVec.toNat_ofNat]

theorem bitAt_toNat (x : BitVec 64) (i : Nat) : bitAt x.toNat i = x.getLsbD i := by
  rw [bitAt, BitVec.getLsbD, Nat.testBit_eq_decide_div_mod_eq]
  rfl

/-- A REVOKE's entry of a key is in the revocation set, with its barrier, and the frame is held. -/
theorem exec_revoke {fr : Frame} {s u : State} (entry : BitVec 64)
    (hgood : ∀ f : State → State, frameIn fr f s = .next (f u)) :
    ∃ (k : Nat) (t : State), k = keyNo (entry.extractLsb' 0 8) (entry.extractLsb' 8 24).toNat ∧
      exec (.revoke fr entry) s = .next t ∧
      (∃ e, smFind k t.ks.rset = some e ∧ e.minGen = entry.extractLsb' 32 31 ∧ e.revoked = entry.getLsbD 63 ∧
        e.barrier = some u.gov.admissions) ∧
      t.ks.barriers = u.ks.barriers ++ [{ slot := none, key := k, b := u.gov.admissions, revoke := entry.getLsbD 63,
                                          destroyed := entry.getLsbD 63, drained := false }] ∧
      t.pair.rxHold = u.pair.rxHold ++ [(fr.seq, true, k)] := by
  have hexec : exec (.revoke fr entry) s = execRevoke fr entry s := rfl
  rw [← fieldNat_toNat]
  simp only [← bitsAt_toNat, ← bitAt_toNat]
  rw [hexec, execRevoke, hgood]
  refine ⟨_, _, rfl, rfl, ⟨_, smFind_insert _ _ _, rfl, rfl, rfl⟩, rfl, rfl⟩

/-- Settles O48: a good frame acts on the state in which it is noted and its acknowledgement taken. -/
theorem partnerFramesAreActedOn : Obligations.PartnerFramesAreActedOn := by
  unfold Obligations.PartnerFramesAreActedOn
  rintro fr s u hlink rfl
  refine ⟨fun htag hseq => ?_, fun hbad p => ⟨?_, rfl, dropFrame_rxSeq s⟩⟩
  · have hgood := frameIn_of_good hlink htag hseq
    refine ⟨fun failN roles lastSeq => ?_, fun p => ?_, fun l => ⟨?_, ?_⟩, fun t h g v hraise => ?_,
      fun entry => exec_revoke entry hgood, fun map => ⟨?_, ?_⟩, fun fn d st sub dig hver => ?_, fun slot st sub dig => ?_⟩
    · change execHeartbeat fr failN roles lastSeq s = _
      rw [execHeartbeat, hgood]
    · change execCommit fr p s = _
      rw [execCommit, hgood]
    · change execResync fr l false s = _
      rw [execResync, hgood]
      rfl
    · change execResync fr l true s = _
      rw [execResync, hgood]
      rfl
    · change execHwm fr t h g v s = _
      rw [execHwm, hgood, if_pos hraise]
    · change execRole fr map true s = _
      rw [execRole, hgood]
      rfl
    · change execRole fr map false s = _
      rw [execRole, hgood]
      rfl
    · change execDualReq fr fn d st sub dig s = _
      rw [execDualReq, hgood, if_pos hver]
    · change execDualResult fr slot st sub dig s = _
      rw [execDualResult, hgood]
  · change execCommit fr p s = _
    rw [execCommit, frameIn_of_bad hlink hbad]

end Sys2Proof.Machine
end

section
/-! The hold stage, external memory and the capacitor (O50). -/
namespace Sys2Proof.Machine

/-! The flag of a failed line stays through what a failed line brings about. -/

/-- The flag of a failed memory line is as it was. -/
abbrev KeepsFlag (s t : State) : Prop :=
  t.fe.devFlags.getLsbD DevEvent.memIntegrity.num = s.fe.devFlags.getLsbD DevEvent.memIntegrity.num

section
variable {s t u : State}

theorem KeepsFlag.trans (h : KeepsFlag s t) (k : KeepsFlag t u) : KeepsFlag s u := Eq.trans k h

theorem KeepsFlag.of_fe (h : t.fe = s.fe) : KeepsFlag s t :=
  congrArg (fun e : FrontEnd => e.devFlags.getLsbD DevEvent.memIntegrity.num) h

theorem KeepsPort.flag (h : KeepsPort s t) : KeepsFlag s t := congrArg (·.2.2.2.2.2.2) h

theorem foldl_flag {α : Type} (f : State → α → State) (h : ∀ s a, KeepsFlag s (f s a)) (l : List α) (s : State) :
    KeepsFlag s (l.foldl f s) := by
  induction l generalizing s with
  | nil => rfl
  | cons a l ih => exact (h s a).trans (ih _)

theorem foldl_fe {α : Type} (f : State → α → State) (h : ∀ s a, (f s a).fe = s.fe) (l : List α) (s : State) :
    (l.foldl f s).fe = s.fe := by
  induction l generalizing s with
  | nil => rfl
  | cons a l ih => exact (ih _).trans (h s a)

/-! A step that ends. -/

theorem clusterBytes_fe (c : ClusterNo) (n : Nat) (s : State) : (clusterBytes c n s).2.fe = s.fe := by
  unfold clusterBytes
  split <;> rfl

theorem freeEngine_fe (c : ClusterNo) (p : PealSlot) (i : Nat) (e : Option Engine) (s : State) :
    (freeEngine c p i e s).fe = s.fe := by
  have hvacate (c : ClusterNo) (isPk : Bool) (n : Nat) : (vacate c isPk n p i s).fe = s.fe := by
    unfold vacate whenDo
    dsimp only
    split <;> rfl
  unfold freeEngine
  split
  · exact hvacate _ _ _
  · exact hvacate _ _ _
  · rfl

theorem noteCourse_fe (p : PealSlot) (i : Nat) (s : State) : (noteCourse p i s).fe = s.fe := by
  unfold noteCourse
  split
  · rfl
  split
  · rfl
  dsimp only
  split
  · rfl
  · exact (State.mPeal_fe _ _ _).trans (clusterBytes_fe _ _ s)

theorem endStep_port (p : PealSlot) (i : Nat) (f : StepRun → StepRun) (s : State) : KeepsPort s (endStep p i f s) := by
  unfold endStep
  split
  · rfl
  · refine .trans (.of_fe ?_) (settle_port p _)
    rw [freeEngines, freeEngine_fe, freeEngine_fe]
    exact (State.mPeal_fe _ _ _).trans (noteCourse_fe p i s)

theorem failStep_port (p : PealSlot) (i : Nat) (st : StepDef) (fl : Stat) (s : State) : KeepsPort s (failStep p i st fl s) := by
  have hkeep (q : Peal) (key : Bytes) : (keepKey p i q st key s).fe = s.fe := by
    unfold keepKey
    split
    · rfl
    · exact (clusterBytes_fe q.cluster key.length s)
  unfold failStep
  split
  · rfl
  · refine .ite ?_ (endStep_port _ _ _ s)
    exact (KeepsPort.of_fe (hkeep _ _)).trans (endStep_port _ _ _ _)

/-! What a failed line loses. -/

theorem dropRec_fe (k : Nat) (s : State) : (dropRec k s).fe = s.fe := rfl

theorem regionFault_port (line : Nat) (owner : LineOwner) (s : State) : KeepsPort s (regionFault line owner s) := by
  have hlose (k : Nat) : KeepsPort s (loseKey k s) := by
    unfold loseKey dropLost
    split
    · refine .of_fe ((foldl_fe _ (fun t k => ?_) _ _).trans rfl)
      split
      · rfl
      · unfold loseRec
        dsimp only
        (repeat' split) <;> exact dropRec_fe k t
    · rfl
  have hspill (p : PealSlot) (i : Nat) : KeepsPort s (loseSpill p i s) := by
    unfold loseSpill
    (repeat' split)
    · exact failStep_port _ _ _ _ s
    all_goals rfl
  have hstaged (p : PealSlot) : KeepsPort s (loseStaged p s) := by
    unfold loseStaged setJournalFlag
    (repeat' split)
    · exact .of_fe (State.mPeal_fe s p _)
    · exact .of_fe (State.mPeal_fe s p _)
    all_goals rfl
  unfold regionFault
  split
  · split
    · exact hlose _
    · rfl
  · exact hlose _
  · rfl
  · exact hspill _ _
  · exact hstaged _
  · rfl
  · rfl

/-! Lockdown. -/

theorem drain_flag (s : State) (r : ReadyCpl) : KeepsFlag s (completeNow r s) :=
  .trans (t := s.mFe fun e => { e with ready := e.ready ++ [r] }) rfl (drainReady_port _).flag

theorem lockRing_flag (s : State) (k : Nat) : KeepsFlag s (lockRing s k) := by
  have hflush (fn : Fn) (r : SqNo) (n : Nat) (t : State) : KeepsFlag t (flushUnfetched fn r n t) := by
    induction n generalizing t with
    | zero => rfl
    | succ n ih =>
      unfold flushUnfetched
      dsimp only
      split
      · rfl
      · exact (KeepsFlag.trans (t := t.mSq r SubRing.fetched) rfl (drain_flag _ _)).trans (ih _)
  unfold lockRing
  dsimp only
  split
  · rfl
  · split
    · split
      · exact hflush _ _ _ s
      · rfl
    · rfl

theorem lockPeal_flag (s : State) (e : Nat × Peal) : KeepsFlag s (lockPeal s e) := by
  unfold lockPeal
  dsimp only
  split
  · exact (KeepsFlag.of_fe (State.mPeal_fe s _ _)).trans (endPeal_port _ _ _ _).flag
  · rfl

theorem lockWork_flag (s : State) : KeepsFlag s (lockWork s) := by
  unfold lockWork
  split
  · have hwait (t : State) (w : Waiting) : KeepsFlag t (refuseWaiting w (St.flushed, 3) t) :=
      .trans (t := dropWaiting w.order t) rfl (drain_flag _ _)
    have hpeals := foldl_flag lockPeal lockPeal_flag s.peals s
    have hwaits := foldl_flag (fun t w => refuseWaiting w (St.flushed, 3) t) hwait
      (s.peals.foldl lockPeal s).fe.waiting (s.peals.foldl lockPeal s)
    refine (hpeals.trans hwaits).trans ?_
    exact (foldl_flag lockRing lockRing_flag _ _).trans (lockdownCqs_port _).flag
  · refine .trans ?_ (foldl_flag lockPeal lockPeal_flag _ _)
    exact KeepsFlag.trans (t := s.mFe fun e => { e with waiting := [], ready := [] }) rfl
      (foldl_port dropPeal dropPeal_port _ _).flag

theorem partnerGone_flag (s : State) : KeepsFlag s (partnerGone s) := by
  unfold partnerGone
  refine KeepsFlag.trans (t := s.mPair _) rfl (foldl_flag _ (fun t e => ?_) _ _)
  dsimp only
  split
  · exact .of_fe (State.mPeal_fe t _ _)
  · exact (abortPeal_port _ _ t).flag

theorem enterLockdown_flag (s : State) : KeepsFlag s (enterLockdown s) := by
  have hmode : (lockdownMode s).fe = s.fe := by
    unfold lockdownMode withdrawSurge
    dsimp only
    split
    · exact (enter_fe _ _).trans ((enter_fe _ _).trans rfl)
    · exact (enter_fe _ _).trans rfl
  have hdrbg (t : State) : (lockDrbgs t).fe = t.fe := by
    have hseed (i : Nat) (u : State) : (seedDrbg i u).fe = u.fe := by
      obtain ⟨g, hg⟩ := freshBytes_draws 48 (takePool entropyInput u).2
      change (freshBytes 48 (takePool entropyInput u).2).2.fe = u.fe
      rw [hg]
      rfl
    unfold lockDrbgs whenDo
    dsimp only
    split_ifs <;> simp [hseed]
  have hend (x : State) : (nvQueue 4 .lockRecord (lockDrbgs (gateAll x))).fe = x.fe := hdrbg (gateAll x)
  have hstart : KeepsFlag s (lockWork (lockdownMode s)) := (KeepsFlag.of_fe hmode).trans (lockWork_flag _)
  unfold enterLockdown
  extract_lets s2 s3 s4
  have hs2 : KeepsFlag s s2 := hstart
  clear_value s2
  have hs4 : KeepsFlag s2 s4 := partnerGone_flag s2
  clear_value s4
  exact (hs2.trans hs4).trans (.of_fe (hend _))

theorem latchLockdown_flag (cause : BitVec 5) (resp : BitVec 2) (s : State) : KeepsFlag s (latchLockdown cause resp s) := by
  have hraise (t : State) : KeepsFlag t (raiseDev .tmpLockdown t) := (raiseDev_port (by decide) t).flag
  unfold latchLockdown
  extract_lets l s1
  split
  · split <;> rfl
  · have hs1 : KeepsFlag s s1 := hraise _
    clear_value s1
    split
    · exact hs1.trans (KeepsFlag.trans (t := s1.mPwr fun p => { p with smbAlertN := false }) rfl (enterLockdown_flag _))
    · split
      · exact hs1
      · exact hs1.trans (.of_fe (enter_fe _ _))

/-- A failed line is flagged, and stays so through all that follows. -/
theorem integrityFault_flag (line : Nat) (owner : LineOwner) (s : State) :
    (integrityFault line owner s).fe.devFlags.getLsbD DevEvent.memIntegrity.num = true := by
  have hraise (t : State) : (raiseDev .memIntegrity t).fe.devFlags.getLsbD DevEvent.memIntegrity.num = true := by
    rw [(raiseDev_dev _ t).1]
    simp [DevEvent.num]
  have hlost (t : State) : KeepsFlag t (writeLine line (regionFault line owner t)) :=
    (regionFault_port line owner t).flag
  have hlatch (c : BitVec 2) (f : MemChan → MemChan) (t : State) : KeepsFlag t (latchLockdown 22 2 (t.mChan c f)) :=
    KeepsFlag.trans (t := t.mChan c f) rfl (latchLockdown_flag _ _ _)
  unfold integrityFault
  extract_lets c up l s1 counters s2
  have hs2 : s2.fe.devFlags.getLsbD DevEvent.memIntegrity.num = true := by
    simp only [s2]
    split
    · exact hraise _
    · exact Eq.trans (hlost s1) (hraise _)
  split
  · exact Eq.trans (hlatch _ _ s2) hs2
  · exact hs2

theorem integrityFault_locked {line : Nat} {owner : LineOwner} {s : State}
    (h : (lineRegion s.mem.two line).counters = true) : (integrityFault line owner s).locked = true := by
  unfold integrityFault
  extract_lets c up l s1 counters s2
  have hcounters : (counters || decide (4 ≤ confirmedCount s1)) = true := by simp [counters, h]
  rw [if_pos hcounters]
  exact latchLockdown_locked _ _ _

end

/-! A corrected error. -/

theorem State.chan_mChan {s : State} {c : BitVec 2} (h : c.toNat < s.mem.chans.length) (f : MemChan → MemChan) :
    (s.mChan c f).chan c = f (s.chan c) :=
  getD_modAt_self h f _

theorem raiseDev_mem (e : DevEvent) (s : State) : (raiseDev e s).mem = s.mem := by
  rw [raiseDev_feOnly e s]

theorem raiseDev_sets (e : DevEvent) (s : State) : (raiseDev e s).fe.devFlags.getLsbD e.num = true := by
  rw [(raiseDev_dev e s).1, BitVec.getLsbD_or]
  cases e <;> simp [DevEvent.num]

theorem raiseDev_keepsSet {n : Nat} {s : State} (e : DevEvent) (h : s.fe.devFlags.getLsbD n = true) :
    (raiseDev e s).fe.devFlags.getLsbD n = true := by
  rw [(raiseDev_dev e s).1, BitVec.getLsbD_or, h, Bool.true_or]

/-- A channel after a corrected error. -/
def MemChan.corrects (now : Nat) (x : MemChan) (l : List (Nat × Nat)) : MemChan :=
  { x with corrected := satInc16 x.corrected, recent := l ++ [(now, 1)] }

theorem correctedError_eq (c : BitVec 2) (s : State) : correctedError c s =
    if 256 ≤ errorCount ((s.chan c).within60 s.clk.now) + 1 ∧ (s.chan c).state = 0 then
      raiseDev .memDegraded ((raiseDev .memCorrected (s.mChan c fun x =>
        x.corrects s.clk.now ((s.chan c).within60 s.clk.now))).mChan c fun x => { x with state := 1 })
    else raiseDev .memCorrected (s.mChan c fun x => x.corrects s.clk.now ((s.chan c).within60 s.clk.now)) := by
  have hcount (l : List (Nat × Nat)) (t : Nat) : errorCount (l ++ [(t, 1)]) = errorCount l + 1 := by
    simp [errorCount]
  simp only [correctedError, hcount, Bool.and_eq_true, decide_eq_true_eq]
  rfl

theorem correctedError_spec (c : BitVec 2) (s : State) :
    (correctedError c s).fe.devFlags.getLsbD DevEvent.memCorrected.num = true ∧
    (c.toNat < s.mem.chans.length → ((correctedError c s).chan c).corrected = satInc16 (s.chan c).corrected ∧
      ((s.chan c).state = 0 → 255 ≤ errorCount ((s.chan c).within60 s.clk.now) →
        ((correctedError c s).chan c).state = 1 ∧
          (correctedError c s).fe.devFlags.getLsbD DevEvent.memDegraded.num = true)) ∧
    correctedError c s = { s with mem := (correctedError c s).mem, fe := (correctedError c s).fe } := by
  obtain ⟨u, hu⟩ : ∃ u, u = raiseDev .memCorrected (s.mChan c fun x =>
    x.corrects s.clk.now ((s.chan c).within60 s.clk.now)) := ⟨_, rfl⟩
  have hrest : u = { s with mem := u.mem, fe := u.fe } := by
    rw [hu, raiseDev_feOnly]
    rfl
  have hflag : u.fe.devFlags.getLsbD DevEvent.memCorrected.num = true := hu ▸ raiseDev_sets _ _
  have hmem : u.mem = (s.mChan c fun x => x.corrects s.clk.now ((s.chan c).within60 s.clk.now)).mem := by
    rw [hu, raiseDev_mem]
  have hchan (hlen : c.toNat < s.mem.chans.length) : u.chan c = (s.chan c).corrects s.clk.now ((s.chan c).within60 s.clk.now) := by
    rw [State.chan, hmem]
    exact State.chan_mChan hlen _
  rw [correctedError_eq, ← hu]
  split
  next hfull =>
    have hown (hlen : c.toNat < s.mem.chans.length) : (raiseDev .memDegraded (u.mChan c fun x => { x with state := 1 })).chan c =
        { u.chan c with state := 1 } := by
      rw [State.chan, raiseDev_mem]
      refine State.chan_mChan (s := u) ?_ _
      rw [hmem]
      simpa [State.mChan, modAt] using hlen
    refine ⟨raiseDev_keepsSet _ hflag, fun hlen => ?_, ?_⟩
    · rw [hown hlen, hchan hlen]
      exact ⟨rfl, fun _ _ => ⟨rfl, raiseDev_sets _ _⟩⟩
    · rw [raiseDev_feOnly, hrest]
      rfl
  next hpart =>
    refine ⟨hflag, fun hlen => ?_, hrest⟩
    rw [hchan hlen]
    exact ⟨rfl, fun hstate hcount => absurd ⟨Nat.succ_le_succ hcount, hstate⟩ hpart⟩

/-- Settles O50: by the guards; a failed line's flag stays, and a failed counter line latches Lockdown. -/
theorem holdStageAndMemory : Obligations.HoldStageAndMemory := by
  unfold Obligations.HoldStageAndMemory
  intro s c
  refine ⟨fun hmain => ?_, fun hmain ha hb => ?_, fun hmain htrained => ⟨?_, ?_, ⟨_, ?_, correctedError_spec c s⟩,
    fun line owner => ⟨fun hkey hline => ?_, integrityFault_flag _ _ s, integrityFault_locked, fun hkey => ?_⟩⟩,
    fun hstate hmis hcount => ?_⟩
  · change execVaoCapChargeTimeout s = _
    rw [execVaoCapChargeTimeout, if_pos hmain]
  · change execGongNHoldExpire s = _
    rw [execGongNHoldExpire, if_neg (by rw [hmain, ha, hb]; decide)]
  · change execPatrolScrub .passEnd s = _
    rw [execPatrolScrub, if_neg (by rw [hmain, htrained]; decide)]
  · change execImpedanceCalibration s = _
    rw [execImpedanceCalibration, if_pos (by rw [hmain, htrained]; decide)]
  · change execPatrolScrub (.corrected c) s = _
    rw [execPatrolScrub, if_neg (by rw [hmain, htrained]; decide)]
  · change execPatrolScrub (.integrity line owner) s = _
    rw [execPatrolScrub, if_neg (by rw [hmain, htrained]; decide)]
    rw [if_neg (by simp [hkey, hline])]
  · change execPatrolScrub (.integrity line owner) s = _
    rw [execPatrolScrub, if_neg (by rw [hmain, htrained]; decide)]
    rw [if_pos (by simp [hkey])]
  · change execChannelDegradedClear c s = _
    rw [execChannelDegradedClear, if_pos (by simp [hstate, hmis, hcount])]

end Sys2Proof.Machine
end

section
/-! Firmware replaced in Maintenance, and the Steward's restarts (O51). -/
namespace Sys2Proof.Machine

/-- A firmware command where the bus answers and no Lockdown is in force: outside Maintenance it ends with RESULT 2. -/
theorem fwCommand_outside {f : State → State} {s : State} (hbus : busOn s 0 = true) (hlock : s.mode ≠ .lockdown)
    (hmode : s.mode ≠ .maintenance) : fwCommand f s = .next (fwEnd 2 s) := by
  rw [fwCommand, if_neg (by rw [hbus, decide_eq_false hlock]; decide), if_pos hmode]

theorem fwCommand_busy {f : State → State} {s : State} (hbus : busOn s 0 = true) (hmode : s.mode = .maintenance)
    (hbusy : s.boot.fwBusy = true) : fwCommand f s = .next (fwEnd 11 s) := by
  rw [fwCommand, if_neg (by rw [hbus, hmode]; decide), if_neg (fun h => h hmode), if_pos hbusy]

theorem fwCommand_runs {f : State → State} {s : State} (hbus : busOn s 0 = true) (hmode : s.mode = .maintenance)
    (hbusy : s.boot.fwBusy = false) : fwCommand f s = .next (f s) := by
  rw [fwCommand, if_neg (by rw [hbus, hmode]; decide), if_neg (fun h => h hmode), if_neg (by rw [hbusy]; decide)]

/-- The three commands of the window are firmware commands. -/
theorem exec_fwCommand {c : Instr} (h : c = .fwStage ∨ c = .fwActivate ∨ c = .fwAbandon) :
    ∃ f, ∀ s, exec c s = fwCommand f s := by
  rcases h with rfl | rfl | rfl
  · exact ⟨_, fun _ => rfl⟩
  · exact ⟨_, fun _ => rfl⟩
  · exact ⟨_, fun _ => rfl⟩

theorem fwEnd_refused {r : BitVec 4} (h : r ≠ 1) (s : State) :
    fwEnd r s = raiseDev .fwRefused (s.mBoot fun b => { b with fwResult := r }) :=
  if_pos (decide_eq_true h)

/-- An image that no check of the staging stops passes each of them. -/
theorem stageFault_passes {s : State} {img : Bytes} {key sig flash : Bool} (h : stageFault s img key sig flash = 1) :
    fwHeaderOk img = true ∧ key = true ∧ sig = true ∧ flash = true ∧ sha384 (fwBody img) = slice img 0x18 48 ∧
      s.boot.antiRollback.toNat ≤ fwSvn img ∧ fwSvn img ≤ s.boot.antiRollback.toNat + 64 := by
  unfold stageFault at h
  dsimp only at h
  split at h
  · exact absurd h (by decide)
  next hheader =>
  split at h
  · exact absurd h (by decide)
  split at h
  · exact absurd h (by decide)
  next hsigned =>
  split at h
  · exact absurd h (by decide)
  next hdigest =>
  split at h
  · exact absurd h (by decide)
  next hversion =>
  split at h
  · exact absurd h (by decide)
  next hflash =>
  simp only [Bool.not_eq_eq_eq_not, Bool.not_true, Bool.not_eq_false, Nat.not_lt, Bool.or_eq_true, not_or, decide_eq_true_eq,
    Decidable.not_not] at hheader hsigned hdigest hversion hflash
  exact ⟨hheader, hsigned.1, hsigned.2, hflash, hdigest, hversion⟩

/-- The end of a staging whose image could be read, by the check that stopped it or by none. -/
theorem stageComplete_read {s : State} {image : Option Bytes} {key sig flash : Bool} {img : Bytes}
    (hbusy : s.boot.fwBusy = true) (hact : s.boot.activating = false) (himg : img = fit s.boot.fwLen.toNat (image.getD []))
    (hdma : canDma s 0 = true) (hsome : image ≠ none) {r : BitVec 4} (hr : stageFault s img key sig flash = r) :
    exec (.fwStageComplete image key sig flash) s =
      .next (fwEnd r ((hostRead 0 s.boot.fwAddr.toNat s.boot.fwLen.toNat s).mBoot fun b =>
        let b1 := { b with fwBusy := false }
        if r = 1 then { b1.mSlot (!b.slotB) (fun _ => FwSlot.ofImage img) with fwStaged := true }
        else if r = 8 then { b1.mSlot (!b.slotB) (fun _ => FwSlot.empty) with fwStaged := false } else b1)) := by
  change execFwStageComplete image key sig flash s = _
  obtain ⟨bytes, rfl⟩ := Option.ne_none_iff_exists'.1 hsome
  rw [execFwStageComplete, if_neg (by rw [hbusy, hact]; decide)]
  simp only [hdma, Option.isNone_some, Bool.not_true, Bool.or_self, Bool.false_eq_true, if_false, whenDo, if_true]
  rw [← himg, hr]

/-- A staging whose image could not be read ends with RESULT 9. -/
theorem stageComplete_unread {s : State} {image : Option Bytes} {key sig flash : Bool}
    (hbusy : s.boot.fwBusy = true) (hact : s.boot.activating = false)
    (hread : image.isNone || !canDma s 0) :
    exec (.fwStageComplete image key sig flash) s = .next (raiseDev .fwRefused
      ((whenDo (canDma s 0) (hostRead 0 s.boot.fwAddr.toNat s.boot.fwLen.toNat) s).mBoot fun b =>
        { b with fwBusy := false, fwResult := 9 })) := by
  change execFwStageComplete image key sig flash s = _
  rw [execFwStageComplete, if_neg (by rw [hbusy, hact]; decide)]
  dsimp only
  rw [if_pos hread]
  exact congrArg _ (fwEnd_refused (by decide) _)

/-- A slot rewritten to what it holds. -/
theorem Boot.mSlot_of_eq {b : Boot} {isB : Bool} {f : FwSlot → FwSlot} (h : ∀ x, f x = x) : b.mSlot isB f = b := by
  cases isB <;> simp [Boot.mSlot, h]

theorem Boot.mSlot_fields (b : Boot) (isB : Bool) (f : FwSlot → FwSlot) :
    (b.mSlot isB f).stewardUp = b.stewardUp ∧ (b.mSlot isB f).slotB = b.slotB ∧
      (b.mSlot isB f).fwBusy = b.fwBusy ∧ (b.mSlot isB f).fwResult = b.fwResult := by
  cases isB <;> exact ⟨rfl, rfl, rfl, rfl⟩

theorem Boot.mSlot_fwBusy (b : Boot) (isB x : Bool) (f : FwSlot → FwSlot) :
    ({ b with fwBusy := x }).mSlot isB f = { b.mSlot isB f with fwBusy := x } := by
  cases isB <;> rfl

theorem spreadUp_boot (c : Nat × Nat) (s : State) : (spreadUp c s).boot = s.boot := rfl

/-- Confirming the image changes its slot and the anti-rollback counter only. -/
theorem confirmFw_fields (s : State) :
    (confirmFw s).boot.stewardUp = s.boot.stewardUp ∧ (confirmFw s).boot.slotB = s.boot.slotB ∧
      (confirmFw s).boot.fwBusy = s.boot.fwBusy ∧ (confirmFw s).boot.fwResult = s.boot.fwResult := by
  have hfold : ∀ (l : List Nat) (t : State), (l.foldl (fun t _ => spreadUp arbCells t) t).boot = t.boot := by
    intro l
    induction l with
    | nil => exact fun _ => rfl
    | cons a l ih => exact fun t => (ih _).trans (spreadUp_boot arbCells t)
  unfold confirmFw
  extract_lets up ok
  rw [State.mBoot_boot, hfold]
  exact Boot.mSlot_fields s.boot s.boot.slotB ok

theorem startSteward_fields (isB : Bool) (s : State) :
    (startSteward isB s).boot.stewardUp = true ∧ (startSteward isB s).boot.slotB = isB := by
  unfold startSteward
  extract_lets try_
  have hraised : ∀ t : State, (whenDo (isB ≠ s.boot.preferB) (raiseDev .fwFallback) t).boot = t.boot := by
    intro t
    unfold whenDo
    split
    · rw [raiseDev_feOnly]
    · rfl
  rw [hraised]
  exact ⟨rfl, rfl⟩

/-- The end of an activation: RESULT 1, and from Maintenance the device is Ready. -/
theorem activated_spec (s : State) :
    (activated s).boot.stewardUp = s.boot.stewardUp ∧ (activated s).boot.slotB = s.boot.slotB ∧
      (activated s).boot.fwBusy = false ∧ (activated s).boot.fwResult = 1 ∧
      (s.mode = .maintenance → (activated s).mode = .ready) := by
  unfold activated
  extract_lets s1
  have hended : s1.boot.stewardUp = s.boot.stewardUp ∧ s1.boot.slotB = s.boot.slotB ∧ s1.boot.fwBusy = false ∧
    s1.boot.fwResult = 1 := ⟨rfl, rfl, rfl, rfl⟩
  clear_value s1
  split
  · obtain ⟨hup, hslot, hbusy, hresult⟩ := confirmFw_fields (s1.enter .ready)
    rw [enter_boot] at hup hslot hbusy hresult
    exact ⟨hup.trans hended.1, hslot.trans hended.2.1, hbusy.trans hended.2.2.1, hresult.trans hended.2.2.2,
      fun _ => (confirmFw_keepsWf _).2.2.2.1.trans (State.enter_mode _ _)⟩
  next hmode => exact ⟨hended.1, hended.2.1, hended.2.2.1, hended.2.2.2, fun h => absurd h hmode⟩

/-- The end of a restart: the Steward runs from the slot chosen, and an activation ends with it. -/
theorem stewardRestartComplete_spec {s : State} {bodyA bodyB isB : Bool} (hdown : s.boot.stewardUp = false)
    (hmain : onMain s = true) (hstage : s.boot.stage = 7) (hidle : stewardStoreIdle s = true)
    (hslot : chooseSlot s.boot s.boot.slotB bodyA bodyB = some isB) :
    ∃ t, exec (.stewardRestartComplete bodyA bodyB) s = .next t ∧ t.boot.stewardUp = true ∧ t.boot.slotB = isB ∧
      (s.boot.activating = false → t.mode = s.mode) ∧
      (s.boot.activating = true → t.boot.fwBusy = false ∧ t.boot.fwResult = 1 ∧
        (s.mode = .maintenance → t.mode = .ready)) := by
  obtain ⟨hup, hruns⟩ := startSteward_fields isB s
  have hmode : (startSteward isB s).mode = s.mode := (startSteward_keeps isB s).2.2.2.1
  refine ⟨_, rfl, ?_⟩
  rw [if_neg (by rw [hdown, hmain, hstage, hidle]; decide), hslot]
  dsimp only
  cases hactive : s.boot.activating with
  | false => exact ⟨hup, hruns, fun _ => hmode, nofun⟩
  | true =>
    obtain ⟨hu, hs, hb, hr, hm⟩ := activated_spec (startSteward isB s)
    exact ⟨hu.trans hup, hs.trans hruns, nofun, fun _ => ⟨hb, hr, fun h => hm (hmode.trans h)⟩⟩

/-- Settles O51: the commands by their guards, a staging by its checks, a restart by the slot chosen. -/
theorem firmwareIsReplacedInMaintenance : Obligations.FirmwareIsReplacedInMaintenance := by
  unfold Obligations.FirmwareIsReplacedInMaintenance
  intro s
  refine ⟨fun hbus hlock hmode c hc => ?_, fun hbus hmode hbusy c hc => ?_,
    fun hbus hmode hidle => ⟨fun hlow hhigh => ?_, fun hstaged => ⟨?_, ?_⟩, fun hnone c hc => ?_⟩,
    fun image key sig flash img u hbusy hact himg hu => ⟨fun hdma hsome => ⟨fun hok => ⟨?_, stageFault_passes hok⟩,
      fun r hr h1 h8 => ?_, fun h8 => ?_⟩, fun hdma => ?_, fun hdma => ?_⟩,
    fun hmain hstage hup => ?_, rfl, rfl,
    fun bodyA bodyB isB hdown hmain hstage hidle hslot =>
      stewardRestartComplete_spec hdown hmain hstage hidle hslot⟩
  · obtain ⟨f, hf⟩ := exec_fwCommand hc
    rw [hf, fwCommand_outside hbus hlock hmode, fwEnd_refused (by decide)]
  · obtain ⟨f, hf⟩ := exec_fwCommand hc
    rw [hf, fwCommand_busy hbus hmode hbusy, fwEnd_refused (by decide)]
  · change execFwStage s = _
    rw [execFwStage, fwCommand_runs hbus hmode hidle]
    exact congrArg _ (if_neg (by rw [decide_eq_false (by omega), decide_eq_false (by omega)]; decide))
  · change execFwActivate s = _
    rw [execFwActivate, fwCommand_runs hbus hmode hidle]
    exact congrArg _ (if_neg (by rw [hstaged]; decide))
  · change execFwAbandon s = _
    rw [execFwAbandon, fwCommand_runs hbus hmode hidle]
    exact congrArg _ (if_neg (by rw [hstaged]; decide))
  · rw [← fwEnd_refused (by decide)]
    rcases hc with rfl | rfl
    · change execFwActivate s = _
      rw [execFwActivate, fwCommand_runs hbus hmode hidle]
      exact congrArg _ (if_pos (by rw [hnone]; decide))
    · change execFwAbandon s = _
      rw [execFwAbandon, fwCommand_runs hbus hmode hidle]
      exact congrArg _ (if_pos (by rw [hnone]; decide))
  · rw [stageComplete_read hbusy hact himg hdma hsome hok, hu]
    simp only [Boot.mSlot_fwBusy]
    rfl
  · rw [stageComplete_read hbusy hact himg hdma hsome hr, fwEnd_refused h1, hu]
    simp only [h1, h8, if_false]
    rfl
  · rw [stageComplete_read hbusy hact himg hdma hsome h8, fwEnd_refused (by decide), hu]
    simp only [Boot.mSlot_fwBusy]
    rfl
  · rw [stageComplete_unread hbusy hact rfl, hdma, hu]
    rfl
  · rw [stageComplete_unread hbusy hact (by rw [hdma, Bool.not_false, Bool.or_true]), hdma]
    rfl
  · change execStewardWatchdogExpire s = _
    rw [execStewardWatchdogExpire, if_neg (by rw [hmain, hstage]; decide)]
    refine congrArg (fun b => Host.Outcome.next (restartSteward { s with boot := b })) (Boot.mSlot_of_eq fun x => ?_)
    exact if_pos (by rw [hup, Bool.or_true])
end Sys2Proof.Machine
end

section
/-! The SMBus interface and its objects (O52). -/
namespace Sys2Proof.Machine

section
variable {s : State}

/-! A draw changes nothing of the SMBus interface. -/

theorem raiseDev_smb (e : DevEvent) (s : State) : (raiseDev e s).smb = s.smb := by
  rw [raiseDev_feOnly]

theorem raiseFn_smb (fn : Fn) (e : FnEvent) (s : State) : (raiseFn fn e s).smb = s.smb := by
  rw [raiseFn_feOnly]

theorem freshBytes_smb (n : Nat) (s : State) : (freshBytes n s).2.smb = s.smb := by
  obtain ⟨g, hg⟩ := freshBytes_draws n s
  rw [hg]

theorem seedDrbg_smb (i : Nat) (s : State) : (seedDrbg i s).smb = s.smb :=
  freshBytes_smb 48 (takePool entropyInput s).2

theorem reseedIfDue_smb (i : Nat) (s : State) : (reseedIfDue i s).smb = s.smb := by
  unfold reseedIfDue
  split
  · exact seedDrbg_smb i s
  · rfl

/-- A draw that is served leaves the SMBus interface alone. -/
theorem drawFor_served_smb {w : DrawUser} {i n : Nat} {bs : Bytes} {u : State}
    (h : drawFor w i n s = (.served bs, u)) : u.smb = s.smb := by
  unfold drawFor at h
  split at h
  · split at h
    · split at h <;> cases h
    · cases h
  next r s1 _ hafter =>
  obtain ⟨rfl, rfl⟩ := Prod.mk.inj h
  change s1.smb = s.smb
  unfold drawAfter draw at hafter
  split at hafter
  · cases hafter
  split at hafter
  · cases hafter
  split at hafter
  · split at hafter <;> cases hafter
  split at hafter
  · cases hafter
  simp only [Bool.false_eq_true, if_false] at hafter
  split at hafter
  · split at hafter <;> cases hafter
  · obtain ⟨-, rfl⟩ := Prod.mk.inj hafter
    exact (freshBytes_smb 48 _).trans (reseedIfDue_smb i s)

theorem startDelta_smb (final atLeastOne : Bool) (s : State) : (startDelta final atLeastOne s).smb = s.smb := by
  unfold startDelta
  extract_lets ws r
  split
  · rfl
  · exact rfl

end

theorem fit_length (k : Nat) (bs : Bytes) : (fit k bs).length = k := by
  simp only [fit, zeros, List.length_append, List.length_take, List.length_replicate]
  omega

theorem atSmbus_of_on {s : State} (h : smbusOn s = true) (f : State → State) : atSmbus f s = .next (f s) := by
  rw [atSmbus, if_pos h]

/-- The object that is asked for when the core runs, whatever it is. -/
theorem smbusObjectReady_of_core {s : State} (hwaits : s.smb.status = 1) (hmain : onMain s = true)
    (hcore : s.boot.coreMin = true) : execSmbusObjectReady s = .next (match s.smb.object.toNat with
      | 1 => objectReady (healthBytes s) s
      | 2 => objectReady (tollStatus s) s
      | 3 => match s.toll.closing with | some c => objectReady c s | none => objectRefused 3 s
      | 4 => statementObject (some s.smb.tenant) s
      | 5 => statementObject none s
      | 6 => reportObject s
      | _ => objectRefused 5 s) := by
  rw [execSmbusObjectReady, if_neg (by rw [hwaits, hmain]; decide),
    if_neg (by rw [hcore, Bool.not_true, Bool.false_and, Bool.false_and]; decide)] <;> rfl

/-- A statement's object, for either form of it. -/
theorem smbusObjectReady_statement {s : State} (hwaits : s.smb.status = 1) (hmain : onMain s = true)
    (hcore : s.boot.coreMin = true) {t : Option Fn}
    (h : (s.smb.object = 4 ∧ t = some s.smb.tenant) ∨ (s.smb.object = 5 ∧ t = none)) :
    exec .smbusObjectReady s = .next (statementObject t s) := by
  change execSmbusObjectReady s = _
  rcases h with ⟨hobject, rfl⟩ | ⟨hobject, rfl⟩ <;> rw [smbusObjectReady_of_core hwaits hmain hcore, hobject] <;> rfl

theorem statementObject_used {s : State} {t : Option Fn} {n : Nat} (hsigned : s.smb.stmt = some n)
    (hcounted : allRecorded s = true ∨ s.smb.waitSeq.toNat ≤ lastRecord s) : statementObject t s =
      useStatement n ((objectReady s.smb.data s).mSmb fun x => { x with stmt := none }) := by
  rw [statementObject, hsigned]
  exact if_pos (by simpa using hcounted)

/-- A statement that is drawn for is signed, and waits to be counted. -/
theorem statementObject_signed {s u : State} {t : Option Fn} {kind : BitVec 8} {bs body : Bytes}
    (hkind : kind = if t.isSome then 1 else 2) (hnone : s.smb.stmt = none) (hkey : s.toll.hasKey = true)
    (hfree : tollBusy s none = false) (hmark : stmtSeq s < s.toll.stmtHwm.toNat)
    (hdraw : drawFor .object (instI 3) 56 s = (.served bs, u))
    (hbody : body = stmtBody u kind t (stmtSeq s) s.smb.nonce) :
    (statementObject t s).smb.stmt = some (stmtSeq s) ∧ (statementObject t s).smb.status = s.smb.status ∧
      (statementObject t s).smb.data = body ++ deviceSign u.root.regs.toll body bs := by
  have hsmb := drawFor_served_smb hdraw
  have hstarted : ∀ c : Bool, (if c then u else startDelta false false u).smb = s.smb := by
    intro c
    cases c
    · exact (startDelta_smb false false u).trans hsmb
    · exact hsmb
  rw [statementObject, hnone]
  dsimp only
  rw [if_neg (by rw [hkey]; decide), if_neg (by rw [hfree]; decide), markReady, if_pos hmark]
  dsimp only [signDraw]
  rw [hdraw]
  dsimp only [State.mSmb_smb]
  rw [← hkind, ← hbody]
  exact ⟨rfl, congrArg (·.status) (hstarted _), rfl⟩

/-- Settles O52: each command by its block, each object by its number. -/
theorem smbusInterface : Obligations.SmbusInterface := by
  unfold Obligations.SmbusInterface
  intro s
  refine ⟨fun hon => ⟨⟨_, ?_, ?_, atSmbus_of_on hon _⟩, ⟨_, ?_, ?_, atSmbus_of_on hon _⟩,
    fun data => ⟨?_, fun hfits => ?_⟩, fun data => ⟨?_, ?_⟩, fun n bs hbs => ⟨?_, ?_⟩,
    ⟨[s.smb.status, s.smb.reason] ++ natLe 4 (if s.smb.status = 2 then s.smb.data.length else 0) ++ zeros 2, ?_, ?_, ?_⟩, atSmbus_of_on hon _⟩,
    fun hwaits hmain hcore => ⟨fun hobject => ?_, fun hobject => ?_, fun hobject => ?_,
      fun n hobject hsigned hcounted => ?_, fun t kind bs body u hkind hnone hkey hfree hmark hdraw hbody => ?_,
      fun hobject hdenied => ?_, fun bs u hobject hallowed hdraw => ?_, fun hobject => ?_⟩,
    fun bs => ⟨rfl, rfl, rfl⟩, fun r => ⟨rfl, rfl, rfl⟩⟩
  · simp [fit_length]
  · simp [slice, List.drop_append, List.take_append, fit_length]
  · simp
  · exact List.take_left' (natLe_length 4 _)
  · change execRequest data false s = _
    rw [execRequest, atSmbus_of_on hon]
    rfl
  · change execRequest data true s = _
    rw [execRequest, atSmbus_of_on hon]
    simp only [hfits, Bool.not_true, Bool.false_eq_true, if_false, if_true, Bool.true_and, decide_eq_true_eq]
  · exact atSmbus_of_on hon _
  · exact atSmbus_of_on hon _
  · change execRead n s = _
    rw [execRead, atSmbus_of_on hon, hbs]
    rfl
  · rw [hbs]
    split
    · exact (List.length_take_le _ _).trans (min_le_left _ _)
    · exact Nat.zero_le _
  · simp [zeros]
  · rfl
  · change execStatus s = _
    rw [execStatus, atSmbus_of_on hon]
    rfl
  · change execSmbusObjectReady s = _
    rw [smbusObjectReady_of_core hwaits hmain hcore, hobject]
    rfl
  · change execSmbusObjectReady s = _
    rw [smbusObjectReady_of_core hwaits hmain hcore, hobject]
    rfl
  · change execSmbusObjectReady s = _
    rw [smbusObjectReady_of_core hwaits hmain hcore, hobject]
    rfl
  · obtain ⟨t, ht⟩ : ∃ t, (s.smb.object = 4 ∧ t = some s.smb.tenant) ∨ (s.smb.object = 5 ∧ t = none) :=
      hobject.elim (fun h => ⟨_, .inl ⟨h, rfl⟩⟩) (fun h => ⟨_, .inr ⟨h, rfl⟩⟩)
    rw [smbusObjectReady_statement hwaits hmain hcore ht, statementObject_used hsigned hcounted]
  · have hform : ((s.smb.object = 4 ∧ t = some s.smb.tenant) ∨ (s.smb.object = 5 ∧ t = none)) ∧
        kind = if t.isSome then 1 else 2 := by
      rcases hkind with ⟨h, rfl, rfl⟩ | ⟨h, rfl, rfl⟩
      · exact ⟨.inl ⟨h, rfl⟩, rfl⟩
      · exact ⟨.inr ⟨h, rfl⟩, rfl⟩
    exact ⟨_, smbusObjectReady_statement hwaits hmain hcore hform.1,
      statementObject_signed hform.2 hnone hkey hfree hmark hdraw hbody⟩
  · change execSmbusObjectReady s = _
    rw [smbusObjectReady_of_core hwaits hmain hcore, hobject]
    exact congrArg _ (if_pos (by rw [hdenied]; decide))
  · change execSmbusObjectReady s = _
    rw [smbusObjectReady_of_core hwaits hmain hcore, hobject]
    change Host.Outcome.next (reportObject s) = _
    rw [reportObject, if_neg (by rw [hallowed]; decide), signDraw, hdraw]
  · change execSmbusObjectReady s = _
    rw [smbusObjectReady_of_core hwaits hmain hcore, hobject]
    rfl

end Sys2Proof.Machine
end

section
/-! Life-cycle tokens, Lockdown reports and debug tokens (O53). -/
namespace Sys2Proof.Machine

section
variable {s : State}

theorem onMain_of_busOn {fn : Fn} (h : busOn s fn = true) : onMain s = true := by
  rw [busOn, Bool.and_eq_true, Bool.and_eq_true] at h
  exact h.1.1

/-! A command of the window: its refusal while another is in progress, and its run. -/

theorem lcCommand_busy (hbus : busOn s 0 = true) (hbusy : s.lc.busy = true) (token : Bool) (f : State → State) :
    lcCommand token f s = .next (lcRefuse token 7 s) := by
  rw [lcCommand, if_neg (by rw [hbus]; decide), if_pos hbusy]

theorem lcCommand_runs (hbus : busOn s 0 = true) (hidle : s.lc.busy = false) (token : Bool) (f : State → State) :
    lcCommand token f s = .next (f s) := by
  rw [lcCommand, if_neg (by rw [hbus]; decide), if_neg (by rw [hidle]; decide)]

/-- A token that a check stops is refused with the check's RESULT. -/
theorem token_refused (hbus : busOn s 0 = true) (hidle : s.lc.busy = false) {mine sig : Bool} (hmine : mine = true)
    {r : BitVec 4} (hfault : tokenFault s sig = some r) (accept : State → State) :
    token mine sig accept s = .next (raiseDev .lcTokenRefused (s.mLc fun l => { l with result := r })) := by
  rw [token, if_neg (by rw [hmine]; decide), lcCommand_runs hbus hidle, hfault]
  rfl

theorem token_accepted (hbus : busOn s 0 = true) (hidle : s.lc.busy = false) {mine sig : Bool} (hmine : mine = true)
    (hpasses : tokenFault s sig = none) (accept : State → State) : token mine sig accept s = .next (accept s) := by
  rw [token, if_neg (by rw [hmine]; decide), lcCommand_runs hbus hidle, hpasses]

theorem token_busy (hbus : busOn s 0 = true) (hbusy : s.lc.busy = true) {mine sig : Bool} (hmine : mine = true)
    (accept : State → State) :
    token mine sig accept s = .next (raiseDev .lcTokenRefused (s.mLc fun l => { l with result := 7 })) := by
  rw [token, if_neg (by rw [hmine]; decide), lcCommand_busy hbus hbusy]
  rfl

/-- No check stops a token exactly where each of them passes. -/
theorem tokenFault_none_iff {sig : Bool} : tokenFault s sig = none ↔ tokenPermitted s = true ∧ tokenFieldsOk s = true ∧
    tokenSigned s sig = true ∧ (ltKind s = 1 → s.tmp.clear = true) := by
  unfold tokenFault
  cases tokenPermitted s with
  | false => simp
  | true =>
  cases tokenFieldsOk s with
  | false => simp
  | true =>
  cases tokenSigned s sig with
  | false => simp
  | true => simp

theorem wipeVolatile_lc (s : State) : (wipeVolatile s).lc = s.lc := by
  simp [wipeVolatile, zeroiseRest, zeroiseVault, gateAll]

/-- Opening the scan keeps all that a token has set. -/
theorem openScan_lc (s : State) : (openScan s).lc.debug = s.lc.debug ∧ (openScan s).lc.challenge = s.lc.challenge ∧
    (openScan s).lc.result = s.lc.result ∧ (openScan s).lc.busy = s.lc.busy := by
  unfold openScan
  extract_lets s1
  have hwiped : s1.lc.debug = s.lc.debug ∧ s1.lc.challenge = s.lc.challenge ∧ s1.lc.result = s.lc.result ∧
      s1.lc.busy = s.lc.busy := by
    unfold s1
    split
    · rw [State.mLc_lc, wipeVolatile_lc]
      exact ⟨rfl, rfl, rfl, rfl⟩
    · exact ⟨rfl, rfl, rfl, rfl⟩
  exact hwiped

/-- A debug token that passes is in force, and the life cycle and the mode stay. -/
theorem debugToken_accepted (hbus : busOn s 0 = true) (hidle : s.lc.busy = false) (hstate : debugState s = true)
    (hfields : debugFieldsOk s = true) : ∃ t, exec (.debugToken true) s = .next t ∧
      t.lc.debug = some (BitVec.ofNat 16 (le (lcBytes s) 6 2)) ∧ t.lc.challenge = none ∧ t.lc.result = 1 ∧
      t.lc.busy = false ∧ t.fuses = s.fuses ∧ t.mode = s.mode := by
  change ∃ t, execDebugToken true s = _ ∧ _
  rw [execDebugToken, lcCommand_runs hbus hidle, if_neg (by rw [hstate]; decide), if_neg (by rw [hfields]; decide),
    if_neg (by decide)]
  refine ⟨_, rfl, ?_⟩
  dsimp only [whenDo]
  split
  · obtain ⟨hdebug, hchallenge, hresult, hbusy⟩ := openScan_lc (lcResult 1 (s.mLc fun l =>
      { l with debug := some (BitVec.ofNat 16 (le (lcBytes s) 6 2)), challenge := none }))
    have hkeeps := openScan_keeps (lcResult 1 (s.mLc fun l =>
      { l with debug := some (BitVec.ofNat 16 (le (lcBytes s) 6 2)), challenge := none }))
    exact ⟨hdebug, hchallenge, hresult, hbusy, hkeeps.2.2.1, hkeeps.2.2.2.1⟩
  · exact ⟨rfl, rfl, rfl, rfl, rfl, rfl⟩

end

/-- Settles O53: the tokens by their checks in order, the other commands by their guards. -/
theorem lifeCycleTokensAndReports : Obligations.LifeCycleTokensAndReports := by
  unfold Obligations.LifeCycleTokensAndReports
  intro s sig hbus refused
  have hmain := onMain_of_busOn hbus
  refine ⟨fun hbusy => ⟨fun hkind => token_busy hbus hbusy (by rw [hkind]; decide) _, ?_⟩, tokenFault_none_iff,
    fun hidle => ⟨fun r hfault => ?_, fun hpasses => ?_, fun hmode hkey hpoint => ?_, fun hallowed hdraws => ?_,
      fun c u hstate hdraw => ?_, fun hstate hfields => debugToken_accepted hbus hidle hstate hfields⟩,
    fun nonce bs u hreport hdraw => ?_⟩
  · change execLockdownReport s = _
    rw [execLockdownReport, lcCommand_busy hbus hbusy]
    rfl
  · have h {mine : Bool} (hmine : mine = true) (accept : State → State) :
        token mine sig accept s = .next (refused r) := token_refused hbus hidle hmine hfault accept
    exact ⟨fun hkind => h (by rw [hkind]; decide) _, fun hkind => h (by rw [hkind]; decide) _,
      fun hkind => h (by rw [hkind]; decide) _, fun hkind => h (by rw [hkind]; decide) _,
      fun hkind => h (by rw [hkind]; decide) _⟩
  · have h {mine : Bool} (hmine : mine = true) (accept : State → State) :
        token mine sig accept s = .next (accept s) := token_accepted hbus hidle hmine hpasses accept
    exact ⟨fun hkind => h (by rw [hkind]; decide) _, fun hkind => h (by rw [hkind]; decide) _,
      fun hkind => h (by rw [hkind]; decide) _, fun hkind => h (by rw [hkind]; decide) _,
      fun hkind => h (by rw [hkind]; decide) _⟩
  · change execRegisterRecoveryKey () s = _
    rw [execRegisterRecoveryKey, lcCommand_runs hbus hidle, if_neg (by rw [hmode, hkey]; decide),
      if_neg (by rw [hpoint]; decide)]
    rfl
  · change execLockdownReport s = _
    rw [execLockdownReport, lcCommand_runs hbus hidle, if_neg (by rw [hallowed]; decide),
      if_neg (by rcases hdraws with h | h <;> simp [h])]
  · change execDebugChallenge s = _
    rw [execDebugChallenge, lcCommand_runs hbus hidle, if_neg (by rw [hstate]; decide), drawChallenge, hdraw]
    rfl
  · change execLockdownReportReady s = _
    rw [execLockdownReportReady, hreport]
    dsimp only [signDraw]
    rw [if_neg (by rw [hmain]; decide), hdraw]
    rfl

end Sys2Proof.Machine
end
